-- ==== Sys2Proof/Word.lean ====
section
/-! DEFINITION. The word types of the S4 block: a register is 64 bits wide (R16) and a memory cell is one byte. -/

namespace Sys2Proof

/-- A device register or a 64-bit word (R16). -/
abbrev Word := BitVec 64

/-- One byte of a device memory. -/
abbrev Byte := BitVec 8

/-- A sparse table: pairs of a key and a value, keys rising. What an unlisted key reads as is said by each reader. -/
abbrev SMap (α : Type) := List (Nat × α)

/-- A bit field [hi:lo] of a register, bit 0 least significant (Table 6). -/
structure Fld where
  hi : Nat
  lo : Nat
  deriving DecidableEq, Repr

/-- Who makes a register access: a host function (0 to 63 a virtual function, 64 the physical function), an application core, or a cluster controller in
M mode. -/
inductive Who where
  | fn (f : Fin 65)
  | core (h : Fin 16)
  | ctl (g : Fin 256)
  deriving DecidableEq, Repr

/-- A protected store of a cell that has no address of its own (Table 193): a tile register, the tile buffers and the operand cache, a sector of the oldest tile
in a channel slot, a sector of the haul ring, the check store, an accumulator with its cairn stacks, a word of the constant cache. -/
inductive Store where
  | treg (cell : Fin 4096) (r : Fin 16)
  | opnd (cell : Fin 4096)
  | slot (cell : Fin 4096) (ch : Fin 8) (sec : Fin 64)
  | haul (cell : Fin 4096) (sec : Fin 8)
  | check (cell : Fin 4096)
  | acc (cell : Fin 4096) (a : Fin 4)
  | const (cell : Fin 4096) (word : Fin 4096)
  deriving DecidableEq, Repr

/-- A memory-tile packet (R212, R233): the n-th of its kind, on the mesh or, with `xb`, in a cluster crossbar. -/
structure TilePkt where
  xb : Bool
  n : Nat
  deriving DecidableEq, Repr

/-- A data packet, the n-th of its kind, and the beats that a cell's haul ring then presents (R235). -/
structure TierPkt where
  n : Nat
  cell : Fin 4096
  beats : Nat
  deriving DecidableEq, Repr

/-- A data packet of a memory tile, on the mesh or, with `xb`, in a cluster crossbar. -/
structure TileData extends TierPkt where
  xb : Bool
  deriving DecidableEq, Repr

/-- A flit at the receiving end of link 5 × cluster + output (R365): its place among those that the sender keeps, and the LCRC and LSEQ with which it arrives. -/
structure LinkFlit where
  link : Nat
  k : Fin 64
  lcrc : BitVec 16
  lseq : BitVec 6
  deriving DecidableEq, Repr

/-- A 64-KiB block of a base-camp image slot that is to be programmed (R463, Table 279). -/
structure FlashBlock where
  image : Fin 2
  block : Fin 128
  bytes : List Byte
  deriving DecidableEq, Repr

/-- What the test access port meets (R515): a TCK cycle with a level of TMS, or TRST_N low. -/
inductive TapPins where
  | tck (tms : Bool)
  | trst
  deriving DecidableEq, Repr

/-- A PLDM request of the management network (R360, R505). -/
inductive PldmReq where
  | value (id : Nat)                   -- a sensor or effecter of Table 280
  | flashLog (n : Nat)                 -- record n of the flash log, the oldest first
  deriving DecidableEq, Repr

/-- What the scrubber reads at a time (R389): a sector, or a store without an address. -/
inductive ScrubLoc where
  | addr (a : BitVec 48)
  | store (x : Store)
  deriving DecidableEq, Repr

/-- An application core's access to an anchor (R340). -/
inductive AncAcc where
  | load | store | amoadd | amoswap
  deriving DecidableEq, Repr

/-- An application core's access (R338, R339): the instruction at its pc, or the interrupt it takes first; its n-th buffered store; or one given by its
effect at a device address. -/
inductive CoreAcc where
  | step
  | drain (n : Nat)
  | io (a : BitVec 48)
  deriving DecidableEq, Repr

/-- A controller's access (R325 to R327): the instruction at its pc, or one given by its effect: a load of 1, 2, 4 or 8 bytes, a store, an instruction fetch, a
cache-block operation, ECALL, MRET, or a CSR instruction that returns the old value and may write a new one. -/
inductive CtlAcc where
  | step
  | load (log2 : Fin 4) (signed : Bool)
  | store (log2 : Fin 4)
  | fetch
  | inval
  | clean
  | flush
  | ecall
  | mret
  | csr (write : Bool)
  deriving DecidableEq, Repr

end Sys2Proof
end

