-- ==== Sys2Proof/Syntax.lean ====
section
/-! DEFINITION. The commands of the S4 block: one constructor per row of opcode_table.json, in the table's order. The table gives no operand, so the
operands are the model's (assumption 1): numbers of units, words written, instants, and the place of a packet among those in flight. -/

namespace Sys2Proof

/-- A command to the block.  The operand `n` of a packet command counts the packets of that kind in flight, oldest first. -/
inductive Instr where
  /-- R31. A rising edge on WMK_P/WMK_N is judged valid or stray and, when valid, steers the flywheel or has its phase error measured. -/
  | waymarkEdge (t : Rat) (tcode : Bool)
  /-- R32. The flywheel issues the internal tick of a waymark to every unit, advancing the count when one exists. -/
  | internalTick (t : Rat)
  /-- R31. A window passes without a valid edge; the missing waymark is counted and may move the time state to HOLDOVER. -/
  | wmkMissed
  /-- R35. A 128-bit time-code frame is tested for validity, alignment and count agreement. -/
  | timeCodeFrame
  /-- R42. HOLD_LEFT reaches zero and HOLDOVER becomes DEGRADED. -/
  | timeDegraded
  /-- R525. Ten million ticks after auxiliary power-on without a valid frame, the state becomes FREE and the count starts at 0. -/
  | freeRunEntry
  /-- R44. With a step pending and no guaranteed booking, the count and phase jump to the external values at an external pitch boundary. -/
  | timeStep
  /-- R44. A write of 1 to TIME_CTRL.FORCE_STEP sets STEP_PENDING outside ACQUIRE. -/
  | forceStep (v : Word)
  /-- R47. A write to PITCH_CFG is accepted as pending or ignored with REJECTED set. -/
  | pitchCfgWrite (v : Word)
  /-- R47. A pending pitch configuration takes effect at the first boundary under the new values. -/
  | pitchCfgApply
  /-- R46. A pitch boundary arrives; capacity changes, budgets, lane assignments, slot-table switches and card activations take effect. -/
  | pitchBoundary
  /-- R48. A 16-wm fabric-cycle window ends and is judged against the floor threshold. -/
  | floorWindowEnd (d : Fin 8) (fc : Nat)
  /-- R49. The floor hold of a die ends at the end of the first whole pitch after its last window below floor. -/
  | floorHoldRelease (d : Fin 8)
  /-- R14. A read of an RC field returns its value and clears it. -/
  | rcRegisterRead (w : Who) (a : BitVec 48)
  /-- R14. A write to a register with no row of its own acts by its access types. -/
  | registerWrite (w : Who) (a : BitVec 48) (v : Word)
  /-- R417. A host access through a BAR window reaches its target as best-effort traffic or completes Unsupported Request. -/
  | hostMemoryAccess (f : Fin 65) (bar : Fin 3) (a : BitVec 48) (size : Nat) (wr : Option (List Byte))
  /-- R432. A LOAD_SECTION command starts a load and runs steps 1 to 9 of the load order. -/
  | loadSection (t : Fin 4096)
  /-- R72. One frame of a stream is read and runs steps 10 to 16: header, order, tag, CRC, expansion, resolution, checks and delivery. -/
  | loadFrame (p : Fin 64)
  /-- R106. Q.NOP does nothing for one cycle. -/
  | qNop (c : Fin 4096)
  /-- R106. Q.SETX sets an address register to an immediate. -/
  | qSetx (c : Fin 4096)
  /-- R106. Q.ADDX sets an address register to another plus an immediate. -/
  | qAddx (c : Fin 4096)
  /-- R105. Q.LOOP repeats the next words a counted number of times. -/
  | qLoop (c : Fin 4096)
  /-- R103. Q.BLOCK waits for a mailbox entry. -/
  | qBlock (c : Fin 4096)
  /-- R103. A waiting Q.BLOCK takes the oldest mailbox entry and jumps with its job tag. -/
  | qBlockTake (c : Fin 4096)
  /-- R85. Q.END returns belay credits, sends markers on outbound channels and pops markers on inbound channels. -/
  | qEnd (c : Fin 4096)
  /-- R100. The sequencer issues the next instruction into its engine queue, or resumes a stopped instruction from its cursor. -/
  | instructionIssue (c : Fin 4096)
  /-- R162. T.LD loads a tile image from the scratchpad into a tile register. -/
  | tLd (c : Fin 4096)
  /-- R164. T.ST writes a tile register to the own scratchpad or, using belay credits, to a neighbour. -/
  | tSt (c : Fin 4096)
  /-- R165. T.REL empties the registers of its mask. -/
  | tRel (c : Fin 4096)
  /-- R166. A tile-register bank empty for 64 fc is power-gated. -/
  | tregBankGate (c : Fin 4096) (b : Fin 4)
  /-- R115. A.ZERO empties an accumulator and sets LEAF_BASE. -/
  | aZero (c : Fin 4096)
  /-- R112. A.MMA multiplies two tiles and pushes leaves into the accumulator's cairn stacks. -/
  | aMma (c : Fin 4096)
  /-- R117. A.DRAIN writes canonical roots into a tile register or a cairn frame into the scratchpad. -/
  | aDrain (c : Fin 4096)
  /-- R148. A.MERGE inserts the slots of cairn frames into an accumulator. -/
  | aMerge (c : Fin 4096) (n : Nat)
  /-- R119. M.MV streams weight chunks against an activation vector into one accumulator row. -/
  | mMv (c : Fin 4096)
  /-- R122. F.PAIR computes the score product, online-max chain and value product for one key block. -/
  | fPair (c : Fin 4096)
  /-- R169. V.CHAIN streams elements through a chain descriptor to the scratchpad or constant cache. -/
  | vChain (c : Fin 4096) (n : Nat)
  /-- R184. V.SUM places a summary record in the controller's summary queue after plausibility checks. -/
  | vSum (c : Fin 4096)
  /-- R266. C.SEND uses a credit, reads a tile and injects it as a CH_TILE. -/
  | cSend (c : Fin 4096)
  /-- R267. C.RECV copies the oldest tile of an inbound channel to the scratchpad and returns a credit. -/
  | cRecv (c : Fin 4096)
  /-- R232. L.FETCH issues tags to fetch from or put to a tier or memory tile. -/
  | lFetch (c : Fin 4096)
  /-- R238. L.GATHER reads a block table and fetches the named pages. -/
  | lGather (c : Fin 4096)
  /-- R243. L.CANCEL sets a cancel point for its job or for all jobs. -/
  | lCancel (c : Fin 4096)
  /-- R274. S.ADD adds to an anchor with release order. -/
  | sAdd (c : Fin 4096)
  /-- R274. S.SUB subtracts from an anchor with release order. -/
  | sSub (c : Fin 4096)
  /-- R274. S.SET sets an anchor and clears its poison. -/
  | sSet (c : Fin 4096)
  /-- R274. S.CAS compares and swaps an anchor and writes the old value. -/
  | sCas (c : Fin 4096)
  /-- R277. S.WAIT waits until an anchor reaches a value. -/
  | sWait (c : Fin 4096)
  /-- R283. S.BAR arrives at a barrier unit and waits for release. -/
  | sBar (c : Fin 4096)
  /-- R277. 32 fc after ANC_NOTYET the sync unit resends the S.WAIT. -/
  | sWaitResend (c : Fin 4096)
  /-- R88. A cell whose markers and credits are home swaps to the staged section, toggles generation and starts constant fill and weight copies. -/
  | cellSwitch (c : Fin 4096)
  /-- R88. Constant fill and AT_SWITCH copies land and match CAIRN_ROOT, so the new program starts. -/
  | switchFillDone (c : Fin 4096)
  /-- R90. A controller that executed X.SECTEND and whose cells switched enters its new program. -/
  | controllerSwitch (g : Fin 256)
  /-- R91. Every cell, controller and router has switched; the team is RUNNING and old stores become empty shadows. -/
  | teamSwitchComplete (p : Fin 64)
  /-- R82. The switch outlasts its bound and both sections end. -/
  | switchTimeout (p : Fin 64)
  /-- R486. Cancels and rests end, requests complete, resources are cleared and the team becomes EMPTY. -/
  | drainComplete (p : Fin 64)
  /-- R96. At the change waymark a traverse writes out requests and reloads the section onto the target team. -/
  | traverseStart (p : Fin 64)
  /-- R348. A hub stop request reaches a cell, which stops issue and withdraws unstarted younger instructions. -/
  | stopRequest (c : Fin 4096)
  /-- R348. Every engine of a stopped cell is idle and its cursors are recorded. -/
  | cellAtRest (c : Fin 4096)
  /-- R97. A request at rest is written as a bivouac record to the team's bivouac area. -/
  | bivouacWrite (r : Nat)
  /-- R98. A bivouac record is restored into cells at its booked start. -/
  | bivouacRestore (r : Nat)
  /-- R187. A write to CLU_SFU_SUBMIT queues an SFU descriptor or sets DROPPED. -/
  | sfuSubmit (g : Fin 256) (t : Fin 2) (v : Word)
  /-- R187. An SFU tile starts its next descriptor, checking it and computing the function. -/
  | sfuDescriptorRun (g : Fin 256) (t : Fin 2)
  /-- R187. An SFU descriptor completes and adds 1 to its anchor. -/
  | sfuDescriptorDone (g : Fin 256) (t : Fin 2)
  /-- R205. A grant for a belay window arrives and gives credits or is held pending. -/
  | belayGrant (n : Nat)
  /-- R207. A neighbour write lands in a belay window and is acknowledged. -/
  | neighbourWrite (n : Nat)
  /-- R207. The acknowledgement of a neighbour write arrives and the T.ST completes. -/
  | neighbourAck (n : Nat)
  /-- R208. A consumed unit's credit returns to the sender. -/
  | belayCreditReturn (n : Nat)
  /-- R209. A close message returns unused credits of a direction. -/
  | belayClose (n : Nat)
  /-- R229. A translation walk ends with a translation or XLATE_FAULT. -/
  | pageWalkDone (g : Fin 256) (e : Fin 24)
  /-- R242. A tag outstanding 11,200 fc times out, delivering poisoned zeros for a fetch. -/
  | leadTimeout (g : Fin 256) (e : Fin 24) (k : Nat)
  /-- R244. A job holds no void or unacknowledged put tag and its cancellation completes. -/
  | cancelComplete (g : Fin 256) (e : Fin 24)
  /-- R225. A far-tier port loses its link and becomes FAILED. -/
  | farPortDown (p : Fin 8)
  /-- R231. A write of NT_TLB_INV.GO drops cached translations of a tenant or all tenants. -/
  | ntTlbInv (v : Word)
  /-- R231. Every tag through a dropped entry is settled and BUSY clears. -/
  | tlbInvComplete
  /-- R336. A write to CLU_DMA_SUBMIT queues a DMA descriptor or sets DROPPED. -/
  | dmaSubmit (g : Fin 256) (v : Word)
  /-- R337. The DMA starts its next descriptor, checking it and issuing pieces. -/
  | dmaDescriptorStart (g : Fin 256)
  /-- R337. Every piece of a DMA descriptor lands; the anchor is added and DMA_DONE set. -/
  | dmaDescriptorDone (g : Fin 256)
  /-- R267. A channel tile arrives and enters a slot of its inbound channel. -/
  | chTile (n : Nat)
  /-- R85. A channel marker arrives and sets the marker latch. -/
  | chMarker (n : Nat)
  /-- R268. A channel credit arrives at an outbound channel. -/
  | chCredit (n : Nat)
  /-- R274. An anchor operation reaches its agent, is applied atomically and re-evaluates monitors. -/
  | ancOp (n : Nat)
  /-- R274. An anchor reply reaches the issuer and completes its operation. -/
  | ancReply (n : Nat)
  /-- R277. A wake reaches a waiter and completes its S.WAIT. -/
  | ancWake (n : Nat)
  /-- R277. A full monitor table answers a wait with ANC_NOTYET. -/
  | ancNotyet (n : Nat)
  /-- R284. A barrier arrival reaches its unit, which completes or reports to its parent when the set is full. -/
  | barArrive (n : Nat)
  /-- R284. A barrier release reaches cells or a child unit. -/
  | barDone (n : Nat)
  /-- R212. A memory-tile read request reaches a tile port. -/
  | mtRead (q : TilePkt)
  /-- R212. A memory-tile write request reaches a tile port. -/
  | mtWrite (q : TilePkt)
  /-- R235. Memory-tile read data arrives at its requester. -/
  | mtData (q : TileData)
  /-- R234. A memory-tile write acknowledgement arrives. -/
  | mtAck (q : TilePkt)
  /-- R220. A tier read request reaches an HBM attach port or CXL port. -/
  | tierRead (n : Nat)
  /-- R221. A tier write request reaches the tier controller. -/
  | tierWrite (n : Nat)
  /-- R235. Tier read data arrives and enters the haul ring, landing the instruction when complete. -/
  | tierData (q : TierPkt)
  /-- R234. A tier write acknowledgement arrives. -/
  | tierAck (n : Nat)
  /-- R250. A request packet reaches the hub attach port. -/
  | hubReq (n : Nat)
  /-- R250. A hub response packet reaches its requester. -/
  | hubResp (n : Nat)
  /-- R259. An epoch update reaches a router and is held for its effective waymark. -/
  | epochSet (n : Nat)
  /-- R259. At the tick of the effective waymark the new epoch takes effect. -/
  | epochApply (g : Fin 256)
  /-- R365. A flit with bad LCRC or LSEQ is discarded and retransmitted; repeated failure fails the link. -/
  | linkRetry (f : LinkFlit)
  /-- R371. A tap of a sampled unit lands in the check store or is dropped. -/
  | chTap (n : Nat)
  /-- R371. A checking cell recomputes a tapped unit and returns its digest. -/
  | shadowCheckRun (g : Fin 256)
  /-- R372. A checker's digest reaches the collector and is compared or voted. -/
  | chTapDigest (n : Nat)
  /-- R393. A retire window ends and per-slot error counts restart. -/
  | retireWindowEnd
  /-- R395. At the take-over boundary the team quiesces, fences the slot, maps the spare, reloads and replays. -/
  | spareTakeover (g : Fin 256)
  /-- R393. INTEG_SLOT_CMD OP 1 condemns a slot. -/
  | slotRetireCmd (v : Word)
  /-- R397. INTEG_SLOT_CMD OP 2 runs logic BIST on a condemned slot. -/
  | slotTestCmd (v : Word)
  /-- R397. A slot test ends with PASS recorded. -/
  | slotTestDone (pass : Bool)
  /-- R377. A job's phase anchor reaches the next value and marks the end of a phase. -/
  | phaseMark (r : Nat)
  /-- R378. At a commit point with all digests in, suspect flags decide commit, DONE or replay. -/
  | commitDecision (r : Nat)
  /-- R380. A quiesced job has its anchors set, enters checked mode and is replayed. -/
  | replayStart (r : Nat)
  /-- R382. A phase mark has not arrived by its booked end and the request is released. -/
  | phaseOverrun (r : Nat)
  /-- R385. The digest engine starts comparing a replica group every INTERVAL pitches. -/
  | replicaCompare (group : Nat)
  /-- R386. A comparison ends clean, repaired by majority or golden copy, or suspect. -/
  | replicaCompareDone (group : Nat)
  /-- R388. A write of INTEG_REPL_CFG.VERIFY runs a full comparison. -/
  | replicaVerify (group : Nat)
  /-- R389. The scrubber reads a sector or another SECDED store and corrects or poisons it by class. -/
  | scrubRead (a : ScrubLoc)
  /-- R362. A UCIe die-to-die link fails and the module enters the safe state. -/
  | d2dFailed (l : Nat)
  /-- R357. A write to EVT_LOG_TAIL frees read records or is ignored. -/
  | evtLogTailWrite (v : Word)
  /-- R359. A write to PART_EVT_TAIL frees a partition's read copies or is ignored. -/
  | partEvtTailWrite (p : Fin 64) (v : Word)
  /-- R503. A non-volatile store starts when its turn and hold-up energy allow. -/
  | nvStore (blk : Option FlashBlock := none)
  /-- R504. Every 1 ms a pending log commit is retried. -/
  | nvStoreRetry
  /-- R421. A write changing TR_SQ.TAIL makes submission entries visible. -/
  | doorbell (f : Fin 65) (t : Fin 4096) (v : Word)
  /-- R422. The device reads the next visible entry when completion room allows. -/
  | ringEntryRead (t : Fin 4096)
  /-- R424. A write to TR_CQ_CFG enables the ring, maps its vector or frees completions. -/
  | trCqCfgWrite (f : Fin 65) (t : Fin 4096) (v : Word)
  /-- R419. A write of MIN and MAX negotiates the function's Focia version. -/
  | fociaVersionWrite (f : Fin 65) (v : Word)
  /-- R299. A SUBMIT is tested, searched against the ledger and answered ACCEPTED, REFUSED or BUSY. -/
  | submit (t : Fin 4096)
  /-- R429. A QUERY_ADMIT runs the admission tests and search without booking. -/
  | queryAdmit (t : Fin 4096)
  /-- R314. A CANCEL releases a request's bookings or starts a hub cancel. -/
  | cancel (t : Fin 4096)
  /-- R430. A STREAM_DATA starts copying host bytes into the tenant space. -/
  | streamData (t : Fin 4096)
  /-- R430. A STREAM_DATA copy finishes; LAST completes input, rebooks or restores the request. -/
  | streamDataComplete (n : Nat) (d : Option (List Byte))
  /-- R313. A RESUME asks to restore a bivouacked request. -/
  | resume (t : Fin 4096)
  /-- R303. At the booked start the hub binds the job and releases its first groups. -/
  | requestStart (r : Nat)
  /-- R312. A stalled request's hold ends and it is written out or expires. -/
  | holdExpiry (r : Nat)
  /-- R313. BIV_LIFE ends and the record is freed and EXPIRED posted. -/
  | bivouacExpired (r : Nat)
  /-- R307. At cutover waymark C the section-end request is raised and best-effort requests are bivouacked. -/
  | sectionEndRequest (p : Fin 64)
  /-- R308. A controller or cell has not ended the outgoing section by its deadline. -/
  | sectendLate (p : Fin 64)
  /-- R319. ADM_TEAM_CHANGE OP 1 requests a join. -/
  | teamJoin (v : Word)
  /-- R320. ADM_TEAM_CHANGE OP 2 requests a leave. -/
  | teamLeave (v : Word)
  /-- R320. ADM_TEAM_CHANGE OP 3 requests a traverse and tests the rebookings. -/
  | teamTraverse (v : Word)
  /-- R319. At the change waymark a join, leave or traverse takes effect. -/
  | teamChangeApply (p : Fin 64)
  /-- R315. A write to ADM_TENANT maps a tenant or is ignored with MAP_REJECTED. -/
  | admTenantWrite (t : Fin 4096) (v : Word)
  /-- R295. A write to ADM_NT_SHARE or ADM_CXL_SHARE splits a resource or is rejected. -/
  | admShareWrite (a : BitVec 48) (v : Word)
  /-- R330. The dispatch arbiter posts a ready group's entries into the cell mailboxes. -/
  | groupPost (g : Fin 256) (j : Fin 8)
  /-- R330. X.GRP adds entries to a job's open group. -/
  | xGrp (g : Fin 256) (rs1 : Word) (rs2 : Word) (rd : Fin 32)
  /-- R330. X.DISP closes the open group and makes it ready. -/
  | xDisp (g : Fin 256) (rs1 : Word) (rd : Fin 32)
  /-- R330. X.DROP discards the open group. -/
  | xDrop (g : Fin 256) (rs1 : Word)
  /-- R331. X.LBASE sets a pending LEAD_BASE value for named cells. -/
  | xLbase (g : Fin 256) (rs1 : Word) (rs2 : Word)
  /-- R332. X.SUMRD copies and removes the oldest summary record. -/
  | xSumrd (g : Fin 256) (rs1 : Word) (rd : Fin 32)
  /-- R332. X.SUMWT waits for a summary record and then copies it. -/
  | xSumwt (g : Fin 256) (rs1 : Word) (rd : Fin 32)
  /-- R333. The controller form of S.ADD. -/
  | ctlSAdd (g : Fin 256) (rs1 : Word) (rs2 : Word) (rd : Fin 32)
  /-- R333. The controller form of S.SUB. -/
  | ctlSSub (g : Fin 256) (rs1 : Word) (rs2 : Word) (rd : Fin 32)
  /-- R333. The controller form of S.SET. -/
  | ctlSSet (g : Fin 256) (rs1 : Word) (rs2 : Word) (rd : Fin 32)
  /-- R333. The controller form of S.CAS using scgexp. -/
  | ctlSCas (g : Fin 256) (rs1 : Word) (rs2 : Word) (rd : Fin 32)
  /-- R333. The controller form of S.WAIT. -/
  | ctlSWait (g : Fin 256) (rs1 : Word) (rs2 : Word) (rd : Fin 32)
  /-- R334. X.SECTEND performs the section-end operation and waits for the switch. -/
  | xSectend (g : Fin 256)
  /-- R328. A U-mode exception stops the section program and faults the section. -/
  | ctlTrap (g : Fin 256) (cause : BitVec 8)
  /-- R335. time reaches MTIMECMP and the controller takes a timer interrupt. -/
  | ctlTimerInterrupt (g : Fin 256)
  /-- R335. An enabled CLU_CTL_IRQ condition raises an external interrupt. -/
  | ctlExternalInterrupt (g : Fin 256)
  /-- R340. An application-core load, store or AMO acts on an anchor. -/
  | coreAnchorAmo (h : Fin 16) (op : AncAcc) (a : Fin 32768) (v : Word)
  /-- R279. A host write sets an anchor, clears poison and wakes monitors. -/
  | hostAnchorWrite (f : Fin 65) (a : Fin 32768) (v : Word) (be : BitVec 8)
  /-- R345. A GetS read request is ordered at its L3 slice. -/
  | gets (h : Fin 16) (a : BitVec 48)
  /-- R345. A GetM ownership request is ordered at its L3 slice. -/
  | getm (h : Fin 16) (a : BitVec 48) (v : Option (BitVec 6 × Byte))
  /-- R345. A PutM dirty writeback is accepted and written to the slice. -/
  | putm (h : Fin 16) (a : BitVec 48)
  /-- R345. A PutE clean eviction notice is accepted. -/
  | pute (h : Fin 16) (a : BitVec 48)
  /-- R345. A PutS clean eviction notice is accepted. -/
  | puts (h : Fin 16) (a : BitVec 48)
  /-- R345. A forwarded GetS reaches the owning core. -/
  | fwdGets (h : Fin 16) (a : BitVec 48)
  /-- R345. A forwarded GetM reaches the owning core, which answers after its store. -/
  | fwdGetm (h : Fin 16) (a : BitVec 48)
  /-- R344. An invalidation reaches a sharer, which acknowledges it. -/
  | inv (h : Fin 16) (a : BitVec 48)
  /-- R401. A write to CLU_UPD_SUBMIT queues an update descriptor or sets DROPPED. -/
  | updSubmit (g : Fin 256) (v : Word)
  /-- R402. The update unit checks and starts its next descriptor. -/
  | updDescriptorStart (g : Fin 256)
  /-- R409. The last write is acknowledged; the digest is written and the anchor added. -/
  | updDescriptorDone (g : Fin 256)
  /-- R406. A write to UPD_SEAL changes a seal or is rejected. -/
  | updSealWrite (sealNo : Fin 8) (v : Word)
  /-- R413. UPD_EXPORT_CTRL GO with OP 0 exports a shard record. -/
  | shardExport (v : Word)
  /-- R413. UPD_EXPORT_CTRL GO with OP 1 imports a shard record. -/
  | shardImport (v : Word)
  /-- R413. An export or import ends with its STATUS. -/
  | exportEngineDone
  /-- R434. An Ethernet frame arrives on a Camley port and its Camley frames are unpacked or it is discarded. -/
  | camleyPack (p : Fin 16) (b : List Byte)
  /-- R440. A Camley DATA frame arrives and its unit is written to the stream buffer. -/
  | data (p : Fin 16)
  /-- R440. A Camley CREDIT frame arrives and extends a stream's permitted units. -/
  | credit (p : Fin 16)
  /-- R437. A Camley ACK arrives and retires acknowledged frames. -/
  | ack (p : Fin 16)
  /-- R437. A Camley NAK arrives and the sender resends from its LSEQ. -/
  | nak (p : Fin 16)
  /-- R436. A HELLO arrives and fixes the protocol version or leaves the port in hello. -/
  | hello (p : Fin 16)
  /-- R437. RETX_WM passes without an ACK; frames are resent or the port goes down. -/
  | camleyResendTimeout (p : Fin 16)
  /-- R440. A sending stream engine sends a unit once data and credit allow. -/
  | unitSend (st : Fin 4096)
  /-- R440. At the tick of a unit's DUE the receiver adds 1 to ANCHOR_DATA. -/
  | unitDelivery (st : Fin 4096)
  /-- R433. A Camley port completes link training and begins HELLO. -/
  | camleyPortTrained (p : Fin 16) (half : Bool)
  /-- R438. LINK_CMD OP 1 enables a Camley port. -/
  | portEnable (v : Word)
  /-- R438. LINK_CMD OP 2 disables a Camley port. -/
  | portDisable (v : Word)
  /-- R439. LINK_CMD OP 3 enables a stream and zeroes its anchors. -/
  | streamEnable (v : Word)
  /-- R442. LINK_CMD OP 4 disables a stream. -/
  | streamDisable (v : Word)
  /-- R426. A function-level reset cancels its tenants' requests and resets their rings. -/
  | functionLevelReset (f : Fin 65)
  /-- R485. PERST_N asserted starts a module warm or cold reset. -/
  | perstNAssert
  /-- R476. PERST_N deasserted lets PCIe training and configuration proceed. -/
  | perstNDeassert
  /-- R453. A directive with OP 1 is checked and programs a fuse field. -/
  | directiveFuseProgram
  /-- R458. A directive with OP 2 is checked and writes a key-memory slot. -/
  | directiveKeyWrite
  /-- R467. SEC_CMD OP 2 checks a debug token and ORs its grants. -/
  | debugToken
  /-- R458. SEC_CMD OP 3 zeroises a key-memory slot. -/
  | zeroiseKeySlot
  /-- R471. GO with OP 0 ends at once with STATUS 1. -/
  | secCmdNoOp
  /-- R471. A SEC_CMD command ends, clears BUSY, writes STATUS and draws a new nonce. -/
  | secCmdComplete
  /-- R469. A scan-chain enable zeroises RoT keys before taking effect. -/
  | scanEnable
  /-- R464. SPDM GET_VERSION is answered. -/
  | getVersion (b : List Byte)
  /-- R464. SPDM GET_CAPABILITIES is answered. -/
  | getCapabilities (b : List Byte)
  /-- R464. SPDM NEGOTIATE_ALGORITHMS is answered. -/
  | negotiateAlgorithms (b : List Byte)
  /-- R464. SPDM GET_DIGESTS is answered. -/
  | getDigests (b : List Byte)
  /-- R464. SPDM GET_CERTIFICATE returns the chain of slot 0. -/
  | getCertificate (b : List Byte)
  /-- R464. SPDM CHALLENGE is answered with a signature. -/
  | challenge (b : List Byte)
  /-- R465. SPDM GET_MEASUREMENTS returns the measurements. -/
  | getMeasurements (b : List Byte)
  /-- R505. PLDM SetNumericEffecterValue sets the power cap or fails. -/
  | setNumericEffecterValue (id : Nat) (v : Nat)
  /-- R505. A PLDM sensor request returns a sensor value. -/
  | pldmSensorRead (q : PldmReq)
  /-- R505. Every 1 ms the PLDM sensors are refreshed. -/
  | sensorRefresh
  /-- R473. A management request over MCTP starts a module warm reset. -/
  | mgmtWarmReset
  /-- R473. A management request over MCTP starts a module cold reset. -/
  | mgmtColdReset
  /-- R487. RESET_CMD LEVEL 1 resets one logical cell. -/
  | cellReset (v : Word)
  /-- R487. RESET_CMD LEVEL 2 resets one cluster. -/
  | clusterReset (v : Word)
  /-- R488. RESET_CMD LEVEL 3 or a class 0x4 event resets a partition and dissolves its team. -/
  | partitionReset (v : Word)
  /-- R484. RESET_CMD LEVEL 4 starts a module warm reset. -/
  | moduleWarmReset (v : Word)
  /-- R475. RESET_CMD LEVEL 5 starts a module cold reset. -/
  | moduleColdReset (v : Word)
  /-- R487. A partial reset ends and BUSY clears. -/
  | resetDone
  /-- R475. A cold boot starts: ROM, fuse vote and capability loading. -/
  | coldBoot
  /-- R478. Self-test ends and failed slots, clusters or dies take their outcomes. -/
  | selfTestDone
  /-- R479. Interface training ends with failed stacks, ports or die links handled. -/
  | trainingDone
  /-- R480. A controller has fetched its cluster firmware and enters M mode. -/
  | firmwareFetchDone (g : Fin 256)
  /-- R481. Known-answer runs end and the retirement list is reapplied. -/
  | knownAnswerDone
  /-- R482. The device declares ready and enables Focia negotiation. -/
  | bootReady
  /-- R496. The auxiliary rail stays in range 10 ms and the always-on domain starts in ACQUIRE. -/
  | auxPowerOn (tm : Bool) (ma : Fin 8)
  /-- R496. The auxiliary input stays below 11.0 V for 1 ms and an ordered stop follows. -/
  | auxInputLow
  /-- R496. The auxiliary rail falls below 9.0 V and the always-on domain stops. -/
  | auxPowerLoss
  /-- R493. Every 10 µs the main input is sampled and classed. -/
  | supplySample (mv : Nat)
  /-- R493. The brownout timer reaches 10 ms and the supply state becomes STOP. -/
  | brownoutTimeout
  /-- R493. The main input stays below 34 V for 100 µs and the supply state becomes STOP. -/
  | undervoltageStop
  /-- R493. The main input stays above 60 V for 1 ms and the supply state becomes STOP. -/
  | overvoltageStop
  /-- R495. The main input stays good for 100 ms and a cold reset starts. -/
  | mainInputGood
  /-- R497. A core-rail point falls below its droop threshold and the clock stretches. -/
  | coreDroop (d : Fin 8)
  /-- R498. A core rail stays below 88 % for 1 µs and the module enters the safe state. -/
  | coreUndervolt (d : Fin 8)
  /-- R499. Every 10 µs the fabric-clock target moves one step toward the power cap. -/
  | capStep (w : Nat)
  /-- R500. A die junction or HBM stack exceeds its limit and its die's target falls to 1,440 MHz. -/
  | thermalLimit (d : Fin 8) (hbm : Bool)
  /-- R500. The temperature stays below its release threshold for 100 ms and the limit ends. -/
  | thermalLimitEnd (d : Fin 8) (hbm : Bool)
  /-- R500. A junction or stack exceeds its trip temperature and the module enters the safe state. -/
  | thermalTrip (d : Fin 9) (hbm : Bool)
  /-- R327. A cluster controller executes a load, store, cache-block operation or ECALL on its local memories, memory tiles or cell scratchpads. -/
  | ctlLoadStore (g : Fin 256) (op : CtlAcc) (a : BitVec 48) (v : Word) (rd : Fin 32)
  /-- R339. An application core loads or stores to an I/O region: scratchpads, memory tiles or IMSIC interrupt files, or makes an access that raises an access fault. -/
  | coreIoAccess (h : Fin 16) (op : CoreAcc) (size : Nat) (wr : Option Word)
  /-- R476. A PCIe configuration request reaches the endpoint and is answered with Retry Status or completed, which may set NumVFs and so create or remove virtual functions. -/
  | configurationRequest (f : Fin 65) (wr : Bool) (off : BitVec 12) (v : BitVec 32)
  /-- R497. The core-rail voltage of a die recovers above its droop threshold and the clock stops stretching. -/
  | droopRecovered (d : Fin 8)
  /-- R515. A TCK cycle on the IEEE 1149.1 test access port advances the TAP, shifting the instruction or boundary register and, under EXTEST, driving open-drain outputs. -/
  | testAccessPort (pins : TapPins) (tdi : Bool)
  deriving DecidableEq, Repr

end Sys2Proof
end

