-- ==== Sys2Proof/Decode.lean ====
section
/-! DEFINITION. The command a word spells by the table's bits. opcode_table.json gives no row any bits, so no word spells a command. -/

namespace Sys2Proof

/-- The command whose table bits are w: none, since no row of the table has bits. -/
def decodeTableWord (_nbits _w : Nat) : Option Instr := none

end Sys2Proof
end

