-- ==== Sys2Proof/Config.lean ====
section
/-! DEFINITION. What an implementation of the S4 fixes and the spec leaves open: free values, with no body. -/

namespace Sys2Proof

/-- A fresh open value: the k-th draw (assumption 3). -/
opaque Config.freeWord : Nat → Word

/-- Open bytes: the memory content that R242 leaves unspecified after a put timed out, byte i of draw k. -/
opaque Config.freeByte : Nat → Nat → Byte

/-- Word h of the k-th nonce that the deterministic random bit generator of the root of trust draws (R455). -/
opaque Config.nonceWord : Nat → Nat → Word

/-- The private scalar of the device identity key that the key-pair generation of FIPS 186-5 yields from the unique device secret (R460). -/
opaque Config.identityKey : Nat → Nat

/-- Byte i of the SHA-384 digest of the boot ROM, measurement 1 (R465). -/
opaque Config.romDigest : Nat → Byte

/-- What 2^(−d) times an integer row sum becomes where it is no integer (R122 states no result; assumption 116). -/
opaque Config.scaledSum : Word → Nat → Word

/-- Offset of NumVFs in the configuration space of the physical function (R416 gives none). -/
opaque Config.numVFsOffset : BitVec 12

end Sys2Proof
end

