-- ==== Sys2Proof/Machine/RegTable.lean ====
section
/-! DEFINITION. The register tables of the specification (131 tables of files 00 to 18): each register's block, offset, array
strides, reset domain and fields with their access type (R14) and reset value. A reset entry "fuse" is 0 until a cold boot
loads it (R9). A field is named F.<REGISTER>_<FIELD>; an address R.<REGISTER>, with the unit and index arguments it needs. -/

namespace Sys2Proof.Machine

/-- The register blocks of Table 19, and the tenant ring page of the host window (R420). -/
inductive Blk where
  | adm | time | fuse | sec | pwr | evt | host | link | cxl | hbm | cell | cluster | part | ring
  deriving DecidableEq, Repr

/-- Access types of Table 7 (R14). -/
inductive AccTy where
  | rw | ro | w1c | w1s | wo | rc
  deriving DecidableEq, Repr

/-- Reset domains, as the register tables name them. -/
inductive Dom where
  | auxPower | coldReset | warmReset | partReset | clusterReset | cellReset | flr | vbatt
  deriving DecidableEq, Repr

/-- One field of a register table. -/
structure RField where
  f : Fld
  acc : AccTy
  rst : Nat
  fuse : Bool
  deriving DecidableEq, Repr

/-- One register table: block, offset, array dimensions as (stride, count), reset domain, fields. -/
structure RegDesc where
  blk : Blk
  off : Nat
  dims : List (Nat × Nat)
  dom : Dom
  fields : List RField
  deriving DecidableEq, Repr

/-- Base address of unit u of a block (Table 19). Ring pages have a window of their own above the 48-bit map: the host reaches
page u through its function's window (R420). -/
def Blk.base (b : Blk) (u : Nat) : Nat :=
  match b with
  | .adm => 0x0F0000100000
  | .time => 0x0F0000200000
  | .fuse => 0x0F0000300000
  | .sec => 0x0F0000400000
  | .pwr => 0x0F0000500000
  | .evt => 0x0F0000600000
  | .host => 0x0F0000700000
  | .link => 0x0F0000800000
  | .cxl => 0x0F0000900000
  | .hbm => 0x0F0000A00000
  | .cell => 0x0F1000000000 + 0x10000 * u
  | .cluster => 0x0F2000000000 + 0x100000 * u
  | .part => 0x0F3000000000 + 0x100000 * u
  | .ring => 0x1000000000000 + 0x1000 * u

/-- Table 2. -/
abbrev R.CAP_UNITS : Nat := Blk.base .fuse 0 + 0x0
abbrev F.CAP_UNITS_MATRIX : Fld := ⟨0, 0⟩
abbrev F.CAP_UNITS_MV_PATH : Fld := ⟨1, 1⟩
abbrev F.CAP_UNITS_STRICT_FP32 : Fld := ⟨2, 2⟩
abbrev F.CAP_UNITS_SFU : Fld := ⟨3, 3⟩
abbrev F.CAP_UNITS_UPDATE_UNITS : Fld := ⟨4, 4⟩
abbrev F.CAP_UNITS_FAR_TIER : Fld := ⟨5, 5⟩
abbrev F.CAP_UNITS_CXL_PORTS : Fld := ⟨15, 8⟩
abbrev F.CAP_UNITS_CAMLEY_PORTS : Fld := ⟨31, 16⟩
/-- Table 2. -/
abbrev R.PART_CAP_UNITS (u : Nat) : Nat := Blk.base .part u + 0x0
/-- Table 3. -/
abbrev R.CAP_COUNTS : Nat := Blk.base .fuse 0 + 0x8
abbrev F.CAP_COUNTS_ACTIVE_CELLS : Fld := ⟨12, 0⟩
abbrev F.CAP_COUNTS_CELLS_PER_PART : Fld := ⟨22, 16⟩
abbrev F.CAP_COUNTS_PARTITIONS : Fld := ⟨30, 24⟩
abbrev F.CAP_COUNTS_UPDATE_UNIT_COUNT : Fld := ⟨40, 32⟩
abbrev F.CAP_COUNTS_GOOD_SPARES : Fld := ⟨56, 48⟩
/-- Table 3. -/
abbrev R.PART_CAP_COUNTS (u : Nat) : Nat := Blk.base .part u + 0x8
/-- Table 12. -/
abbrev R.CLU_SLOT_MAP (u : Nat) : Nat := Blk.base .cluster u + 0x0
abbrev F.CLU_SLOT_MAP_SPARE_POS : Fld := ⟨4, 0⟩
abbrev F.CLU_SLOT_MAP_SPARE_GOOD : Fld := ⟨5, 5⟩
abbrev F.CLU_SLOT_MAP_RETIRED : Fld := ⟨31, 16⟩
abbrev F.CLU_SLOT_MAP_POPULATED : Fld := ⟨47, 32⟩
/-- Table 23. -/
abbrev R.TIME_STATE : Nat := Blk.base .time 0 + 0x0
abbrev F.TIME_STATE_STATE : Fld := ⟨2, 0⟩
abbrev F.TIME_STATE_TRACEABLE : Fld := ⟨3, 3⟩
abbrev F.TIME_STATE_SOURCE_ID : Fld := ⟨11, 4⟩
abbrev F.TIME_STATE_HOLD_LEFT : Fld := ⟨39, 16⟩
abbrev F.TIME_STATE_STEP_PENDING : Fld := ⟨40, 40⟩
/-- Table 24. -/
abbrev R.TIME_COUNT : Nat := Blk.base .time 0 + 0x8
abbrev F.TIME_COUNT_COUNT : Fld := ⟨63, 0⟩
/-- Table 25. -/
abbrev R.TIME_NOW : Nat := Blk.base .time 0 + 0x10
abbrev F.TIME_NOW_FRAC : Fld := ⟨9, 0⟩
abbrev F.TIME_NOW_COUNT_LOW : Fld := ⟨63, 10⟩
/-- Table 26. -/
abbrev R.TIME_CTRL : Nat := Blk.base .time 0 + 0x18
abbrev F.TIME_CTRL_FORCE_STEP : Fld := ⟨0, 0⟩
/-- Table 27. -/
abbrev R.PITCH_CFG : Nat := Blk.base .time 0 + 0x20
abbrev F.PITCH_CFG_LEN : Fld := ⟨12, 0⟩
abbrev F.PITCH_CFG_PHASE : Fld := ⟨27, 16⟩
abbrev F.PITCH_CFG_REJECTED : Fld := ⟨32, 32⟩
abbrev F.PITCH_CFG_PENDING : Fld := ⟨33, 33⟩
/-- Table 28. -/
abbrev R.PITCH_NOW : Nat := Blk.base .time 0 + 0x28
abbrev F.PITCH_NOW_PITCH : Fld := ⟨51, 0⟩
abbrev F.PITCH_NOW_POS : Fld := ⟨63, 52⟩
/-- Table 29. -/
abbrev R.TIME_ERR : Nat := Blk.base .time 0 + 0x30
abbrev F.TIME_ERR_MISSED : Fld := ⟨15, 0⟩
abbrev F.TIME_ERR_STRAY : Fld := ⟨31, 16⟩
abbrev F.TIME_ERR_TCODE_BAD : Fld := ⟨47, 32⟩
abbrev F.TIME_ERR_TCODE_MISMATCH : Fld := ⟨55, 48⟩
/-- Table 30. -/
abbrev R.FLOOR_MON (i : Nat) : Nat := Blk.base .time 0 + 0x40 + 8 * i
abbrev F.FLOOR_MON_LAST : Fld := ⟨15, 0⟩
abbrev F.FLOOR_MON_MIN : Fld := ⟨31, 16⟩
abbrev F.FLOOR_MON_BELOW : Fld := ⟨47, 32⟩
abbrev F.FLOOR_MON_NOW_BELOW : Fld := ⟨48, 48⟩
/-- Table 34. -/
abbrev R.WV_VERSIONS : Nat := Blk.base .fuse 0 + 0x10
abbrev F.WV_VERSIONS_MAJOR1 : Fld := ⟨7, 0⟩
abbrev F.WV_VERSIONS_MAJOR2 : Fld := ⟨15, 8⟩
/-- Table 34. -/
abbrev R.PART_WV_VERSIONS (u : Nat) : Nat := Blk.base .part u + 0x10
/-- Table 41. -/
abbrev R.WV_LOAD_STATUS (u : Nat) : Nat := Blk.base .part u + 0x100
abbrev F.WV_LOAD_STATUS_STATE : Fld := ⟨3, 0⟩
abbrev F.WV_LOAD_STATUS_ERROR : Fld := ⟨31, 16⟩
abbrev F.WV_LOAD_STATUS_FRAME : Fld := ⟨63, 32⟩
/-- Table 42. -/
abbrev R.WV_LOAD_ID (u : Nat) : Nat := Blk.base .part u + 0x108
abbrev F.WV_LOAD_ID_SECTION_ID : Fld := ⟨63, 0⟩
/-- Table 47. -/
abbrev R.SECT_STATUS (u : Nat) : Nat := Blk.base .part u + 0x110
abbrev F.SECT_STATUS_RUN_STATE : Fld := ⟨3, 0⟩
abbrev F.SECT_STATUS_CELLS_SWITCHED : Fld := ⟨28, 16⟩
abbrev F.SECT_STATUS_LAST_EVENT : Fld := ⟨47, 32⟩
abbrev F.SECT_STATUS_MORE_FAULTS : Fld := ⟨55, 48⟩
/-- Table 48. -/
abbrev R.SECT_RUN_ID (u : Nat) : Nat := Blk.base .part u + 0x118
abbrev F.SECT_RUN_ID_SECTION_ID : Fld := ⟨63, 0⟩
/-- Table 49. -/
abbrev R.SECT_TEAM (u : Nat) : Nat := Blk.base .part u + 0x120
abbrev F.SECT_TEAM_TEAM_INDEX : Fld := ⟨5, 0⟩
abbrev F.SECT_TEAM_TEAM_SIZE : Fld := ⟨14, 8⟩
abbrev F.SECT_TEAM_TEAM_ID : Fld := ⟨21, 16⟩
/-- Table 50. -/
abbrev R.SECT_FAULT (u : Nat) : Nat := Blk.base .part u + 0x128
abbrev F.SECT_FAULT_CELL : Fld := ⟨11, 0⟩
abbrev F.SECT_FAULT_REGION : Fld := ⟨15, 12⟩
abbrev F.SECT_FAULT_IADDR : Fld := ⟨31, 16⟩
abbrev F.SECT_FAULT_BYTE_ADDR : Fld := ⟨53, 32⟩
abbrev F.SECT_FAULT_WRITE : Fld := ⟨54, 54⟩
/-- Table 51. -/
abbrev R.SECT_BIV_AREA (u : Nat) : Nat := Blk.base .part u + 0x130
abbrev F.SECT_BIV_AREA_BASE_64K : Fld := ⟨38, 16⟩
abbrev F.SECT_BIV_AREA_LEN_64K : Fld := ⟨62, 40⟩
/-- Table 64. -/
abbrev R.CELL_SEQ_STATUS (u : Nat) : Nat := Blk.base .cell u + 0x0
abbrev F.CELL_SEQ_STATUS_STATE : Fld := ⟨2, 0⟩
abbrev F.CELL_SEQ_STATUS_GEN : Fld := ⟨3, 3⟩
abbrev F.CELL_SEQ_STATUS_JOB : Fld := ⟨6, 4⟩
abbrev F.CELL_SEQ_STATUS_PC : Fld := ⟨20, 8⟩
abbrev F.CELL_SEQ_STATUS_LOOP_DEPTH : Fld := ⟨23, 21⟩
abbrev F.CELL_SEQ_STATUS_MBOX_COUNT : Fld := ⟨26, 24⟩
abbrev F.CELL_SEQ_STATUS_FP_ACTIVE : Fld := ⟨27, 27⟩
/-- Table 65. -/
abbrev R.CELL_SEQ_FAULT (u : Nat) : Nat := Blk.base .cell u + 0x8
abbrev F.CELL_SEQ_FAULT_CODE : Fld := ⟨15, 0⟩
abbrev F.CELL_SEQ_FAULT_PC : Fld := ⟨28, 16⟩
abbrev F.CELL_SEQ_FAULT_JOB : Fld := ⟨31, 29⟩
abbrev F.CELL_SEQ_FAULT_OPCODE : Fld := ⟨39, 32⟩
/-- Table 66. -/
abbrev R.CELL_ACC_STATE (u : Nat) (i : Nat) : Nat := Blk.base .cell u + 0x20 + 8 * i
abbrev F.CELL_ACC_STATE_LEAF_BASE : Fld := ⟨19, 0⟩
abbrev F.CELL_ACC_STATE_CLOSED : Fld := ⟨20, 20⟩
abbrev F.CELL_ACC_STATE_CLASS : Fld := ⟨22, 21⟩
abbrev F.CELL_ACC_STATE_MAX_LEAVES : Fld := ⟨44, 32⟩
/-- Table 67. -/
abbrev R.CELL_CNT_CTRL (u : Nat) : Nat := Blk.base .cell u + 0x18
abbrev F.CELL_CNT_CTRL_FREEZE : Fld := ⟨0, 0⟩
abbrev F.CELL_CNT_CTRL_CLEAR : Fld := ⟨1, 1⟩
/-- Table 68. -/
abbrev R.CELL_CNT (u : Nat) (i : Nat) : Nat := Blk.base .cell u + 0x40 + 8 * i
abbrev F.CELL_CNT_COUNT : Fld := ⟨63, 0⟩
/-- Table 78. -/
abbrev R.CELL_ACC_FLAGS (u : Nat) (i : Nat) : Nat := Blk.base .cell u + 0x80 + 8 * i
abbrev F.CELL_ACC_FLAGS_NAN_IN : Fld := ⟨0, 0⟩
abbrev F.CELL_ACC_FLAGS_OVF : Fld := ⟨1, 1⟩
abbrev F.CELL_ACC_FLAGS_INV : Fld := ⟨2, 2⟩
abbrev F.CELL_ACC_FLAGS_SAT : Fld := ⟨3, 3⟩
abbrev F.CELL_ACC_FLAGS_INX_INT : Fld := ⟨4, 4⟩
abbrev F.CELL_ACC_FLAGS_POISON : Fld := ⟨5, 5⟩
abbrev F.CELL_ACC_FLAGS_IE_INVALID : Fld := ⟨8, 8⟩
abbrev F.CELL_ACC_FLAGS_IE_DIVZERO : Fld := ⟨9, 9⟩
abbrev F.CELL_ACC_FLAGS_IE_OVERFLOW : Fld := ⟨10, 10⟩
abbrev F.CELL_ACC_FLAGS_IE_UNDERFLOW : Fld := ⟨11, 11⟩
abbrev F.CELL_ACC_FLAGS_IE_INEXACT : Fld := ⟨12, 12⟩
/-- Table 81. -/
abbrev R.CELL_TREG_STATE (u : Nat) : Nat := Blk.base .cell u + 0xA0
abbrev F.CELL_TREG_STATE_FULL : Fld := ⟨15, 0⟩
abbrev F.CELL_TREG_STATE_POISON : Fld := ⟨31, 16⟩
abbrev F.CELL_TREG_STATE_GATED : Fld := ⟨35, 32⟩
/-- Table 82. -/
abbrev R.CELL_TREG_CTRL (u : Nat) : Nat := Blk.base .cell u + 0xA8
abbrev F.CELL_TREG_CTRL_GATE_DIS : Fld := ⟨0, 0⟩
/-- Table 83. -/
abbrev R.CELL_TREG_FLAGS (u : Nat) (i : Nat) : Nat := Blk.base .cell u + 0x100 + 8 * i
abbrev F.CELL_TREG_FLAGS_FLAGS : Fld := ⟨12, 0⟩
/-- Table 93. -/
abbrev R.CELL_VE_STATUS (u : Nat) : Nat := Blk.base .cell u + 0xB0
abbrev F.CELL_VE_STATUS_BUSY : Fld := ⟨0, 0⟩
abbrev F.CELL_VE_STATUS_STOPPED : Fld := ⟨1, 1⟩
abbrev F.CELL_VE_STATUS_IADDR : Fld := ⟨28, 16⟩
abbrev F.CELL_VE_STATUS_DONE : Fld := ⟨47, 32⟩
abbrev F.CELL_VE_STATUS_SUMQ : Fld := ⟨50, 48⟩
/-- Table 94. -/
abbrev R.CELL_VE_FLAGS (u : Nat) : Nat := Blk.base .cell u + 0xB8
abbrev F.CELL_VE_FLAGS_FLAGS : Fld := ⟨12, 0⟩
/-- Table 95. -/
abbrev R.CELL_VE_LAST (u : Nat) : Nat := Blk.base .cell u + 0xC0
abbrev F.CELL_VE_LAST_FLAGS : Fld := ⟨12, 0⟩
/-- Table 99. -/
abbrev R.CLU_SFU_SUBMIT (u : Nat) (i : Nat) : Nat := Blk.base .cluster u + 0x100 + 8 * i
abbrev F.CLU_SFU_SUBMIT_DESC_ADDR : Fld := ⟨47, 6⟩
/-- Table 100. -/
abbrev R.CLU_SFU_STATUS (u : Nat) (i : Nat) : Nat := Blk.base .cluster u + 0x110 + 8 * i
abbrev F.CLU_SFU_STATUS_QUEUED : Fld := ⟨3, 0⟩
abbrev F.CLU_SFU_STATUS_BUSY : Fld := ⟨4, 4⟩
abbrev F.CLU_SFU_STATUS_DROPPED : Fld := ⟨5, 5⟩
abbrev F.CLU_SFU_STATUS_FLAGS : Fld := ⟨28, 16⟩
/-- Table 105. -/
abbrev R.CELL_SP_CONFLICT (u : Nat) (i : Nat) : Nat := Blk.base .cell u + 0x200 + 8 * i
abbrev F.CELL_SP_CONFLICT_WAIT : Fld := ⟨31, 0⟩
/-- Table 106. -/
abbrev R.CELL_SP_HIST (u : Nat) (i : Nat) : Nat := Blk.base .cell u + 0x280 + 8 * i
abbrev F.CELL_SP_HIST_COUNT : Fld := ⟨31, 0⟩
/-- Table 107. -/
abbrev R.CELL_SP_HIST_CTRL (u : Nat) : Nat := Blk.base .cell u + 0x240
abbrev F.CELL_SP_HIST_CTRL_OPCODE : Fld := ⟨7, 0⟩
abbrev F.CELL_SP_HIST_CTRL_ENABLE : Fld := ⟨8, 8⟩
abbrev F.CELL_SP_HIST_CTRL_IADDR_LO : Fld := ⟨28, 16⟩
abbrev F.CELL_SP_HIST_CTRL_IADDR_HI : Fld := ⟨44, 32⟩
/-- Table 108. -/
abbrev R.CELL_BELAY_TX (u : Nat) (i : Nat) : Nat := Blk.base .cell u + 0x300 + 8 * i
abbrev F.CELL_BELAY_TX_VALID : Fld := ⟨0, 0⟩
abbrev F.CELL_BELAY_TX_CONSUME : Fld := ⟨1, 1⟩
abbrev F.CELL_BELAY_TX_GEN : Fld := ⟨2, 2⟩
abbrev F.CELL_BELAY_TX_PENDING : Fld := ⟨3, 3⟩
abbrev F.CELL_BELAY_TX_UNITS : Fld := ⟨10, 4⟩
abbrev F.CELL_BELAY_TX_BASE_256 : Fld := ⟨31, 18⟩
/-- Table 109. -/
abbrev R.CELL_BELAY_CRED (u : Nat) (i : Nat) : Nat := Blk.base .cell u + 0x320 + 8 * i
abbrev F.CELL_BELAY_CRED_HELD : Fld := ⟨63, 0⟩
/-- Table 110. -/
abbrev R.CELL_BELAY_FULL (u : Nat) (i : Nat) : Nat := Blk.base .cell u + 0x340 + 8 * i
abbrev F.CELL_BELAY_FULL_FULL : Fld := ⟨63, 0⟩
/-- Table 111. -/
abbrev R.CELL_BELAY_RX (u : Nat) (i : Nat) : Nat := Blk.base .cell u + 0x360 + 8 * i
abbrev F.CELL_BELAY_RX_GRANTED : Fld := ⟨0, 0⟩
abbrev F.CELL_BELAY_RX_CLOSED : Fld := ⟨1, 1⟩
abbrev F.CELL_BELAY_RX_WRITES : Fld := ⟨63, 32⟩
/-- Table 113. -/
abbrev R.CLU_XBAR_WHEEL (u : Nat) (i : Nat) (j : Nat) : Nat := Blk.base .cluster u + 0x200 + 64 * i + 8 * j
abbrev F.CLU_XBAR_WHEEL_ENTRY0 : Fld := ⟨4, 0⟩
abbrev F.CLU_XBAR_WHEEL_ENTRY1 : Fld := ⟨12, 8⟩
abbrev F.CLU_XBAR_WHEEL_ENTRY2 : Fld := ⟨20, 16⟩
abbrev F.CLU_XBAR_WHEEL_ENTRY3 : Fld := ⟨28, 24⟩
abbrev F.CLU_XBAR_WHEEL_ENTRY4 : Fld := ⟨36, 32⟩
abbrev F.CLU_XBAR_WHEEL_ENTRY5 : Fld := ⟨44, 40⟩
abbrev F.CLU_XBAR_WHEEL_ENTRY6 : Fld := ⟨52, 48⟩
abbrev F.CLU_XBAR_WHEEL_ENTRY7 : Fld := ⟨60, 56⟩
/-- Table 114. -/
abbrev R.CLU_XBAR_STAT (u : Nat) (i : Nat) : Nat := Blk.base .cluster u + 0x300 + 8 * i
abbrev F.CLU_XBAR_STAT_BUSY : Fld := ⟨31, 0⟩
abbrev F.CLU_XBAR_STAT_STARVE : Fld := ⟨63, 32⟩
/-- Table 116. -/
abbrev R.NT_STACK_STATUS (i : Nat) : Nat := Blk.base .hbm 0 + 0x0 + 8 * i
abbrev F.NT_STACK_STATUS_STATE : Fld := ⟨1, 0⟩
abbrev F.NT_STACK_STATUS_CORRECTED : Fld := ⟨31, 16⟩
abbrev F.NT_STACK_STATUS_POISONED : Fld := ⟨47, 32⟩
/-- Table 117. -/
abbrev R.CXL_PORT_STATUS (i : Nat) : Nat := Blk.base .cxl 0 + 0x0 + 8 * i
abbrev F.CXL_PORT_STATUS_STATE : Fld := ⟨2, 0⟩
abbrev F.CXL_PORT_STATUS_RATE : Fld := ⟨5, 4⟩
abbrev F.CXL_PORT_STATUS_WIDTH : Fld := ⟨7, 6⟩
abbrev F.CXL_PORT_STATUS_CXL_REV : Fld := ⟨11, 8⟩
abbrev F.CXL_PORT_STATUS_CAP_GIB : Fld := ⟨27, 16⟩
abbrev F.CXL_PORT_STATUS_WAY : Fld := ⟨34, 32⟩
abbrev F.CXL_PORT_STATUS_POISONED : Fld := ⟨63, 48⟩
/-- Table 118. -/
abbrev R.CXL_MAP : Nat := Blk.base .cxl 0 + 0x40
abbrev F.CXL_MAP_WAYS : Fld := ⟨3, 0⟩
abbrev F.CXL_MAP_PORTS : Fld := ⟨15, 8⟩
abbrev F.CXL_MAP_C_GIB : Fld := ⟨24, 16⟩
abbrev F.CXL_MAP_MAPPED_GIB : Fld := ⟨43, 32⟩
/-- Table 119. -/
abbrev R.PART_GRANT (u : Nat) (i : Nat) : Nat := Blk.base .part u + 0x200 + 8 * i
abbrev F.PART_GRANT_VALID : Fld := ⟨0, 0⟩
abbrev F.PART_GRANT_WR : Fld := ⟨1, 1⟩
abbrev F.PART_GRANT_BASE_2M : Fld := ⟨34, 8⟩
abbrev F.PART_GRANT_LEN_2M : Fld := ⟨62, 36⟩
/-- Table 120. -/
abbrev R.CLU_JOB_TENANT (u : Nat) (i : Nat) : Nat := Blk.base .cluster u + 0x400 + 8 * i
abbrev F.CLU_JOB_TENANT_TENANT : Fld := ⟨11, 0⟩
abbrev F.CLU_JOB_TENANT_CLASS : Fld := ⟨13, 12⟩
abbrev F.CLU_JOB_TENANT_VALID : Fld := ⟨14, 14⟩
/-- Table 122. -/
abbrev R.NT_PT_BASE : Nat := Blk.base .hbm 0 + 0x40
abbrev F.NT_PT_BASE_VALID : Fld := ⟨0, 0⟩
abbrev F.NT_PT_BASE_BASE_32K : Fld := ⟨47, 15⟩
/-- Table 123. -/
abbrev R.NT_TLB_INV : Nat := Blk.base .hbm 0 + 0x48
abbrev F.NT_TLB_INV_TENANT : Fld := ⟨11, 0⟩
abbrev F.NT_TLB_INV_ALL : Fld := ⟨12, 12⟩
abbrev F.NT_TLB_INV_GO : Fld := ⟨13, 13⟩
abbrev F.NT_TLB_INV_BUSY : Fld := ⟨14, 14⟩
/-- Table 125. -/
abbrev R.LEAD_STATUS (u : Nat) : Nat := Blk.base .cell u + 0x400
abbrev F.LEAD_STATUS_TAGS_BUSY : Fld := ⟨6, 0⟩
abbrev F.LEAD_STATUS_TAGS_VOID : Fld := ⟨14, 8⟩
abbrev F.LEAD_STATUS_CANCEL : Fld := ⟨15, 15⟩
abbrev F.LEAD_STATUS_QUEUED : Fld := ⟨19, 16⟩
abbrev F.LEAD_STATUS_UNLANDED : Fld := ⟨23, 20⟩
abbrev F.LEAD_STATUS_TIMEOUTS : Fld := ⟨47, 32⟩
abbrev F.LEAD_STATUS_POISON_BEATS : Fld := ⟨63, 48⟩
/-- Table 126. -/
abbrev R.LEAD_HAUL (u : Nat) : Nat := Blk.base .cell u + 0x408
abbrev F.LEAD_HAUL_HEAD : Fld := ⟨6, 0⟩
abbrev F.LEAD_HAUL_HEAD_WRAP : Fld := ⟨7, 7⟩
abbrev F.LEAD_HAUL_TAIL : Fld := ⟨14, 8⟩
abbrev F.LEAD_HAUL_TAIL_WRAP : Fld := ⟨15, 15⟩
abbrev F.LEAD_HAUL_VOID : Fld := ⟨23, 16⟩
abbrev F.LEAD_HAUL_HIGH : Fld := ⟨31, 24⟩
/-- Table 127. -/
abbrev R.LEAD_BASE (u : Nat) (i : Nat) : Nat := Blk.base .cell u + 0x410 + 8 * i
abbrev F.LEAD_BASE_VA : Fld := ⟨47, 0⟩
/-- Table 137. -/
abbrev R.CLU_RTR_STATUS (u : Nat) : Nat := Blk.base .cluster u + 0x500
abbrev F.CLU_RTR_STATUS_TABLE : Fld := ⟨0, 0⟩
abbrev F.CLU_RTR_STATUS_SHADOW : Fld := ⟨1, 1⟩
abbrev F.CLU_RTR_STATUS_FRAME : Fld := ⟨6, 4⟩
abbrev F.CLU_RTR_STATUS_NOSLOT : Fld := ⟨7, 7⟩
abbrev F.CLU_RTR_STATUS_SLOT : Fld := ⟨15, 8⟩
/-- Table 138. -/
abbrev R.CLU_RTR_FENCE (u : Nat) : Nat := Blk.base .cluster u + 0x508
abbrev F.CLU_RTR_FENCE_FENCE : Fld := ⟨16, 0⟩
/-- Table 139. -/
abbrev R.CLU_RTR_DROP (u : Nat) : Nat := Blk.base .cluster u + 0x510
abbrev F.CLU_RTR_DROP_STALE : Fld := ⟨31, 0⟩
abbrev F.CLU_RTR_DROP_FENCED : Fld := ⟨63, 32⟩
/-- Table 140. -/
abbrev R.CLU_RTR_LINK (u : Nat) (i : Nat) : Nat := Blk.base .cluster u + 0x520 + 8 * i
abbrev F.CLU_RTR_LINK_GS_FLITS : Fld := ⟨23, 0⟩
abbrev F.CLU_RTR_LINK_BE_FLITS : Fld := ⟨47, 24⟩
abbrev F.CLU_RTR_LINK_BE_STARVE : Fld := ⟨63, 48⟩
/-- Table 144. -/
abbrev R.CH_OCC (u : Nat) (i : Nat) : Nat := Blk.base .cell u + 0x500 + 8 * i
abbrev F.CH_OCC_OCC : Fld := ⟨2, 0⟩
abbrev F.CH_OCC_LATCH : Fld := ⟨3, 3⟩
abbrev F.CH_OCC_BOUND : Fld := ⟨4, 4⟩
abbrev F.CH_OCC_GS : Fld := ⟨5, 5⟩
abbrev F.CH_OCC_PEER : Fld := ⟨27, 16⟩
abbrev F.CH_OCC_PEER_CHAN : Fld := ⟨30, 28⟩
/-- Table 145. -/
abbrev R.CH_OUT (u : Nat) (i : Nat) : Nat := Blk.base .cell u + 0x540 + 8 * i
abbrev F.CH_OUT_CREDITS : Fld := ⟨2, 0⟩
abbrev F.CH_OUT_BOUND : Fld := ⟨4, 4⟩
abbrev F.CH_OUT_GS : Fld := ⟨5, 5⟩
abbrev F.CH_OUT_PEER : Fld := ⟨27, 16⟩
abbrev F.CH_OUT_PEER_CHAN : Fld := ⟨30, 28⟩
/-- Table 146. -/
abbrev R.CH_HEAD_LO (u : Nat) (i : Nat) : Nat := Blk.base .cell u + 0x580 + 8 * i
abbrev F.CH_HEAD_LO_HDR : Fld := ⟨63, 0⟩
/-- Table 147. -/
abbrev R.CH_HEAD_HI (u : Nat) (i : Nat) : Nat := Blk.base .cell u + 0x5C0 + 8 * i
abbrev F.CH_HEAD_HI_SECT_POISON : Fld := ⟨63, 0⟩
/-- Table 148. -/
abbrev R.CH_IN_CNT (u : Nat) (i : Nat) : Nat := Blk.base .cell u + 0x600 + 8 * i
abbrev F.CH_IN_CNT_TILES : Fld := ⟨31, 0⟩
abbrev F.CH_IN_CNT_EMPTY_STALL : Fld := ⟨63, 32⟩
/-- Table 149. -/
abbrev R.CH_OUT_CNT (u : Nat) (i : Nat) : Nat := Blk.base .cell u + 0x640 + 8 * i
abbrev F.CH_OUT_CNT_TILES : Fld := ⟨31, 0⟩
abbrev F.CH_OUT_CNT_CREDIT_STALL : Fld := ⟨63, 32⟩
/-- Table 150. -/
abbrev R.CELL_EPOCH (u : Nat) : Nat := Blk.base .cell u + 0x680
abbrev F.CELL_EPOCH_EPOCH : Fld := ⟨7, 0⟩
/-- Table 153. -/
abbrev R.CLU_ANCHOR_POISON (u : Nat) (i : Nat) : Nat := Blk.base .cluster u + 0x600 + 8 * i
abbrev F.CLU_ANCHOR_POISON_POISON : Fld := ⟨63, 0⟩
/-- Table 154. -/
abbrev R.CLU_ANCHOR_MON (u : Nat) : Nat := Blk.base .cluster u + 0x610
abbrev F.CLU_ANCHOR_MON_IN_USE : Fld := ⟨5, 0⟩
abbrev F.CLU_ANCHOR_MON_NOTYET : Fld := ⟨31, 16⟩
abbrev F.CLU_ANCHOR_MON_OPS : Fld := ⟨63, 32⟩
/-- Table 156. -/
abbrev R.PART_BAR_MASK (u : Nat) (i : Nat) : Nat := Blk.base .part u + 0x300 + 8 * i
abbrev F.PART_BAR_MASK_MASK : Fld := ⟨63, 0⟩
/-- Table 157. -/
abbrev R.PART_BAR_STATE (u : Nat) (i : Nat) : Nat := Blk.base .part u + 0x380 + 8 * i
abbrev F.PART_BAR_STATE_VALID : Fld := ⟨0, 0⟩
abbrev F.PART_BAR_STATE_KIND : Fld := ⟨1, 1⟩
abbrev F.PART_BAR_STATE_PARENT : Fld := ⟨2, 2⟩
abbrev F.PART_BAR_STATE_WAITING : Fld := ⟨3, 3⟩
abbrev F.PART_BAR_STATE_ARRIVED_N : Fld := ⟨9, 4⟩
abbrev F.PART_BAR_STATE_EPISODES : Fld := ⟨47, 16⟩
/-- Table 165. -/
abbrev R.ADM_CTRL : Nat := Blk.base .adm 0 + 0x0
abbrev F.ADM_CTRL_ENABLE : Fld := ⟨0, 0⟩
abbrev F.ADM_CTRL_MAP_REJECTED : Fld := ⟨2, 2⟩
abbrev F.ADM_CTRL_HOLD_DEFAULT : Fld := ⟨31, 16⟩
/-- Table 166. -/
abbrev R.ADM_STATUS : Nat := Blk.base .adm 0 + 0x8
abbrev F.ADM_STATUS_INTAKE_USED : Fld := ⟨12, 0⟩
abbrev F.ADM_STATUS_ACCEPTED : Fld := ⟨31, 16⟩
abbrev F.ADM_STATUS_REFUSED : Fld := ⟨47, 32⟩
abbrev F.ADM_STATUS_BUSY : Fld := ⟨63, 48⟩
/-- Table 167. -/
abbrev R.ADM_TEAM_CHANGE : Nat := Blk.base .adm 0 + 0x10
abbrev F.ADM_TEAM_CHANGE_OP : Fld := ⟨1, 0⟩
abbrev F.ADM_TEAM_CHANGE_PARTITION : Fld := ⟨13, 8⟩
abbrev F.ADM_TEAM_CHANGE_TEAM_ID : Fld := ⟨21, 16⟩
abbrev F.ADM_TEAM_CHANGE_SUBSTITUTE : Fld := ⟨29, 24⟩
abbrev F.ADM_TEAM_CHANGE_SUB_VALID : Fld := ⟨30, 30⟩
/-- Table 168. -/
abbrev R.ADM_TEAM_CHANGE_STATUS : Nat := Blk.base .adm 0 + 0x18
abbrev F.ADM_TEAM_CHANGE_STATUS_STATE : Fld := ⟨1, 0⟩
abbrev F.ADM_TEAM_CHANGE_STATUS_REASON : Fld := ⟨15, 8⟩
abbrev F.ADM_TEAM_CHANGE_STATUS_W_LOW : Fld := ⟨63, 16⟩
/-- Table 169. -/
abbrev R.ADM_NT_SHARE (i : Nat) : Nat := Blk.base .adm 0 + 0x100 + 8 * i
abbrev F.ADM_NT_SHARE_ENGINE_A : Fld := ⟨2, 0⟩
abbrev F.ADM_NT_SHARE_ENGINE_B : Fld := ⟨5, 3⟩
abbrev F.ADM_NT_SHARE_SPLIT_A : Fld := ⟨16, 8⟩
abbrev F.ADM_NT_SHARE_REJECTED : Fld := ⟨17, 17⟩
/-- Table 169. -/
abbrev R.ADM_CXL_SHARE (i : Nat) : Nat := Blk.base .adm 0 + 0x140 + 8 * i
/-- Table 170. -/
abbrev R.ADM_TENANT (i : Nat) : Nat := Blk.base .adm 0 + 0x10000 + 8 * i
abbrev F.ADM_TENANT_VALID : Fld := ⟨0, 0⟩
abbrev F.ADM_TENANT_PARTITION : Fld := ⟨6, 1⟩
abbrev F.ADM_TENANT_MAX_CLASS : Fld := ⟨9, 8⟩
abbrev F.ADM_TENANT_HOLD_WM : Fld := ⟨31, 16⟩
abbrev F.ADM_TENANT_BIV_LIFE : Fld := ⟨63, 32⟩
/-- Table 171. -/
abbrev R.PART_ADM_STATUS (u : Nat) : Nat := Blk.base .part u + 0x400
abbrev F.PART_ADM_STATUS_INTAKE_USED : Fld := ⟨6, 0⟩
abbrev F.PART_ADM_STATUS_G_JOBS : Fld := ⟨10, 8⟩
abbrev F.PART_ADM_STATUS_LANES : Fld := ⟨16, 12⟩
abbrev F.PART_ADM_STATUS_ENGINE : Fld := ⟨19, 17⟩
abbrev F.PART_ADM_STATUS_FLOOR_HOLD : Fld := ⟨20, 20⟩
abbrev F.PART_ADM_STATUS_DEGRADED : Fld := ⟨21, 21⟩
abbrev F.PART_ADM_STATUS_CHANGING : Fld := ⟨22, 22⟩
/-- Table 172. -/
abbrev R.PART_ADM_CUTOVER (u : Nat) : Nat := Blk.base .part u + 0x408
abbrev F.PART_ADM_CUTOVER_CUTOVER : Fld := ⟨63, 0⟩
/-- Table 181. -/
abbrev R.EVT_CORE_MSI (i : Nat) : Nat := Blk.base .evt 0 + 0x4000 + 8 * i
abbrev F.EVT_CORE_MSI_EIID : Fld := ⟨7, 0⟩
abbrev F.EVT_CORE_MSI_FILE : Fld := ⟨10, 8⟩
abbrev F.EVT_CORE_MSI_HART : Fld := ⟨15, 12⟩
/-- Table 182. -/
abbrev R.CLU_CTL_STATUS (u : Nat) : Nat := Blk.base .cluster u + 0x700
abbrev F.CLU_CTL_STATUS_STATE : Fld := ⟨2, 0⟩
abbrev F.CLU_CTL_STATUS_CAUSE : Fld := ⟨15, 8⟩
abbrev F.CLU_CTL_STATUS_UPC : Fld := ⟨49, 32⟩
/-- Table 183. -/
abbrev R.CLU_CTL_IRQ (u : Nat) : Nat := Blk.base .cluster u + 0x708
abbrev F.CLU_CTL_IRQ_SEREQ : Fld := ⟨0, 0⟩
abbrev F.CLU_CTL_IRQ_SUMMARY : Fld := ⟨1, 1⟩
abbrev F.CLU_CTL_IRQ_DMA_DONE : Fld := ⟨2, 2⟩
abbrev F.CLU_CTL_IRQ_ENABLE : Fld := ⟨10, 8⟩
/-- Table 184. -/
abbrev R.CLU_DMA_SUBMIT (u : Nat) : Nat := Blk.base .cluster u + 0x800
abbrev F.CLU_DMA_SUBMIT_DESC_ADDR : Fld := ⟨47, 6⟩
/-- Table 185. -/
abbrev R.CLU_DMA_STATUS (u : Nat) : Nat := Blk.base .cluster u + 0x808
abbrev F.CLU_DMA_STATUS_QUEUED : Fld := ⟨4, 0⟩
abbrev F.CLU_DMA_STATUS_DROPPED : Fld := ⟨5, 5⟩
abbrev F.CLU_DMA_STATUS_TAGS_BUSY : Fld := ⟨24, 16⟩
abbrev F.CLU_DMA_STATUS_TIMEOUTS : Fld := ⟨47, 32⟩
/-- Table 189. -/
abbrev R.EVT_LOG_HEAD : Nat := Blk.base .evt 0 + 0x0
abbrev F.EVT_LOG_HEAD_HEAD : Fld := ⟨12, 0⟩
abbrev F.EVT_LOG_HEAD_LOST : Fld := ⟨31, 16⟩
/-- Table 190. -/
abbrev R.EVT_LOG_TAIL : Nat := Blk.base .evt 0 + 0x8
abbrev F.EVT_LOG_TAIL_TAIL : Fld := ⟨12, 0⟩
/-- Table 191. -/
abbrev R.PART_EVT_HEAD (u : Nat) : Nat := Blk.base .part u + 0x500
abbrev F.PART_EVT_HEAD_HEAD : Fld := ⟨8, 0⟩
abbrev F.PART_EVT_HEAD_LOST : Fld := ⟨31, 16⟩
/-- Table 192. -/
abbrev R.PART_EVT_TAIL (u : Nat) : Nat := Blk.base .part u + 0x508
abbrev F.PART_EVT_TAIL_TAIL : Fld := ⟨8, 0⟩
/-- Table 196. -/
abbrev R.CELL_SHADOW_CNT (u : Nat) : Nat := Blk.base .cell u + 0x700
abbrev F.CELL_SHADOW_CNT_SAMPLED : Fld := ⟨15, 0⟩
abbrev F.CELL_SHADOW_CNT_CHECKED : Fld := ⟨31, 16⟩
abbrev F.CELL_SHADOW_CNT_SKIPPED : Fld := ⟨47, 32⟩
abbrev F.CELL_SHADOW_CNT_MISMATCH : Fld := ⟨63, 48⟩
/-- Table 199. -/
abbrev R.CLU_JOB_SUSPECT (u : Nat) (i : Nat) : Nat := Blk.base .cluster u + 0xA00 + 8 * i
abbrev F.CLU_JOB_SUSPECT_POISON : Fld := ⟨0, 0⟩
abbrev F.CLU_JOB_SUSPECT_PLAUS : Fld := ⟨1, 1⟩
abbrev F.CLU_JOB_SUSPECT_SHADOW : Fld := ⟨2, 2⟩
abbrev F.CLU_JOB_SUSPECT_TIMEOUT : Fld := ⟨3, 3⟩
abbrev F.CLU_JOB_SUSPECT_TAKEOVER : Fld := ⟨4, 4⟩
abbrev F.CLU_JOB_SUSPECT_POS : Fld := ⟨11, 8⟩
abbrev F.CLU_JOB_SUSPECT_POS_VALID : Fld := ⟨12, 12⟩
/-- Table 201. -/
abbrev R.INTEG_REPL_CFG (i : Nat) : Nat := Blk.base .evt 0 + 0x2000 + 64 * i
abbrev F.INTEG_REPL_CFG_VALID : Fld := ⟨0, 0⟩
abbrev F.INTEG_REPL_CFG_GOLDEN_FAR : Fld := ⟨1, 1⟩
abbrev F.INTEG_REPL_CFG_COUNT : Fld := ⟨4, 2⟩
abbrev F.INTEG_REPL_CFG_VERIFY : Fld := ⟨5, 5⟩
abbrev F.INTEG_REPL_CFG_INTERVAL : Fld := ⟨31, 16⟩
abbrev F.INTEG_REPL_CFG_LEN_32 : Fld := ⟨63, 32⟩
/-- Table 202. -/
abbrev R.INTEG_REPL_ADDR (i : Nat) (j : Nat) : Nat := Blk.base .evt 0 + 0x2008 + 64 * i + 8 * j
abbrev F.INTEG_REPL_ADDR_ADDR : Fld := ⟨47, 6⟩
/-- Table 203. -/
abbrev R.INTEG_REPL_ROOT (i : Nat) (j : Nat) : Nat := Blk.base .evt 0 + 0x2030 + 64 * i + 8 * j
abbrev F.INTEG_REPL_ROOT_ROOT : Fld := ⟨63, 0⟩
/-- Table 204. -/
abbrev R.INTEG_REPL_STAT (i : Nat) : Nat := Blk.base .evt 0 + 0x3000 + 8 * i
abbrev F.INTEG_REPL_STAT_STATE : Fld := ⟨1, 0⟩
abbrev F.INTEG_REPL_STAT_SUSPECT : Fld := ⟨5, 2⟩
abbrev F.INTEG_REPL_STAT_LAST_CLEAN : Fld := ⟨63, 16⟩
/-- Table 207. -/
abbrev R.CLU_SLOT_ERR (u : Nat) (i : Nat) : Nat := Blk.base .cluster u + 0x900 + 8 * i
abbrev F.CLU_SLOT_ERR_CE : Fld := ⟨15, 0⟩
abbrev F.CLU_SLOT_ERR_UE : Fld := ⟨19, 16⟩
abbrev F.CLU_SLOT_ERR_TREE : Fld := ⟨23, 20⟩
abbrev F.CLU_SLOT_ERR_CONDEMNED : Fld := ⟨24, 24⟩
abbrev F.CLU_SLOT_ERR_TESTING : Fld := ⟨25, 25⟩
/-- Table 208. -/
abbrev R.INTEG_CTRL : Nat := Blk.base .evt 0 + 0x10
abbrev F.INTEG_CTRL_SAMPLE_EN : Fld := ⟨0, 0⟩
abbrev F.INTEG_CTRL_RETIRE_AUTO : Fld := ⟨1, 1⟩
abbrev F.INTEG_CTRL_SAMPLE_N_MIN : Fld := ⟨12, 8⟩
abbrev F.INTEG_CTRL_RETIRE_WINDOW : Fld := ⟨31, 16⟩
abbrev F.INTEG_CTRL_CE_LIMIT : Fld := ⟨47, 32⟩
abbrev F.INTEG_CTRL_UE_LIMIT : Fld := ⟨51, 48⟩
/-- Table 209. -/
abbrev R.INTEG_SCRUB : Nat := Blk.base .evt 0 + 0x18
abbrev F.INTEG_SCRUB_ENABLE : Fld := ⟨0, 0⟩
abbrev F.INTEG_SCRUB_PERIOD : Fld := ⟨47, 8⟩
/-- Table 210. -/
abbrev R.INTEG_CLASS_NT : Nat := Blk.base .evt 0 + 0x20
abbrev F.INTEG_CLASS_NT_VALID : Fld := ⟨0, 0⟩
abbrev F.INTEG_CLASS_NT_BASE_2M : Fld := ⟨47, 21⟩
/-- Table 211. -/
abbrev R.INTEG_SLOT_CMD : Nat := Blk.base .evt 0 + 0x28
abbrev F.INTEG_SLOT_CMD_CLUSTER : Fld := ⟨7, 0⟩
abbrev F.INTEG_SLOT_CMD_SLOT : Fld := ⟨12, 8⟩
abbrev F.INTEG_SLOT_CMD_OP : Fld := ⟨14, 13⟩
abbrev F.INTEG_SLOT_CMD_GO : Fld := ⟨15, 15⟩
abbrev F.INTEG_SLOT_CMD_BUSY : Fld := ⟨16, 16⟩
abbrev F.INTEG_SLOT_CMD_PASS : Fld := ⟨17, 17⟩
/-- Table 216. -/
abbrev R.UPD_SEAL (i : Nat) : Nat := Blk.base .hbm 0 + 0x100 + 8 * i
abbrev F.UPD_SEAL_VALID : Fld := ⟨0, 0⟩
abbrev F.UPD_SEAL_BASE_2M : Fld := ⟨34, 8⟩
abbrev F.UPD_SEAL_LEN_2M : Fld := ⟨62, 36⟩
abbrev F.UPD_SEAL_REJECTED : Fld := ⟨63, 63⟩
/-- Table 218. -/
abbrev R.UPD_EXPORT_SRC : Nat := Blk.base .hbm 0 + 0x180
abbrev F.UPD_EXPORT_SRC_ADDR : Fld := ⟨47, 5⟩
/-- Table 219. -/
abbrev R.UPD_EXPORT_DST : Nat := Blk.base .hbm 0 + 0x188
abbrev F.UPD_EXPORT_DST_ADDR : Fld := ⟨47, 5⟩
/-- Table 220. -/
abbrev R.UPD_EXPORT_CTRL : Nat := Blk.base .hbm 0 + 0x190
abbrev F.UPD_EXPORT_CTRL_GO : Fld := ⟨0, 0⟩
abbrev F.UPD_EXPORT_CTRL_OP : Fld := ⟨1, 1⟩
abbrev F.UPD_EXPORT_CTRL_BUSY : Fld := ⟨2, 2⟩
abbrev F.UPD_EXPORT_CTRL_STATUS : Fld := ⟨7, 4⟩
/-- Table 221. -/
abbrev R.CLU_UPD_SUBMIT (u : Nat) : Nat := Blk.base .cluster u + 0xB00
abbrev F.CLU_UPD_SUBMIT_DESC_ADDR : Fld := ⟨47, 8⟩
/-- Table 222. -/
abbrev R.CLU_UPD_STATUS (u : Nat) : Nat := Blk.base .cluster u + 0xB08
abbrev F.CLU_UPD_STATUS_QUEUED : Fld := ⟨3, 0⟩
abbrev F.CLU_UPD_STATUS_BUSY : Fld := ⟨4, 4⟩
abbrev F.CLU_UPD_STATUS_DROPPED : Fld := ⟨5, 5⟩
abbrev F.CLU_UPD_STATUS_TAGS_BUSY : Fld := ⟨22, 16⟩
abbrev F.CLU_UPD_STATUS_FLAGS : Fld := ⟨44, 32⟩
/-- Table 225. -/
abbrev R.HOST_APERTURE (i : Nat) : Nat := Blk.base .host 0 + 0x100 + 8 * i
abbrev F.HOST_APERTURE_VALID : Fld := ⟨0, 0⟩
abbrev F.HOST_APERTURE_BASE_8G : Fld := ⟨47, 33⟩
/-- Table 227. -/
abbrev R.HOST_FOCIA_VER : Nat := Blk.base .host 0 + 0x0
abbrev F.HOST_FOCIA_VER_MIN : Fld := ⟨7, 0⟩
abbrev F.HOST_FOCIA_VER_MAX : Fld := ⟨15, 8⟩
abbrev F.HOST_FOCIA_VER_AGREED : Fld := ⟨23, 16⟩
abbrev F.HOST_FOCIA_VER_REJECTED : Fld := ⟨24, 24⟩
/-- Table 227. -/
abbrev R.PART_FOCIA_VER (u : Nat) : Nat := Blk.base .part u + 0x600
/-- Table 229. -/
abbrev R.TR_SQ (u : Nat) : Nat := Blk.base .ring u + 0x400
abbrev F.TR_SQ_TAIL : Fld := ⟨3, 0⟩
abbrev F.TR_SQ_HEAD : Fld := ⟨11, 8⟩
/-- Table 230. -/
abbrev R.TR_CQ_BASE (u : Nat) : Nat := Blk.base .ring u + 0x408
abbrev F.TR_CQ_BASE_ADDR : Fld := ⟨63, 12⟩
/-- Table 231. -/
abbrev R.TR_CQ_CFG (u : Nat) : Nat := Blk.base .ring u + 0x410
abbrev F.TR_CQ_CFG_ENABLE : Fld := ⟨0, 0⟩
abbrev F.TR_CQ_CFG_LOG2 : Fld := ⟨7, 4⟩
abbrev F.TR_CQ_CFG_VECTOR : Fld := ⟨15, 8⟩
abbrev F.TR_CQ_CFG_HEAD : Fld := ⟨27, 16⟩
abbrev F.TR_CQ_CFG_TAIL : Fld := ⟨39, 28⟩
/-- Table 232. -/
abbrev R.TR_STAT (u : Nat) : Nat := Blk.base .ring u + 0x418
abbrev F.TR_STAT_BAD_DB : Fld := ⟨15, 0⟩
abbrev F.TR_STAT_CQ_STALL : Fld := ⟨47, 16⟩
/-- Table 240. -/
abbrev R.LINK_CTRL : Nat := Blk.base .link 0 + 0x0
abbrev F.LINK_CTRL_MODULE_ID : Fld := ⟨15, 0⟩
abbrev F.LINK_CTRL_TABLE : Fld := ⟨47, 17⟩
/-- Table 241. -/
abbrev R.LINK_CMD : Nat := Blk.base .link 0 + 0x8
abbrev F.LINK_CMD_OP : Fld := ⟨2, 0⟩
abbrev F.LINK_CMD_GO : Fld := ⟨3, 3⟩
abbrev F.LINK_CMD_BUSY : Fld := ⟨4, 4⟩
abbrev F.LINK_CMD_STATUS : Fld := ⟨7, 5⟩
abbrev F.LINK_CMD_TARGET : Fld := ⟨19, 8⟩
/-- Table 242. -/
abbrev R.LINK_PORT_STATUS (i : Nat) : Nat := Blk.base .link 0 + 0x100 + 8 * i
abbrev F.LINK_PORT_STATUS_STATE : Fld := ⟨2, 0⟩
abbrev F.LINK_PORT_STATUS_RATE : Fld := ⟨3, 3⟩
abbrev F.LINK_PORT_STATUS_VER : Fld := ⟨5, 4⟩
abbrev F.LINK_PORT_STATUS_REASON : Fld := ⟨7, 6⟩
abbrev F.LINK_PORT_STATUS_LATE : Fld := ⟨23, 8⟩
abbrev F.LINK_PORT_STATUS_DROPPED : Fld := ⟨39, 24⟩
abbrev F.LINK_PORT_STATUS_RETRIES : Fld := ⟨63, 40⟩
/-- Table 243. -/
abbrev R.HOST_LINK : Nat := Blk.base .host 0 + 0x8
abbrev F.HOST_LINK_SPEED : Fld := ⟨2, 0⟩
abbrev F.HOST_LINK_FLIT : Fld := ⟨3, 3⟩
abbrev F.HOST_LINK_WIDTH : Fld := ⟨8, 4⟩
/-- Table 253. -/
abbrev R.FUSE_STATUS : Nat := Blk.base .fuse 0 + 0x18
abbrev F.FUSE_STATUS_VOTED : Fld := ⟨0, 0⟩
abbrev F.FUSE_STATUS_DISAGREE : Fld := ⟨1, 1⟩
abbrev F.FUSE_STATUS_ACTIVE_SLOT : Fld := ⟨3, 2⟩
abbrev F.FUSE_STATUS_PENDING : Fld := ⟨4, 4⟩
abbrev F.FUSE_STATUS_CORRECTED : Fld := ⟨31, 16⟩
abbrev F.FUSE_STATUS_DIS_FIELD : Fld := ⟨39, 32⟩
/-- Table 254. -/
abbrev R.FUSE_LAYOUT : Nat := Blk.base .fuse 0 + 0x20
abbrev F.FUSE_LAYOUT_CODE : Fld := ⟨15, 0⟩
/-- Table 255. -/
abbrev R.FUSE_KEYS : Nat := Blk.base .fuse 0 + 0x28
abbrev F.FUSE_KEYS_BOOT_WRITTEN : Fld := ⟨3, 0⟩
abbrev F.FUSE_KEYS_BOOT_REVOKED : Fld := ⟨7, 4⟩
abbrev F.FUSE_KEYS_SIGN_WRITTEN : Fld := ⟨11, 8⟩
abbrev F.FUSE_KEYS_SIGN_REVOKED : Fld := ⟨15, 12⟩
abbrev F.FUSE_KEYS_SKEY_WRITTEN : Fld := ⟨19, 16⟩
abbrev F.FUSE_KEYS_SKEY_REVOKED : Fld := ⟨23, 20⟩
abbrev F.FUSE_KEYS_DEBUG_KEY : Fld := ⟨24, 24⟩
abbrev F.FUSE_KEYS_SVN : Fld := ⟨38, 32⟩
abbrev F.FUSE_KEYS_DEBUG : Fld := ⟨41, 40⟩
abbrev F.FUSE_KEYS_EXPORT : Fld := ⟨43, 42⟩
/-- Table 256. -/
abbrev R.FUSE_DOOR (i : Nat) : Nat := Blk.base .fuse 0 + 0x100 + 8 * i
abbrev F.FUSE_DOOR_DOOR : Fld := ⟨63, 0⟩
/-- Table 257. -/
abbrev R.SEC_NONCE (i : Nat) : Nat := Blk.base .sec 0 + 0x0 + 8 * i
abbrev F.SEC_NONCE_NONCE : Fld := ⟨63, 0⟩
/-- Table 258. -/
abbrev R.SEC_CMD : Nat := Blk.base .sec 0 + 0x10
abbrev F.SEC_CMD_OP : Fld := ⟨1, 0⟩
abbrev F.SEC_CMD_GO : Fld := ⟨2, 2⟩
abbrev F.SEC_CMD_BUSY : Fld := ⟨3, 3⟩
abbrev F.SEC_CMD_STATUS : Fld := ⟨7, 4⟩
abbrev F.SEC_CMD_SLOT : Fld := ⟨15, 8⟩
/-- Table 259. -/
abbrev R.SEC_CMD_ADDR : Nat := Blk.base .sec 0 + 0x18
abbrev F.SEC_CMD_ADDR_ADDR : Fld := ⟨47, 6⟩
/-- Table 260. -/
abbrev R.SEC_DEBUG : Nat := Blk.base .sec 0 + 0x20
abbrev F.SEC_DEBUG_GRANTS : Fld := ⟨3, 0⟩
abbrev F.SEC_DEBUG_ZEROISED : Fld := ⟨4, 4⟩
/-- Table 261. -/
abbrev R.SEC_BBK_VALID (i : Nat) : Nat := Blk.base .sec 0 + 0x40 + 8 * i
abbrev F.SEC_BBK_VALID_VALID : Fld := ⟨63, 0⟩
/-- Table 262. -/
abbrev R.SEC_KEY_GRANT (i : Nat) : Nat := Blk.base .sec 0 + 0x1000 + 8 * i
abbrev F.SEC_KEY_GRANT_PARTS : Fld := ⟨63, 0⟩
/-- Table 271. -/
abbrev R.BOOT_STATUS : Nat := Blk.base .evt 0 + 0x40
abbrev F.BOOT_STATUS_STAGE : Fld := ⟨3, 0⟩
abbrev F.BOOT_STATUS_PATH : Fld := ⟨4, 4⟩
abbrev F.BOOT_STATUS_SAFE_CAUSE : Fld := ⟨11, 8⟩
abbrev F.BOOT_STATUS_LAST_MS : Fld := ⟨47, 32⟩
/-- Table 272. -/
abbrev R.BOOT_CTRL : Nat := Blk.base .evt 0 + 0x48
abbrev F.BOOT_CTRL_PERST_COLD : Fld := ⟨0, 0⟩
/-- Table 273. -/
abbrev R.RESET_CMD : Nat := Blk.base .evt 0 + 0x50
abbrev F.RESET_CMD_LEVEL : Fld := ⟨2, 0⟩
abbrev F.RESET_CMD_TARGET : Fld := ⟨15, 4⟩
abbrev F.RESET_CMD_GO : Fld := ⟨16, 16⟩
abbrev F.RESET_CMD_BUSY : Fld := ⟨17, 17⟩
abbrev F.RESET_CMD_STATUS : Fld := ⟨19, 18⟩
/-- Table 274. -/
abbrev R.BOOT_DIE (i : Nat) : Nat := Blk.base .evt 0 + 0x80 + 8 * i
abbrev F.BOOT_DIE_CLU_FAIL : Fld := ⟨31, 0⟩
abbrev F.BOOT_DIE_LOGIC_FAIL : Fld := ⟨32, 32⟩
abbrev F.BOOT_DIE_D2D_FAIL : Fld := ⟨33, 33⟩
abbrev F.BOOT_DIE_SLOT_FAILS : Fld := ⟨49, 40⟩
/-- Table 275. -/
abbrev R.BOOT_CFW (i : Nat) : Nat := Blk.base .evt 0 + 0xD0 + 8 * i
abbrev F.BOOT_CFW_LEN_4K : Fld := ⟨4, 0⟩
abbrev F.BOOT_CFW_ADDR : Fld := ⟨47, 12⟩
/-- Table 281. -/
abbrev R.PWR_STATE : Nat := Blk.base .pwr 0 + 0x0
abbrev F.PWR_STATE_SUPPLY : Fld := ⟨1, 0⟩
abbrev F.PWR_STATE_CAPPING : Fld := ⟨2, 2⟩
abbrev F.PWR_STATE_THERMAL : Fld := ⟨3, 3⟩
abbrev F.PWR_STATE_LOW_EVENTS : Fld := ⟨31, 16⟩
/-- Table 282. -/
abbrev R.PWR_INPUT : Nat := Blk.base .pwr 0 + 0x8
abbrev F.PWR_INPUT_MAIN_10MV : Fld := ⟨15, 0⟩
abbrev F.PWR_INPUT_AUX_10MV : Fld := ⟨31, 16⟩
abbrev F.PWR_INPUT_POWER_W : Fld := ⟨47, 32⟩
abbrev F.PWR_INPUT_CAP_W : Fld := ⟨63, 48⟩
/-- Table 283. -/
abbrev R.PWR_CLK (i : Nat) : Nat := Blk.base .pwr 0 + 0x40 + 8 * i
abbrev F.PWR_CLK_TARGET_MHZ : Fld := ⟨10, 0⟩
abbrev F.PWR_CLK_EST_W : Fld := ⟨31, 16⟩
abbrev F.PWR_CLK_HOLD_FC : Fld := ⟨47, 32⟩
abbrev F.PWR_CLK_STRETCH : Fld := ⟨63, 48⟩
/-- Table 284. -/
abbrev R.PWR_HOLDUP_CFG : Nat := Blk.base .pwr 0 + 0x10
abbrev F.PWR_HOLDUP_CFG_CAP_MF : Fld := ⟨15, 0⟩
/-- Table 285. -/
abbrev R.PWR_HOLDUP : Nat := Blk.base .pwr 0 + 0x18
abbrev F.PWR_HOLDUP_BANK_10MV : Fld := ⟨15, 0⟩
abbrev F.PWR_HOLDUP_AVAIL_MJ : Fld := ⟨31, 16⟩
abbrev F.PWR_HOLDUP_NV_LAST : Fld := ⟨33, 32⟩
abbrev F.PWR_HOLDUP_NV_PENDING : Fld := ⟨37, 34⟩

/-- The registers of the FUSE block. -/
def regs_fuse : List RegDesc := [
  -- CAP_UNITS, Table 2
  ⟨.fuse, 0x0, [], .coldReset,
   [⟨⟨0, 0⟩, .ro, 0, false⟩, ⟨⟨1, 1⟩, .ro, 0, false⟩, ⟨⟨2, 2⟩, .ro, 0, false⟩, ⟨⟨3, 3⟩, .ro, 0, false⟩, ⟨⟨4, 4⟩, .ro, 0, true⟩, ⟨⟨5, 5⟩, .ro, 0, true⟩, ⟨⟨15, 8⟩, .ro, 0, true⟩, ⟨⟨31, 16⟩, .ro, 0, true⟩]⟩,
  -- CAP_COUNTS, Table 3
  ⟨.fuse, 0x8, [], .coldReset,
   [⟨⟨12, 0⟩, .ro, 0, true⟩, ⟨⟨22, 16⟩, .ro, 0, true⟩, ⟨⟨30, 24⟩, .ro, 0, false⟩, ⟨⟨40, 32⟩, .ro, 0, true⟩, ⟨⟨56, 48⟩, .ro, 0, true⟩]⟩,
  -- WV_VERSIONS, Table 34
  ⟨.fuse, 0x10, [], .coldReset,
   [⟨⟨7, 0⟩, .ro, 7, false⟩, ⟨⟨15, 8⟩, .ro, 0, false⟩]⟩,
  -- FUSE_STATUS, Table 253
  ⟨.fuse, 0x18, [], .coldReset,
   [⟨⟨0, 0⟩, .ro, 0, false⟩, ⟨⟨1, 1⟩, .ro, 0, false⟩, ⟨⟨3, 2⟩, .ro, 0, true⟩, ⟨⟨4, 4⟩, .ro, 0, false⟩, ⟨⟨31, 16⟩, .ro, 0, false⟩, ⟨⟨39, 32⟩, .ro, 0, false⟩]⟩,
  -- FUSE_LAYOUT, Table 254
  ⟨.fuse, 0x20, [], .coldReset,
   [⟨⟨15, 0⟩, .ro, 0, true⟩]⟩,
  -- FUSE_KEYS, Table 255
  ⟨.fuse, 0x28, [], .coldReset,
   [⟨⟨3, 0⟩, .ro, 0, true⟩, ⟨⟨7, 4⟩, .ro, 0, true⟩, ⟨⟨11, 8⟩, .ro, 0, true⟩, ⟨⟨15, 12⟩, .ro, 0, true⟩, ⟨⟨19, 16⟩, .ro, 0, true⟩, ⟨⟨23, 20⟩, .ro, 0, true⟩, ⟨⟨24, 24⟩, .ro, 0, true⟩, ⟨⟨38, 32⟩, .ro, 0, true⟩, ⟨⟨41, 40⟩, .ro, 0, true⟩, ⟨⟨43, 42⟩, .ro, 0, true⟩]⟩,
  -- FUSE_DOOR, Table 256
  ⟨.fuse, 0x100, [(8, 64)], .coldReset,
   [⟨⟨63, 0⟩, .ro, 0, true⟩]⟩]

/-- The registers of the part block. -/
def regs_part : List RegDesc := [
  -- PART_CAP_UNITS, Table 2
  ⟨.part, 0x0, [], .coldReset,
   [⟨⟨0, 0⟩, .ro, 0, false⟩, ⟨⟨1, 1⟩, .ro, 0, false⟩, ⟨⟨2, 2⟩, .ro, 0, false⟩, ⟨⟨3, 3⟩, .ro, 0, false⟩, ⟨⟨4, 4⟩, .ro, 0, true⟩, ⟨⟨5, 5⟩, .ro, 0, true⟩, ⟨⟨15, 8⟩, .ro, 0, true⟩, ⟨⟨31, 16⟩, .ro, 0, true⟩]⟩,
  -- PART_CAP_COUNTS, Table 3
  ⟨.part, 0x8, [], .coldReset,
   [⟨⟨12, 0⟩, .ro, 0, true⟩, ⟨⟨22, 16⟩, .ro, 0, true⟩, ⟨⟨30, 24⟩, .ro, 0, false⟩, ⟨⟨40, 32⟩, .ro, 0, true⟩, ⟨⟨56, 48⟩, .ro, 0, true⟩]⟩,
  -- PART_WV_VERSIONS, Table 34
  ⟨.part, 0x10, [], .coldReset,
   [⟨⟨7, 0⟩, .ro, 7, false⟩, ⟨⟨15, 8⟩, .ro, 0, false⟩]⟩,
  -- WV_LOAD_STATUS, Table 41
  ⟨.part, 0x100, [], .partReset,
   [⟨⟨3, 0⟩, .ro, 0, false⟩, ⟨⟨31, 16⟩, .ro, 0, false⟩, ⟨⟨63, 32⟩, .ro, 0, false⟩]⟩,
  -- WV_LOAD_ID, Table 42
  ⟨.part, 0x108, [], .partReset,
   [⟨⟨63, 0⟩, .ro, 0, false⟩]⟩,
  -- SECT_STATUS, Table 47
  ⟨.part, 0x110, [], .partReset,
   [⟨⟨3, 0⟩, .ro, 0, false⟩, ⟨⟨28, 16⟩, .ro, 0, false⟩, ⟨⟨47, 32⟩, .ro, 0, false⟩, ⟨⟨55, 48⟩, .rc, 0, false⟩]⟩,
  -- SECT_RUN_ID, Table 48
  ⟨.part, 0x118, [], .partReset,
   [⟨⟨63, 0⟩, .ro, 0, false⟩]⟩,
  -- SECT_TEAM, Table 49
  ⟨.part, 0x120, [], .partReset,
   [⟨⟨5, 0⟩, .rw, 0, false⟩, ⟨⟨14, 8⟩, .rw, 1, false⟩, ⟨⟨21, 16⟩, .rw, 0, false⟩]⟩,
  -- SECT_FAULT, Table 50
  ⟨.part, 0x128, [], .partReset,
   [⟨⟨11, 0⟩, .ro, 0, false⟩, ⟨⟨15, 12⟩, .ro, 0, false⟩, ⟨⟨31, 16⟩, .ro, 0, false⟩, ⟨⟨53, 32⟩, .ro, 0, false⟩, ⟨⟨54, 54⟩, .ro, 0, false⟩]⟩,
  -- SECT_BIV_AREA, Table 51
  ⟨.part, 0x130, [], .partReset,
   [⟨⟨38, 16⟩, .rw, 0, false⟩, ⟨⟨62, 40⟩, .rw, 0, false⟩]⟩,
  -- PART_GRANT, Table 119
  ⟨.part, 0x200, [(8, 16)], .partReset,
   [⟨⟨0, 0⟩, .rw, 0, false⟩, ⟨⟨1, 1⟩, .rw, 0, false⟩, ⟨⟨34, 8⟩, .rw, 0, false⟩, ⟨⟨62, 36⟩, .rw, 0, false⟩]⟩,
  -- PART_BAR_MASK, Table 156
  ⟨.part, 0x300, [(8, 16)], .partReset,
   [⟨⟨63, 0⟩, .ro, 0, false⟩]⟩,
  -- PART_BAR_STATE, Table 157
  ⟨.part, 0x380, [(8, 16)], .partReset,
   [⟨⟨0, 0⟩, .ro, 0, false⟩, ⟨⟨1, 1⟩, .ro, 0, false⟩, ⟨⟨2, 2⟩, .ro, 0, false⟩, ⟨⟨3, 3⟩, .ro, 0, false⟩, ⟨⟨9, 4⟩, .ro, 0, false⟩, ⟨⟨47, 16⟩, .ro, 0, false⟩]⟩,
  -- PART_ADM_STATUS, Table 171
  ⟨.part, 0x400, [], .partReset,
   [⟨⟨6, 0⟩, .ro, 0, false⟩, ⟨⟨10, 8⟩, .ro, 0, false⟩, ⟨⟨16, 12⟩, .ro, 0, false⟩, ⟨⟨19, 17⟩, .ro, 0, false⟩, ⟨⟨20, 20⟩, .ro, 0, false⟩, ⟨⟨21, 21⟩, .ro, 0, false⟩, ⟨⟨22, 22⟩, .ro, 0, false⟩]⟩,
  -- PART_ADM_CUTOVER, Table 172
  ⟨.part, 0x408, [], .partReset,
   [⟨⟨63, 0⟩, .ro, 0, false⟩]⟩,
  -- PART_EVT_HEAD, Table 191
  ⟨.part, 0x500, [], .partReset,
   [⟨⟨8, 0⟩, .ro, 0, false⟩, ⟨⟨31, 16⟩, .rc, 0, false⟩]⟩,
  -- PART_EVT_TAIL, Table 192
  ⟨.part, 0x508, [], .partReset,
   [⟨⟨8, 0⟩, .rw, 0, false⟩]⟩,
  -- PART_FOCIA_VER, Table 227
  ⟨.part, 0x600, [], .flr,
   [⟨⟨7, 0⟩, .rw, 0, false⟩, ⟨⟨15, 8⟩, .rw, 0, false⟩, ⟨⟨23, 16⟩, .ro, 0, false⟩, ⟨⟨24, 24⟩, .w1c, 0, false⟩]⟩]

/-- The registers of the cluster block. -/
def regs_cluster : List RegDesc := [
  -- CLU_SLOT_MAP, Table 12
  ⟨.cluster, 0x0, [], .coldReset,
   [⟨⟨4, 0⟩, .rw, 0, true⟩, ⟨⟨5, 5⟩, .rw, 0, true⟩, ⟨⟨31, 16⟩, .rw, 0, true⟩, ⟨⟨47, 32⟩, .ro, 0, true⟩]⟩,
  -- CLU_SFU_SUBMIT, Table 99
  ⟨.cluster, 0x100, [(8, 2)], .clusterReset,
   [⟨⟨47, 6⟩, .wo, 0, false⟩]⟩,
  -- CLU_SFU_STATUS, Table 100
  ⟨.cluster, 0x110, [(8, 2)], .clusterReset,
   [⟨⟨3, 0⟩, .ro, 0, false⟩, ⟨⟨4, 4⟩, .ro, 0, false⟩, ⟨⟨5, 5⟩, .w1c, 0, false⟩, ⟨⟨28, 16⟩, .w1c, 0, false⟩]⟩,
  -- CLU_XBAR_WHEEL, Table 113
  ⟨.cluster, 0x200, [(64, 4), (8, 8)], .clusterReset,
   [⟨⟨4, 0⟩, .ro, 31, false⟩, ⟨⟨12, 8⟩, .ro, 31, false⟩, ⟨⟨20, 16⟩, .ro, 31, false⟩, ⟨⟨28, 24⟩, .ro, 31, false⟩, ⟨⟨36, 32⟩, .ro, 31, false⟩, ⟨⟨44, 40⟩, .ro, 31, false⟩, ⟨⟨52, 48⟩, .ro, 31, false⟩, ⟨⟨60, 56⟩, .ro, 31, false⟩]⟩,
  -- CLU_XBAR_STAT, Table 114
  ⟨.cluster, 0x300, [(8, 4)], .clusterReset,
   [⟨⟨31, 0⟩, .rc, 0, false⟩, ⟨⟨63, 32⟩, .rc, 0, false⟩]⟩,
  -- CLU_JOB_TENANT, Table 120
  ⟨.cluster, 0x400, [(8, 8)], .clusterReset,
   [⟨⟨11, 0⟩, .ro, 0, false⟩, ⟨⟨13, 12⟩, .ro, 0, false⟩, ⟨⟨14, 14⟩, .ro, 0, false⟩]⟩,
  -- CLU_RTR_STATUS, Table 137
  ⟨.cluster, 0x500, [], .clusterReset,
   [⟨⟨0, 0⟩, .ro, 0, false⟩, ⟨⟨1, 1⟩, .ro, 0, false⟩, ⟨⟨6, 4⟩, .ro, 0, false⟩, ⟨⟨7, 7⟩, .ro, 1, false⟩, ⟨⟨15, 8⟩, .ro, 0, false⟩]⟩,
  -- CLU_RTR_FENCE, Table 138
  ⟨.cluster, 0x508, [], .clusterReset,
   [⟨⟨16, 0⟩, .ro, 0, false⟩]⟩,
  -- CLU_RTR_DROP, Table 139
  ⟨.cluster, 0x510, [], .clusterReset,
   [⟨⟨31, 0⟩, .rc, 0, false⟩, ⟨⟨63, 32⟩, .rc, 0, false⟩]⟩,
  -- CLU_RTR_LINK, Table 140
  ⟨.cluster, 0x520, [(8, 5)], .clusterReset,
   [⟨⟨23, 0⟩, .rc, 0, false⟩, ⟨⟨47, 24⟩, .rc, 0, false⟩, ⟨⟨63, 48⟩, .rc, 0, false⟩]⟩,
  -- CLU_ANCHOR_POISON, Table 153
  ⟨.cluster, 0x600, [(8, 2)], .warmReset,
   [⟨⟨63, 0⟩, .ro, 0, false⟩]⟩,
  -- CLU_ANCHOR_MON, Table 154
  ⟨.cluster, 0x610, [], .clusterReset,
   [⟨⟨5, 0⟩, .ro, 0, false⟩, ⟨⟨31, 16⟩, .rc, 0, false⟩, ⟨⟨63, 32⟩, .rc, 0, false⟩]⟩,
  -- CLU_CTL_STATUS, Table 182
  ⟨.cluster, 0x700, [], .clusterReset,
   [⟨⟨2, 0⟩, .ro, 0, false⟩, ⟨⟨15, 8⟩, .ro, 0, false⟩, ⟨⟨49, 32⟩, .ro, 0, false⟩]⟩,
  -- CLU_CTL_IRQ, Table 183
  ⟨.cluster, 0x708, [], .clusterReset,
   [⟨⟨0, 0⟩, .ro, 0, false⟩, ⟨⟨1, 1⟩, .ro, 0, false⟩, ⟨⟨2, 2⟩, .w1c, 0, false⟩, ⟨⟨10, 8⟩, .rw, 0, false⟩]⟩,
  -- CLU_DMA_SUBMIT, Table 184
  ⟨.cluster, 0x800, [], .clusterReset,
   [⟨⟨47, 6⟩, .wo, 0, false⟩]⟩,
  -- CLU_DMA_STATUS, Table 185
  ⟨.cluster, 0x808, [], .clusterReset,
   [⟨⟨4, 0⟩, .ro, 0, false⟩, ⟨⟨5, 5⟩, .w1c, 0, false⟩, ⟨⟨24, 16⟩, .ro, 0, false⟩, ⟨⟨47, 32⟩, .rc, 0, false⟩]⟩,
  -- CLU_JOB_SUSPECT, Table 199
  ⟨.cluster, 0xA00, [(8, 8)], .clusterReset,
   [⟨⟨0, 0⟩, .ro, 0, false⟩, ⟨⟨1, 1⟩, .ro, 0, false⟩, ⟨⟨2, 2⟩, .ro, 0, false⟩, ⟨⟨3, 3⟩, .ro, 0, false⟩, ⟨⟨4, 4⟩, .ro, 0, false⟩, ⟨⟨11, 8⟩, .ro, 0, false⟩, ⟨⟨12, 12⟩, .ro, 0, false⟩]⟩,
  -- CLU_SLOT_ERR, Table 207
  ⟨.cluster, 0x900, [(8, 17)], .coldReset,
   [⟨⟨15, 0⟩, .ro, 0, false⟩, ⟨⟨19, 16⟩, .ro, 0, false⟩, ⟨⟨23, 20⟩, .ro, 0, false⟩, ⟨⟨24, 24⟩, .ro, 0, false⟩, ⟨⟨25, 25⟩, .ro, 0, false⟩]⟩,
  -- CLU_UPD_SUBMIT, Table 221
  ⟨.cluster, 0xB00, [], .clusterReset,
   [⟨⟨47, 8⟩, .wo, 0, false⟩]⟩,
  -- CLU_UPD_STATUS, Table 222
  ⟨.cluster, 0xB08, [], .clusterReset,
   [⟨⟨3, 0⟩, .ro, 0, false⟩, ⟨⟨4, 4⟩, .ro, 0, false⟩, ⟨⟨5, 5⟩, .w1c, 0, false⟩, ⟨⟨22, 16⟩, .ro, 0, false⟩, ⟨⟨44, 32⟩, .w1c, 0, false⟩]⟩]

/-- The registers of the TIME block. -/
def regs_time : List RegDesc := [
  -- TIME_STATE, Table 23
  ⟨.time, 0x0, [], .auxPower,
   [⟨⟨2, 0⟩, .ro, 0, false⟩, ⟨⟨3, 3⟩, .ro, 0, false⟩, ⟨⟨11, 4⟩, .ro, 0, false⟩, ⟨⟨39, 16⟩, .ro, 0, false⟩, ⟨⟨40, 40⟩, .ro, 0, false⟩]⟩,
  -- TIME_COUNT, Table 24
  ⟨.time, 0x8, [], .auxPower,
   [⟨⟨63, 0⟩, .ro, 0, false⟩]⟩,
  -- TIME_NOW, Table 25
  ⟨.time, 0x10, [], .auxPower,
   [⟨⟨9, 0⟩, .ro, 0, false⟩, ⟨⟨63, 10⟩, .ro, 0, false⟩]⟩,
  -- TIME_CTRL, Table 26
  ⟨.time, 0x18, [], .auxPower,
   [⟨⟨0, 0⟩, .wo, 0, false⟩]⟩,
  -- PITCH_CFG, Table 27
  ⟨.time, 0x20, [], .auxPower,
   [⟨⟨12, 0⟩, .rw, 100, false⟩, ⟨⟨27, 16⟩, .rw, 0, false⟩, ⟨⟨32, 32⟩, .w1c, 0, false⟩, ⟨⟨33, 33⟩, .ro, 0, false⟩]⟩,
  -- PITCH_NOW, Table 28
  ⟨.time, 0x28, [], .auxPower,
   [⟨⟨51, 0⟩, .ro, 0, false⟩, ⟨⟨63, 52⟩, .ro, 0, false⟩]⟩,
  -- TIME_ERR, Table 29
  ⟨.time, 0x30, [], .auxPower,
   [⟨⟨15, 0⟩, .rc, 0, false⟩, ⟨⟨31, 16⟩, .rc, 0, false⟩, ⟨⟨47, 32⟩, .rc, 0, false⟩, ⟨⟨55, 48⟩, .rc, 0, false⟩]⟩,
  -- FLOOR_MON, Table 30
  ⟨.time, 0x40, [(8, 8)], .auxPower,
   [⟨⟨15, 0⟩, .ro, 0, false⟩, ⟨⟨31, 16⟩, .rc, 65535, false⟩, ⟨⟨47, 32⟩, .rc, 0, false⟩, ⟨⟨48, 48⟩, .ro, 0, false⟩]⟩]

/-- The registers of the cell block. -/
def regs_cell : List RegDesc := [
  -- CELL_SEQ_STATUS, Table 64
  ⟨.cell, 0x0, [], .cellReset,
   [⟨⟨2, 0⟩, .ro, 0, false⟩, ⟨⟨3, 3⟩, .ro, 0, false⟩, ⟨⟨6, 4⟩, .ro, 0, false⟩, ⟨⟨20, 8⟩, .ro, 0, false⟩, ⟨⟨23, 21⟩, .ro, 0, false⟩, ⟨⟨26, 24⟩, .ro, 0, false⟩, ⟨⟨27, 27⟩, .ro, 0, false⟩]⟩,
  -- CELL_SEQ_FAULT, Table 65
  ⟨.cell, 0x8, [], .cellReset,
   [⟨⟨15, 0⟩, .ro, 0, false⟩, ⟨⟨28, 16⟩, .ro, 0, false⟩, ⟨⟨31, 29⟩, .ro, 0, false⟩, ⟨⟨39, 32⟩, .ro, 0, false⟩]⟩,
  -- CELL_ACC_STATE, Table 66
  ⟨.cell, 0x20, [(8, 4)], .cellReset,
   [⟨⟨19, 0⟩, .ro, 0, false⟩, ⟨⟨20, 20⟩, .ro, 0, false⟩, ⟨⟨22, 21⟩, .ro, 0, false⟩, ⟨⟨44, 32⟩, .ro, 0, false⟩]⟩,
  -- CELL_CNT_CTRL, Table 67
  ⟨.cell, 0x18, [], .cellReset,
   [⟨⟨0, 0⟩, .rw, 0, false⟩, ⟨⟨1, 1⟩, .wo, 0, false⟩]⟩,
  -- CELL_CNT, Table 68
  ⟨.cell, 0x40, [(8, 8)], .cellReset,
   [⟨⟨63, 0⟩, .ro, 0, false⟩]⟩,
  -- CELL_ACC_FLAGS, Table 78
  ⟨.cell, 0x80, [(8, 4)], .cellReset,
   [⟨⟨0, 0⟩, .ro, 0, false⟩, ⟨⟨1, 1⟩, .ro, 0, false⟩, ⟨⟨2, 2⟩, .ro, 0, false⟩, ⟨⟨3, 3⟩, .ro, 0, false⟩, ⟨⟨4, 4⟩, .ro, 0, false⟩, ⟨⟨5, 5⟩, .ro, 0, false⟩, ⟨⟨8, 8⟩, .ro, 0, false⟩, ⟨⟨9, 9⟩, .ro, 0, false⟩, ⟨⟨10, 10⟩, .ro, 0, false⟩, ⟨⟨11, 11⟩, .ro, 0, false⟩, ⟨⟨12, 12⟩, .ro, 0, false⟩]⟩,
  -- CELL_TREG_STATE, Table 81
  ⟨.cell, 0xA0, [], .cellReset,
   [⟨⟨15, 0⟩, .ro, 0, false⟩, ⟨⟨31, 16⟩, .ro, 0, false⟩, ⟨⟨35, 32⟩, .ro, 0, false⟩]⟩,
  -- CELL_TREG_CTRL, Table 82
  ⟨.cell, 0xA8, [], .cellReset,
   [⟨⟨0, 0⟩, .rw, 0, false⟩]⟩,
  -- CELL_TREG_FLAGS, Table 83
  ⟨.cell, 0x100, [(8, 16)], .cellReset,
   [⟨⟨12, 0⟩, .ro, 0, false⟩]⟩,
  -- CELL_VE_STATUS, Table 93
  ⟨.cell, 0xB0, [], .cellReset,
   [⟨⟨0, 0⟩, .ro, 0, false⟩, ⟨⟨1, 1⟩, .ro, 0, false⟩, ⟨⟨28, 16⟩, .ro, 0, false⟩, ⟨⟨47, 32⟩, .ro, 0, false⟩, ⟨⟨50, 48⟩, .ro, 0, false⟩]⟩,
  -- CELL_VE_FLAGS, Table 94
  ⟨.cell, 0xB8, [], .cellReset,
   [⟨⟨12, 0⟩, .w1c, 0, false⟩]⟩,
  -- CELL_VE_LAST, Table 95
  ⟨.cell, 0xC0, [], .cellReset,
   [⟨⟨12, 0⟩, .ro, 0, false⟩]⟩,
  -- CELL_SP_CONFLICT, Table 105
  ⟨.cell, 0x200, [(8, 8)], .cellReset,
   [⟨⟨31, 0⟩, .rc, 0, false⟩]⟩,
  -- CELL_SP_HIST, Table 106
  ⟨.cell, 0x280, [(8, 8)], .cellReset,
   [⟨⟨31, 0⟩, .rc, 0, false⟩]⟩,
  -- CELL_SP_HIST_CTRL, Table 107
  ⟨.cell, 0x240, [], .cellReset,
   [⟨⟨7, 0⟩, .rw, 0, false⟩, ⟨⟨8, 8⟩, .rw, 0, false⟩, ⟨⟨28, 16⟩, .rw, 0, false⟩, ⟨⟨44, 32⟩, .rw, 8191, false⟩]⟩,
  -- CELL_BELAY_TX, Table 108
  ⟨.cell, 0x300, [(8, 4)], .cellReset,
   [⟨⟨0, 0⟩, .ro, 0, false⟩, ⟨⟨1, 1⟩, .ro, 0, false⟩, ⟨⟨2, 2⟩, .ro, 0, false⟩, ⟨⟨3, 3⟩, .ro, 0, false⟩, ⟨⟨10, 4⟩, .ro, 0, false⟩, ⟨⟨31, 18⟩, .ro, 0, false⟩]⟩,
  -- CELL_BELAY_CRED, Table 109
  ⟨.cell, 0x320, [(8, 4)], .cellReset,
   [⟨⟨63, 0⟩, .ro, 0, false⟩]⟩,
  -- CELL_BELAY_FULL, Table 110
  ⟨.cell, 0x340, [(8, 4)], .cellReset,
   [⟨⟨63, 0⟩, .ro, 0, false⟩]⟩,
  -- CELL_BELAY_RX, Table 111
  ⟨.cell, 0x360, [(8, 4)], .cellReset,
   [⟨⟨0, 0⟩, .ro, 0, false⟩, ⟨⟨1, 1⟩, .ro, 0, false⟩, ⟨⟨63, 32⟩, .rc, 0, false⟩]⟩,
  -- LEAD_STATUS, Table 125
  ⟨.cell, 0x400, [], .cellReset,
   [⟨⟨6, 0⟩, .ro, 0, false⟩, ⟨⟨14, 8⟩, .ro, 0, false⟩, ⟨⟨15, 15⟩, .ro, 0, false⟩, ⟨⟨19, 16⟩, .ro, 0, false⟩, ⟨⟨23, 20⟩, .ro, 0, false⟩, ⟨⟨47, 32⟩, .rc, 0, false⟩, ⟨⟨63, 48⟩, .rc, 0, false⟩]⟩,
  -- LEAD_HAUL, Table 126
  ⟨.cell, 0x408, [], .cellReset,
   [⟨⟨6, 0⟩, .ro, 0, false⟩, ⟨⟨7, 7⟩, .ro, 0, false⟩, ⟨⟨14, 8⟩, .ro, 0, false⟩, ⟨⟨15, 15⟩, .ro, 0, false⟩, ⟨⟨23, 16⟩, .ro, 0, false⟩, ⟨⟨31, 24⟩, .rc, 0, false⟩]⟩,
  -- LEAD_BASE, Table 127
  ⟨.cell, 0x410, [(8, 4)], .cellReset,
   [⟨⟨47, 0⟩, .ro, 0, false⟩]⟩,
  -- CH_OCC, Table 144
  ⟨.cell, 0x500, [(8, 8)], .cellReset,
   [⟨⟨2, 0⟩, .ro, 0, false⟩, ⟨⟨3, 3⟩, .ro, 0, false⟩, ⟨⟨4, 4⟩, .ro, 0, false⟩, ⟨⟨5, 5⟩, .ro, 0, false⟩, ⟨⟨27, 16⟩, .ro, 0, false⟩, ⟨⟨30, 28⟩, .ro, 0, false⟩]⟩,
  -- CH_OUT, Table 145
  ⟨.cell, 0x540, [(8, 8)], .cellReset,
   [⟨⟨2, 0⟩, .ro, 0, false⟩, ⟨⟨4, 4⟩, .ro, 0, false⟩, ⟨⟨5, 5⟩, .ro, 0, false⟩, ⟨⟨27, 16⟩, .ro, 0, false⟩, ⟨⟨30, 28⟩, .ro, 0, false⟩]⟩,
  -- CH_HEAD_LO, Table 146
  ⟨.cell, 0x580, [(8, 8)], .cellReset,
   [⟨⟨63, 0⟩, .ro, 0, false⟩]⟩,
  -- CH_HEAD_HI, Table 147
  ⟨.cell, 0x5C0, [(8, 8)], .cellReset,
   [⟨⟨63, 0⟩, .ro, 0, false⟩]⟩,
  -- CH_IN_CNT, Table 148
  ⟨.cell, 0x600, [(8, 8)], .cellReset,
   [⟨⟨31, 0⟩, .rc, 0, false⟩, ⟨⟨63, 32⟩, .rc, 0, false⟩]⟩,
  -- CH_OUT_CNT, Table 149
  ⟨.cell, 0x640, [(8, 8)], .cellReset,
   [⟨⟨31, 0⟩, .rc, 0, false⟩, ⟨⟨63, 32⟩, .rc, 0, false⟩]⟩,
  -- CELL_EPOCH, Table 150
  ⟨.cell, 0x680, [], .cellReset,
   [⟨⟨7, 0⟩, .ro, 0, false⟩]⟩,
  -- CELL_SHADOW_CNT, Table 196
  ⟨.cell, 0x700, [], .cellReset,
   [⟨⟨15, 0⟩, .rc, 0, false⟩, ⟨⟨31, 16⟩, .rc, 0, false⟩, ⟨⟨47, 32⟩, .rc, 0, false⟩, ⟨⟨63, 48⟩, .rc, 0, false⟩]⟩]

/-- The registers of the HBM block. -/
def regs_hbm : List RegDesc := [
  -- NT_STACK_STATUS, Table 116
  ⟨.hbm, 0x0, [(8, 8)], .warmReset,
   [⟨⟨1, 0⟩, .ro, 0, false⟩, ⟨⟨31, 16⟩, .rc, 0, false⟩, ⟨⟨47, 32⟩, .rc, 0, false⟩]⟩,
  -- NT_PT_BASE, Table 122
  ⟨.hbm, 0x40, [], .warmReset,
   [⟨⟨0, 0⟩, .rw, 0, false⟩, ⟨⟨47, 15⟩, .rw, 0, false⟩]⟩,
  -- NT_TLB_INV, Table 123
  ⟨.hbm, 0x48, [], .warmReset,
   [⟨⟨11, 0⟩, .rw, 0, false⟩, ⟨⟨12, 12⟩, .rw, 0, false⟩, ⟨⟨13, 13⟩, .wo, 0, false⟩, ⟨⟨14, 14⟩, .ro, 0, false⟩]⟩,
  -- UPD_SEAL, Table 216
  ⟨.hbm, 0x100, [(8, 8)], .warmReset,
   [⟨⟨0, 0⟩, .rw, 0, false⟩, ⟨⟨34, 8⟩, .rw, 0, false⟩, ⟨⟨62, 36⟩, .rw, 0, false⟩, ⟨⟨63, 63⟩, .w1c, 0, false⟩]⟩,
  -- UPD_EXPORT_SRC, Table 218
  ⟨.hbm, 0x180, [], .warmReset,
   [⟨⟨47, 5⟩, .rw, 0, false⟩]⟩,
  -- UPD_EXPORT_DST, Table 219
  ⟨.hbm, 0x188, [], .warmReset,
   [⟨⟨47, 5⟩, .rw, 0, false⟩]⟩,
  -- UPD_EXPORT_CTRL, Table 220
  ⟨.hbm, 0x190, [], .warmReset,
   [⟨⟨0, 0⟩, .wo, 0, false⟩, ⟨⟨1, 1⟩, .rw, 0, false⟩, ⟨⟨2, 2⟩, .ro, 0, false⟩, ⟨⟨7, 4⟩, .ro, 0, false⟩]⟩]

/-- The registers of the CXL block. -/
def regs_cxl : List RegDesc := [
  -- CXL_PORT_STATUS, Table 117
  ⟨.cxl, 0x0, [(8, 8)], .warmReset,
   [⟨⟨2, 0⟩, .ro, 0, false⟩, ⟨⟨5, 4⟩, .ro, 0, false⟩, ⟨⟨7, 6⟩, .ro, 0, false⟩, ⟨⟨11, 8⟩, .ro, 0, false⟩, ⟨⟨27, 16⟩, .ro, 0, false⟩, ⟨⟨34, 32⟩, .ro, 0, false⟩, ⟨⟨63, 48⟩, .rc, 0, false⟩]⟩,
  -- CXL_MAP, Table 118
  ⟨.cxl, 0x40, [], .warmReset,
   [⟨⟨3, 0⟩, .ro, 0, false⟩, ⟨⟨15, 8⟩, .ro, 0, false⟩, ⟨⟨24, 16⟩, .ro, 0, false⟩, ⟨⟨43, 32⟩, .ro, 0, false⟩]⟩]

/-- The registers of the ADM block. -/
def regs_adm : List RegDesc := [
  -- ADM_CTRL, Table 165
  ⟨.adm, 0x0, [], .warmReset,
   [⟨⟨0, 0⟩, .rw, 0, false⟩, ⟨⟨2, 2⟩, .w1c, 0, false⟩, ⟨⟨31, 16⟩, .rw, 500, false⟩]⟩,
  -- ADM_STATUS, Table 166
  ⟨.adm, 0x8, [], .warmReset,
   [⟨⟨12, 0⟩, .ro, 0, false⟩, ⟨⟨31, 16⟩, .rc, 0, false⟩, ⟨⟨47, 32⟩, .rc, 0, false⟩, ⟨⟨63, 48⟩, .rc, 0, false⟩]⟩,
  -- ADM_TEAM_CHANGE, Table 167
  ⟨.adm, 0x10, [], .warmReset,
   [⟨⟨1, 0⟩, .wo, 0, false⟩, ⟨⟨13, 8⟩, .wo, 0, false⟩, ⟨⟨21, 16⟩, .wo, 0, false⟩, ⟨⟨29, 24⟩, .wo, 0, false⟩, ⟨⟨30, 30⟩, .wo, 0, false⟩]⟩,
  -- ADM_TEAM_CHANGE_STATUS, Table 168
  ⟨.adm, 0x18, [], .warmReset,
   [⟨⟨1, 0⟩, .ro, 0, false⟩, ⟨⟨15, 8⟩, .ro, 0, false⟩, ⟨⟨63, 16⟩, .ro, 0, false⟩]⟩,
  -- ADM_NT_SHARE, Table 169
  ⟨.adm, 0x100, [(8, 8)], .warmReset,
   [⟨⟨2, 0⟩, .rw, 0, false⟩, ⟨⟨5, 3⟩, .rw, 0, false⟩, ⟨⟨16, 8⟩, .rw, 256, false⟩, ⟨⟨17, 17⟩, .w1c, 0, false⟩]⟩,
  -- ADM_CXL_SHARE, Table 169
  ⟨.adm, 0x140, [(8, 8)], .warmReset,
   [⟨⟨2, 0⟩, .rw, 0, false⟩, ⟨⟨5, 3⟩, .rw, 0, false⟩, ⟨⟨16, 8⟩, .rw, 256, false⟩, ⟨⟨17, 17⟩, .w1c, 0, false⟩]⟩,
  -- ADM_TENANT, Table 170
  ⟨.adm, 0x10000, [(8, 4096)], .warmReset,
   [⟨⟨0, 0⟩, .rw, 0, false⟩, ⟨⟨6, 1⟩, .rw, 0, false⟩, ⟨⟨9, 8⟩, .rw, 0, false⟩, ⟨⟨31, 16⟩, .rw, 0, false⟩, ⟨⟨63, 32⟩, .rw, 0, false⟩]⟩]

/-- The registers of the EVT block. -/
def regs_evt : List RegDesc := [
  -- EVT_CORE_MSI, Table 181
  ⟨.evt, 0x4000, [(8, 16)], .warmReset,
   [⟨⟨7, 0⟩, .rw, 0, false⟩, ⟨⟨10, 8⟩, .rw, 0, false⟩, ⟨⟨15, 12⟩, .rw, 0, false⟩]⟩,
  -- EVT_LOG_HEAD, Table 189
  ⟨.evt, 0x0, [], .coldReset,
   [⟨⟨12, 0⟩, .ro, 0, false⟩, ⟨⟨31, 16⟩, .rc, 0, false⟩]⟩,
  -- EVT_LOG_TAIL, Table 190
  ⟨.evt, 0x8, [], .coldReset,
   [⟨⟨12, 0⟩, .rw, 0, false⟩]⟩,
  -- INTEG_REPL_CFG, Table 201
  ⟨.evt, 0x2000, [(64, 64)], .warmReset,
   [⟨⟨0, 0⟩, .rw, 0, false⟩, ⟨⟨1, 1⟩, .rw, 0, false⟩, ⟨⟨4, 2⟩, .rw, 0, false⟩, ⟨⟨5, 5⟩, .wo, 0, false⟩, ⟨⟨31, 16⟩, .rw, 0, false⟩, ⟨⟨63, 32⟩, .rw, 0, false⟩]⟩,
  -- INTEG_REPL_ADDR, Table 202
  ⟨.evt, 0x2008, [(64, 64), (8, 5)], .warmReset,
   [⟨⟨47, 6⟩, .rw, 0, false⟩]⟩,
  -- INTEG_REPL_ROOT, Table 203
  ⟨.evt, 0x2030, [(64, 64), (8, 2)], .warmReset,
   [⟨⟨63, 0⟩, .rw, 0, false⟩]⟩,
  -- INTEG_REPL_STAT, Table 204
  ⟨.evt, 0x3000, [(8, 64)], .warmReset,
   [⟨⟨1, 0⟩, .ro, 0, false⟩, ⟨⟨5, 2⟩, .ro, 0, false⟩, ⟨⟨63, 16⟩, .ro, 0, false⟩]⟩,
  -- INTEG_CTRL, Table 208
  ⟨.evt, 0x10, [], .warmReset,
   [⟨⟨0, 0⟩, .rw, 1, false⟩, ⟨⟨1, 1⟩, .rw, 1, false⟩, ⟨⟨12, 8⟩, .rw, 2, false⟩, ⟨⟨31, 16⟩, .rw, 10000, false⟩, ⟨⟨47, 32⟩, .rw, 256, false⟩, ⟨⟨51, 48⟩, .rw, 2, false⟩]⟩,
  -- INTEG_SCRUB, Table 209
  ⟨.evt, 0x18, [], .warmReset,
   [⟨⟨0, 0⟩, .rw, 1, false⟩, ⟨⟨47, 8⟩, .rw, 86400000000, false⟩]⟩,
  -- INTEG_CLASS_NT, Table 210
  ⟨.evt, 0x20, [], .warmReset,
   [⟨⟨0, 0⟩, .rw, 0, false⟩, ⟨⟨47, 21⟩, .rw, 0, false⟩]⟩,
  -- INTEG_SLOT_CMD, Table 211
  ⟨.evt, 0x28, [], .warmReset,
   [⟨⟨7, 0⟩, .rw, 0, false⟩, ⟨⟨12, 8⟩, .rw, 0, false⟩, ⟨⟨14, 13⟩, .rw, 0, false⟩, ⟨⟨15, 15⟩, .wo, 0, false⟩, ⟨⟨16, 16⟩, .ro, 0, false⟩, ⟨⟨17, 17⟩, .ro, 0, false⟩]⟩,
  -- BOOT_STATUS, Table 271
  ⟨.evt, 0x40, [], .warmReset,
   [⟨⟨3, 0⟩, .ro, 0, false⟩, ⟨⟨4, 4⟩, .ro, 0, false⟩, ⟨⟨11, 8⟩, .ro, 0, false⟩, ⟨⟨47, 32⟩, .ro, 0, false⟩]⟩,
  -- BOOT_CTRL, Table 272
  ⟨.evt, 0x48, [], .auxPower,
   [⟨⟨0, 0⟩, .rw, 0, false⟩]⟩,
  -- RESET_CMD, Table 273
  ⟨.evt, 0x50, [], .warmReset,
   [⟨⟨2, 0⟩, .rw, 0, false⟩, ⟨⟨15, 4⟩, .rw, 0, false⟩, ⟨⟨16, 16⟩, .wo, 0, false⟩, ⟨⟨17, 17⟩, .ro, 0, false⟩, ⟨⟨19, 18⟩, .ro, 0, false⟩]⟩,
  -- BOOT_DIE, Table 274
  ⟨.evt, 0x80, [(8, 9)], .coldReset,
   [⟨⟨31, 0⟩, .ro, 0, false⟩, ⟨⟨32, 32⟩, .ro, 0, false⟩, ⟨⟨33, 33⟩, .ro, 0, false⟩, ⟨⟨49, 40⟩, .ro, 0, false⟩]⟩,
  -- BOOT_CFW, Table 275
  ⟨.evt, 0xD0, [(8, 8)], .warmReset,
   [⟨⟨4, 0⟩, .rw, 0, false⟩, ⟨⟨47, 12⟩, .rw, 0, false⟩]⟩]

/-- The registers of the HOST block. -/
def regs_host : List RegDesc := [
  -- HOST_APERTURE, Table 225
  ⟨.host, 0x100, [(8, 8)], .warmReset,
   [⟨⟨0, 0⟩, .rw, 0, false⟩, ⟨⟨47, 33⟩, .rw, 0, false⟩]⟩,
  -- HOST_FOCIA_VER, Table 227
  ⟨.host, 0x0, [], .flr,
   [⟨⟨7, 0⟩, .rw, 0, false⟩, ⟨⟨15, 8⟩, .rw, 0, false⟩, ⟨⟨23, 16⟩, .ro, 0, false⟩, ⟨⟨24, 24⟩, .w1c, 0, false⟩]⟩,
  -- HOST_LINK, Table 243
  ⟨.host, 0x8, [], .warmReset,
   [⟨⟨2, 0⟩, .ro, 0, false⟩, ⟨⟨3, 3⟩, .ro, 0, false⟩, ⟨⟨8, 4⟩, .ro, 0, false⟩]⟩]

/-- The registers of the ring block. -/
def regs_ring : List RegDesc := [
  -- TR_SQ, Table 229
  ⟨.ring, 0x400, [], .flr,
   [⟨⟨3, 0⟩, .rw, 0, false⟩, ⟨⟨11, 8⟩, .ro, 0, false⟩]⟩,
  -- TR_CQ_BASE, Table 230
  ⟨.ring, 0x408, [], .flr,
   [⟨⟨63, 12⟩, .rw, 0, false⟩]⟩,
  -- TR_CQ_CFG, Table 231
  ⟨.ring, 0x410, [], .flr,
   [⟨⟨0, 0⟩, .rw, 0, false⟩, ⟨⟨7, 4⟩, .rw, 4, false⟩, ⟨⟨15, 8⟩, .rw, 255, false⟩, ⟨⟨27, 16⟩, .rw, 0, false⟩, ⟨⟨39, 28⟩, .ro, 0, false⟩]⟩,
  -- TR_STAT, Table 232
  ⟨.ring, 0x418, [], .flr,
   [⟨⟨15, 0⟩, .rc, 0, false⟩, ⟨⟨47, 16⟩, .rc, 0, false⟩]⟩]

/-- The registers of the LINK block. -/
def regs_link : List RegDesc := [
  -- LINK_CTRL, Table 240
  ⟨.link, 0x0, [], .warmReset,
   [⟨⟨15, 0⟩, .rw, 0, false⟩, ⟨⟨47, 17⟩, .rw, 0, false⟩]⟩,
  -- LINK_CMD, Table 241
  ⟨.link, 0x8, [], .warmReset,
   [⟨⟨2, 0⟩, .rw, 0, false⟩, ⟨⟨3, 3⟩, .wo, 0, false⟩, ⟨⟨4, 4⟩, .ro, 0, false⟩, ⟨⟨7, 5⟩, .ro, 0, false⟩, ⟨⟨19, 8⟩, .rw, 0, false⟩]⟩,
  -- LINK_PORT_STATUS, Table 242
  ⟨.link, 0x100, [(8, 16)], .warmReset,
   [⟨⟨2, 0⟩, .ro, 0, false⟩, ⟨⟨3, 3⟩, .ro, 0, false⟩, ⟨⟨5, 4⟩, .ro, 0, false⟩, ⟨⟨7, 6⟩, .ro, 0, false⟩, ⟨⟨23, 8⟩, .rc, 0, false⟩, ⟨⟨39, 24⟩, .rc, 0, false⟩, ⟨⟨63, 40⟩, .rc, 0, false⟩]⟩]

/-- The registers of the SEC block. -/
def regs_sec : List RegDesc := [
  -- SEC_NONCE, Table 257
  ⟨.sec, 0x0, [(8, 2)], .coldReset,
   [⟨⟨63, 0⟩, .ro, 0, false⟩]⟩,
  -- SEC_CMD, Table 258
  ⟨.sec, 0x10, [], .coldReset,
   [⟨⟨1, 0⟩, .rw, 0, false⟩, ⟨⟨2, 2⟩, .wo, 0, false⟩, ⟨⟨3, 3⟩, .ro, 0, false⟩, ⟨⟨7, 4⟩, .ro, 0, false⟩, ⟨⟨15, 8⟩, .rw, 0, false⟩]⟩,
  -- SEC_CMD_ADDR, Table 259
  ⟨.sec, 0x18, [], .coldReset,
   [⟨⟨47, 6⟩, .rw, 0, false⟩]⟩,
  -- SEC_DEBUG, Table 260
  ⟨.sec, 0x20, [], .coldReset,
   [⟨⟨3, 0⟩, .ro, 0, false⟩, ⟨⟨4, 4⟩, .ro, 0, false⟩]⟩,
  -- SEC_BBK_VALID, Table 261
  ⟨.sec, 0x40, [(8, 4)], .vbatt,
   [⟨⟨63, 0⟩, .ro, 0, false⟩]⟩,
  -- SEC_KEY_GRANT, Table 262
  ⟨.sec, 0x1000, [(8, 260)], .coldReset,
   [⟨⟨63, 0⟩, .rw, 0, false⟩]⟩]

/-- The registers of the PWR block. -/
def regs_pwr : List RegDesc := [
  -- PWR_STATE, Table 281
  ⟨.pwr, 0x0, [], .auxPower,
   [⟨⟨1, 0⟩, .ro, 3, false⟩, ⟨⟨2, 2⟩, .ro, 0, false⟩, ⟨⟨3, 3⟩, .ro, 0, false⟩, ⟨⟨31, 16⟩, .rc, 0, false⟩]⟩,
  -- PWR_INPUT, Table 282
  ⟨.pwr, 0x8, [], .auxPower,
   [⟨⟨15, 0⟩, .ro, 0, false⟩, ⟨⟨31, 16⟩, .ro, 0, false⟩, ⟨⟨47, 32⟩, .ro, 0, false⟩, ⟨⟨63, 48⟩, .ro, 3600, false⟩]⟩,
  -- PWR_CLK, Table 283
  ⟨.pwr, 0x40, [(8, 8)], .warmReset,
   [⟨⟨10, 0⟩, .ro, 1600, false⟩, ⟨⟨31, 16⟩, .ro, 0, false⟩, ⟨⟨47, 32⟩, .rc, 0, false⟩, ⟨⟨63, 48⟩, .rc, 0, false⟩]⟩,
  -- PWR_HOLDUP_CFG, Table 284
  ⟨.pwr, 0x10, [], .auxPower,
   [⟨⟨15, 0⟩, .rw, 0, false⟩]⟩,
  -- PWR_HOLDUP, Table 285
  ⟨.pwr, 0x18, [], .auxPower,
   [⟨⟨15, 0⟩, .ro, 0, false⟩, ⟨⟨31, 16⟩, .ro, 0, false⟩, ⟨⟨33, 32⟩, .ro, 0, false⟩, ⟨⟨37, 34⟩, .ro, 0, false⟩]⟩]

/-- The registers of a block. -/
def Blk.regs (b : Blk) : List RegDesc :=
  match b with
  | .adm => regs_adm
  | .time => regs_time
  | .fuse => regs_fuse
  | .sec => regs_sec
  | .pwr => regs_pwr
  | .evt => regs_evt
  | .host => regs_host
  | .link => regs_link
  | .cxl => regs_cxl
  | .hbm => regs_hbm
  | .cell => regs_cell
  | .cluster => regs_cluster
  | .part => regs_part
  | .ring => regs_ring

end Sys2Proof.Machine
end

