-- ==== Sys2Proof/Machine/CellInstr.lean ====
section
/-! DEFINITION. The instructions of a cell as syntax: one constructor per opcode of Table 55, with the fields of Tables 53, 54, 56, 84, 124, 142 and 151 and of
R184 and R283. The words themselves are read and written in Machine/Operands.lean. -/

namespace Sys2Proof.Machine

/-- A decoded cell instruction word (R106, Table 55). -/
inductive CellInstr where
  | qNop
  | qSetx (xd : BitVec 4) (imm : BitVec 32)
  | qAddx (xd xs : BitVec 4) (imm : BitVec 32)
  | qLoop (count1 : BitVec 16) (len : BitVec 13)
  | qBlock
  | qEnd
  | tLd (fmt : BitVec 5) (scl : BitVec 2) (tr : BitVec 4) (tps : BitVec 1) (xb : BitVec 4) (off : BitVec 17) (stride inc : BitVec 10)
  | tSt (fmt : BitVec 5) (scl : BitVec 2) (tr : BitVec 4) (tps : BitVec 1) (dir : BitVec 3) (xb : BitVec 4) (off : BitVec 17)
      (stride inc : BitVec 10)
  | tRel (mask : BitVec 16)
  | aZero (acc : BitVec 2) (base : BitVec 20)
  | aMma (fmtB fmtA : BitVec 5) (sclB sclA acc : BitVec 2) (ta tb : BitVec 4) (klen1 rows1 : BitVec 5) (fin : BitVec 1)
  | aDrain (fmtB : BitVec 5) (acc : BitVec 2) (ta : BitVec 4) (frame sr clr norm : BitVec 1) (xb : BitVec 4) (off : BitVec 13)
  | aMerge (acc : BitVec 2) (n1 : BitVec 7) (xb : BitVec 4) (off : BitVec 10)
  | mMv (fmtB fmtA : BitVec 5) (sclB sclA acc : BitVec 2) (ta : BitVec 4) (klen1 row : BitVec 5) (fin : BitVec 1) (kc1 : BitVec 7)
      (xb : BitVec 4) (inc : BitVec 1)
  | fPair (fmtB fmtA : BitVec 5) (sclB sclA acc : BitVec 2) (tq xk : BitVec 4) (klen1 rows1 : BitVec 5) (xv : BitVec 4) (dch1 : BitVec 2)
      (first inc : BitVec 1) (chain : BitVec 13)
  | vChain (xa xb xd xm : BitVec 4) (inc : BitVec 1) (r3 : BitVec 3) (n1 : BitVec 16) (r7 : BitVec 7) (chain : BitVec 13)
  | vSum (zmask : BitVec 4) (tag : BitVec 16)
  | cSend (ch : BitVec 3) (inc : BitVec 1) (xb nfl1 : BitVec 4) (off : BitVec 12) (tag : BitVec 16)
  | cRecv (ch : BitVec 3) (inc : BitVec 1) (xb nfl1 : BitVec 4) (off : BitVec 12)
  | lFetch (xs : BitVec 4) (lb : BitVec 2) (space dir : BitVec 1) (xd : BitVec 4) (inc : BitVec 1) (len1 : BitVec 17)
  | lGather (xs : BitVec 4) (lb : BitVec 2) (space : BitVec 1) (xd xt : BitVec 4) (inc : BitVec 1) (pg : BitVec 3) (count1 : BitVec 9)
      (len1 : BitVec 11)
  | lCancel (all : BitVec 1)
  | sAdd (xa : BitVec 4) (aoff : BitVec 15) (xv : BitVec 4) (vreg : BitVec 1) (imm : BitVec 24)
  | sSub (xa : BitVec 4) (aoff : BitVec 15) (xv : BitVec 4) (vreg : BitVec 1) (imm : BitVec 24)
  | sSet (xa : BitVec 4) (aoff : BitVec 15) (xv : BitVec 4) (vreg : BitVec 1) (imm : BitVec 24)
  | sCas (xa : BitVec 4) (aoff : BitVec 15) (xv : BitVec 4) (vreg : BitVec 1) (xe xd : BitVec 4) (imm : BitVec 24)
  | sWait (xa : BitVec 4) (aoff : BitVec 15) (xv : BitVec 4) (vreg : BitVec 1) (imm : BitVec 24)
  | sBar (unit : BitVec 4)
  deriving DecidableEq, Repr

/-- The engines of a cell (Table 55). -/
inductive Engine where
  | tile | array | vector | channel | lead | sync
  deriving DecidableEq, Repr

end Sys2Proof.Machine
end

