-- ==== Sys2Proof/Machine/Bits.lean ====
section
/-! DEFINITION. Bit fields, byte order, sparse tables, CRC-32C (R34) and the cairn hash (R367): the helpers every family uses. -/

namespace Sys2Proof.Machine

/-- Bits [hi:lo] of a number. -/
def bitsOf (n hi lo : Nat) : Nat := (n >>> lo) % 2 ^ (hi + 1 - lo)

/-- Bit b of a number. -/
def bitOf (n b : Nat) : Bool := n.testBit b

/-- A Bool as a one-bit number. -/
def b2n (b : Bool) : Nat := if b then 1 else 0

/-- The value of a field of a register. -/
def getF (w : Word) (f : Fld) : Nat := bitsOf w.toNat f.hi f.lo

/-- A register with one field replaced; v is taken modulo the field's width. -/
def setF (w : Word) (f : Fld) (v : Nat) : Word :=
  let m := 2 ^ (f.hi + 1 - f.lo)
  BitVec.ofNat 64 (w.toNat - (getF w f) * 2 ^ f.lo + (v % m) * 2 ^ f.lo)

/-- The largest value a field holds. -/
def Fld.top (f : Fld) : Nat := 2 ^ (f.hi + 1 - f.lo) - 1

/-- Little-endian number of a list of bytes, first byte lowest. -/
def leNat : List Byte → Nat
  | [] => 0
  | b :: bs => b.toNat + 256 * leNat bs

/-- The n little-endian bytes of a number. -/
def leBytes : Nat → Nat → List Byte
  | 0, _ => []
  | n + 1, v => BitVec.ofNat 8 v :: leBytes n (v / 256)

/-- Bytes [a, a + n) of a byte list, zero beyond its end. -/
def sliceB (l : List Byte) (a n : Nat) : List Byte :=
  let r := (l.drop a).take n
  r ++ List.replicate (n - r.length) 0

/-- The little-endian number in bytes [a, a + n) of a byte list. -/
def numAt (l : List Byte) (a n : Nat) : Nat := leNat (sliceB l a n)

/-- A number of w bits read as two's complement. -/
def sxt (w v : Nat) : Int :=
  let v := v % 2 ^ w
  if v < 2 ^ (w - 1) then (v : Int) else (v : Int) - (2 ^ w : Nat)

/-- An integer as a two's complement number of w bits. -/
def wrapN (w : Nat) (i : Int) : Nat := (i % ((2 ^ w : Nat) : Int)).toNat

/-- Saturating increment at a limit. -/
def satAdd (lim v d : Nat) : Nat := min lim (v + d)

/-- The value under a key of a sparse table, or the default. -/
def SMap.get {α : Type} (d : α) : SMap α → Nat → α
  | [], _ => d
  | (k, v) :: m, a => if k = a then v else SMap.get d m a

/-- The value under a key, if one is listed. -/
def SMap.find? {α : Type} : SMap α → Nat → Option α
  | [], _ => none
  | (k, v) :: m, a => if k = a then some v else SMap.find? m a

/-- List a value under a key, in rising order of keys. -/
def SMap.ins {α : Type} (a : Nat) (x : α) : SMap α → SMap α
  | [] => [(a, x)]
  | (k, v) :: m => if k = a then (a, x) :: m else if a < k then (a, x) :: (k, v) :: m else (k, v) :: SMap.ins a x m

/-- Drop every entry of a key. -/
def SMap.del {α : Type} (a : Nat) (m : SMap α) : SMap α := m.filter (fun p => p.1 != a)

/-- Change the value under a key. -/
def SMap.upd {α : Type} (d : α) (a : Nat) (f : α → α) (m : SMap α) : SMap α := SMap.ins a (f (SMap.get d m a)) m

/-- Element i of a list, or a default. -/
def nthD {α : Type} (l : List α) (i : Nat) (d : α) : α := (l[i]?).getD d

/-- Mask of the low n bits. -/
def ones (n : Nat) : Nat := 2 ^ n - 1

/-- Reflect the low n bits of a number. -/
def reflect : Nat → Nat → Nat
  | 0, _ => 0
  | n + 1, v => (v % 2) * 2 ^ n + reflect n (v / 2)

/-- One bit step of the reflected CRC-32C (polynomial 0x1EDC_6F41, reflected 0x82F6_3B78). -/
def crcBit (c : Nat) : Nat := if c % 2 = 1 then (c / 2) ^^^ 0x82F63B78 else c / 2

/-- One byte step of the CRC. -/
def crcByte (c b : Nat) : Nat :=
  crcBit (crcBit (crcBit (crcBit (crcBit (crcBit (crcBit (crcBit (c ^^^ b))))))))

/-- CRC-32C of a list of bytes (R34): reflected, initial value and final XOR 0xFFFF_FFFF. -/
def crc32c (l : List Byte) : Nat := (l.foldl (fun c b => crcByte c b.toNat) 0xFFFFFFFF) ^^^ 0xFFFFFFFF

/-- The finaliser of R153 and R367. -/
def mix64 (z0 : Word) : Word :=
  let z := z0 + 0x9E3779B97F4A7C15#64
  let z := (z ^^^ (z >>> 30)) * 0xBF58476D1CE4E5B9#64
  let z := (z ^^^ (z >>> 27)) * 0x94D049BB133111EB#64
  z ^^^ (z >>> 31)

/-- The loop of the cairn hash (R367). -/
def cairnLoop : List Word → Nat → Word → Word → Word × Word
  | [], _, lo, hi => (lo, hi)
  | w :: ws, i, lo, hi => cairnLoop ws (i + 1) (mix64 (lo ^^^ w)) (mix64 (hi + w + BitVec.ofNat 64 i))

/-- The cairn hash ch of a list of 64-bit words (R367), as the pair (lo, hi). -/
def cairnHash (ws : List Word) : Word × Word :=
  let (lo, hi) := cairnLoop ws 0 0x243F6A8885A308D3#64 0x13198A2E03707344#64
  let lo := mix64 (lo ^^^ BitVec.ofNat 64 ws.length)
  let hi := mix64 (hi + lo)
  (lo, hi)

/-- A list cut into words of n bytes each; `fuel` bounds the pieces. -/
def chunkWords : Nat → Nat → List Byte → List Nat
  | 0, _, _ => []
  | f + 1, n, l => match l with
    | [] => []
    | _ => leNat (l.take n) :: chunkWords f n (l.drop n)

/-- A byte list as little-endian 64-bit words. -/
def words64 (l : List Byte) : List Word := (chunkWords (l.length / 8) 8 l).map (BitVec.ofNat 64)

/-- Insert into a sorted list, after equal elements that stand before it. -/
def insSorted {α : Type} (le : α → α → Bool) (x : α) : List α → List α
  | [] => [x]
  | y :: l => if le x y then x :: y :: l else y :: insSorted le x l

/-- A list sorted by an order, stable. -/
def sortBy {α : Type} (le : α → α → Bool) : List α → List α
  | [] => []
  | x :: l => insSorted le x (sortBy le l)

/-- One level of a pairing tree (R141, R368): neighbours combine, a missing right child passes the left up. -/
def pairUp {α : Type} (f : α → α → α) : List α → List α
  | a :: b :: r => f a b :: pairUp f r
  | l => l

/-- The root of a pairing tree, with fuel for its levels. -/
def pairRoot {α : Type} (f : α → α → α) : Nat → List α → List α
  | 0, l => l
  | n + 1, l => match l with
    | [] => []
    | [a] => [a]
    | l => pairRoot f n (pairUp f l)

/-- Digest of one block of at most 65,536 bytes (R368). -/
def blockDigest (l : List Byte) : Word × Word := cairnHash (words64 l)

/-- Two digests joined (R368). -/
def joinDigest (a b : Word × Word) : Word × Word := cairnHash [a.1, a.2, b.1, b.2]

/-- The root over a list of block digests (R368). -/
def digestRoot (l : List (Word × Word)) : Word × Word :=
  match pairRoot joinDigest 48 l with
  | d :: _ => d
  | [] => (0, 0)

/-- A byte list cut into blocks of n bytes. -/
def blocksOf {α : Type} : Nat → Nat → List α → List (List α)
  | 0, _, _ => []
  | f + 1, n, l => match l with
    | [] => []
    | _ => l.take n :: blocksOf f n (l.drop n)

/-- The cairn root of a byte range (R368). -/
def cairnRoot (l : List Byte) : Word × Word := digestRoot ((blocksOf (l.length / 65536 + 1) 65536 l).map blockDigest)

/-- Mask of the indices below n that a predicate selects. -/
def maskOf (n : Nat) (p : Nat → Bool) : Nat := (List.range n).foldl (fun m i => if p i then m + 2 ^ i else m) 0

end Sys2Proof.Machine
end

