-- ==== Sys2Proof/Machine/Flags.lean ====
section
/-! DEFINITION. The flag word of an accumulator, a tile register or a chain (Table 79, R155): its bits by name, and the flag sets that arithmetic raises. -/

namespace Sys2Proof.Machine

def flNanIn : Nat := 0x0001
def flOvf : Nat := 0x0002
def flInv : Nat := 0x0004
def flSat : Nat := 0x0008
def flInxInt : Nat := 0x0010
def flPoison : Nat := 0x0020
def flIeInvalid : Nat := 0x0100
def flIeDivZero : Nat := 0x0200
def flIeOverflow : Nat := 0x0400
def flIeUnderflow : Nat := 0x0800
def flIeInexact : Nat := 0x1000

/-- Flags of an IEEE operation that rounded (R158): inexact, overflow with inexact, underflow when tiny and inexact. -/
def ieFlags (inexact overflow tiny : Bool) : Nat :=
  (if overflow then flIeOverflow ||| flIeInexact else 0) ||| (if inexact then flIeInexact else 0) |||
    (if tiny && inexact then flIeUnderflow else 0)

/-- The flag a fast-mode overflow sets, or the IEEE flags in strict mode (Tables 74, 75 and 77, R158). -/
def ovfFlags (strict : Bool) : Nat := if strict then flIeOverflow ||| flIeInexact else flOvf

end Sys2Proof.Machine
end

