-- ==== Sys2Proof/Machine/Operands.lean ====
section
/-! DEFINITION. The 64-bit instruction word of a cell (R106, R107): reading a word's fields and writing them back, and the operand rules that a word breaks at
issue (R108, R120, R162). -/

namespace Sys2Proof.Machine

/-- Bits [lo + w - 1 : lo] of a word. -/
def fw (x : Word) (lo w : Nat) : BitVec w := x.extractLsb' lo w

/-- A field placed at bit lo of a word. -/
def pw {w : Nat} (lo : Nat) (v : BitVec w) : Word := (v.zeroExtend 64) <<< lo

/-- The opcode byte at [63:56]. -/
def opw (o : Nat) : Word := pw 56 (BitVec.ofNat 8 o)

/-- The word of an instruction (Tables 53, 54, 56, 84, 124, 142, 151). -/
def CellInstr.encode : CellInstr → Word
  | .qNop => opw 0x01
  | .qSetx xd imm => opw 0x02 ||| pw 52 xd ||| pw 0 imm
  | .qAddx xd xs imm => opw 0x03 ||| pw 52 xd ||| pw 48 xs ||| pw 0 imm
  | .qLoop c n => opw 0x04 ||| pw 32 c ||| pw 0 n
  | .qBlock => opw 0x05
  | .qEnd => opw 0x0F
  | .tLd fmt scl tr tps xb off stride inc =>
      opw 0x10 ||| pw 51 fmt ||| pw 49 scl ||| pw 45 tr ||| pw 44 tps ||| pw 37 xb ||| pw 20 off ||| pw 10 stride ||| pw 0 inc
  | .tSt fmt scl tr tps dir xb off stride inc =>
      opw 0x11 ||| pw 51 fmt ||| pw 49 scl ||| pw 45 tr ||| pw 44 tps ||| pw 41 dir ||| pw 37 xb ||| pw 20 off ||| pw 10 stride ||| pw 0 inc
  | .tRel m => opw 0x12 ||| pw 0 m
  | .aZero acc base => opw 0x20 ||| pw 40 acc ||| pw 0 base
  | .aMma fmtB fmtA sclB sclA acc ta tb k m fin =>
      opw 0x21 ||| pw 51 fmtB ||| pw 46 fmtA ||| pw 44 sclB ||| pw 42 sclA ||| pw 40 acc ||| pw 36 ta ||| pw 32 tb ||| pw 27 k ||| pw 22 m |||
        pw 21 fin
  | .aDrain fmtB acc ta frame sr clr norm xb off =>
      opw 0x22 ||| pw 51 fmtB ||| pw 40 acc ||| pw 36 ta ||| pw 20 frame ||| pw 19 sr ||| pw 18 clr ||| pw 17 norm ||| pw 13 xb ||| pw 0 off
  | .aMerge acc n xb off => opw 0x23 ||| pw 40 acc ||| pw 14 n ||| pw 10 xb ||| pw 0 off
  | .mMv fmtB fmtA sclB sclA acc ta k row fin kc xb inc =>
      opw 0x28 ||| pw 51 fmtB ||| pw 46 fmtA ||| pw 44 sclB ||| pw 42 sclA ||| pw 40 acc ||| pw 36 ta ||| pw 27 k ||| pw 22 row ||| pw 21 fin |||
        pw 14 kc ||| pw 10 xb ||| pw 9 inc
  | .fPair fmtB fmtA sclB sclA acc tq xk k m xv dch first inc chain =>
      opw 0x2C ||| pw 51 fmtB ||| pw 46 fmtA ||| pw 44 sclB ||| pw 42 sclA ||| pw 40 acc ||| pw 36 tq ||| pw 32 xk ||| pw 27 k ||| pw 22 m |||
        pw 18 xv ||| pw 16 dch ||| pw 15 first ||| pw 14 inc ||| pw 0 chain
  | .vChain xa xb xd xm inc r3 n r7 chain =>
      opw 0x30 ||| pw 52 xa ||| pw 48 xb ||| pw 44 xd ||| pw 40 xm ||| pw 39 inc ||| pw 36 r3 ||| pw 20 n ||| pw 13 r7 ||| pw 0 chain
  | .vSum z t => opw 0x31 ||| pw 52 z ||| pw 32 t
  | .cSend ch inc xb nfl off tag => opw 0x40 ||| pw 53 ch ||| pw 52 inc ||| pw 48 xb ||| pw 44 nfl ||| pw 32 off ||| pw 16 tag
  | .cRecv ch inc xb nfl off => opw 0x41 ||| pw 53 ch ||| pw 52 inc ||| pw 48 xb ||| pw 44 nfl ||| pw 32 off
  | .lFetch xs lb space dir xd inc len =>
      opw 0x50 ||| pw 52 xs ||| pw 50 lb ||| pw 49 space ||| pw 48 dir ||| pw 44 xd ||| pw 39 inc ||| pw 16 len
  | .lGather xs lb space xd xt inc pg count len =>
      opw 0x51 ||| pw 52 xs ||| pw 50 lb ||| pw 49 space ||| pw 44 xd ||| pw 40 xt ||| pw 39 inc ||| pw 36 pg ||| pw 27 count ||| pw 16 len
  | .lCancel all => opw 0x52 ||| pw 55 all
  | .sAdd xa aoff xv vreg imm => opw 0x60 ||| pw 52 xa ||| pw 37 aoff ||| pw 33 xv ||| pw 32 vreg ||| pw 0 imm
  | .sSub xa aoff xv vreg imm => opw 0x61 ||| pw 52 xa ||| pw 37 aoff ||| pw 33 xv ||| pw 32 vreg ||| pw 0 imm
  | .sSet xa aoff xv vreg imm => opw 0x62 ||| pw 52 xa ||| pw 37 aoff ||| pw 33 xv ||| pw 32 vreg ||| pw 0 imm
  | .sCas xa aoff xv vreg xe xd imm =>
      opw 0x63 ||| pw 52 xa ||| pw 37 aoff ||| pw 33 xv ||| pw 32 vreg ||| pw 28 xe ||| pw 24 xd ||| pw 0 imm
  | .sWait xa aoff xv vreg imm => opw 0x64 ||| pw 52 xa ||| pw 37 aoff ||| pw 33 xv ||| pw 32 vreg ||| pw 0 imm
  | .sBar u => opw 0x65 ||| pw 37 u

/-- The instruction whose opcode a word carries, its fields read; bits a form leaves out are not looked at here. -/
def CellInstr.fields (x : Word) : Option CellInstr :=
  match (fw x 56 8).toNat with
  | 0x01 => some .qNop
  | 0x02 => some (.qSetx (fw x 52 4) (fw x 0 32))
  | 0x03 => some (.qAddx (fw x 52 4) (fw x 48 4) (fw x 0 32))
  | 0x04 => some (.qLoop (fw x 32 16) (fw x 0 13))
  | 0x05 => some .qBlock
  | 0x0F => some .qEnd
  | 0x10 => some (.tLd (fw x 51 5) (fw x 49 2) (fw x 45 4) (fw x 44 1) (fw x 37 4) (fw x 20 17) (fw x 10 10) (fw x 0 10))
  | 0x11 => some (.tSt (fw x 51 5) (fw x 49 2) (fw x 45 4) (fw x 44 1) (fw x 41 3) (fw x 37 4) (fw x 20 17) (fw x 10 10) (fw x 0 10))
  | 0x12 => some (.tRel (fw x 0 16))
  | 0x20 => some (.aZero (fw x 40 2) (fw x 0 20))
  | 0x21 => some (.aMma (fw x 51 5) (fw x 46 5) (fw x 44 2) (fw x 42 2) (fw x 40 2) (fw x 36 4) (fw x 32 4) (fw x 27 5) (fw x 22 5) (fw x 21 1))
  | 0x22 => some (.aDrain (fw x 51 5) (fw x 40 2) (fw x 36 4) (fw x 20 1) (fw x 19 1) (fw x 18 1) (fw x 17 1) (fw x 13 4) (fw x 0 13))
  | 0x23 => some (.aMerge (fw x 40 2) (fw x 14 7) (fw x 10 4) (fw x 0 10))
  | 0x28 => some (.mMv (fw x 51 5) (fw x 46 5) (fw x 44 2) (fw x 42 2) (fw x 40 2) (fw x 36 4) (fw x 27 5) (fw x 22 5) (fw x 21 1) (fw x 14 7)
      (fw x 10 4) (fw x 9 1))
  | 0x2C => some (.fPair (fw x 51 5) (fw x 46 5) (fw x 44 2) (fw x 42 2) (fw x 40 2) (fw x 36 4) (fw x 32 4) (fw x 27 5) (fw x 22 5) (fw x 18 4)
      (fw x 16 2) (fw x 15 1) (fw x 14 1) (fw x 0 13))
  | 0x30 => some (.vChain (fw x 52 4) (fw x 48 4) (fw x 44 4) (fw x 40 4) (fw x 39 1) (fw x 36 3) (fw x 20 16) (fw x 13 7) (fw x 0 13))
  | 0x31 => some (.vSum (fw x 52 4) (fw x 32 16))
  | 0x40 => some (.cSend (fw x 53 3) (fw x 52 1) (fw x 48 4) (fw x 44 4) (fw x 32 12) (fw x 16 16))
  | 0x41 => some (.cRecv (fw x 53 3) (fw x 52 1) (fw x 48 4) (fw x 44 4) (fw x 32 12))
  | 0x50 => some (.lFetch (fw x 52 4) (fw x 50 2) (fw x 49 1) (fw x 48 1) (fw x 44 4) (fw x 39 1) (fw x 16 17))
  | 0x51 => some (.lGather (fw x 52 4) (fw x 50 2) (fw x 49 1) (fw x 44 4) (fw x 40 4) (fw x 39 1) (fw x 36 3) (fw x 27 9) (fw x 16 11))
  | 0x52 => some (.lCancel (fw x 55 1))
  | 0x60 => some (.sAdd (fw x 52 4) (fw x 37 15) (fw x 33 4) (fw x 32 1) (fw x 0 24))
  | 0x61 => some (.sSub (fw x 52 4) (fw x 37 15) (fw x 33 4) (fw x 32 1) (fw x 0 24))
  | 0x62 => some (.sSet (fw x 52 4) (fw x 37 15) (fw x 33 4) (fw x 32 1) (fw x 0 24))
  | 0x63 => some (.sCas (fw x 52 4) (fw x 37 15) (fw x 33 4) (fw x 32 1) (fw x 28 4) (fw x 24 4) (fw x 0 24))
  | 0x64 => some (.sWait (fw x 52 4) (fw x 37 15) (fw x 33 4) (fw x 32 1) (fw x 0 24))
  | 0x65 => some (.sBar (fw x 37 4))
  | _ => none

/-- Decode a word: a reserved opcode or a non-zero field marked zero decodes to nothing (R106); the fields that Table 84 marks zero are kept, for R183 tests them
when the V.CHAIN starts. -/
def CellInstr.decode (x : Word) : Option CellInstr :=
  match CellInstr.fields x with
  | some i => if i.encode = x then some i else none
  | none => none

/-- The engine whose queue an instruction enters (Table 55); the sequencer keeps the Q group. -/
def CellInstr.engine : CellInstr → Option Engine
  | .qNop | .qSetx .. | .qAddx .. | .qLoop .. | .qBlock | .qEnd => none
  | .tLd .. | .tSt .. | .tRel .. => some .tile
  | .aZero .. | .aMma .. | .aDrain .. | .aMerge .. | .mMv .. | .fPair .. => some .array
  | .vChain .. | .vSum .. => some .vector
  | .cSend .. | .cRecv .. => some .channel
  | .lFetch .. | .lGather .. | .lCancel .. => some .lead
  | .sAdd .. | .sSub .. | .sSet .. | .sCas .. | .sWait .. | .sBar .. => some .sync

/-- Queue depth of an engine (Table 55). -/
def Engine.depth : Engine → Nat
  | .sync => 4
  | _ => 8

/-- Element formats (Table 57). -/
inductive Fmt where
  | e4m3 | e5m2 | e2m3 | e3m2 | e2m1 | int8 | int4 | bf16 | fp16 | fp32
  deriving DecidableEq, Repr

/-- The format a code of Table 57 names. -/
def Fmt.ofCode : Nat → Option Fmt
  | 0x00 => some .e4m3
  | 0x01 => some .e5m2
  | 0x02 => some .e2m3
  | 0x03 => some .e3m2
  | 0x04 => some .e2m1
  | 0x08 => some .int8
  | 0x09 => some .int4
  | 0x10 => some .bf16
  | 0x11 => some .fp16
  | 0x18 => some .fp32
  | _ => none

/-- The classes of Table 58's rows. -/
inductive FmtClass where
  | f8 | int | f16 | f32
  deriving DecidableEq, Repr

/-- Class of a format. -/
def Fmt.cls : Fmt → FmtClass
  | .e4m3 | .e5m2 | .e2m3 | .e3m2 | .e2m1 => .f8
  | .int8 | .int4 => .int
  | .bf16 | .fp16 => .f16
  | .fp32 => .f32

/-- Is a format of the integer class? -/
def Fmt.isInt (f : Fmt) : Bool := f.cls = .int

/-- Scale modes a tile or a stream of a format may have (Table 72, R162): 0, 1 and 2 on 8-bit classes and integers, 0 on 16-bit and FP32. -/
def Fmt.sclOk (f : Fmt) (scl : Nat) : Bool :=
  match f.cls with
  | .f8 | .int => decide (scl ≤ 2)
  | .f16 | .f32 => decide (scl = 0)

/-- Scale modes of an operand beside another (R108, Table 58): 0 on FP32, and 0, 1 and 2 on what stands beside it; otherwise 0 on 16-bit operands. -/
def Fmt.sclBeside (f o : Fmt) (scl : Nat) : Bool :=
  match f.cls, o.cls with
  | .f32, _ => decide (scl = 0)
  | .f16, .f32 => decide (scl ≤ 2)
  | .f16, _ => decide (scl = 0)
  | _, _ => decide (scl ≤ 2)

/-- May two operands combine on the array (R108, Table 58)? -/
def comboOk (a b : Fmt) (sa sb : Nat) : Bool :=
  a.sclBeside b sa && b.sclBeside a sb && decide (a.isInt = b.isInt)

/-- Rate factor of a combination (Table 58): 1, 2 or 16 fc per operand column; 16 in a strict section for floats. -/
def rateFactor (strict : Bool) (a b : Fmt) : Nat :=
  if a.isInt then 1
  else if strict || a.cls = .f32 || b.cls = .f32 then 16
  else if a.cls = .f16 || b.cls = .f16 then 2
  else 1

/-- Bits per element as stored in memory and in tiles: 4-bit formats are packed, 6-bit formats take a byte (Table 72). -/
def Fmt.bits : Fmt → Nat
  | .e2m1 | .int4 => 4
  | .e4m3 | .e5m2 | .e2m3 | .e3m2 | .int8 => 8
  | .bf16 | .fp16 => 16
  | .fp32 => 32

/-- Scale bytes per 32 elements of a row: one E8M0 under MX, two under SB16 (Table 60). -/
def sclBytes (scl : Nat) : Nat := if scl = 1 then 1 else if scl = 2 then 2 else 0

/-- Leaf length λ of a pair of scale modes (R113). -/
def leafLen (sa sb : Nat) : Nat := if sa = 2 || sb = 2 then 16 else 32

/-- The faults of form and format that a decoded word raises as ILLEGAL_OP at issue (R108, R120, R122, R162, R198, R232, R264). -/
def CellInstr.formOk : CellInstr → Bool
  | .tLd fmt scl _ _ _ _ stride _ =>
    match Fmt.ofCode fmt.toNat with
    | some f => f.sclOk scl.toNat && (stride = 0#10 || decide (4 * f.bits ≤ 32 * stride.toNat))
    | none => false
  | .tSt fmt scl _ _ dir _ _ stride _ =>
    match Fmt.ofCode fmt.toNat with
    | some f => f.sclOk scl.toNat && decide (dir.toNat ≤ 4) && (stride = 0#10 || decide (4 * f.bits ≤ 32 * stride.toNat))
    | none => false
  | .aMma fb fa sb sa _ _ _ _ _ _ =>
    match Fmt.ofCode fa.toNat, Fmt.ofCode fb.toNat with
    | some a, some b => comboOk a b sa.toNat sb.toNat
    | _, _ => false
  | .mMv fb fa sb sa _ _ _ _ _ kc _ _ =>
    match Fmt.ofCode fa.toNat, Fmt.ofCode fb.toNat with
    | some a, some b =>
      comboOk a b sa.toNat sb.toNat && (b.cls = .f8 || b.cls = .int) && !(a.cls = .f32) &&
        decide ((kc.toNat + 1) * (4 * a.bits + sclBytes sa.toNat) ≤ 4096)
    | _, _ => false
  | .fPair fb fa sb sa acc _ _ _ _ _ dch _ _ _ =>
    match Fmt.ofCode fa.toNat, Fmt.ofCode fb.toNat with
    | some a, some b => comboOk a b sa.toNat sb.toNat && comboOk a b 0 sb.toNat && decide (acc.toNat + dch.toNat + 1 ≤ 4)
    | _, _ => false
  | .aDrain fb _ _ _ _ _ _ _ _ => (Fmt.ofCode fb.toNat).isSome
  | .cSend _ _ _ nfl _ _ => decide (3 ≤ nfl.toNat)
  | .cRecv _ _ _ nfl _ => decide (3 ≤ nfl.toNat)
  | .lFetch _ lb space _ _ _ _ => space = 0#1 || lb = 0#2
  | .lGather _ lb space _ _ _ _ _ _ => space = 0#1 || lb = 0#2
  | _ => true

end Sys2Proof.Machine
end

