-- ==== Sys2Proof/Machine/Float.lean ====
section
/-! DEFINITION. Element types and exact arithmetic on them (R129 to R135, R150 to R154, R157, R158): every value is decoded to an exact dyadic number, operations
are exact, and one rounding narrows the result. -/

namespace Sys2Proof.Machine

/-- A decoded value: a NaN with its sign, the 23 fraction bits it has as a binary32 and whether it signals; an infinity; or the exact number
(−1)^neg × m × 2^e, zero when m is 0. -/
inductive FV where
  | nan (neg : Bool) (frac : Nat) (snan : Bool)
  | inf (neg : Bool)
  | fin (neg : Bool) (m : Nat) (e : Int)
  deriving DecidableEq, Repr

/-- Exponent width, mantissa width, bias and largest finite code of a float format (Table 71). -/
structure FSpec where
  eb : Nat
  mb : Nat
  bias : Int
  maxCode : Nat
  deriving DecidableEq, Repr

/-- The parameters of Table 71; integer formats have none. -/
def Fmt.spec : Fmt → Option FSpec
  | .e4m3 => some ⟨4, 3, 7, 0x7E⟩
  | .e5m2 => some ⟨5, 2, 15, 0x7B⟩
  | .e2m3 => some ⟨2, 3, 1, 0x1F⟩
  | .e3m2 => some ⟨3, 2, 3, 0x1F⟩
  | .e2m1 => some ⟨2, 1, 1, 0x07⟩
  | .bf16 => some ⟨8, 7, 127, 0x7F7F⟩
  | .fp16 => some ⟨5, 10, 15, 0x7BFF⟩
  | .fp32 => some ⟨8, 23, 127, 0x7F7FFFFF⟩
  | .int8 | .int4 => none

/-- The binary32 parameters. -/
def spec32 : FSpec := ⟨8, 23, 127, 0x7F7FFFFF⟩

/-- A finite code read under a format (R129). -/
def FSpec.dec (s : FSpec) (neg : Bool) (mag : Nat) : FV :=
  let e := mag >>> s.mb
  let m := mag % 2 ^ s.mb
  if e = 0 then .fin neg m (1 - s.bias - s.mb) else .fin neg (2 ^ s.mb + m) ((e : Int) - s.bias - s.mb)

/-- The value an element code stands for (Table 71, R131). Integers are exact numbers. -/
def Fmt.dec (f : Fmt) (code : Nat) : FV :=
  match f.spec with
  | none =>
    let w := f.bits
    let i := sxt w code
    .fin (decide (i < 0)) i.natAbs 0
  | some s =>
    let mag := code % 2 ^ (s.eb + s.mb)
    let neg := code.testBit (s.eb + s.mb)
    let frac := (mag % 2 ^ s.mb) * 2 ^ (23 - s.mb)
    match f with
    | .e4m3 => if mag = 0x7F then .nan neg (frac ||| 0x400000) false else s.dec neg mag
    | .e5m2 => if mag = 0x7C then .inf neg else if 0x7C < mag then .nan neg (frac ||| 0x400000) false else s.dec neg mag
    | .bf16 | .fp16 | .fp32 =>
      if mag = s.maxCode + 1 then .inf neg
      else if s.maxCode < mag then .nan neg frac (!(mag.testBit (s.mb - 1)))
      else s.dec neg mag
    | _ => s.dec neg mag

/-- A binary32 code read as a value. -/
def dec32 (x : BitVec 32) : FV := Fmt.fp32.dec x.toNat

/-- The canonical NaN of fast mode. -/
def cnan : BitVec 32 := 0x7FC00000#32

/-- Exponent of the unit in the last place when a magnitude m × 2^e, m > 0, is rounded to a format. -/
def FSpec.ulpExp (s : FSpec) (m : Nat) (e : Int) : Int :=
  max ((m.log2 : Int) + e - s.mb) (1 - s.bias - s.mb)

/-- What rounding a magnitude gives: the code without sign, and whether the result is inexact or tiny after rounding. -/
structure Rounded where
  code : Nat
  inexact : Bool
  tiny : Bool
  deriving DecidableEq, Repr

/-- m × 2^e in units of 2^q: the integer part and the fraction as (remainder, bits of the fraction). -/
def unitsOf (m : Nat) (e q : Int) : Nat × Nat × Nat :=
  if q ≤ e then (m * 2 ^ (e - q).toNat, 0, 0)
  else
    let s := (q - e).toNat
    (m >>> s, m % 2 ^ s, s)

/-- Round half to even: n plus the fraction r / 2^s. -/
def rne (n r s : Nat) : Nat :=
  if s = 0 then n
  else if 2 ^ (s - 1) < r then n + 1
  else if r = 2 ^ (s - 1) then n + n % 2
  else n

/-- The code of n units of 2^q in a format. -/
def FSpec.codeOf (s : FSpec) (n : Nat) (q : Int) : Nat := ((q - (1 - s.bias - s.mb)).toNat) * 2 ^ s.mb + n

/-- Round a magnitude m × 2^e to a format with round-to-nearest-even; the code may lie above the largest finite one. -/
def FSpec.round (s : FSpec) (m : Nat) (e : Int) : Rounded :=
  if m = 0 then ⟨0, false, false⟩
  else
    let q := s.ulpExp m e
    let (n, r, k) := unitsOf m e q
    let n' := rne n r k
    -- tiny after rounding: with an unbounded exponent the result still lies below the least normal
    let q0 := (m.log2 : Int) + e - s.mb
    let (n0, r0, k0) := unitsOf m e q0
    let up := decide (rne n0 r0 k0 = 2 ^ (s.mb + 1))
    let l : Int := (m.log2 : Int) + e + (if up then 1 else 0)
    ⟨s.codeOf n' q, decide (r ≠ 0), decide (l < 1 - s.bias)⟩

/-- Round a magnitude stochastically with the draw u (R152). -/
def FSpec.roundSR (s : FSpec) (u m : Nat) (e : Int) : Rounded :=
  if m = 0 then ⟨0, false, false⟩
  else
    let q := s.ulpExp m e
    let (n, r, k) := unitsOf m e q
    let d := (r * 2 ^ 32) >>> k
    let n' := if 2 ^ 32 ≤ d + u then n + 1 else n
    let rd := s.round m e
    ⟨s.codeOf n' q, rd.inexact, rd.tiny⟩

/-- A binary32 from sign and code magnitude. -/
def mk32 (neg : Bool) (mag : Nat) : BitVec 32 := BitVec.ofNat 32 ((if neg then 0x80000000 else 0) + mag)

/-- ±infinity. -/
def inf32 (neg : Bool) : BitVec 32 := mk32 neg 0x7F800000

/-- ±zero. -/
def zero32 (neg : Bool) : BitVec 32 := mk32 neg 0

/-- A quieted NaN as a binary32. -/
def qnan32 (neg : Bool) (frac : Nat) : BitVec 32 := mk32 neg (0x7F800000 ||| frac ||| 0x400000)

/-- An exact finite value rounded to binary32, with the fast-mode or strict-mode flags. -/
def fin32 (strict neg : Bool) (m : Nat) (e : Int) : BitVec 32 × Nat :=
  let r := spec32.round m e
  if spec32.maxCode < r.code then (inf32 neg, ovfFlags strict)
  else (mk32 neg r.code, if strict then ieFlags r.inexact false r.tiny else 0)

/-- An exact signed number with its exponent: i × 2^e. -/
abbrev Dy := Int × Int

/-- Exact sum of two dyadics. -/
def Dy.add (a b : Dy) : Dy :=
  let e := min a.2 b.2
  (a.1 * 2 ^ (a.2 - e).toNat + b.1 * 2 ^ (b.2 - e).toNat, e)

/-- Sign and magnitude as a signed number. -/
def sgn (neg : Bool) (m : Nat) : Int := if neg then -(m : Int) else (m : Int)

/-- Fast-mode node addition (R144, Table 75). -/
def addFast (a b : BitVec 32) : BitVec 32 × Nat :=
  match dec32 a, dec32 b with
  | .nan .., _ => (cnan, 0)
  | _, .nan .. => (cnan, 0)
  | .inf na, .inf nb => if na = nb then (inf32 na, 0) else (cnan, flInv)
  | .inf na, _ => (inf32 na, 0)
  | _, .inf nb => (inf32 nb, 0)
  | .fin na ma ea, .fin nb mb eb =>
    let s := Dy.add (sgn na ma, ea) (sgn nb mb, eb)
    if s.1 = 0 then (zero32 (na && nb && ma = 0), 0)
    else fin32 false (decide (s.1 < 0)) s.1.natAbs s.2

/-- IEEE addition of strict mode (R158): of two NaNs the left operand, quieted. -/
def addStrict (a b : BitVec 32) : BitVec 32 × Nat :=
  match dec32 a, dec32 b with
  | .nan n f sn, .nan _ _ sn' => (qnan32 n f, if sn || sn' then flIeInvalid else 0)
  | .nan n f sn, _ => (qnan32 n f, if sn then flIeInvalid else 0)
  | _, .nan n f sn => (qnan32 n f, if sn then flIeInvalid else 0)
  | .inf na, .inf nb => if na = nb then (inf32 na, 0) else (cnan, flIeInvalid)
  | .inf na, _ => (inf32 na, 0)
  | _, .inf nb => (inf32 nb, 0)
  | .fin na ma ea, .fin nb mb eb =>
    let s := Dy.add (sgn na ma, ea) (sgn nb mb, eb)
    if s.1 = 0 then (zero32 (na && nb && ma = 0 && mb = 0), 0)
    else fin32 true (decide (s.1 < 0)) s.1.natAbs s.2

/-- The addition of a section's mode (R141). -/
def addMode (strict : Bool) (a b : BitVec 32) : BitVec 32 × Nat := if strict then addStrict a b else addFast a b

/-- fusedMultiplyAdd a × b + s of strict mode (R157), NaN operands in the order s, a, b. -/
def fmaStrict (a b s : FV) : BitVec 32 × Nat :=
  let sg (v : FV) : Bool := match v with
    | .nan _ _ sn => sn
    | _ => false
  let inv := if sg a || sg b || sg s then flIeInvalid else 0
  let zero (v : FV) : Bool := match v with
    | .fin _ 0 _ => true
    | _ => false
  let isInf (v : FV) : Bool := match v with
    | .inf _ => true
    | _ => false
  let zi := (zero a && isInf b) || (isInf a && zero b)
  match s, a, b with
  | .nan n f _, _, _ => (qnan32 n f, inv)
  | _, .nan n f _, _ => (qnan32 n f, inv)
  | _, _, .nan n f _ => (qnan32 n f, inv)
  | s, .inf na, b | s, b, .inf na =>
    if zi then (cnan, flIeInvalid)
    else
      let nb := match b with
        | .inf n => n
        | .fin n _ _ => n
        | .nan .. => false
      let np := na != nb
      match s with
      | .inf ns => if ns = np then (inf32 np, 0) else (cnan, flIeInvalid)
      | _ => (inf32 np, 0)
  | .inf ns, _, _ => (inf32 ns, 0)
  | .fin ns ms es, .fin na ma ea, .fin nb mb eb =>
    let np := na != nb
    let t := Dy.add (sgn np (ma * mb), ea + eb) (sgn ns ms, es)
    if t.1 = 0 then (zero32 (np && ns && decide (ma * mb = 0) && decide (ms = 0)), 0)
    else fin32 true (decide (t.1 < 0)) t.1.natAbs t.2

/-- A quotient of two magnitudes, ma × 2^ea by mb × 2^eb, with enough bits and a sticky bit below them. -/
def quot (ma : Nat) (ea : Int) (mb : Nat) (eb : Int) : Nat × Int :=
  let k := 40 + mb.log2 + 1 - ma.log2
  let n := ma * 2 ^ k / mb
  let st := if ma * 2 ^ k % mb = 0 then 0 else 1
  (2 * n + st, ea - eb - k - 1)

/-- FP32 division with round-to-nearest-even (R154), fast or strict. -/
def div32 (strict : Bool) (a b : BitVec 32) : BitVec 32 × Nat :=
  let iv := if strict then flIeInvalid else flInv
  match dec32 a, dec32 b with
  | .nan n f sn, .nan _ _ sn' => if strict then (qnan32 n f, if sn || sn' then flIeInvalid else 0) else (cnan, 0)
  | .nan n f sn, _ => if strict then (qnan32 n f, if sn then flIeInvalid else 0) else (cnan, 0)
  | _, .nan n f sn => if strict then (qnan32 n f, if sn then flIeInvalid else 0) else (cnan, 0)
  | .inf _, .inf _ => (cnan, iv)
  | .inf na, .fin nb _ _ => (inf32 (na != nb), 0)
  | .fin na _ _, .inf nb => (zero32 (na != nb), 0)
  | .fin na ma ea, .fin nb mb eb =>
    let n := na != nb
    if mb = 0 then if ma = 0 then (cnan, iv) else (inf32 n, if strict then flIeDivZero else flOvf)
    else if ma = 0 then (zero32 n, 0)
    else
      let (q, e) := quot ma ea mb eb
      fin32 strict n q e

/-- x × 2^k rounded to nearest even (scaleB, R122). -/
def scale32 (x : BitVec 32) (k : Int) : BitVec 32 :=
  match dec32 x with
  | .nan n f _ => qnan32 n f
  | .inf n => inf32 n
  | .fin n m e =>
    let r := spec32.round m (e + k)
    if spec32.maxCode < r.code then inf32 n else mk32 n r.code

/-- Does the format saturate beyond its range (Table 77): the 6-bit and 4-bit floats always, E4M3 with E4M3_SAT? -/
def Fmt.saturates (f : Fmt) (sat : Bool) : Bool :=
  match f with
  | .e2m3 | .e3m2 | .e2m1 => true
  | .e4m3 => sat
  | _ => false

/-- The sign bit of a float format placed on a magnitude code. -/
def FSpec.signed (s : FSpec) (neg : Bool) (mag : Nat) : Nat := (if neg then 2 ^ (s.eb + s.mb) else 0) + mag

/-- A finite value beyond the target's range (Table 77, R151, R158). -/
def overRange (strict sat : Bool) (f : Fmt) (s : FSpec) (neg : Bool) : Nat × Nat :=
  if f.saturates sat then (s.signed neg s.maxCode, flSat ||| (if strict then flIeOverflow ||| flIeInexact else 0))
  else match f with
    | .e4m3 => (if strict then s.signed neg 0x7F else 0x7F, ovfFlags strict)
    | _ => (s.signed neg (s.maxCode + 1), ovfFlags strict)

/-- An infinity converted to a float target (Table 77, R151). -/
def convInf (strict sat : Bool) (f : Fmt) (s : FSpec) (neg : Bool) : Nat × Nat :=
  if f.saturates sat then (s.signed neg s.maxCode, flSat ||| (if strict then flIeOverflow ||| flIeInexact else 0))
  else match f with
    | .e4m3 => if strict then (s.signed neg 0x7F, flIeInvalid) else (0x7F, flOvf)
    | _ => (s.signed neg (s.maxCode + 1), 0)

/-- A NaN converted to a target (Table 77, R158). -/
def convNan (strict : Bool) (f : Fmt) (neg : Bool) (frac : Nat) (snan : Bool) : Nat × Nat :=
  let si := if strict && snan then flIeInvalid else 0
  match f with
  | .e2m3 | .e3m2 | .e2m1 | .int8 | .int4 => (0, if strict then flIeInvalid else flInv)
  | .e4m3 => (if strict then (if neg then 0xFF else 0x7F) else 0x7F, si)
  | .e5m2 => (if strict then (if neg then 0x80 else 0) + 0x7C + ((frac >>> 21) ||| 2) else 0x7F, si)
  | .bf16 => (if strict then (if neg then 0x8000 else 0) + 0x7F80 + ((frac >>> 16) ||| 0x40) else 0x7FC0, si)
  | .fp16 => (if strict then (if neg then 0x8000 else 0) + 0x7C00 + ((frac >>> 13) ||| 0x200) else 0x7E00, si)
  | .fp32 => (if strict then (qnan32 neg frac).toNat else 0x7FC00000, si)

/-- A magnitude m × 2^e converted to an integer format: nearest even, or stochastic with the draw u. -/
def convInt (strict : Bool) (u : Option Nat) (w : Nat) (neg : Bool) (m : Nat) (e : Int) : Nat × Nat :=
  let (n, r, k) := unitsOf m e 0
  let top := if neg then 2 ^ (w - 1) else 2 ^ (w - 1) - 1
  let n' := match u with
    | some u => if top < n || (n = top && r ≠ 0) then rne n r k else if 2 ^ 32 ≤ (r * 2 ^ 32) >>> k + u then n + 1 else n
    | none => rne n r k
  if top < n' then (wrapN w (sgn neg top), flSat ||| (if strict then flIeOverflow ||| flIeInexact else 0))
  else (wrapN w (sgn neg n'), if strict && r ≠ 0 then flIeInexact else 0)

/-- Convert a finite number to a target format under Table 77, with an optional draw for stochastic rounding. -/
def convFin (strict sat : Bool) (u : Option Nat) (f : Fmt) (neg : Bool) (m : Nat) (e : Int) : Nat × Nat :=
  match f.spec with
  | none => convInt strict u f.bits neg m e
  | some s =>
    if m = 0 then (s.signed neg 0, 0)
    else
      let rd := s.round m e
      let ovr := decide (s.maxCode < rd.code)
      -- beyond the range: the largest finite magnitude is below the value (R152: then as round-to-nearest-even)
      let inRange := match s.dec false s.maxCode with
        | .fin _ mm em => decide ((Dy.add ((mm : Int), em) (-(m : Int), e)).1 ≥ 0)
        | _ => false
      let r := match u with
        | some u => if inRange then s.roundSR u m e else rd
        | none => rd
      if ovr && !(u.isSome && inRange) then overRange strict sat f s neg
      else (s.signed neg r.code, if strict then ieFlags r.inexact false r.tiny else 0)

/-- Convert a binary32 to a target format (R150 to R152, R158). FP32 itself is unchanged, but that strict mode quiets a NaN. -/
def conv32 (strict sat : Bool) (u : Option Nat) (f : Fmt) (x : BitVec 32) : Nat × Nat :=
  match dec32 x with
  | .nan n fr sn => if f = .fp32 ∧ !strict then (x.toNat, 0) else convNan strict f n fr sn
  | .inf n =>
    match f.spec with
    | none => (wrapN f.bits (sgn n (if n then 2 ^ (f.bits - 1) else 2 ^ (f.bits - 1) - 1)), flSat ||| (if strict then flIeOverflow ||| flIeInexact else 0))
    | some s => if f = .fp32 then (x.toNat, 0) else convInf strict sat f s n
  | .fin n m e => if f = .fp32 then (x.toNat, 0) else convFin strict sat u f n m e

/-- Flags of an integer-class conversion: OVF in both modes (Table 79), with the IEEE flags of R158 beside it in strict mode. -/
def convSum (strict sat : Bool) (u : Option Nat) (f : Fmt) (i : Int) : Nat × Nat :=
  let (c, fl) := convFin strict sat u f (decide (i < 0)) i.natAbs 0
  (c, if strict && fl &&& flIeOverflow ≠ 0 && fl &&& flSat = 0 then fl ||| flOvf else fl)

/-- The counter generator (R153): a 32-bit draw from the section, a tile key and an element index. -/
def draw (sect tile e : Nat) : Nat :=
  let w : Word := BitVec.ofNat 64 sect ^^^ (BitVec.ofNat 64 (tile % 2 ^ 32 * 1024 ||| e % 1024))
  (mix64 w).toNat >>> 32

/-- The E4M3 code of an E2M1 code (R135, Table 73). -/
def expandE2m1 (c : Nat) : Nat :=
  (if c.testBit 3 then 0x80 else 0) + nthD [0x00, 0x30, 0x38, 0x3C, 0x40, 0x44, 0x48, 0x4C] (c % 8) 0

end Sys2Proof.Machine
end

