-- ==== Sys2Proof/Machine/StAcc.lean ====
section
/-! DEFINITION. The accumulators of a cell (R112 to R115, R138, R142): entries of the cairn stack, integer row sums, counts and flags. -/

namespace Sys2Proof.Machine

/-- One entry of a row's cairn stack (R142): node (lvl, idx) with its 32 column values. -/
structure AccEntry where
  row : Nat
  lvl : Nat
  idx : Nat
  vals : List (BitVec 32)
  deriving DecidableEq, Repr

/-- One accumulator. -/
structure Acc where
  cls : Nat := 0                     -- 0 none, 1 float, 2 integer
  closed : Bool := false
  base : Nat := 0                    -- LEAF_BASE
  entries : List AccEntry := []
  sums : SMap Word := []             -- integer row sums, under 32 × row + column
  push : List Nat := List.replicate 32 0   -- push counts (R113)
  cover : List Nat := List.replicate 32 0  -- coverage counts (R148)
  flags : Nat := 0                   -- Table 79
  deriving DecidableEq, Repr

end Sys2Proof.Machine
end

