-- ==== Sys2Proof/Machine/Cairn.lean ====
section
/-! DEFINITION. Leaves, the cairn tree, pushes, frames and root drains (R112 to R115, R136 to R154, R157). Every operation is a function of the operands
and of the accumulator, so its result never depends on timing (R149). -/

namespace Sys2Proof.Machine

/-! ### Leaves -/

/-- One leaf's operands: element codes of A and B in ascending j, with the scale codes of the blocks that hold them (127 where unscaled). -/
structure Leaf where
  fa : Fmt
  fb : Fmt
  sa : Nat
  sb : Nat
  scaledA : Bool
  scaledB : Bool
  els : List (Nat × Nat)
  deriving DecidableEq, Repr

/-- Is either value a NaN? -/
def FV.isNan : FV → Bool
  | .nan .. => true
  | _ => false

/-- An element after the exact 4-bit expansion of R135, which keeps every value. -/
def elemVal (f : Fmt) (c : Nat) : FV :=
  match f with
  | .e2m1 => Fmt.e4m3.dec (expandE2m1 (c % 16))
  | f => f.dec c

/-- What one product contributes to a fast-mode leaf (Table 74). -/
inductive Prod where
  | nan | bad | inf (neg : Bool) | fin (neg : Bool) (m : Nat) (e : Int)
  deriving DecidableEq, Repr

/-- The product of two element values. -/
def FV.mul : FV → FV → Prod
  | .nan .., _ => .nan
  | _, .nan .. => .nan
  | .inf a, .inf b => .inf (a != b)
  | .inf a, .fin b m _ => if m = 0 then .bad else .inf (a != b)
  | .fin a m _, .inf b => if m = 0 then .bad else .inf (a != b)
  | .fin a m e, .fin b n f => .fin (a != b) (m * n) (e + f)

/-- Exact sum of the finite products. -/
def sumProds (l : List Prod) : Dy :=
  l.foldl (fun s p => match p with
    | .fin n m e => Dy.add s (sgn n m, e)
    | _ => s) (0, 0)

/-- Are all products −0? -/
def allNegZero (l : List Prod) : Bool :=
  l.all (fun p => match p with
    | .fin n m _ => n && decide (m = 0)
    | _ => false)

/-- The largest floor(log2 |p|) of the non-zero products (R137 step 2). -/
def topExp (l : List Prod) : Option Int :=
  l.foldl (fun acc p => match p with
    | .fin _ m e => if m = 0 then acc else
        let x := (m.log2 : Int) + e
        match acc with
        | some y => some (max x y)
        | none => some x
    | _ => acc) none

/-- Truncated sum in units of 2^(E − 73) with the sticky bit of R137. -/
def windowSum (top : Int) (l : List Prod) : Int × Bool :=
  l.foldl (fun (s : Int × Bool) p => match p with
    | .fin n m e =>
      let (q, r, _) := unitsOf m e (top - 73)
      (s.1 + sgn n q, s.2 || decide (r ≠ 0))
    | _ => s) (0, false)

/-- A float leaf of fast mode (R136, R137, R139, R140). -/
def leafFast (lf : Leaf) : BitVec 32 × Nat :=
  let k : Int := (lf.sa : Int) + lf.sb - 254
  let wide := lf.fa.cls = .f16 || lf.fa.cls = .f32 || lf.fb.cls = .f16 || lf.fb.cls = .f32
  let ps := lf.els.map (fun p => FV.mul (elemVal lf.fa p.1) (elemVal lf.fb p.2))
  if (lf.scaledA && lf.sa = 255) || (lf.scaledB && lf.sb = 255) || ps.any (· = .nan) then (cnan, flNanIn)
  else if ps.any (· = .bad) then (cnan, flInv)
  else if ps.any (· = .inf false) && ps.any (· = .inf true) then (cnan, flInv)
  else if ps.any (· = .inf false) then (inf32 false, 0)
  else if ps.any (· = .inf true) then (inf32 true, 0)
  else if wide then
    let ps := ps.map (fun p => match p with
      | .fin n m e => .fin n m (e + k)
      | p => p)
    match topExp ps with
    | none => (zero32 (allNegZero ps), 0)
    | some top =>
      let (s, st) := windowSum top ps
      if s = 0 then (zero32 false, 0)
      else fin32 false (decide (s < 0)) (4 * s.natAbs + (if st then 1 else 0)) (top - 75)
  else
    let s := sumProds ps
    if s.1 = 0 then (zero32 (allNegZero ps), 0)
    else fin32 false (decide (s.1 < 0)) s.1.natAbs (s.2 + k)

/-- A scaled element as binary32 in strict mode (R157). -/
def strictElem (f : Fmt) (scaled : Bool) (sc c : Nat) : FV × Nat :=
  let v := elemVal f c
  if !scaled then (v, 0)
  else if sc = 255 then (.nan false 0x400000 false, 0)
  else match v with
    | .nan n fr sn => (.nan n (fr ||| 0x400000) false, if sn then flIeInvalid else 0)
    | .inf n => (.inf n, 0)
    | .fin n m e =>
      if m = 0 then (.fin n 0 0, 0)
      else
        let (x, fl) := fin32 true n m (e + sc - 127)
        (dec32 x, fl)

/-- A float leaf of strict mode (R157). -/
def leafStrict (lf : Leaf) : BitVec 32 × Nat :=
  lf.els.foldl (fun (s : BitVec 32 × Nat) p =>
    let (a, f1) := strictElem lf.fa lf.scaledA lf.sa p.1
    let (b, f2) := strictElem lf.fb lf.scaledB lf.sb p.2
    let (x, f3) := fmaStrict a b (dec32 s.1)
    (x, s.2 ||| f1 ||| f2 ||| f3)) (zero32 true, 0)

/-- An integer leaf (R138): the value and its flags. -/
def leafInt (lf : Leaf) : Int × Nat :=
  if (lf.scaledA && lf.sa = 255) || (lf.scaledB && lf.sb = 255) then (0, flInv)
  else
    let sum : Int := lf.els.foldl (fun s p => s + sxt lf.fa.bits p.1 * sxt lf.fb.bits p.2) 0
    let c : Int := ((lf.sa : Int) - 127) + ((lf.sb : Int) - 127)
    if 0 ≤ c then
      let r := sum.natAbs * 2 ^ c.toNat
      if 2 ^ 47 ≤ r then (sgn (decide (sum < 0)) (2 ^ 47 - 1), flOvf) else (sgn (decide (sum < 0)) r, 0)
    else
      let s := (-c).toNat
      let n := rne (sum.natAbs >>> s) (sum.natAbs % 2 ^ s) s
      (sgn (decide (sum < 0)) n, if sum.natAbs % 2 ^ s = 0 then 0 else flInxInt)

/-- A leaf result: 32 bits of a float leaf, or an integer leaf. -/
inductive LeafVal where
  | flt (x : BitVec 32)
  | int (i : Int)
  deriving DecidableEq, Repr

/-- The result of a leaf in a section's mode. -/
def Leaf.eval (strict : Bool) (lf : Leaf) : LeafVal × Nat :=
  if lf.fa.isInt then
    let (i, f) := leafInt lf
    (.int i, f)
  else
    let (x, f) := if strict then leafStrict lf else leafFast lf
    (.flt x, f)

/-- A leaf result as a word of the unit digest (R370). -/
def LeafVal.word : LeafVal → Word
  | .flt x => x.zeroExtend 64
  | .int i => BitVec.ofInt 64 i

/-- The leaves one row takes from one instruction: in leaf order, 32 columns each. -/
abbrev RowLeaves := Nat × List (List (LeafVal × Nat))

/-! ### Operand layout -/

/-- Element codes of a byte list under a format (R130). -/
def codesOf (f : Fmt) (l : List Byte) : List Nat :=
  match f.bits with
  | 4 => l.flatMap (fun b => [b.toNat % 16, b.toNat / 16])
  | 8 => l.map (fun b => match f with
      | .e2m3 | .e3m2 => b.toNat % 64
      | _ => b.toNat)
  | 16 => chunkWords (l.length / 2) 2 l
  | _ => chunkWords (l.length / 4) 4 l

/-- Bytes that n elements of a format take. -/
def Fmt.bytes (f : Fmt) (n : Nat) : Nat := n * f.bits / 8

/-- Size of a tile with its scales (Table 72). -/
def tileBytes (f : Fmt) (scl : Nat) : Nat := f.bytes 1024 + 32 * sclBytes scl

/-- Rows of element codes of a tile (R133). -/
def tileRows (f : Fmt) (l : List Byte) : List (List Nat) :=
  blocksOf 32 32 (codesOf f (sliceB l 0 (f.bytes 1024)))

/-- The scale codes of a tile: one list of `sclBytes` codes for each of 32 rows or columns (R133). -/
def tileScales (f : Fmt) (scl : Nat) (l : List Byte) : List (List Nat) :=
  (List.range 32).map (fun r => (sliceB l (f.bytes 1024 + r * sclBytes scl) (sclBytes scl)).map (·.toNat))

/-- Column n of a list of rows. -/
def columnOf (rows : List (List Nat)) (n : Nat) : List Nat := rows.map (fun r => nthD r n 0)

/-- The scale code of the block that holds leaf o of length λ. -/
def scaleAt (scl lam o : Nat) (sc : List Nat) : Nat :=
  match scl with
  | 1 => nthD sc 0 127
  | 2 => nthD sc (o * lam / 16) 127
  | _ => 127

/-- The leaves of a row of A codes against a column of B codes, k products, leaf length λ. -/
def leavesOf (fa fb : Fmt) (sclA sclB k : Nat) (a b : List Nat) (sa sb : List Nat) : List Leaf :=
  let lam := leafLen sclA sclB
  let ps := blocksOf 32 lam ((a.zip b).take k)
  (List.range ps.length).map (fun o =>
    { fa := fa, fb := fb, sa := scaleAt sclA lam o sa, sb := scaleAt sclB lam o sb, scaledA := decide (sclA ≠ 0), scaledB := decide (sclB ≠ 0),
      els := nthD ps o [] })

/-- Turn a list of 32 column lists into a list of ordinals of 32 columns each. -/
def byOrdinal {α : Type} (cols : List (List α)) : List (List α) :=
  match cols with
  | [] => []
  | c :: _ => (List.range c.length).map (fun o => cols.filterMap (fun l => l[o]?))

/-- The leaves of one row against 32 columns. -/
def rowLeaves (strict : Bool) (fa fb : Fmt) (sclA sclB k : Nat) (a : List Nat) (sa : List Nat) (cols : List (List Nat)) (sbs : List (List Nat)) :
    List (List (LeafVal × Nat)) :=
  byOrdinal ((List.range 32).map (fun n =>
    (leavesOf fa fb sclA sclB k a (nthD cols n []) sa (nthD sbs n [])).map (Leaf.eval strict)))

/-- The leaves of an A.MMA (R112): rows below m of the tile images A and B. -/
def mmaLeaves (strict : Bool) (fa fb : Fmt) (sclA sclB k m : Nat) (ta tb : List Byte) : List RowLeaves :=
  let ra := tileRows fa ta
  let sa := tileScales fa sclA ta
  let rb := tileRows fb tb
  let sb := tileScales fb sclB tb
  let cols := (List.range 32).map (columnOf rb)
  (List.range m).map (fun r => (r, rowLeaves strict fa fb sclA sclB k (nthD ra r []) (nthD sa r []) cols sb))

/-- The digest of a unit over its leaf results: ascending row, column, leaf (R370). -/
def unitDigest (l : List RowLeaves) : Word × Word :=
  cairnHash (l.flatMap (fun r => (List.range 32).flatMap (fun n => r.2.filterMap (fun o => (o[n]?).map (fun x => x.1.word)))))

/-! ### The cairn stack -/

/-- Does an entry cover a leaf? -/
def AccEntry.covers (e : AccEntry) (r leaf : Nat) : Bool :=
  decide (e.row = r) && decide (e.idx * 2 ^ e.lvl ≤ leaf) && decide (leaf < (e.idx + 1) * 2 ^ e.lvl)

/-- Do an entry and a node (v, i) of the same row overlap? -/
def AccEntry.overlaps (e : AccEntry) (r v i : Nat) : Bool :=
  decide (e.row = r) && decide (e.idx * 2 ^ e.lvl < (i + 1) * 2 ^ v) && decide (i * 2 ^ v < (e.idx + 1) * 2 ^ e.lvl)

/-- Add two rows of values column by column. -/
def addRow (strict : Bool) (a b : List (BitVec 32)) : List (BitVec 32) × Nat :=
  ((a.zip b).map (fun p => (addMode strict p.1 p.2).1), (a.zip b).foldl (fun f p => f ||| (addMode strict p.1 p.2).2) 0)

/-- The insert procedure of R143, with fuel for the levels it can climb. -/
def insertEntry (strict : Bool) : Nat → List AccEntry → Nat → Nat → Nat → List (BitVec 32) → List AccEntry × Nat
  | 0, es, r, v, i, x => (es ++ [⟨r, v, i, x⟩], 0)
  | f + 1, es, r, v, i, x =>
    match es.find? (fun e => decide (e.row = r) && decide (e.lvl = v) && decide (e.idx = i ^^^ 1)) with
    | none => (es ++ [⟨r, v, i, x⟩], 0)
    | some s =>
      let (y, fl) := if i % 2 = 0 then addRow strict x s.vals else addRow strict s.vals x
      let (es', fl') := insertEntry strict f (es.filter (fun e => e != s)) r (v + 1) (i / 2) y
      (es', fl ||| fl')

/-- The distinct tags of a stack: the slots of R142. -/
def tagsOf (es : List AccEntry) : List (Nat × Nat) := (es.map (fun e => (e.lvl, e.idx))).eraseDups

/-- Columns of one ordinal as FP32 values. -/
def floatCols (l : List (LeafVal × Nat)) : List (BitVec 32) :=
  l.map (fun p => match p.1 with
    | .flt x => x
    | .int _ => 0)

/-- Flags of one ordinal. -/
def colFlags (l : List (LeafVal × Nat)) : Nat := l.foldl (fun f p => f ||| p.2) 0

/-- Add the columns of an integer ordinal into a row's sums (R138). -/
def addSums (r : Nat) (l : List (LeafVal × Nat)) (m : SMap Word) : SMap Word :=
  ((List.range l.length).zip l).foldl (fun m p => match p.2.1 with
    | .int i => SMap.upd 0 (32 * r + p.1) (· + BitVec.ofInt 64 i) m
    | .flt _ => m) m

/-- Change element i of a list. -/
def updNth {α : Type} (l : List α) (i : Nat) (f : α → α) : List α := l.modify i f

/-- Highest row push count (MAX_LEAVES). -/
def Acc.maxLeaves (a : Acc) : Nat := a.push.foldl max 0

/-- Insert ordinal o of every row; none when a thirteenth slot would be needed (R142). -/
def pushOrdinal (strict : Bool) (o : Nat) (rows : List RowLeaves) (a : Acc) : Option Acc :=
  let a' := rows.foldl (fun (a : Acc) r =>
    match r.2[o]? with
    | none => a
    | some cols =>
      let leaf := a.base + nthD a.push r.1 0
      let a := { a with push := updNth a.push r.1 (· + 1), cover := updNth a.cover r.1 (· + 1), flags := a.flags ||| colFlags cols }
      if a.cls = 2 then { a with sums := addSums r.1 cols a.sums }
      else
        let (es, fl) := insertEntry strict 24 a.entries r.1 0 leaf (floatCols cols)
        { a with entries := es, flags := a.flags ||| fl }) a
  if 12 < (tagsOf a'.entries).length then none else some a'

/-- Push every ordinal in turn. -/
def pushOrdinals (strict : Bool) (rows : List RowLeaves) : Nat → Nat → Acc → Option Acc
  | 0, _, a => some a
  | n + 1, o, a =>
    match pushOrdinal strict o rows a with
    | none => none
    | some a' => pushOrdinals strict rows n (o + 1) a'

/-- Faults of an accumulator operation (Tables 63 and 80). -/
def evAccClosed : Nat := 0x3141
def evCairnFull : Nat := 0x3142
def evFmtMismatch : Nat := 0x3143
def evCairnOverlap : Nat := 0x3148
def evFrameBad : Nat := 0x3149

/-- Does a push meet a leaf that the row already covers (R115)? -/
def pushOverlaps (a : Acc) (rows : List RowLeaves) : Bool :=
  rows.any (fun r => (List.range r.2.length).any (fun o => a.entries.any (fun e => e.covers r.1 (a.base + nthD a.push r.1 0 + o))))

/-- Does a push take a row above 4,096 leaves (R115)? -/
def pushTooMany (a : Acc) (rows : List RowLeaves) : Bool := rows.any (fun r => decide (4096 < nthD a.push r.1 0 + r.2.length))

/-- Push the leaves of an A.MMA, M.MV or F.PAIR (R113 to R115): the first fault that applies, or the new accumulator. -/
def Acc.pushAll (strict isInt fin : Bool) (rows : List RowLeaves) (a : Acc) : Nat ⊕ Acc :=
  let c := if isInt then 2 else 1
  if a.closed then .inl evAccClosed
  else if a.cls ≠ 0 && a.cls ≠ c then .inl evFmtMismatch
  else if pushOverlaps a rows then .inl evCairnOverlap
  else if pushTooMany a rows then .inl evCairnFull
  else
    let n := rows.foldl (fun m r => max m r.2.length) 0
    match pushOrdinals strict rows n 0 { a with cls := c } with
    | none => .inl evCairnFull
    | some a' => .inr { a' with closed := a'.closed || fin }

/-- A.ZERO (R115). -/
def Acc.zero (base : Nat) : Acc := { base := base }

/-! ### Drains -/

/-- Entries of a row in ascending order of first leaf. -/
def rowEntries (a : Acc) (r : Nat) : List AccEntry :=
  sortBy (fun (x y : AccEntry) => decide (x.idx * 2 ^ x.lvl ≤ y.idx * 2 ^ y.lvl)) (a.entries.filter (fun e => decide (e.row = r)))

/-- The root of a row (R145): 32 values and the flags its additions raise. -/
def rowRoot (strict : Bool) (a : Acc) (r : Nat) : List (BitVec 32) × Nat :=
  match (rowEntries a r).reverse with
  | [] => (List.replicate 32 0, 0)
  | last :: rest => rest.foldl (fun (x : List (BitVec 32) × Nat) e =>
      let (y, f) := addRow strict e.vals x.1
      (y, x.2 ||| f)) (last.vals, 0)

/-- Drain one value of a row: NORM, then conversion with the draw for element e. -/
def drainFloat (strict sat : Bool) (f : Fmt) (norm : Option (BitVec 32)) (u : Option Nat) (x : BitVec 32) : Nat × Nat :=
  let (x, f1) := match norm with
    | some d => div32 strict x d
    | none => (x, 0)
  let (c, f2) := conv32 strict sat u f x
  (c, f1 ||| f2)

/-- Has a row 0 leaves (R117): no entry of its stack, or no leaf counted in its integer sums? -/
def Acc.rowEmpty (a : Acc) (r : Nat) : Bool := if a.cls = 2 then decide (nthD a.cover r 0 = 0) else a.entries.all (fun e => decide (e.row ≠ r))

/-- The codes of a root drain, 32 rows of 32, with the flags raised (R117, R145, R150); a row with 0 leaves drains as +0. -/
def rootDrain (strict sat : Bool) (f : Fmt) (norm : Option (List (BitVec 32))) (sr : Option (Nat × Nat)) (a : Acc) : List Nat × Nat :=
  let row (r : Nat) : List (Nat × Nat) × Nat :=
    let nr := norm.map (fun l => nthD l r 0)
    if a.rowEmpty r then (List.replicate 32 (0, 0), 0)
    else if a.cls = 2 then
      ((List.range 32).map (fun n =>
        let u := sr.map (fun k => draw k.1 k.2 (32 * r + n))
        let i := (SMap.get 0 a.sums (32 * r + n)).toInt
        match nr with
        | some d =>
          -- NORM is an FP32 division: the sum is first a binary32
          let (x, f0) := fin32 strict (decide (i < 0)) i.natAbs 0
          let (c, f1) := drainFloat strict sat f (some d) u (if i = 0 then 0 else x)
          (c, f1 ||| (if i = 0 then 0 else f0))
        | none => convSum strict sat u f i), 0)
    else
      let (vs, fl) := rowRoot strict a r
      (((List.range 32).zip vs).map (fun p => drainFloat strict sat f nr (sr.map (fun k => draw k.1 k.2 (32 * r + p.1))) p.2), fl)
  let rows := (List.range 32).map row
  (rows.flatMap (fun r => r.1.map (·.1)), rows.foldl (fun fl r => fl ||| r.2 ||| r.1.foldl (fun g p => g ||| p.2) 0) 0)

/-- Element codes packed into bytes under a format (R130). -/
def packCodes (f : Fmt) (l : List Nat) : List Byte :=
  match f.bits with
  | 4 => (blocksOf (l.length / 2 + 1) 2 l).map (fun p => BitVec.ofNat 8 (nthD p 0 0 % 16 + 16 * (nthD p 1 0 % 16)))
  | 8 => l.map (BitVec.ofNat 8)
  | 16 => l.flatMap (leBytes 2)
  | _ => l.flatMap (leBytes 4)

/-! ### Frames -/

/-- The slots of a float accumulator in frame order (R147): ascending first leaf, then descending level. -/
def frameTags (a : Acc) : List (Nat × Nat) :=
  sortBy (fun (x y : Nat × Nat) =>
    let fx := x.2 * 2 ^ x.1
    let fy := y.2 * 2 ^ y.1
    decide (fx < fy) || (decide (fx = fy) && decide (y.1 ≤ x.1))) (tagsOf a.entries)

/-- The rows that carry a tag, as a mask. -/
def tagMask (a : Acc) (t : Nat × Nat) : Nat :=
  (List.range 32).foldl (fun m r => if a.entries.any (fun e => e.row = r && e.lvl = t.1 && e.idx = t.2) then m + 2 ^ r else m) 0

/-- The 4,096 bytes of a slot (R147). -/
def slotBytes (a : Acc) (t : Nat × Nat) : List Byte :=
  (List.range 32).flatMap (fun r =>
    match a.entries.find? (fun e => e.row = r && e.lvl = t.1 && e.idx = t.2) with
    | some e => e.vals.flatMap (fun x => leBytes 4 x.toNat)
    | none => List.replicate 128 0)

/-- SLOTS of a frame (Table 76). -/
def Acc.slots (a : Acc) : Nat := if a.cls = 2 then 2 else if a.cls = 1 then (tagsOf a.entries).length else 0

/-- The cairn frame of an accumulator (R147, Table 76). -/
def Acc.frame (strict : Bool) (a : Acc) : List Byte :=
  let tags := if a.cls = 1 then frameTags a else []
  let head : List Byte := [0x43, 0x41, 0x49, 0x52, 1, BitVec.ofNat 8 a.cls, BitVec.ofNat 8 a.slots, if strict then 1 else 0]
  let tagWords := tags.map (fun t => t.2 + t.1 * 2 ^ 21 + tagMask a t * 2 ^ 32)
  let body := if a.cls = 2 then (List.range 1024).flatMap (fun k => leBytes 8 (SMap.get 0 a.sums k).toNat) else tags.flatMap (slotBytes a)
  head ++ leBytes 8 a.flags ++ leBytes 4 a.base ++ List.replicate 12 0 ++ a.cover.flatMap (leBytes 4) ++
    (tagWords ++ List.replicate (12 - tagWords.length) 0).flatMap (leBytes 8) ++ body

/-- A frame header's slots, checked under step 1 of R148: none when it is bad. -/
def frameHeadOk (strict : Bool) (h : List Byte) : Bool :=
  let cls := numAt h 5 1
  let slots := numAt h 6 1
  let tag (i : Nat) := numAt h (0xA0 + 8 * i) 8
  decide (numAt h 0 4 = 0x52494143) && decide (numAt h 4 1 = 1) && decide (cls ≤ 2) && decide (numAt h 7 1 = b2n strict) &&
    decide (numAt h 0x14 12 = 0) &&
    (match cls with
      | 0 => decide (slots = 0)
      | 1 => decide (slots ≤ 12)
      | _ => decide (slots = 2)) &&
    (List.range 12).all (fun i =>
      if cls = 1 && decide (i < slots) then decide (bitsOf (tag i) 31 26 = 0) && decide (bitsOf (tag i) 25 21 ≤ 21) && decide (bitsOf (tag i) 20 0 < 2 ^ (21 - bitsOf (tag i) 25 21))
      else decide (tag i = 0))

/-- Step 3 of R148: the flags of Table 79 and the coverage counts of a frame. -/
def Acc.takeHead (a : Acc) (h : List Byte) : Acc :=
  { a with cls := if numAt h 5 1 = 0 then a.cls else numAt h 5 1, flags := a.flags ||| (numAt h 8 8 &&& 0x1F3F),
           cover := (List.range 32).map (fun r => nthD a.cover r 0 + numAt h (0x20 + 4 * r) 4) }

/-- Step 4 of R148 for one slot of a float frame: the overlap and the slot limit are decided before any row changes. -/
def Acc.mergeSlot (strict : Bool) (lvl idx mask : Nat) (slot : List Byte) (a : Acc) : Nat ⊕ Acc :=
  let rows := (List.range 32).filter (fun r => mask.testBit r)
  if rows.any (fun r => a.entries.any (fun e => e.overlaps r lvl idx)) then .inl evCairnOverlap
  else
    let (es, fl) := rows.foldl (fun (s : List AccEntry × Nat) r =>
      let vals := (List.range 32).map (fun n => BitVec.ofNat 32 (numAt slot (128 * r + 4 * n) 4))
      let (es, f) := insertEntry strict 24 s.1 r lvl idx vals
      (es, s.2 ||| f)) (a.entries, 0)
    if 12 < (tagsOf es).length then .inl evCairnFull else .inr { a with entries := es, flags := a.flags ||| fl }

/-- Step 4 of R148 for one half of an integer frame: 16 rows of sums, added modulo 2^64. -/
def Acc.mergeSums (half : Nat) (slot : List Byte) (a : Acc) : Acc :=
  { a with sums := (List.range 512).foldl (fun m k =>
      let v := numAt slot (8 * k) 8
      if v = 0 then m else SMap.upd 0 (512 * half + k) (· + BitVec.ofNat 64 v) m) a.sums }

end Sys2Proof.Machine
end

