-- ==== Sys2Proof/Machine/Trans.lean ====
section
/-! DEFINITION. The correctly rounded functions (R172, R188): each is evaluated to more than 190 bits with integers, marked inexact by a sticky bit, and
rounded once. Exact results are told apart first, so the sticky bit is true of every other one. -/

namespace Sys2Proof.Machine

/-- π × 2^440, truncated. -/
def piFix : Nat := 0x3243f6a8885a308d313198a2e03707344a4093822299f31d0082efa98ec4e6c89452821e638d01377be5466cf34e90c6cc0ac29b7c97c50

/-- ln 2 × 2^260, truncated. -/
def ln2Fix : Nat := 0xb17217f7d1cf79abc9e3b39803f2f6af40f343267298b62d8a0d175b8baafa2be

/-- 2 / √π × 2^240, truncated. -/
def twoOverSqrtPi : Nat := 0x120dd750429b6d11ae3a914fed7fd8688281341d7587cea2e7342b06199cc

/-- Fraction bits of the fixed-point numbers below. -/
def fpP : Nat := 240

/-- One. -/
def fpOne : Nat := 2 ^ 240

/-- Product of two fixed-point numbers. -/
def fpMul (a b : Nat) : Nat := (a * b) >>> 240

/-- Sum of x^k / k! from term k on, with fuel. -/
def expSeries (x : Nat) : Nat → Nat → Nat → Nat
  | 0, _, _ => 0
  | f + 1, k, t => t + expSeries x f (k + 1) (fpMul t x / (k + 1))

/-- e^x for a fixed-point x in [0, 1). -/
def fpExp (x : Nat) : Nat := expSeries x 70 0 fpOne

/-- Sum of z^(2k+1) / (2k + 1) from term k on. -/
def atanhSeries (z2 : Nat) : Nat → Nat → Nat → Nat
  | 0, _, _ => 0
  | f + 1, k, t => t / (2 * k + 1) + atanhSeries z2 f (k + 1) (fpMul t z2)

/-- ln m for a fixed-point m in [1, 2]. -/
def fpLn (m : Nat) : Nat :=
  let z := (m - fpOne) * fpOne / (m + fpOne)
  2 * atanhSeries (fpMul z z) 90 0 z

/-- ln 2 as a fixed-point number. -/
def fpLn2 : Nat := ln2Fix >>> 20

/-- An exact magnitude m × 2^e as a fixed-point number, truncated. -/
def fpOf (m : Nat) (e : Int) : Nat :=
  let k := e + 240
  if 0 ≤ k then m * 2 ^ k.toNat else m >>> (-k).toNat

/-- Alternating series Σ (−1)^k x2^k × c_k with c_0 = 1 and c_(k+1) = c_k / d k, as positive and negative parts. -/
def altSeries (x2 : Nat) (d : Nat → Nat) : Nat → Nat → Nat → Nat × Nat
  | 0, _, _ => (0, 0)
  | f + 1, k, t =>
    let (p, n) := altSeries x2 d f (k + 1) (fpMul t x2 / d k)
    (t + n, p)

/-- Difference of the two parts of an alternating series. -/
def altVal (p : Nat × Nat) : Nat := p.1 - p.2

/-- sin x / x for a fixed-point x in [0, 2]. -/
def fpSinc (x : Nat) : Nat := altVal (altSeries (fpMul x x) (fun k => (2 * k + 2) * (2 * k + 3)) 60 0 fpOne)

/-- cos x for a fixed-point x in [0, 2]. -/
def fpCos (x : Nat) : Nat := altVal (altSeries (fpMul x x) (fun k => (2 * k + 1) * (2 * k + 2)) 60 0 fpOne)

/-- Terms of the error function: x2^k / (k! (2k + 1)), alternating. -/
def erfSeries (x2 : Nat) : Nat → Nat → Nat → Nat × Nat
  | 0, _, _ => (0, 0)
  | f + 1, k, t =>
    let (p, n) := erfSeries x2 f (k + 1) (fpMul t x2 / (k + 1))
    (t / (2 * k + 1) + n, p)

/-- erf x / x × √π / 2 for a fixed-point x in [0, 4]. -/
def fpErf (x : Nat) : Nat := altVal (erfSeries (fpMul x x) 160 0 fpOne)

/-- Digit by digit integer square root. -/
def isqrtGo (n : Nat) : Nat → Nat → Nat
  | 0, r => r
  | b + 1, r =>
    let c := r + 2 ^ b
    isqrtGo n b (if c * c ≤ n then c else r)

/-- Integer square root. -/
def isqrt (n : Nat) : Nat := isqrtGo n (n.log2 / 2 + 1) 0

/-- What a function gives before its one rounding: a special code with its flags, an exact number, or an inexact approximation n × 2^e. -/
inductive FnVal where
  | code (x : BitVec 32) (fl : Nat)
  | exact (neg : Bool) (m : Nat) (e : Int)
  | approx (neg : Bool) (n : Nat) (e : Int)
  deriving DecidableEq, Repr

/-- The one rounding to binary32. -/
def FnVal.round (strict : Bool) : FnVal → BitVec 32 × Nat
  | .code x fl => (x, fl)
  | .exact n m e => if m = 0 then (zero32 n, 0) else fin32 strict n m e
  | .approx n m e => fin32 strict n (2 * m + 1) (e - 1)

/-- e^x as (n, e) for x = ±(a fixed-point number below 2^12). -/
def expParts (neg : Bool) (x : Nat) : Nat × Int :=
  if neg then
    let k := x / fpLn2 + 1
    (fpExp (k * fpLn2 - x), -(k : Int) - 240)
  else
    let k := x / fpLn2
    (fpExp (x - k * fpLn2), (k : Int) - 240)

/-- e^x of a finite value; far beyond the range the result only has to round to zero or overflow. -/
def fnExp (neg : Bool) (m : Nat) (e : Int) : FnVal :=
  if m = 0 then .exact false 1 0
  else if 9 ≤ (m.log2 : Int) + e then if neg then .approx false 1 (-400) else .approx false 1 400
  else
    let (n, k) := expParts neg (fpOf m e)
    .approx false n k

/-- 2^x of a finite value. -/
def fnExp2 (neg : Bool) (m : Nat) (e : Int) : FnVal :=
  if m = 0 then .exact false 1 0
  else if 9 ≤ (m.log2 : Int) + e then if neg then .approx false 1 (-400) else .approx false 1 400
  else
    let x := fpOf m e
    let i := x >>> 240
    let fr := x % fpOne
    if 0 ≤ e || m % 2 ^ (-e).toNat = 0 then .exact false 1 (if neg then -(i : Int) else i)
    else if neg then .approx false (fpExp (fpMul (fpOne - fr) fpLn2)) (-(i : Int) - 1 - 240)
    else .approx false (fpExp (fpMul fr fpLn2)) ((i : Int) - 240)

/-- ln of a positive finite value, as a sign and a fixed-point number. -/
def lnParts (m : Nat) (e : Int) : Bool × Nat :=
  let l := m.log2
  let x := fpLn (m * 2 ^ 240 / 2 ^ l)
  let k := (l : Int) + e
  if 0 ≤ k then (false, k.toNat * fpLn2 + x)
  else
    let y := (-k).toNat * fpLn2
    if x ≤ y then (true, y - x) else (false, x - y)

/-- ln x of a positive finite value. -/
def fnLog (m : Nat) (e : Int) : FnVal :=
  if m = 2 ^ m.log2 && (m.log2 : Int) + e = 0 then .exact false 0 0
  else
    let (s, n) := lnParts m e
    .approx s n (-240)

/-- log2 x of a positive finite value. -/
def fnLog2 (m : Nat) (e : Int) : FnVal :=
  let k := (m.log2 : Int) + e
  if m = 2 ^ m.log2 then .exact (decide (k < 0)) k.natAbs 0
  else
    let (s, n) := lnParts m e
    .approx s (n * 2 ^ 240 / fpLn2) (-240)

/-- 1 / √x of a positive finite value. -/
def fnRsqrt (m : Nat) (e : Int) : FnVal :=
  -- x = m' × 4^h with m' = m or 2m, so 1 / √x = 2^(−h) / √m'
  let odd := decide (e % 2 ≠ 0)
  let m' := if odd then 2 * m else m
  let h := (if odd then e - 1 else e) / 2
  let r := isqrt (2 ^ 400 / m')
  if r * r * m' = 2 ^ 400 then .exact false r (-200 - h) else .approx false r (-200 - h)

/-- tanh x of a finite value. -/
def fnTanh (neg : Bool) (m : Nat) (e : Int) : FnVal :=
  if m = 0 then .exact neg 0 0
  else if 4 ≤ (m.log2 : Int) + e then .approx neg (2 ^ 60 - 1) (-60)
  else if (m.log2 : Int) + e < 0 then
    -- x × (sinh x / x) / cosh x
    let x2 := fpMul (fpOf m e) (fpOf m e)
    let sh := (List.range 50).foldl (fun (s : Nat × Nat) k => (s.1 + s.2, fpMul s.2 x2 / ((2 * k + 2) * (2 * k + 3)))) (0, fpOne)
    let ch := (List.range 50).foldl (fun (s : Nat × Nat) k => (s.1 + s.2, fpMul s.2 x2 / ((2 * k + 1) * (2 * k + 2)))) (0, fpOne)
    .approx neg (m * (sh.1 * fpOne / ch.1)) (e - 240)
  else
    let (n, k) := expParts true (2 * fpOf m e)
    let t := fpOf n k
    .approx neg ((fpOne - t) * fpOne / (fpOne + t)) (-240)

/-- 1 / (1 + e^(−x)) of a finite value. -/
def fnSigmoid (neg : Bool) (m : Nat) (e : Int) : FnVal :=
  if m = 0 then .exact false 1 (-1)
  else if 9 ≤ (m.log2 : Int) + e then if neg then .approx false 1 (-400) else .approx false (2 ^ 60 - 1) (-60)
  else
    let (n, k) := expParts true (fpOf m e)
    let t := fpOf n k
    if neg then .approx false (n * fpOne / (fpOne + t)) k else .approx false (fpOne * fpOne / (fpOne + t)) (-240)

/-- erf x of a finite value. -/
def fnErf (neg : Bool) (m : Nat) (e : Int) : FnVal :=
  if m = 0 then .exact neg 0 0
  else if 2 ≤ (m.log2 : Int) + e then .approx neg (2 ^ 60 - 1) (-60)
  else .approx neg (m * fpMul (fpErf (fpOf m e)) twoOverSqrtPi) (e - 240)

/-- Quadrant and remainder of a magnitude modulo π / 2: the remainder as a fixed-point number. -/
def trigReduce (m : Nat) (e : Int) : Nat × Nat :=
  let x := if 0 ≤ e + 441 then m * 2 ^ (e + 441).toNat else m >>> (-(e + 441)).toNat
  -- x and π / 2 in units of 2^−441
  let q := x / piFix
  (q % 4, (x - q * piFix) >>> 201)

/-- sin of a finite value. -/
def fnSin (neg : Bool) (m : Nat) (e : Int) : FnVal :=
  if m = 0 then .exact neg 0 0
  else if (m.log2 : Int) + e < 0 then .approx neg (m * fpSinc (fpOf m e)) (e - 240)
  else
    let (q, r) := trigReduce m e
    let v := if q % 2 = 0 then fpMul r (fpSinc r) else fpCos r
    .approx (neg != decide (2 ≤ q)) v (-240)

/-- cos of a finite value. -/
def fnCos (m : Nat) (e : Int) : FnVal :=
  if m = 0 then .exact false 1 0
  else
    let (q, r) := trigReduce m e
    let v := if q % 2 = 0 then fpCos r else fpMul r (fpSinc r)
    .approx (q = 1 || q = 2) v (-240)

/-- The SFU's elementwise functions (R188, Table 97): binary32 in, binary32 out, with the fast-mode flags. -/
def sfuFn (fn : Nat) (x : BitVec 32) : BitVec 32 × Nat :=
  let v := dec32 x
  match v with
  | .nan .. => (cnan, flNanIn)
  | .inf n =>
    match fn with
    | 0x01 | 0x08 => (if n then 0 else inf32 false, 0)
    | 0x02 => if n then (cnan, flInv) else (inf32 false, 0)
    | 0x03 | 0x05 => (mk32 n 0x3F800000, 0)
    | 0x04 => (if n then 0 else 0x3F800000#32, 0)
    | _ => (cnan, flInv)
  | .fin n m e =>
    match fn with
    | 0x01 => (fnExp n m e).round false
    | 0x02 => if m = 0 then (inf32 true, flOvf) else if n then (cnan, flInv) else (fnLog m e).round false
    | 0x03 => (fnTanh n m e).round false
    | 0x04 => (fnSigmoid n m e).round false
    | 0x05 => (fnErf n m e).round false
    | 0x06 => (fnSin n m e).round false
    | 0x07 => (fnCos m e).round false
    | _ => (fnExp2 n m e).round false

end Sys2Proof.Machine
end

