-- ==== Sys2Proof/Machine/Chain.lean ====
section
/-! DEFINITION. Vector chains (R169 to R183, R185): descriptors, stages, masks, summaries and output, as functions of the streams read. -/

namespace Sys2Proof.Machine

/-- A stage word (Table 87). -/
structure Stage where
  op : Nat
  s1 : Nat
  s2 : Nat
  s3 : Nat
  rs : Nat
  sub : Nat
  kidx : Nat
  imm : Nat
  deriving DecidableEq, Repr

/-- A chain descriptor (Tables 85 and 86). -/
structure Desc where
  stages : List Stage
  w : Bool
  fmtA : Fmt
  fmtB : Fmt
  fmtD : Fmt
  sclA : Nat
  sclB : Nat
  sclD : Nat
  layout : Bool
  rnd : Bool
  mask : Nat
  mstage : Nat
  preserve : Bool
  dest : Bool
  rowlen : Nat
  z : List (Nat × Nat)               -- KIND and source stage of Z0 to Z3
  kmask : Nat
  deriving DecidableEq, Repr

/-- Which of S1, S2, S3 an operation reads (Table 89); none for an absent OP or SUB. -/
def stageReads (op sub : Nat) : Option (Bool × Bool × Bool) :=
  match op with
  | 0x01 => if sub ≤ 1 then some (true, true, false) else none
  | 0x02 | 0x04 | 0x05 => if sub = 0 then some (true, true, false) else none
  | 0x03 => if sub ≤ 1 then some (true, true, true) else none
  | 0x06 => if sub ≤ 6 then some (true, true, false) else if sub = 7 then some (true, false, false) else none
  | 0x07 => if sub = 0 then some (true, true, true) else none
  | 0x08 | 0x09 | 0x0A | 0x0B => if sub = 0 then some (true, false, false) else none
  | 0x0C => if sub ≤ 4 then some (true, false, false) else none
  | 0x0D => if sub ≤ 2 then some (true, true, false) else none
  | 0x0E => if sub ≤ 3 then some (true, true, false) else if sub = 4 then some (true, false, false) else none
  | _ => none

/-- The sources a stage reads. -/
def Stage.sources (s : Stage) : List Nat :=
  match stageReads s.op s.sub with
  | some (a, b, c) => (if a then [s.s1] else []) ++ (if b then [s.s2] else []) ++ (if c then [s.s3] else [])
  | none => []

/-- Is an operation of the integer class for source I (R171)? -/
def Stage.isIntOp (s : Stage) : Bool := s.op = 0x0D || s.op = 0x0E || (s.op = 0x0C && s.sub = 1)

/-- Read a stage word. -/
def Stage.ofWord (x : Nat) : Stage :=
  { op := bitsOf x 63 58, s1 := bitsOf x 57 55, s2 := bitsOf x 54 52, s3 := bitsOf x 51 49, rs := bitsOf x 48 46, sub := bitsOf x 45 42,
    kidx := bitsOf x 39 28, imm := bitsOf x 15 0 }

/-- The checks of R183 on one stage word at index i. -/
def stageOk (w : Bool) (x i : Nat) : Bool :=
  let s := Stage.ofWord x
  match stageReads s.op s.sub with
  | none => false
  | some (a, b, c) =>
    let src := s.sources
    let usesR := src.any (· = 3)
    decide (bitsOf x 41 40 = 0) && decide (bitsOf x 27 16 = 0) && (a || s.s1 = 0) && (b || s.s2 = 0) && (c || s.s3 = 0) &&
      (if usesR then decide (s.rs < i) else decide (s.rs = 0)) && !(i = 0 && src.any (fun q => q = 2 || q = 7)) &&
      (!w || (decide (s.op ≤ 0x07) && !src.any (· = 7)))

/-- Is a stream of a format at a scale mode allowed (R183: no scaled 16-bit or FP32 stream, no scale mode of 3)? -/
def streamOk (f : Fmt) (scl : Nat) : Bool := f.sclOk scl

/-- Read and check the descriptor at a word index (R170, R183, R174 to R176, R180); n elements. -/
def Desc.read (bank : Nat → Nat) (chain n : Nat) : Option Desc :=
  let w0 := bank chain
  let w1 := bank (chain + 1)
  let k := bitsOf w0 2 0 + 1
  let sw := (List.range k).map (fun i => bank (chain + 2 + i))
  let w := w0.testBit 3
  match Fmt.ofCode (bitsOf w0 8 4), Fmt.ofCode (bitsOf w0 13 9), Fmt.ofCode (bitsOf w0 18 14) with
  | some fa, some fb, some fd =>
    let d : Desc :=
      { stages := sw.map Stage.ofWord, w := w, fmtA := fa, fmtB := fb, fmtD := fd, sclA := bitsOf w0 20 19, sclB := bitsOf w0 22 21, sclD := bitsOf w0 24 23,
        layout := w0.testBit 25, rnd := w0.testBit 26, mask := bitsOf w0 28 27, mstage := bitsOf w0 31 29, preserve := w0.testBit 32, dest := w0.testBit 33,
        rowlen := bitsOf w0 45 34 + 1, z := (List.range 4).map (fun j => (bitsOf w1 (6 * j + 2) (6 * j), bitsOf w1 (6 * j + 5) (6 * j + 3))), kmask := bitsOf w1 35 24 }
    let usesB := d.stages.any (fun s => s.sources.any (· = 1))
    let ok :=
      decide (bitsOf w0 63 46 = 0) && decide (bitsOf w1 63 36 = 0) && ((List.range k).all (fun i => stageOk w (nthD sw i 0) i)) &&
      (usesB || (bitsOf w0 13 9 = 0 && bitsOf w0 22 21 = 0)) && streamOk fa d.sclA && streamOk fb d.sclB && streamOk fd d.sclD &&
      decide (d.mstage < k) &&
      (!w || (!(fa = .fp32) && !(fb = .fp32) && !(fd = .fp32))) &&
      (!d.preserve || (decide (fd.bits ≠ 4) && decide (d.sclD = 0))) &&
      (decide (d.sclD = 0) || decide (n % (if d.layout then 1024 else if d.sclD = 1 then 32 else 16) = 0)) &&
      (!d.dest || ((fd = .fp32 || fd = .bf16) && decide (d.sclD = 0))) &&
      d.z.all (fun z => decide (z.1 ≠ 7) && (z.1 = 0 || decide (z.2 < k))) &&
      (n % 2 = 0 || (decide (fa.bits ≠ 4) && (!usesB || decide (fb.bits ≠ 4)) && decide (fd.bits ≠ 4)))
    if ok then some d else none
  | _, _, _ => none

/-- Does any stage name stream B? -/
def Desc.usesB (d : Desc) : Bool := d.stages.any (fun s => s.sources.any (· = 1))

/-- Does the chain read the constant cache (R179)? -/
def Desc.usesK (d : Desc) : Bool := d.mask = 2 || d.stages.any (fun s => s.sources.any (fun q => q = 5 || q = 6 || q = 7))

/-- CONST_RANGE for KV, and for the mask words a chain can reach (R179). -/
def Desc.constBad (d : Desc) (n : Nat) : Bool :=
  let m := min d.rowlen n
  d.stages.any (fun s => s.sources.any (· = 6) && decide (4095 < s.kidx + m - 1)) || (d.mask = 2 && decide (4095 < d.kmask + (m + 31) / 32 - 1))

/-! ### Positions -/

/-- Bytes of a stream of n elements (R173). -/
def streamLen (f : Fmt) (scl : Nat) (layout : Bool) (n : Nat) : Nat :=
  if scl = 0 then (n * f.bits + 7) / 8
  else if layout then (n + 1023) / 1024 * tileBytes f scl
  else (n + 31) / 32 * (f.bytes 32 + sclBytes scl)

/-- Bit position of element e in its stream (R173). -/
def elemBit (f : Fmt) (scl : Nat) (layout : Bool) (e : Nat) : Nat :=
  if scl = 0 then e * f.bits
  else if layout then (e / 1024 * tileBytes f scl) * 8 + (e % 1024) * f.bits
  else (e / 32 * (f.bytes 32 + sclBytes scl)) * 8 + (e % 32) * f.bits

/-- Byte position of the scale of element e. -/
def scaleByte (f : Fmt) (scl : Nat) (layout : Bool) (e : Nat) : Nat :=
  let h := if scl = 2 then e % 32 / 16 else 0
  if layout then e / 1024 * tileBytes f scl + f.bytes 1024 + (e % 1024 / 32) * sclBytes scl + h
  else e / 32 * (f.bytes 32 + sclBytes scl) + f.bytes 32 + h

/-- The code of element e of a stream. -/
def elemCode (f : Fmt) (scl : Nat) (layout : Bool) (l : List Byte) (e : Nat) : Nat :=
  let b := elemBit f scl layout e
  let c := (numAt l (b / 8) ((f.bits + 7) / 8) >>> (b % 8)) % 2 ^ f.bits
  match f with
  | .e2m3 | .e3m2 => c % 64
  | _ => c

/-- A decoded value as binary32 bits, exact values only (a NaN keeps its fraction). -/
def FV.to32 : FV → BitVec 32
  | .nan n f _ => mk32 n (0x7F800000 ||| f)
  | .inf n => inf32 n
  | .fin n m e => if m = 0 then zero32 n else mk32 n (spec32.round m e).code

/-- Element e as it enters the chain (R173). -/
def elemIn (strict : Bool) (f : Fmt) (scl : Nat) (layout : Bool) (l : List Byte) (e : Nat) : BitVec 32 × Nat :=
  let c := elemCode f scl layout l e
  if f = .fp32 then (BitVec.ofNat 32 c, 0)
  else if scl = 0 then ((f.dec c).to32, 0)
  else
    let s := numAt l (scaleByte f scl layout e) 1
    if s = 255 then (cnan, 0)
    else match f.dec c with
      | .fin n m x => if m = 0 then (zero32 n, 0) else fin32 strict n m (x + s - 127)
      | v => (v.to32, 0)

/-! ### Stage operations -/

/-- Round an exact magnitude to the engine's width: binary32, or BF16 in the upper half (R175). -/
def rndW (w strict neg : Bool) (m : Nat) (e : Int) : BitVec 32 × Nat :=
  if w then
    let s : FSpec := ⟨8, 7, 127, 0x7F7F⟩
    let r := s.round m e
    if s.maxCode < r.code then (inf32 neg, ovfFlags strict)
    else (mk32 neg (r.code * 65536), if strict then ieFlags r.inexact false r.tiny else 0)
  else fin32 strict neg m e

/-- Is a value a signalling NaN? -/
def FV.isSnan : FV → Bool
  | .nan _ _ s => s
  | _ => false

/-- The result of an operation with a NaN among its operands: canonical with NAN_IN, or the first one quieted (R177, R178). -/
def nanResult (strict : Bool) (l : List FV) : Option (BitVec 32 × Nat) :=
  match l.find? FV.isNan with
  | some (.nan n f _) => some (if strict then (qnan32 n f, if l.any FV.isSnan then flIeInvalid else 0) else (cnan, flNanIn))
  | _ => none

/-- The invalid-operation result. -/
def invResult (strict : Bool) : BitVec 32 × Nat := (cnan, if strict then flIeInvalid else flInv)

/-- Sign of a value. -/
def FV.neg? : FV → Bool
  | .nan n _ _ => n
  | .inf n => n
  | .fin n _ _ => n

/-- A value with its sign flipped. -/
def FV.flip : FV → FV
  | .nan n f s => .nan n f s
  | .inf n => .inf (!n)
  | .fin n m e => .fin (!n) m e

/-- a × b + c computed exactly and rounded once, no operand a NaN. -/
def fmaW (w strict : Bool) (a b c : FV) : BitVec 32 × Nat :=
  let p : Prod := FV.mul a b
  match p, c with
  | .nan, _ | .bad, _ => invResult strict
  | .inf n, .inf n' => if n = n' then (inf32 n, 0) else invResult strict
  | .inf n, _ => (inf32 n, 0)
  | .fin .., .inf n => (inf32 n, 0)
  | .fin np mp ep, .fin nc mc ec =>
    let s := Dy.add (sgn np mp, ep) (sgn nc mc, ec)
    if s.1 = 0 then (zero32 (np && nc && decide (mp = 0) && decide (mc = 0)), 0) else rndW w strict (decide (s.1 < 0)) s.1.natAbs s.2
  | .fin .., .nan .. => invResult strict

/-- The number one. -/
def fvOne : FV := .fin false 1 0

/-- Order key of a non-NaN value: exact comparison, −0 below +0 only when `signedZero`. -/
def fvLt (signedZero : Bool) (a b : FV) : Bool :=
  match a, b with
  | .inf na, .inf nb => na && !nb
  | .inf na, _ => na
  | _, .inf nb => !nb
  | .fin na ma ea, .fin nb mb eb =>
    let d := (Dy.add (sgn na ma, ea) (sgn (!nb) mb, eb)).1
    decide (d < 0) || (signedZero && decide (d = 0) && decide (ma = 0) && na && !nb)
  | _, _ => false

/-- Comparison conditions of CMP (Table 89). -/
def cmpW (strict : Bool) (sub : Nat) (a b : FV) : Bool × Nat :=
  let nan := a.isNan || b.isNan
  let sn := strict && (a.isSnan || b.isSnan)
  let fin : FV → Bool := fun v => match v with
    | .fin .. => true
    | _ => false
  let lt := fvLt false a b
  let gt := fvLt false b a
  match sub with
  | 0 => (!nan && !lt && !gt, if sn then flIeInvalid else 0)
  | 1 => (nan || lt || gt, if sn then flIeInvalid else 0)
  | 2 => (!nan && lt, if strict && nan then flIeInvalid else 0)
  | 3 => (!nan && !gt, if strict && nan then flIeInvalid else 0)
  | 4 => (!nan && gt, if strict && nan then flIeInvalid else 0)
  | 5 => (!nan && !lt, if strict && nan then flIeInvalid else 0)
  | 6 => (nan, 0)
  | _ => (fin a, 0)

/-- Round a value to an integer: 0 nearest even, 2 toward zero, 3 toward −Inf, 4 toward +Inf. -/
def toIntegral (mode : Nat) (neg : Bool) (m : Nat) (e : Int) : Nat :=
  let (n, r, k) := unitsOf m e 0
  match mode with
  | 0 => rne n r k
  | 3 => if neg && r ≠ 0 then n + 1 else n
  | 4 => if !neg && r ≠ 0 then n + 1 else n
  | _ => n

/-- CVT (Table 89, R177, R178). -/
def cvtW (strict : Bool) (sub : Nat) (x : BitVec 32) : BitVec 32 × Nat :=
  if sub = 1 then
    let i := x.toInt
    if i = 0 then (0, 0) else fin32 strict (decide (i < 0)) i.natAbs 0
  else match dec32 x with
    | .nan n f sn =>
      if sub = 0 then (0, if strict then flIeInvalid else flInv)
      else if strict then (qnan32 n f, if sn then flIeInvalid else 0) else (cnan, flNanIn)
    | .inf n =>
      if sub = 0 then (if n then 0x80000000#32 else 0x7FFFFFFF#32, if strict then flIeInvalid else flSat) else (x, 0)
    | .fin n m e =>
      let k := toIntegral sub n m e
      if sub = 0 then
        let top := if n then 2 ^ 31 else 2 ^ 31 - 1
        if top < k then (if n then 0x80000000#32 else 0x7FFFFFFF#32, if strict then flIeInvalid else flSat) else (BitVec.ofInt 32 (sgn n k), 0)
      else if k = 0 then (zero32 n, 0) else (mk32 n (spec32.round k 0).code, 0)

/-- The functions of one operand: EXP2, LOG2, RSQRT, RECIP (R172, R177, R178). -/
def unaryW (strict : Bool) (op : Nat) (v : FV) : BitVec 32 × Nat :=
  let dz := if strict then flIeDivZero else flOvf
  match op, v with
  | 0x08, .inf n => (if n then 0 else inf32 false, 0)
  | 0x08, .fin n m e => (fnExp2 n m e).round strict
  | 0x09, .inf n => if n then invResult strict else (inf32 false, 0)
  | 0x09, .fin n m e => if m = 0 then (inf32 true, dz) else if n then invResult strict else (fnLog2 m e).round strict
  | 0x0A, .inf n => if n then invResult strict else (0, 0)
  | 0x0A, .fin n m e => if m = 0 then (inf32 n, dz) else if n then invResult strict else (fnRsqrt m e).round strict
  | _, .inf n => (zero32 n, 0)
  | _, .fin n m e =>
    if m = 0 then (inf32 n, dz)
    else
      let (q, x) := quot 1 0 m e
      fin32 strict n q x
  | _, .nan n f _ => (qnan32 n f, 0)

/-- A 32-bit integer result; in BF16 lanes the 16-bit result stands in the upper half. -/
def intW (w : Bool) (n : Nat) : BitVec 32 := BitVec.ofNat 32 (if w then n * 65536 else n)

/-- A stage's result in the engine's width (R171, R175): with W = 1 it is a BF16, rounded to nearest even; a bit pattern that SEL passes raises no flag. -/
def narrowW (w strict sel : Bool) (x : BitVec 32 × Nat) : BitVec 32 × Nat :=
  if !w || x.1.toNat % 65536 = 0 then x
  else
    let (c, f) := conv32 strict false none .bf16 x.1
    (BitVec.ofNat 32 (c * 65536), if sel then x.2 else x.2 ||| f)

/-- One stage operation on its source values, before the engine's width. -/
def stageOp32 (w strict : Bool) (s : Stage) (x1 x2 x3 : BitVec 32) : BitVec 32 × Nat :=
  let a := dec32 x1
  let b := dec32 x2
  let c := dec32 x3
  match s.op with
  | 0x01 => (nanResult strict [a, b]).getD (fmaW w strict a fvOne (if s.sub = 1 then b.flip else b))
  | 0x02 =>
    (nanResult strict [a, b]).getD (match FV.mul a b with
      | .fin n m e => if m = 0 then (zero32 n, 0) else rndW w strict n m e
      | .inf n => (inf32 n, 0)
      | _ => invResult strict)
  | 0x03 => (nanResult strict [a, b, c]).getD (fmaW w strict a b (if s.sub = 1 then c.flip else c))
  | 0x04 => (nanResult strict [a, b]).getD (if fvLt true a b then (x2, 0) else (x1, 0))
  | 0x05 => (nanResult strict [a, b]).getD (if fvLt true b a then (x2, 0) else (x1, 0))
  | 0x06 =>
    let (r, f) := cmpW strict s.sub a b
    (intW w (b2n r), f)
  | 0x07 => (if x1 = 0 then x3 else x2, 0)
  | 0x08 | 0x09 | 0x0A | 0x0B => (nanResult strict [a]).getD (unaryW strict s.op a)
  | 0x0C => cvtW strict s.sub x1
  | 0x0D =>
    let k := x2.toNat % 32
    (match s.sub with
      | 0 => x1 <<< k
      | 1 => x1 >>> k
      | _ => x1.sshiftRight k, 0)
  | _ =>
    (match s.sub with
      | 0 => x1 &&& x2
      | 1 => x1 ||| x2
      | 2 => x1 ^^^ x2
      | 3 => x1 &&& ~~~x2
      | _ => ~~~x1, 0)

/-- One stage operation on its source values. -/
def stageOp (w strict : Bool) (s : Stage) (x1 x2 x3 : BitVec 32) : BitVec 32 × Nat :=
  narrowW w strict (decide (s.op = 0x07)) (stageOp32 w strict s x1 x2 x3)

/-- A constant or immediate as read: rounded to BF16 with W = 1 (R175). -/
def kRead (w : Bool) (x : BitVec 32) : BitVec 32 :=
  if w then BitVec.ofNat 32 ((conv32 true false none .bf16 x).1 * 65536) else x

/-- The table index that source KX takes from the previous stage (Table 88). -/
def kxIndex (kidx : Nat) (p : BitVec 32) : Nat :=
  match dec32 p with
  | .fin n m e => if n then 0 else min (unitsOf m e 0).1 (4095 - kidx)
  | .inf n => if n then 0 else 4095 - kidx
  | .nan .. => 0

/-- What one element meets on its way: sources A and B, its column, the constant cache. -/
structure ElemEnv where
  a : BitVec 32
  b : BitVec 32
  col : Nat
  k : Nat → BitVec 32

/-- The value of a source code (Table 88) after the results so far, oldest first. -/
def srcVal (w : Bool) (en : ElemEnv) (rs : List (BitVec 32)) (s : Stage) (code : Nat) : BitVec 32 :=
  match code with
  | 0 => en.a
  | 1 => en.b
  | 2 => rs.getLastD 0
  | 3 => nthD rs s.rs 0
  | 4 => if s.isIntOp then BitVec.ofInt 32 (sxt 16 s.imm) else kRead w (BitVec.ofNat 32 (s.imm * 65536))
  | 5 => kRead w (en.k s.kidx)
  | 6 => kRead w (en.k (s.kidx + en.col))
  | _ => kRead w (en.k (s.kidx + kxIndex s.kidx (rs.getLastD 0)))

/-- Run the stages of an element: results oldest first, and the flags of stages 0 to i each. -/
def runStages (w strict : Bool) (en : ElemEnv) : List Stage → List (BitVec 32) → List Nat → List (BitVec 32) × List Nat
  | [], rs, fl => (rs, fl)
  | s :: ss, rs, fl =>
    let (r, f) := stageOp w strict s (srcVal w en rs s s.s1) (srcVal w en rs s s.s2) (srcVal w en rs s s.s3)
    runStages w strict en ss (rs ++ [r]) (fl ++ [f])

/-- The outcome of one element: its results, whether it is masked, and the flags it raises (R176). -/
structure ElemOut where
  res : List (BitVec 32)
  masked : Bool
  flags : Nat
  deriving DecidableEq, Repr

/-- One element through the chain; `pre` is the mask bit of MASK 1 or 2, `inFl` the flags of its conversion (R173). -/
def runElem (strict : Bool) (d : Desc) (pre : Bool) (inFl : Nat) (en : ElemEnv) : ElemOut :=
  let (rs, fs) := runStages d.w strict en d.stages [] []
  let m3 := d.mask = 3 && nthD rs d.mstage 0 = 0
  let masked := !pre || m3
  let fl := if !pre then 0
    else if m3 then (fs.take (d.mstage + 1)).foldl (· ||| ·) inFl
    else fs.foldl (· ||| ·) inFl
  ⟨rs, masked, fl⟩

/-! ### Summaries -/

/-- Start value of the partials of a KIND (R180). -/
def zStart (kind : Nat) : BitVec 32 :=
  match kind with
  | 1 => inf32 true
  | 2 => inf32 false
  | 3 => zero32 true
  | _ => 0

/-- One value folded into a partial, or two partials combined, by a KIND's operation (R180). -/
def zOp (strict : Bool) (kind : Nat) (comb : Bool) (p x : BitVec 32) : BitVec 32 × Nat :=
  let satInc (b : Bool) : BitVec 32 × Nat := (BitVec.ofNat 32 (min (2 ^ 32 - 1) (p.toNat + (if comb then x.toNat else b2n b))), 0)
  match kind with
  | 1 => if (dec32 x).isNan then (p, 0) else (if fvLt true (dec32 p) (dec32 x) then x else p, 0)
  | 2 => if (dec32 x).isNan then (p, 0) else (if fvLt true (dec32 x) (dec32 p) then x else p, 0)
  | 3 => addMode strict p x
  | 4 => satInc (x ≠ 0)
  | 5 => satInc (x.toNat % 2 ^ 31 ≥ 0x7F800000)
  | _ =>
    let y := BitVec.ofNat 32 (x.toNat % 2 ^ 31)
    if (dec32 x).isNan then (p, 0) else (if fvLt true (dec32 p) (dec32 y) then y else p, 0)

/-- The 64 partials of one summary combined by the tree of R141. -/
def zCombine (strict : Bool) (kind : Nat) (l : List (BitVec 32)) : BitVec 32 × Nat :=
  let f (a b : BitVec 32 × Nat) : BitVec 32 × Nat :=
    let (x, fl) := zOp strict kind true a.1 b.1
    (x, a.2 ||| b.2 ||| fl)
  match pairRoot f 7 (l.map (fun x => (x, 0))) with
  | r :: _ => r
  | [] => (0, 0)

/-! ### A run of a chain -/

/-- What a chain carries from segment to segment (R180 to R182). -/
structure ChainRun where
  flags : Nat := 0
  elems : Nat := 0                   -- unmasked elements so far
  parts : List (List (BitVec 32))    -- partials of Z0 to Z3, 64 each
  zpois : List Bool := [false, false, false, false]
  deriving DecidableEq, Repr

/-- The run at a chain's start. -/
def ChainRun.start (d : Desc) : ChainRun := { parts := d.z.map (fun z => List.replicate 64 (zStart z.1)) }

/-- What one segment of a chain reads: the bytes of its streams from the segment's first element on, the constant cache, and what is poisoned or bad in them. -/
structure Streams where
  a : List Byte
  b : List Byte
  m : List Byte
  k : List (BitVec 32)
  poisA : Nat → Bool                 -- is byte i of stream A in a poisoned sector?
  poisB : Nat → Bool
  poisM : Nat → Bool
  badK : Nat → Bool := fun _ => false -- does a constant word hold an uncorrectable error?
  first : Nat := 0                   -- the segment's first element, a multiple of 1,024

/-- One output element: its index, its last result, whether it is masked and whether it is poisoned. -/
structure OutElem where
  e : Nat
  x : BitVec 32
  masked : Bool
  pois : Bool
  deriving DecidableEq, Repr

/-- The constant words that an element's stages and mask read, given its results (Table 88, R176). -/
def Desc.kWords (d : Desc) (col maskWord : Nat) (res : List (BitVec 32)) : List Nat :=
  (if d.mask = 2 then [maskWord] else []) ++ ((List.range d.stages.length).zip d.stages).flatMap (fun x =>
    x.2.sources.filterMap (fun q => match q with
      | 5 => some x.2.kidx
      | 6 => some (x.2.kidx + col)
      | 7 => some (x.2.kidx + kxIndex x.2.kidx (nthD res (x.1 - 1) 0))
      | _ => none))

/-- The mask bit of MASK 1 and 2 for element e (R176). -/
def maskBit (d : Desc) (st : Streams) (e : Nat) : Bool :=
  match d.mask with
  | 1 => (nthD st.m ((e - st.first) / 8) 0).toNat.testBit (e % 8)
  | 2 => let c := e % d.rowlen
    (nthD st.k (d.kmask + c / 32) 0).toNat.testBit (c % 32)
  | _ => true

/-- Is element e, with results res, computed from a poisoned element or from a constant word in error (R181, R362)? -/
def elemPois (d : Desc) (st : Streams) (e : Nat) (res : List (BitVec 32)) : Bool :=
  let i := e - st.first
  let at' (p : Nat → Bool) (f : Fmt) (scl : Nat) := p (elemBit f scl d.layout i / 8) || (scl ≠ 0 && p (scaleByte f scl d.layout i))
  at' st.poisA d.fmtA d.sclA || (d.usesB && at' st.poisB d.fmtB d.sclB) || (d.mask = 1 && st.poisM (i / 8)) ||
    (d.kWords (e % d.rowlen) (d.kmask + e % d.rowlen / 32) res).any st.badK

/-- Fold one element into the run. -/
def stepElem (strict : Bool) (d : Desc) (st : Streams) (s : ChainRun × List OutElem) (e : Nat) : ChainRun × List OutElem :=
  let (r, outs) := s
  let (a, fa) := elemIn strict d.fmtA d.sclA d.layout st.a (e - st.first)
  let (b, fb) := if d.usesB then elemIn strict d.fmtB d.sclB d.layout st.b (e - st.first) else (0, 0)
  let o := runElem strict d (maskBit d st e) (fa ||| fb) ⟨a, b, e % d.rowlen, fun i => nthD st.k i 0⟩
  let p := elemPois d st e o.res
  let out : OutElem := ⟨e, o.res.getLastD 0, o.masked, p⟩
  if o.masked then ({ r with flags := r.flags ||| o.flags }, outs ++ [out])
  else
    let zs := (List.range 4).map (fun j =>
      let z := nthD d.z j (0, 0)
      let l := nthD r.parts j []
      if z.1 = 0 then (l, 0, nthD r.zpois j false)
      else
        let (x, f) := zOp strict z.1 false (nthD l (e % 64) 0) (nthD o.res z.2 0)
        (l.set (e % 64) x, f, nthD r.zpois j false || p))
    ({ flags := zs.foldl (fun f z => f ||| z.2.1) (r.flags ||| o.flags), elems := r.elems + 1, parts := zs.map (·.1), zpois := zs.map (·.2.2) }, outs ++ [out])

/-- Elements of one segment (R182). -/
def segLen (d : Desc) : Nat := if d.w then 2048 else 1024

/-- One written byte run of the output: offset from the base, bytes, and whether a poisoned element is among them. -/
structure OutWrite where
  off : Nat
  bytes : List Byte
  pois : Bool
  deriving DecidableEq, Repr

/-- emax of R174 step 2. -/
def emaxOf : Fmt → Int
  | .e4m3 => 8
  | .e5m2 => 15
  | .e2m3 => 2
  | .e3m2 => 4
  | .e2m1 => 2
  | .int8 => 6
  | _ => 2

/-- Largest finite magnitude of a format, as a value. -/
def largest (f : Fmt) : Nat × Int :=
  match f.spec with
  | some s =>
    match s.dec false s.maxCode with
    | .fin _ m e => (m, e)
    | _ => (0, 0)
  | none => (2 ^ (f.bits - 1) - 1, 0)

/-- Draw of R174 for element e, when the output rounds stochastically. -/
def outDraw (d : Desc) (sect xd e : Nat) : Option Nat := if d.rnd then some (draw sect (xd + e / 1024) (e % 1024)) else none

/-- Quantise one block of a scaled output (R174): codes, scale code, flags. -/
def quantBlock (strict sat : Bool) (d : Desc) (sect xd : Nat) (blk : List OutElem) : List Nat × Nat × Nat :=
  let live := blk.filter (fun o => !o.masked)
  let isInf (v : FV) : Bool := match v with
    | .inf _ => true
    | _ => false
  let nan := live.any (fun o => (dec32 o.x).isNan)
  let inf := live.any (fun o => isInf (dec32 o.x))
  if nan || inf then
    (blk.map (fun _ => 0), 0xFF, (if nan then (if strict then flIeInvalid else flNanIn) else 0) ||| (if inf then (if strict then flIeOverflow else flOvf) else 0))
  else
    let top : Option Int := live.foldl (fun acc o => match dec32 o.x with
      | .fin _ m e => if m = 0 then acc else
          let x := (m.log2 : Int) + e
          match acc with
          | some y => some (max x y)
          | none => some x
      | _ => acc) none
    let s : Nat := match top with
      | some t => (max 0 (min 254 (t - emaxOf d.fmtD + 127))).toNat
      | none => 127
    let (lm, le) := largest d.fmtD
    let rs := blk.map (fun o =>
      if o.masked then (0, 0)
      else match dec32 o.x with
        | .fin n m e =>
          let e' := e - ((s : Int) - 127)
          if decide ((Dy.add ((m : Int), e') (-(lm : Int), le)).1 > 0) then
            (match d.fmtD.spec with
              | some sp => sp.signed n sp.maxCode
              | none => wrapN d.fmtD.bits (sgn n lm), 0)
          else convFin strict sat (outDraw d sect xd o.e) d.fmtD n m e'
        | _ => (0, 0))
    (rs.map (·.1), s, rs.foldl (fun f r => f ||| r.2) 0)

/-- The writes of an unscaled element: nothing for a masked one under PRESERVE, +0 without it. 4-bit pairs are joined by the caller. -/
def plainWrites (strict sat : Bool) (d : Desc) (sect xd : Nat) (outs : List OutElem) : List OutWrite × Nat :=
  let cs := outs.map (fun o => if o.masked then (o, 0, 0) else
    let (c, f) := if d.fmtD = .fp32 then (o.x.toNat, 0) else conv32 strict sat (outDraw d sect xd o.e) d.fmtD o.x
    (o, c, f))
  let fl := cs.foldl (fun f c => f ||| c.2.2) 0
  if d.fmtD.bits = 4 then
    ((blocksOf (cs.length + 1) 2 cs).map (fun p =>
      match p with
      | [x, y] => ⟨x.1.e / 2, [BitVec.ofNat 8 (x.2.1 % 16 + 16 * (y.2.1 % 16))], x.1.pois || y.1.pois⟩
      | x :: _ => ⟨x.1.e / 2, [BitVec.ofNat 8 (x.2.1 % 16)], x.1.pois⟩
      | [] => ⟨0, [], false⟩), fl)
  else
    (cs.filterMap (fun c => if c.1.masked && d.preserve then none
      else some ⟨c.1.e * d.fmtD.bits / 8, leBytes (d.fmtD.bits / 8) c.2.1, c.1.pois⟩), fl)

/-- The writes of a scaled output: each block's elements and its scale byte. -/
def scaledWrites (strict sat : Bool) (d : Desc) (sect xd : Nat) (outs : List OutElem) : List OutWrite × Nat :=
  let bl := if d.sclD = 1 then 32 else 16
  (blocksOf (outs.length + 1) bl outs).foldl (fun (acc : List OutWrite × Nat) blk =>
    match blk with
    | [] => acc
    | o :: _ =>
      let (cs, s, f) := quantBlock strict sat d sect xd blk
      let p := blk.any (·.pois)
      (acc.1 ++ [⟨elemBit d.fmtD d.sclD d.layout o.e / 8, packCodes d.fmtD cs, p⟩, ⟨scaleByte d.fmtD d.sclD d.layout o.e, [BitVec.ofNat 8 s], p⟩], acc.2 ||| f))
    ([], 0)

/-- Run the elements of one segment of a chain of n elements (R182): the writes and the new run. -/
def runSegment (strict sat : Bool) (d : Desc) (sect xd n seg : Nat) (st : Streams) (r : ChainRun) : List OutWrite × ChainRun :=
  let e0 := seg * segLen d
  let e1 := min n (e0 + segLen d)
  let es := (List.range (e1 - e0)).map (· + e0)
  let (r', outs) := es.foldl (stepElem strict d st) (r, [])
  let (ws, f) := if d.sclD = 0 then plainWrites strict sat d sect xd outs else scaledWrites strict sat d sect xd outs
  (ws, { r' with flags := r'.flags ||| f })

/-- Segments of a chain. -/
def segCount (d : Desc) (n : Nat) : Nat := (n + segLen d - 1) / segLen d

/-- The final summaries: (value, poison) for each Zj whose KIND is set, and the flags of the combining tree. -/
def finishZ (strict : Bool) (d : Desc) (r : ChainRun) : List (Option (BitVec 32 × Bool)) × Nat :=
  (List.range 4).foldl (fun (acc : List (Option (BitVec 32 × Bool)) × Nat) j =>
    let z := nthD d.z j (0, 0)
    if z.1 = 0 then (acc.1 ++ [none], acc.2)
    else
      let (x, f) := zCombine strict z.1 (nthD r.parts j [])
      (acc.1 ++ [some (x, nthD r.zpois j false)], acc.2 ||| f)) ([], 0)

/-! ### Chains inside F.PAIR (R185) -/

/-- Is a chain allowed inside F.PAIR? -/
def Desc.pairOk (bank : Nat → Nat) (chain : Nat) (d : Desc) : Bool :=
  !d.w && !d.usesB && d.z.all (fun z => z.1 = 0) && d.mask ≠ 1 && bitsOf (bank chain) 26 4 = 0 && !d.preserve && !d.dest

/-- CONST_RANGE for a chain inside F.PAIR: ROWLEN is 32, the mask takes words KMASK to KMASK + 31. -/
def Desc.pairConstBad (d : Desc) : Bool :=
  d.stages.any (fun s => s.sources.any (· = 6) && decide (4095 < s.kidx + 31)) || (d.mask = 2 && decide (4095 < d.kmask + 31))

/-- y[j] of query row r for score s, and the flags. -/
def pairChain (strict : Bool) (d : Desc) (k : List (BitVec 32)) (r j : Nat) (s : BitVec 32) : BitVec 32 × Nat :=
  let pre := if d.mask = 2 then (nthD k (d.kmask + r) 0).toNat.testBit j else true
  let o := runElem strict d pre 0 ⟨s, 0, j, fun i => nthD k i 0⟩
  (if o.masked then inf32 true else o.res.getLastD 0, o.flags)

/-- The constant words that score s of key j and query row r reads. -/
def pairWords (strict : Bool) (d : Desc) (k : List (BitVec 32)) (r j : Nat) (s : BitVec 32) : List Nat :=
  d.kWords j (d.kmask + r) (runElem strict d true 0 ⟨s, 0, j, fun i => nthD k i 0⟩).res

end Sys2Proof.Machine
end

