-- ==== Sys2Proof/Machine/StCell.lean ====
section
/-! DEFINITION. State of a cell (files 05 to 10): sequencer, engine queues, accumulators, tile registers, vector engine, lead engine, belay credits, rope
channels and sync unit. Counters and control registers of Tables 64 to 149 that no structured field computes are in the register store. -/

namespace Sys2Proof.Machine

/-- STATE of the sequencer (Table 64). -/
inductive SeqState where
  | idle | running | blockWait | ending | stopped
  deriving DecidableEq, Repr

/-- The number CELL_SEQ_STATUS.STATE reports. -/
def SeqState.code : SeqState → Nat
  | .idle => 0
  | .running => 1
  | .blockWait => 2
  | .ending => 3
  | .stopped => 4

/-- One active loop (Table 70): first word, last word of the body, iterations left after the one in progress. -/
structure LoopEntry where
  first : Nat
  last : Nat
  left : Nat
  deriving DecidableEq, Repr

/-- A mailbox entry (R103) with the LEAD_BASE writes held with it (R236). -/
structure MboxEntry where
  word : Nat
  job : Nat
  bases : List (Nat × Nat) := []
  deriving DecidableEq, Repr

/-- A post-increment that the value of an address register counts although its instruction may yet raise a fault and have no effect (R169, R183): the register,
the instruction's issue number and the bytes. -/
structure XInc where
  reg : Nat
  seq : Nat
  by_ : Int
  deriving DecidableEq, Repr

/-- A tile register (R161). -/
structure TReg where
  full : Bool := false
  bytes : List Byte := []
  flags : Nat := 0
  poison : Bool := false
  deriving DecidableEq, Repr

/-- The vector engine's resume cursor and the run it resumes (R182, Table 91). -/
structure VeCursor where
  iaddr : Nat
  job : Nat
  done : Nat
  xstart : List Nat                  -- X[XA], X[XB], X[XD], X[XM]
  run : ChainRun
  deriving DecidableEq, Repr

/-- MERGE_CURSOR (Table 70). -/
structure MergeCursor where
  iaddr : Nat
  job : Nat
  frame : Nat
  slot : Nat
  xstart : Nat
  deriving DecidableEq, Repr

/-- The fetch cursor (Table 128). -/
structure FetchCursor where
  iaddr : Nat
  job : Nat
  next : Nat
  xstart : List Nat                  -- X[XS], X[XD], X[XT]
  bases : List Nat
  deriving DecidableEq, Repr

/-- The cursor from which an issued instruction resumes (R350). -/
inductive Resume where
  | fresh
  | ve (v : VeCursor)
  | fetch (f : FetchCursor)
  | merge (m : MergeCursor)
  deriving DecidableEq, Repr

/-- One beat of the haul ring (R235): memory-side address, scratchpad offset, bytes, poisoned sectors of the memory side. -/
structure HaulBeat where
  addr : Nat
  target : Nat
  bytes : List Byte
  bad : List Nat
  deriving DecidableEq, Repr

/-- A response in the haul ring or at the cell's crossbar port (R235, R243): its tag with its epoch, its instruction and job, whether the tag is still held,
whether its beats are void, whether one has been drained, and the beats that remain. -/
structure HaulResp where
  num : Nat
  ep : Nat
  ins : Nat
  job : Nat
  held : Bool := true
  void : Bool := false
  drained : Bool := false
  beats : List HaulBeat
  deriving DecidableEq, Repr

/-- Positions that responses occupy. -/
def occupied (l : List HaulResp) : Nat := l.foldl (fun n r => n + r.beats.length) 0

/-- An issued instruction that has not completed, with the sequencer state as it stood just before it issued (R348). -/
structure QInstr where
  i : CellInstr
  iaddr : Nat                        -- word index
  job : Nat
  seq : Nat                          -- issue order in the cell
  xs : List Nat                      -- X0 to X15 at issue
  loops : List LoopEntry := []
  mbox : List MboxEntry := []
  incs : List XInc := []             -- increments in xs whose instructions were in flight
  cur : Resume := .fresh
  bases : List Nat := [0, 0, 0, 0]   -- LEAD_BASE at issue (R236)
  deriving DecidableEq, Repr

/-- One issued lead tag (R233, R242). -/
structure LeadTag where
  num : Nat
  ep : Nat
  ins : Nat                          -- issue order of its instruction
  job : Nat
  put : Bool
  addr : Nat                         -- physical address of the memory side
  va : Nat                           -- address before translation
  space : Nat
  target : Nat                       -- scratchpad offset
  len : Nat
  tenant : Nat
  void : Bool := false
  inv : Bool := false                -- issued through an entry that NT_TLB_INV dropped (R231)
  arrived : Bool := false            -- its response is in the ring or at the port
  got : Nat := 0                     -- beats drained
  deriving DecidableEq, Repr

/-- A started lead instruction that has not landed. -/
structure LeadInstr where
  q : QInstr
  x0 : List Nat                      -- X[XS], X[XD], X[XT] at its start
  bases : List Nat
  table : List Nat := []             -- block-table entries of a gather
  next : Nat := 0                    -- first unissued piece, counting the pieces of all entries in order
  stopped : Bool := false            -- stopped issuing: cancelled
  walk : Bool := false               -- waits for a translation walk
  deriving DecidableEq, Repr

/-- A cancellation in progress (R243): the job, or every job; the L.CANCEL that started it, or the hub. -/
structure Cancel where
  job : Option Nat
  q : Option QInstr := none
  deriving DecidableEq, Repr

/-- A cached translation (R230): tenant, first virtual address, size, physical base, permissions. -/
structure Xlate where
  tenant : Nat
  va : Nat
  size : Nat
  pa : Nat
  rd : Bool
  wr : Bool
  deriving DecidableEq, Repr

/-- The lead engine. -/
structure Lead where
  tags : List LeadTag := []
  epochs : List Nat := List.replicate 64 0
  started : List LeadInstr := []     -- oldest first
  bases : List Nat := [0, 0, 0, 0]   -- LEAD_BASE
  head : Nat := 0                    -- haul ring position with its wrap bit: 0 to 255
  tail : Nat := 0
  ring : List HaulResp := []         -- responses in the haul ring, from HEAD
  port : List HaulResp := []         -- responses that wait at the crossbar port, oldest first
  cancels : List Cancel := []
  cache : List Xlate := []           -- most recently used first
  cursor : Option FetchCursor := none
  deriving DecidableEq, Repr

/-- A belay grant (R205). -/
structure Grant where
  base : Nat
  units : Nat
  consume : Bool
  gen : Bool
  deriving DecidableEq, Repr

/-- What a cell holds of the window its neighbour granted, in one direction (Table 108, Table 109). -/
structure BelayTx where
  win : Option Grant := none
  held : Nat := 0                    -- bit u: credit of unit u
  pend : Option Grant := none
  deriving DecidableEq, Repr

/-- A cell's own window toward one direction (Tables 110 and 111, R209). -/
structure BelayRx where
  granted : Bool := false
  units : Nat := 0
  base : Nat := 0
  consume : Bool := false
  full : Nat := 0
  home : Nat := 0                    -- bit u: unit u came back in a close, or was consumed after one (R209)
  closed : Bool := false
  deriving DecidableEq, Repr

/-- The binding of a rope channel (Table 141, resolved under R79): logical cell and channel of the peer. -/
structure ChanBind where
  gs : Bool
  peer : Nat
  peerChan : Nat
  deriving DecidableEq, Repr

/-- A tile in a slot or in flight (Table 143). -/
structure ChTile where
  src : Nat
  srcChan : Nat
  nfl : Nat
  tag : Nat
  job : Nat
  gen : Bool
  gs : Bool
  poison : Nat                       -- SECT_POISON
  bytes : List Byte
  deriving DecidableEq, Repr

/-- An inbound channel. -/
structure ChanIn where
  bind : Option ChanBind := none
  slots : List ChTile := []          -- oldest first
  latch : Bool := false
  took : Bool := false               -- has taken its new binding in the Q.END in progress
  deriving DecidableEq, Repr

/-- An outbound channel. -/
structure ChanOut where
  bind : Option ChanBind := none
  credits : Nat := 0
  deriving DecidableEq, Repr

/-- A region descriptor (Table 103). -/
structure Region where
  base : Nat
  len : Nat
  perm : Nat
  dir : Nat
  job : Nat
  deriving DecidableEq, Repr

def Region.rd (r : Region) : Bool := r.perm.testBit 1
def Region.wr (r : Region) : Bool := r.perm.testBit 2
def Region.nbr (r : Region) : Bool := r.perm.testBit 3
def Region.haul (r : Region) : Bool := r.perm.testBit 4
def Region.priv (r : Region) : Bool := r.perm.testBit 5
def Region.tile (r : Region) : Bool := r.perm.testBit 6
def Region.consume (r : Region) : Bool := r.perm.testBit 7

/-- A weight copy that waits for the switch (R88): near-tier address, scratchpad offset, bytes and CAIRN_ROOT. -/
structure WCopy where
  near : Nat
  off : Nat
  len : Nat
  root : Word × Word
  deriving DecidableEq, Repr

/-- What one section gives a cell: bank, channel table, bounds table (R83). The shadow copy has the same shape. -/
structure CellStore where
  bank : SMap Word := []             -- instruction words
  prog : List (Nat × Nat) := []      -- runs of words that CELL_PROG frames delivered: first, count
  chanIn : List (Option ChanBind) := List.replicate 8 none
  chanOut : List (Option ChanBind) := List.replicate 8 none
  bounds : List (Option Region) := List.replicate 16 none
  hasConst : Bool := false
  copies : List WCopy := []
  deriving DecidableEq, Repr

/-- The region of a cell without a CELL_BOUNDS frame (R63, R203). -/
def wholeScratch : List (Option Region) := some ⟨0, 4194304, 0x17, 0, 0⟩ :: List.replicate 15 none

/-- The operation the sync unit has outstanding (R275): the instruction, and whether ANC_NOTYET asks for a resend (R277). -/
structure SyncOut where
  q : QInstr
  resend : Bool := false
  deriving DecidableEq, Repr

/-- A unit tapped to the checker (R369 to R371) is counted here: the next unit's number since the switch. -/
abbrev UnitCount := Nat

/-- A cell, under its logical number. -/
structure Cell where
  st : SeqState := .idle
  gen : Bool := false
  job : Nat := 0
  pc : Nat := 0
  x : List Nat := List.replicate 16 0
  incs : List XInc := []             -- increments in x of instructions in flight
  loops : List LoopEntry := []       -- innermost first
  mbox : List MboxEntry := []        -- oldest first
  issued : Nat := 0                  -- instructions issued to engines: the next issue number
  qTile : List QInstr := []
  qArray : List QInstr := []
  qVector : List QInstr := []
  qChannel : List QInstr := []
  qLead : List QInstr := []
  qSync : List QInstr := []
  accs : List Acc := [{}, {}, {}, {}]
  fp : Option (Nat × Nat) := none    -- active F.PAIR group: ACC, DCH
  rowMax : List Int := List.replicate 32 0
  rowSum : List (BitVec 32) := List.replicate 32 0
  merge : Option MergeCursor := none -- how far the A.MERGE in the array has come
  mergeStop : Option MergeCursor := none -- MERGE_CURSOR while its VALID is 1 (Table 70)
  tregs : List TReg := List.replicate 16 {}
  gated : List Bool := [false, false, false, false]
  zs : List (BitVec 32 × Bool) := List.replicate 4 (0, false)
  elems : Nat := 0
  veCur : Option VeCursor := none    -- how far the V.CHAIN in the vector engine has come
  veStop : Option VeCursor := none   -- the resume cursor while its VALID is 1 (Table 91)
  const : SMap (BitVec 32) := []     -- constant cache words
  constBad : List Nat := []          -- words of it that hold an uncorrectable error (R362)
  summaries : Nat := 0               -- records not yet read by the controller
  lead : Lead := {}
  tx : List BelayTx := List.replicate 4 {}
  rx : List BelayRx := List.replicate 4 {}
  nbrOut : List (Nat × QInstr) := [] -- neighbour T.STs that have left the tile mover and wait for their acknowledgement: direction, oldest first (R207)
  chIn : List ChanIn := List.replicate 8 {}
  chOut : List ChanOut := List.replicate 8 {}
  sync : Option SyncOut := none
  store : CellStore := {}
  shadow : CellStore := {}
  staged : Bool := false             -- the shadow belongs to a staged section that covers this cell
  switched : Bool := false           -- switched or gone idle in the switch in progress
  filling : Bool := false            -- constant fill or AT_SWITCH copies outstanding (R88)
  started : Option QInstr := none    -- youngest instruction that has started (h of R348)
  stopReq : Bool := false            -- a stop request of the hub is on its way (R348)
  stopping : Bool := false           -- the stop request has arrived
  atRest : Bool := false
  units : UnitCount := 0
  deriving DecidableEq, Repr

end Sys2Proof.Machine
end

