-- ==== Sys2Proof/Machine/StMesh.lean ====
section
/-! DEFINITION. Packets of the mesh (R257, Tables 135 and 136), messages of the neighbour links (R205 to R209), anchors and barriers (R272 to R284) and
router tables (R255, R258). -/

namespace Sys2Proof.Machine

/-- A mesh endpoint: global cluster and endpoint code (Table 130). -/
structure Endpoint where
  cluster : Nat
  code : Nat
  deriving DecidableEq, Repr

/-- SENDER of a packet (Table 135). -/
inductive Sender where
  | cell (l : Nat)
  | cluster (g : Nat)
  | hub
  | hbm (d : Nat)
  deriving DecidableEq, Repr

/-- A request of an agent to a memory side: who asked, and which tag its answer names. -/
structure MemReq where
  addr : Nat
  len : Nat
  tag : Nat
  tepoch : Nat
  deriving DecidableEq, Repr

/-- A sampled unit on its way to a checking cell (R371): instruction word, digest d_P, unit number, primary cell, job, the limits and formats the unit ran
with, and its operand images. -/
structure TapUnit where
  word : Word
  digest : Word × Word
  unit : Nat
  primary : Nat
  job : Nat
  klen : Nat
  rows : Nat
  checked : Bool
  alt : Bool
  pois : Bool
  a : List Byte
  b : List Byte
  deriving DecidableEq, Repr

/-- The type fields and the body of a packet (Table 136). -/
inductive Pkt where
  | chTile (t : ChTile) (destChan : Nat)
  | chMarker (srcChan destChan : Nat)
  | chCredit (outChan inChan count : Nat)
  | ancOp (op anchor : Nat) (value expect : Word)
  | ancReply (status : Nat) (old : Word)
  | ancWake (status anchor : Nat)
  | ancNotyet (anchor : Nat)
  | barArrive (unit : Nat) (src : Nat)
  | barDone (unit cells : Nat)
  | memRead (tier : Bool) (r : MemReq)
  | memWrite (tier : Bool) (r : MemReq) (body : List Byte) (poison : List Nat)
  | memData (tier : Bool) (r : MemReq) (body : List Byte) (poison : List Nat)
  | memAck (tier : Bool) (r : MemReq)
  | hubReq (r : MemReq) (write : Bool) (body : List Byte) (poison : List Nat)
  | hubResp (r : MemReq) (body : List Byte) (poison : List Nat)
  | epochSet (kind id epoch effective : Nat)
  | tap (t : TapUnit) (part last : Bool)
  | tapDigest (digest : Word × Word) (unit primary job : Nat) (alt pois checked : Bool) (primaryDigest : Word × Word)
  deriving DecidableEq, Repr

/-- TYPE of a packet. -/
def Pkt.type : Pkt → Nat
  | .chTile .. => 0x01
  | .chMarker .. => 0x02
  | .chCredit .. => 0x03
  | .ancOp .. => 0x10
  | .ancReply .. => 0x11
  | .ancWake .. => 0x12
  | .ancNotyet .. => 0x13
  | .barArrive .. => 0x18
  | .barDone .. => 0x19
  | .memRead t _ => if t then 0x30 else 0x20
  | .memWrite t .. => if t then 0x31 else 0x21
  | .memData t .. => if t then 0x32 else 0x22
  | .memAck t _ => if t then 0x33 else 0x23
  | .hubReq .. => 0x40
  | .hubResp .. => 0x41
  | .epochSet .. => 0x60
  | .tap .. => 0x04
  | .tapDigest .. => 0x05

/-- Virtual channel of a packet type (Table 131, Table 136). -/
def vcOf (ty : Nat) : Nat :=
  if ty = 0x01 ∨ ty = 0x02 ∨ ty = 0x04 then 2
  else if ty = 0x03 ∨ ty = 0x05 ∨ ty = 0x18 ∨ ty = 0x19 ∨ ty = 0x60 then 3
  else if ty = 0x10 ∨ ty = 0x20 ∨ ty = 0x21 ∨ ty = 0x30 ∨ ty = 0x31 ∨ ty = 0x40 then 0
  else 1

/-- Body flits of a packet of n bytes. -/
def flitsFor (n : Nat) : Nat := (n + 255) / 256

/-- Body flits of a packet (R257). -/
def Pkt.body : Pkt → Nat
  | .chTile t _ => t.nfl
  | .memWrite _ _ b _ | .memData _ _ b _ | .hubReq _ _ b _ | .hubResp _ b _ => flitsFor b.length
  | .tap t _ _ => flitsFor (min 4096 (t.a.length + t.b.length))
  | _ => 0

/-- A packet in flight (Table 135). -/
structure Packet where
  pkt : Pkt
  gs : Bool := false
  gen : Bool := false
  job : Nat := 0
  dest : Endpoint
  src : Endpoint
  sender : Sender
  epoch : Nat := 0
  tenant : Nat := 0
  req : Nat := 0                     -- anchor operations and their answers: the issuer's number of the request (assumption 109)
  deriving DecidableEq, Repr

/-- A flit that a router output keeps for retransmission (R365): its packet, its place in it (0 the head), its LSEQ, the retransmissions made so far and
whether it goes out as a retransmission. -/
structure SentFlit where
  pkt : Packet
  idx : Nat
  lseq : Nat
  tries : Nat := 0
  replayed : Bool := false
  deriving DecidableEq, Repr

/-- The sender's side of a mesh link (R364, R365): the next LSEQ and the last 64 flits sent, oldest first. -/
structure LinkTx where
  next : Nat := 0
  sent : List SentFlit := []
  deriving DecidableEq, Repr

/-- A message on a neighbour link (R205 to R209): from a cell, in a direction of the sender (1 north to 4 west). -/
inductive NbrBody where
  | grant (g : Grant)
  | write (off span : Nat) (parts : List (Nat × List Byte)) (poison : Bool) (iaddr : Nat)
  | ack
  | credit (unit : Nat) (gen : Bool)
  | close (mask : Nat) (gen : Bool)
  deriving DecidableEq, Repr

structure NbrMsg where
  cell : Nat                         -- sending logical cell
  dir : Nat                          -- direction from the sender, 1 to 4
  body : NbrBody
  deriving DecidableEq, Repr

/-- A monitor of an anchor agent (R277). -/
structure Monitor where
  anchor : Nat
  value : Word
  pkt : Packet                       -- the S.WAIT it answers
  deriving DecidableEq, Repr

/-- A barrier descriptor (Table 155), resolved. -/
structure BarDesc where
  mask : Nat
  units : Bool                       -- KIND: 1 UNITS
  parent : Option (Nat × Nat)        -- hardware partition and unit of the parent
  deriving DecidableEq, Repr

/-- One section generation of a barrier unit (R282). -/
structure BarGen where
  desc : Option BarDesc := none
  arrived : Nat := 0
  waiting : Bool := false
  deriving DecidableEq, Repr

/-- A barrier unit, under 16 × partition + unit. -/
structure BarUnit where
  g0 : BarGen := {}
  g1 : BarGen := {}
  episodes : Nat := 0
  deriving DecidableEq, Repr

/-- The barrier generation a generation bit selects. -/
def BarUnit.gen (u : BarUnit) (g : Bool) : BarGen := if g then u.g1 else u.g0

/-- Replace one generation of a unit. -/
def BarUnit.setGen (u : BarUnit) (g : Bool) (b : BarGen) : BarUnit := if g then { u with g1 := b } else { u with g0 := b }

/-- An epoch change a router holds for its waymark (R259): kind 0 cell, 1 cluster. -/
structure EpochPend where
  key : Nat                          -- logical cell, or 4,096 + cluster
  epoch : Nat
  effective : Nat
  deriving DecidableEq, Repr

/-- A router's tables (R252, R255, R258). -/
structure Router where
  table : Option (List Byte) := none   -- the 4,096 bytes in force
  shadow : Option (List Byte) := none  -- staged
  epochs : SMap Nat := []
  pend : List EpochPend := []
  switchDue : Bool := false          -- its controller has switched: it switches at the next boundary (R90)
  deriving DecidableEq, Repr

end Sys2Proof.Machine
end

