-- ==== Sys2Proof/Machine/StClu.lean ====
section
/-! DEFINITION. State of a cluster (files 07, 12, 13 and 14): controller, dispatch arbiter, summary queue, SFU tiles, DMA, update unit, check store. -/

namespace Sys2Proof.Machine

/-- STATE of a controller (Table 182). -/
inductive HartState where
  | reset | fetch | firmware | user | ended | stopped
  deriving DecidableEq, Repr

/-- The number CLU_CTL_STATUS.STATE reports. -/
def HartState.code : HartState → Nat
  | .reset => 0
  | .fetch => 1
  | .firmware => 2
  | .user => 3
  | .ended => 4
  | .stopped => 5

/-- What a controller instruction in progress waits for (R332, R333). -/
inductive CtlWait where
  | none
  | summary (addr rd : Nat)
  | anchor (op rd : Nat) (v : Word) (req : Nat)  -- low byte of the S opcode, destination register, operand, number of the request
  deriving DecidableEq, Repr

/-- A line of the controller's data cache (R327). -/
structure CLine where
  addr : Nat
  bytes : List Byte
  deriving DecidableEq, Repr

/-- A cluster controller. -/
structure Ctl where
  st : HartState := .reset
  umode : Bool := false              -- mode the hart runs in
  pc : Nat := 0
  x : List Word := List.replicate 32 0
  mepc : Nat := 0
  mcause : Word := 0
  mtvec : Word := 0
  mscratch : Word := 0
  mIE : Bool := false                -- mstatus.MIE
  mPIE : Bool := false
  mPPm : Bool := true                -- mstatus.MPP is M
  mPRV : Bool := false               -- mstatus.MPRV
  mTW : Bool := false                -- mstatus.TW
  mtie : Bool := false               -- mie.MTIE
  meie : Bool := false               -- mie.MEIE
  scgexp : Word := 0
  mtimecmp : Word := 0
  mcycle : Word := 0                 -- fabric cycles counted (R325)
  minstret : Word := 0               -- instructions retired
  mcounteren : Nat := 7              -- bits 2 to 0: U mode may read instret, time and cycle
  resv : Option (Nat × List Byte) := none -- LR reservation: its address and the bytes read
  ancReqs : Nat := 0                 -- anchor requests sent: the number of the next one
  wait : CtlWait := .none
  prog : SMap Byte := []             -- running program region
  progShadow : SMap Byte := []
  ram : SMap Byte := []
  fw : SMap Byte := []
  cache : List CLine := []           -- most recently filled first
  sereq : Bool := false
  deriving DecidableEq, Repr

/-- A dispatch group: grid position and word index of each entry (R330). -/
abbrev Group := List (Nat × Nat)

/-- A summary record (Table 92). -/
structure SumRec where
  pos : Nat
  bytes : List Byte
  deriving DecidableEq, Repr

/-- A tag of the DMA or the update unit (R237, R337, R403). -/
structure UTag where
  num : Nat
  ep : Nat
  job : Nat
  put : Bool
  va : Nat
  addr : Nat
  loc : Nat
  len : Nat
  tenant : Nat
  run : Nat := 0                     -- the DMA descriptor, or the stream of the update unit, that the piece belongs to
  void : Bool := false
  inv : Bool := false                -- R231
  deriving DecidableEq, Repr

/-- A DMA descriptor in progress (Table 177). -/
structure DmaRun where
  id : Nat                           -- its number, in queue order
  tier : Bool                        -- OP 1: local to tier
  job : Nat
  len : Nat
  va : Nat
  loc : Nat
  anchor : Nat
  next : Nat := 0                    -- bytes issued
  walk : Bool := false
  stopped : Bool := false
  page : Option Xlate := none        -- translation of the page in progress
  deriving DecidableEq, Repr

/-- A piece of a stream of an update descriptor that waits for a tag (R403). -/
structure UPiece where
  stream : Nat
  va : Nat
  off : Nat
  len : Nat
  deriving DecidableEq, Repr

/-- An update descriptor in progress (R401 to R409). -/
structure UpdRun where
  addr : Nat
  desc : List Byte
  prog : List Nat
  job : Nat
  todo : List UPiece := []           -- pieces not issued yet
  bufs : List (List Byte) := []      -- bytes of each stream
  bad : List (List Nat) := []        -- poisoned bytes of each stream, by 64-byte piece offset
  outs : List (Nat × Nat) := []      -- physical ranges of its write streams: what they hold is open once it is abandoned (R410)
  writing : Bool := false
  walk : Bool := false
  page : Option Xlate := none
  deriving DecidableEq, Repr

/-- A cached non-leaf entry (R230): the entry read at a level (0 the root entry) for a leading part of the virtual address names the table at addr. -/
structure WalkEnt where
  tenant : Nat
  level : Nat
  pref : Nat
  addr : Nat
  deriving DecidableEq, Repr

/-- A descriptor of an SFU tile that has run and waits for its completion. -/
structure SfuRun where
  addr : Nat
  anchor : Nat
  job : Nat
  deriving DecidableEq, Repr

/-- An SFU tile. -/
structure Sfu where
  queue : List Nat := []
  run : Option SfuRun := none
  deriving DecidableEq, Repr

/-- An entry of the check store (R371): the checking grid position and the unit. -/
structure TapEntry where
  pos : Nat
  tap : TapUnit
  deriving DecidableEq, Repr

/-- What the check collector of the primary's cluster holds of a unit in checked mode (R373). -/
structure Collect where
  primary : Nat
  unit : Nat
  job : Nat
  alt : Bool                         -- which checker has answered
  digest : Word × Word
  pois : Bool
  deriving DecidableEq, Repr

/-- A cluster, under its global number. -/
structure Clu where
  ctl : Ctl := {}
  openG : List Group := List.replicate 8 []
  ready : List (List Group) := List.replicate 8 []   -- oldest group first, per job
  round : Nat := 0                   -- position of the best-effort round over jobs (R292)
  lbase : List (Nat × Nat × Nat) := [] -- pending LEAD_BASE: grid position, base, value
  sums : List SumRec := []
  sfu : List Sfu := [{}, {}]
  dmaQ : List Nat := []
  dma : List DmaRun := []            -- started and unlanded, oldest first; the last may still issue
  dmaTags : List UTag := []
  dmaEp : SMap Nat := []
  dmaNext : Nat := 0                 -- number of the next DMA descriptor
  updQ : List Nat := []
  upd : Option UpdRun := none
  updTags : List UTag := []
  updEp : SMap Nat := []
  updCancels : List (Option Nat) := [] -- hub cancellations in progress at the update unit
  walks : List WalkEnt := []         -- walk cache (R230), most recently used first
  dmaCancels : List (Option Nat) := [] -- hub cancellations in progress at the DMA: a job, or every job
  router : Router := {}
  mons : List (Option Monitor) := List.replicate 32 none
  plaus : List Byte := []
  plausShadow : List Byte := []
  switched : Bool := false           -- its controller has switched in the switch in progress
  epoch : Nat := 0                   -- the cluster's epoch (R258)
  taps : List TapEntry := []         -- check store, oldest first
  collect : List Collect := []
  skipLogged : Bool := false         -- SAMPLE_SKIPPED logged in this pitch (R372)
  deriving DecidableEq, Repr

end Sys2Proof.Machine
end

