-- ==== Sys2Proof/Machine/StCore.lean ====
section
/-! DEFINITION. The application cores (R338), their coherent caches (R344, R345) and interrupt files (R346), and the Camley ports and streams (R433 to R442). -/

namespace Sys2Proof.Machine

/-! ### Coherence -/

/-- State of a line in an L2 (R344); a line not listed is in I. -/
inductive LineSt where
  | m | e | s
  deriving DecidableEq, Repr

/-- A line in an L2 or a writeback buffer: its bytes and whether they carry poison. -/
structure Line where
  st : LineSt
  bytes : List Byte
  poison : Bool := false
  deriving DecidableEq, Repr

/-! ### Application cores (R338) -/

/-- Privilege modes. -/
inductive CoreMode where
  | m | hs | u | vs | vu
  deriving DecidableEq, Repr

/-- What a waiting I/O access of a core's program does when its answer comes; `len` is the length of the instruction. -/
inductive CoreWait where
  | load (log2 : Nat) (signed : Bool) (rd len : Nat)       -- an integer load
  | fload (log2 rd len : Nat)                              -- a floating-point load
  | velem (vd log2 i : Nat)                                -- element i of a vector unit-stride load
  | plain                                                  -- an access whose value stands in State.readVal
  deriving DecidableEq, Repr

/-- An interrupt file (R346): bit i of a mask is identity i. -/
structure IrqFile where
  pend : Nat := 0
  en : Nat := 0
  delivery : Bool := false
  threshold : Nat := 0
  deriving DecidableEq, Repr

/-- An application core: its registers, its private caches and the accesses it has under way. -/
structure AppCore where
  l2 : SMap Line := []               -- under address div 64
  wb : SMap Line := []               -- writeback buffer: the PutM is on its way
  fault : Bool := false              -- its latest direct access raised an access-fault exception (R339, R340)
  x : List Word := List.replicate 32 0
  f : List Word := List.replicate 32 0
  v : List (List Byte) := List.replicate 32 (List.replicate 64 0) -- VLEN 512
  pc : Nat := 0
  mode : CoreMode := .m
  csrs : SMap Word := []             -- CSRs as stored, 0 where unlisted
  l1i : SMap (List Byte) := []       -- lines in the L1 instruction cache, whose copies a FENCE.I drops
  l1d : List Nat := []               -- lines in the L1 data cache, newest first
  sb : List (Nat × List Byte) := []  -- stores to main memory not yet in the caches, oldest first, each within one line
  want : Option Nat := none          -- line for which the instruction at pc has asked ownership (R345)
  resv : Option (Nat × Nat) := none  -- reservation of LR: address and width
  wait : Option CoreWait := none     -- an I/O access whose answer the core awaits
  deriving DecidableEq, Repr

/-- A store that a GetM carries: byte offset in the line, and value. -/
abbrev LineStore := Option (Nat × Byte)

/-- What the directory waits for on a line (R345). -/
inductive DirBusy where
  | fwd (req : Nat) (getM : Bool) (st : LineStore)   -- a forward to the owner
  | inv (req : Nat) (st : LineStore) (left : Nat)    -- acknowledgements of the sharers in a mask
  deriving DecidableEq, Repr

/-- A directory entry (R344): a line not listed is in I. -/
structure DirLine where
  owner : Option Nat := none
  sharers : Nat := 0
  busy : Option DirBusy := none
  deriving DecidableEq, Repr

/-! ### Camley -/

/-- A frame sent and not acknowledged (R437). -/
structure SentFrame where
  lseq : Nat
  bytes : List Byte
  stream : Nat                       -- stream of a DATA frame, 4,096 for CREDIT
  resends : Nat := 0
  deriving DecidableEq, Repr

/-- A Camley port. -/
structure CamPort where
  st : Nat := 1                      -- STATE of Table 242
  record : List Byte := []              -- port record read at the enable
  half : Bool := false               -- trained at 400 Gb/s (R433)
  ver : Nat := 0
  reason : Nat := 0
  heard : Bool := false              -- a HELLO has been received
  txSeq : Nat := 0
  rxSeq : Nat := 0
  unacked : List SentFrame := []     -- oldest first
  rx : List (List Byte) := []        -- Camley frames that wait, oldest first
  gap : Bool := false                -- a NAK is out: later frames are discarded until the one it names
  ackWm : Nat := 0                   -- waymark of the last ACK, or of the oldest frame sent after it
  unlocked : Bool := false           -- the latest frame carried UNLOCKED (R51)
  deriving DecidableEq, Repr

/-- A unit received and not delivered (R440). -/
structure DueUnit where
  n : Nat
  due : Nat                          -- waymark of delivery, extended under R39
  late : Bool
  deriving DecidableEq, Repr

/-- A Camley stream. -/
structure CamStream where
  enabled : Bool := false
  entry : List Byte := []            -- stream entry read at the enable
  next : Nat := 0                    -- send: next unit; receive: next unit to deliver
  credit : Nat := 0                  -- send: first unit not permitted
  arrived : List DueUnit := []
  sentWm : Nat := 0                  -- bytes sent in waymark paceWm
  paceWm : Nat := 0
  lateLogged : Bool := false         -- CAMLEY_LATE logged in this pitch
  owes : Bool := false               -- a credit waits for room among the unacknowledged frames
  deriving DecidableEq, Repr

/-- The Camley side of the hub. -/
structure Link where
  ports : SMap CamPort := []
  streams : SMap CamStream := []
  sent : List (Nat × List Byte) := [] -- Ethernet frames sent: port and bytes, newest first
  disabling : Option Nat := none     -- stream whose disable LINK_CMD has in progress
  deriving DecidableEq, Repr

end Sys2Proof.Machine
end

