-- ==== Sys2Proof/Machine/StEvt.lean ====
section
/-! DEFINITION. Event records, the module log, the partition rings and the pending corrected records (R354 to R361). -/

namespace Sys2Proof.Machine

/-- What a rule raises: the fields of Table 188 that the raising unit gives. -/
structure Evt where
  code : Nat
  kind : Nat := 0                    -- SRC_KIND
  src : Nat := 0                     -- SRC_ID
  part : Option Nat := none          -- owner partition
  req : Option (Nat × Nat) := none   -- request tag and job tag
  tenant : Option Nat := none
  sect : Nat := 0                    -- SECTION_ID
  addr : Option Nat := none
  detail : Nat := 0                  -- twelve bytes, byte 0 lowest
  hw : Bool := false                 -- HW set though the code alone does not set it (Table 244)
  deriving DecidableEq, Repr

/-- A written record (Table 188). -/
structure EvtRec where
  evt : Evt
  ts : Nat                           -- TS64
  seq : Nat
  count : Nat
  lostBefore : Bool
  deriving DecidableEq, Repr

/-- A ring of records with its head, tail and losses (R357, R359). -/
structure EvtRing where
  head : Nat := 0
  tail : Nat := 0
  lostBefore : Bool := false
  slots : SMap EvtRec := []
  deriving DecidableEq, Repr

/-- The module event log. -/
structure EvtLog where
  ring : EvtRing := {}
  seq : Nat := 0
  pend : List EvtRec := []           -- pending class 0x1 entries (R358), oldest first
  deriving DecidableEq, Repr

end Sys2Proof.Machine
end

