-- ==== Sys2Proof/Machine/StTeam.lean ====
section
/-! DEFINITION. Sections, loads and route cards (files 03, 04 and 11): what the hub holds for each rope team. -/

namespace Sys2Proof.Machine

/-- A profile of a route card (Table 161). -/
structure Profile where
  batch : Nat
  phases : Nat
  guar : Bool
  dynamic : Bool
  first : Nat
  bivBytes : Nat
  restoreWm : Nat
  replayWm : Nat
  deriving DecidableEq, Repr

/-- A phase of a route card (Table 162). -/
structure Phase where
  dur : Nat
  lanes : Nat
  input : Bool
  commit : Bool
  output : Bool
  slots : Nat
  cellFc : Nat
  nt : List Nat
  rd : List Nat
  wr : List Nat
  deriving DecidableEq, Repr

/-- A route card (R288, R289). -/
structure Card where
  partitions : Nat
  switchWm : Nat
  traverseWm : Nat
  slotCap : Nat
  maxGroupFc : Nat
  ntCeil : List Nat
  rdCeil : List Nat
  wrCeil : List Nat
  profiles : List Profile
  phases : List Phase
  wheels : List (List Nat)
  cmap : List Nat
  deriving DecidableEq, Repr

/-- A weight reference of a section (Table 37), with the team cell it targets. -/
structure WeightRef where
  cell : Nat
  off : Nat
  ntAddr : Nat
  len : Nat
  atSwitch : Bool
  root : Word × Word
  deriving DecidableEq, Repr

/-- A section that is staged or running on a team. -/
structure Sect where
  id : Nat
  image : Nat
  partitions : Nat
  reqCells : Nat
  strict : Bool
  sat : Bool
  binding : List Nat                 -- hardware partitions in team order (R78)
  card : Option Card := none
  weights : List WeightRef := []
  progCells : List Nat := []         -- team cells named by a CELL_PROG frame (R63)
  plaus : List Nat := []             -- team clusters with a PLAUS frame
  deriving DecidableEq, Repr

/-- Where the answer of a command goes: the tenant ring it was read from and the fields echoed (Table 235). -/
structure CmdRef where
  tenant : Nat := 0
  cmdId : Nat := 0
  reqTag : Nat := 0
  opcode : Nat := 0
  fn : Nat := 64                     -- function of the doorbell: 0 to 63 a VF, 64 the PF
  dead : Bool := false               -- its completions are discarded (R426)
  deriving DecidableEq, Repr

/-- A load in progress (R72): the header's fields, the frames read so far and what they defined. -/
structure Load where
  cmd : CmdRef
  cutover : Nat
  sect : Sect
  verMinor : Nat
  encrypted : Bool
  key : List Byte                    -- key in the AES engine for this load (R71)
  iv : List Byte                     -- IV_BASE
  keySrc : Option (Nat × Nat) := none -- KEY_SOURCE and slot of an encrypted load
  frameCount : Nat
  bodyLen : Nat
  digest : List Byte                 -- BODY_DIGEST
  pos : Nat := 0                     -- next byte of the body
  frame : Nat := 0                   -- next frame number
  nonDict : Bool := false            -- a frame other than DICT has been read
  body : List Byte := []             -- body bytes read so far
  dict : List (List Byte) := []
  written : List (Nat × Nat × Nat × Nat) := [] -- type of destination, target, first byte, end: R62 rule 2
  deriving DecidableEq, Repr

/-- Run states of a rope team (Table 43). -/
inductive Run where
  | empty | running | switching | draining | faulted | traverse
  deriving DecidableEq, Repr

/-- The number SECT_STATUS.RUN_STATE reports. -/
def Run.code : Run → Nat
  | .empty => 0
  | .running => 1
  | .switching => 2
  | .draining => 3
  | .faulted => 4
  | .traverse => 5

/-- Capacity change pending on a team (R318). -/
structure Change where
  op : Nat
  part : Nat
  target : Nat                       -- substitute partition, or TEAM_ID of the target
  subValid : Bool
  w : Nat                            -- the change waymark W
  started : Bool := false            -- the requests that move are being written out
  landed : Bool := false             -- a traverse: the section loads on its target, the source waits for the restores (Table 43)
  deriving DecidableEq, Repr

/-- One team's share of a stack or port in the pitch in progress (R239, R296): bytes left per job tag. -/
structure Budget where
  job : Nat
  nt : List Nat
  rd : List Nat
  wr : List Nat
  deriving DecidableEq, Repr

/-- What the hub holds for a rope team, under its TEAM_ID. -/
structure Team where
  run : Run := .empty
  gen : Bool := false                -- generation bit of the running section (R88)
  running : Option Sect := none
  staged : Option Sect := none
  load : Option Load := none
  swStart : Option Nat := none       -- waymark of the first Q.END (R82)
  swDeadline : Option Nat := none    -- waymark bound of the switch
  lastEvent : Nat := 0
  faulted : Bool := false            -- a MAP_OVERFLOW has been recorded for the section (R94)
  cause : Nat := 0                   -- code of the fault that started the drain
  reason : Nat := 0                  -- completion reason of the drained requests
  cutover : Nat := 0                 -- C of R307, 0 none
  secEnd : Bool := false             -- section-end request raised
  activeCard : Option Card := none   -- the Trailhead's active card
  cardAtBoundary : Bool := false     -- the staged card activates at the next boundary (R91)
  lanes : List (Option Nat) := []    -- owner request of each of 16 lane positions (R292)
  budgets : List Budget := []
  change : Option Change := none
  takeover : Option Nat := none      -- waymark of a take-over whose jobs are still quiescing (R395)
  drainAtBoundary : Option (Nat × Nat) := none -- drain requested for the next boundary (R387): code, reason
  resvLogged : List Nat := []        -- stacks (0 to 7) and ports (8 to 15) whose NT_RESV_EXCEEDED was logged in this pitch
  deriving DecidableEq, Repr

/-- One booked interval [a, b) and what it holds (R294). -/
structure Interval where
  a : Nat
  b : Nat
  lanes : Nat
  slots : Nat
  nt : List Nat
  rd : List Nat
  wr : List Nat
  phase : Nat                        -- index in the profile; the profile's length for the reserve
  deriving DecidableEq, Repr

/-- Life of a request at the Trailhead (R286 to R314). -/
inductive ReqState where
  | waiting | running | stalled | bivouacked | ended
  deriving DecidableEq, Repr

/-- A request that holds an intake entry or a bivouac record. -/
structure Request where
  tenant : Nat := 0
  tag : Nat := 0
  sect : Nat := 0
  batch : Nat := 0
  cls : Nat := 0                     -- 0 BE, 1 G2, 2 G1
  deadline : Nat := 0
  inputWm : Nat := 0
  argVa : Nat := 0
  wd : Nat := 0
  ready : Option Nat := none         -- input-ready waymark R, once the input is complete
  team : Nat := 0
  intake : Nat := 0
  st : ReqState := .waiting
  job : Option Nat := none
  jobTick : Nat := 0                 -- ticks issued when it last took a job tag (R49)
  left : Option (Nat × List Nat) := none -- ticks issued when it last gave one up, and the dies it ran on (R49)
  phase : Nat := 0                   -- phase in progress
  committed : Nat := 0               -- phases committed
  booked : List Interval := []
  c : Nat := 0                       -- booked completion
  guar : Bool := false               -- the guarantee stands
  staged : Bool := false             -- booked on the staged section
  released : Bool := false           -- completion carries GUARANTEE_RELEASED
  late : Bool := false               -- completion carries LATE_INPUT
  degraded : Bool := false           -- completion carries TIME_DEGRADED (R42)
  holdStart : Option Nat := none
  spill : Bool := false              -- to be written out now (R309)
  spillWm : Nat := 0
  bivAddr : Nat := 0
  bivLen : Nat := 0
  cmd : CmdRef := {}
  cancelCmds : List CmdRef := []     -- CANCEL commands that wait for the end
  record : Bool := false             -- its bivouac record is written and not restored
  alone : Bool := false              -- that record was written while other jobs ran on (R351)
  opens : Nat := 0                   -- waymark from which the arbiters post its groups (R303)
  moved : Option (Nat × List Interval × Nat) := none -- rebooking on a change's target: team, intervals, completion (R320)
  dyn : Option Nat := none           -- the cell of a DYNAMIC request (R303)
  quiesce : Bool := false            -- its dispatch is held for a replay (R380)
  quiesceWm : Nat := 0               -- waymark at which that began
  hwSeq : Nat := 0
  hwCode : Nat := 0
  replayFrom : Option Nat := none    -- first phase of a running replay span (R380)
  replayTo : Nat := 0
  funded : Bool := false             -- the reserve of R304 has been used
  checked : Bool := false            -- checked mode (R373)
  planned : Bool := false            -- its replay is booked by a take-over (R395)
  condemnVote : Bool := false        -- a vote of R373 condemned a slot during the span
  marked : Option Nat := none        -- phase whose mark awaits the commit decision
  markAt : SMap Nat := []            -- units each cell of the team had completed at that mark (R378)
  overrun : List Nat := []           -- phases whose overrun was reported
  delta : Nat := 0                   -- δ of R382
  cancelling : Option (Nat × Nat × Nat) := none -- a hub cancel is in progress: status, reason and code to post (R244)
  deriving DecidableEq, Repr

/-- Per-pitch columns of the ledger (R294). -/
structure Cols where
  lanes : Nat := 0
  jobs : Nat := 0
  slots : Nat := 0
  nt : List Nat := [0, 0, 0, 0, 0, 0, 0, 0]
  rd : List Nat := [0, 0, 0, 0, 0, 0, 0, 0]
  wr : List Nat := [0, 0, 0, 0, 0, 0, 0, 0]
  deriving DecidableEq, Repr

/-- What a released booking still holds in the pitch in which it was released (R314). -/
structure Ghost where
  team : Nat
  pitch : Nat
  cols : Cols
  req : Option Nat := none           -- request whose bookings were released: it never counts twice in a pitch (R294)
  deriving DecidableEq, Repr

/-- The Trailhead's own state beside its registers. -/
structure Adm where
  reqs : SMap Request := []          -- under a number that rises in acceptance order
  nextReq : Nat := 0
  expired : List (Nat × Nat) := []   -- tenant and tag of requests that expired (R313)
  ghosts : List Ghost := []
  busyLogged : List Nat := []        -- partitions whose ADM_BUSY was logged in this pitch (R324)
  deriving DecidableEq, Repr

end Sys2Proof.Machine
end

