-- ==== Sys2Proof/Machine/StHost.lean ====
section
/-! DEFINITION. The Focia host interface (file 15): ring pages, completions, signals and the copies in progress. -/

namespace Sys2Proof.Machine

/-- A completion entry (Table 235). -/
structure Completion where
  status : Nat
  reason : Nat := 0
  cmd : CmdRef := {}
  waymark : Nat := 0
  code : Nat := 0
  flags : Nat := 0
  frame : Nat := 0
  evtSeq : Nat := 0
  deriving DecidableEq, Repr

/-- A completion as written: the host address it went to, the entry and the vector signalled. -/
structure Posted where
  addr : Nat
  fn : Nat
  entry : Completion
  vector : Option Nat
  deriving DecidableEq, Repr

/-- A command read from a submission ring and not yet run: the waymark of the read (R422), its 64 bytes, and the intake entry that a submission's read took
(R297). -/
structure HostCmd where
  wm : Nat
  cmd : CmdRef
  bytes : List Byte
  intake : Option Nat := none
  deriving DecidableEq, Repr

/-- A tenant's ring page (Table 228). -/
structure RingPage where
  sq : SMap Byte := []               -- the 1,024 bytes of the submission ring
  sqHead : Nat := 0
  sqTail : Nat := 0
  vis : List Nat := []               -- function of each visible unread entry, oldest first
  cqBase : Nat := 0
  enable : Bool := false
  log2 : Nat := 4
  vector : Nat := 0xFF
  cqHead : Nat := 0                  -- 12-bit indices: an entry's place is its index modulo the ring size
  cqTail : Nat := 0
  passes : Nat := 0                  -- completed passes of the completion ring
  reserved : Nat := 0                -- reserved entries not posted yet
  badDb : Nat := 0
  inbox : List HostCmd := []         -- commands read and not yet run, oldest first
  deriving DecidableEq, Repr

/-- A STREAM_DATA copy in progress (R430). -/
structure StreamCopy where
  cmd : CmdRef
  hostAddr : Nat
  devVa : Nat
  len : Nat
  last : Bool
  deriving DecidableEq, Repr

/-- The host interface. -/
structure HostIf where
  pages : SMap RingPage := []
  numVFs : Nat := 0
  posted : List Posted := []         -- completions written to host memory, newest first
  msix : List (Nat × Nat) := []      -- (function, vector) signalled, newest first
  copies : List StreamCopy := []
  linkSpeed : Nat := 3               -- speed code (Table 243) and width at which the host's slot trains (R415): the outside world's
  linkWidth : Nat := 16
  deriving DecidableEq, Repr

end Sys2Proof.Machine
end

