-- ==== Sys2Proof/Machine/StMod.lean ====
section
/-! DEFINITION. State of the module as a whole (files 13 and 16 to 19): fuses, keys and the root of trust, flash, bring-up and resets, power, telemetry, the
boundary-scan port, and what repair keeps. -/

namespace Sys2Proof.Machine

/-! ### Root of trust (file 16) -/

/-- A command of SEC_CMD in progress: its OP, what it writes at its end and its STATUS. -/
inductive SecWork where
  | none
  | fuse (field value : Nat)         -- a checked directive with OP 1
  | key (slot : Nat) (value : List Byte)
  | token (grants : Nat)
  | zero (slot : Nat)
  deriving DecidableEq, Repr

structure SecRun where
  work : SecWork
  status : Nat
  deriving DecidableEq, Repr

/-- What an SPDM requester has agreed with the management controller (R464). -/
structure Spdm where
  version : Nat := 0                 -- 0 before GET_VERSION and GET_CAPABILITIES, else 0x12 or 0x13
  caps : Bool := false
  algs : Bool := false
  transcript : List Byte := []       -- messages A: versions, capabilities, algorithms
  certs : List Byte := []            -- messages B: digests and certificates
  measLog : List Byte := []          -- L1/L2 of the measurements since the last signature
  deriving DecidableEq, Repr

/-- The root of trust. -/
structure Sec where
  fuses : SMap (List Nat) := []      -- the three copies of each FIELD of Table 245; unlisted: unwritten
  voted : SMap Nat := []             -- values as voted at the last cold boot
  pending : Bool := false            -- FUSE_STATUS.PENDING
  nonce : Nat := 0                   -- number of the nonce in force: its value is Config.nonceWord
  keys : SMap (List Byte) := []      -- key memory
  isolated : Bool := false           -- R469 step 3
  identity : Bool := false           -- the identity key is in the engine
  zeroised : Bool := false
  scan : Bool := false               -- a scan chain is enabled
  run : Option SecRun := none
  grants : Nat := 0                  -- SEC_DEBUG.GRANTS
  measure : SMap (List Byte) := []   -- measurements 1 to 3 (R461, R463)
  spdm : Spdm := {}
  deriving DecidableEq, Repr

/-- The module's flash: the two base-camp image slots, Brerel's certificate chain, the event records committed, the retirement list. -/
structure Flash where
  images : List (List Byte) := [[], []]
  chain : List Byte := []
  logs : List EvtRec := []
  retired : List Nat := []           -- 17 × global cluster + slot
  deriving DecidableEq, Repr

/-! ### Non-volatile stores and power (file 18) -/

/-- A store that waits for its turn (R503, R504). -/
inductive NvItem where
  | log (r : EvtRec)
  | retire (slot : Nat) (add : Bool)
  | block (image blk : Nat) (bytes : List Byte) -- a 64-KiB block of a base-camp image slot
  deriving DecidableEq, Repr

structure NvJob where
  item : NvItem
  refused : Bool := false            -- pending after a refusal: it holds nothing back
  deriving DecidableEq, Repr

/-- An answer of the management controller to a PLDM request: none stands for an error. -/
inductive PldmAnswer where
  | value (id : Nat) (v : Option Nat)       -- a sensor or effecter of Table 280
  | record (n : Nat) (r : Option EvtRec)    -- record n of the flash log, the oldest first (R360)
  deriving DecidableEq, Repr

/-- Power and telemetry. -/
structure Pwr where
  aux : Bool := true                 -- the always-on domain runs
  mainMv : Nat := 0                  -- latest sample of the main input
  target : Nat := 1600               -- common target under the cap (R499)
  hot : List Bool := [false, false, false, false, false, false, false, false]      -- junction limiting, per die (R500)
  hotStack : List Bool := [false, false, false, false, false, false, false, false] -- stack limiting, per die (R523)
  trip : Bool := false               -- THERMTRIP_N is low (R514)
  stretching : List Bool := [false, false, false, false, false, false, false, false]
  stretched : List Bool := [false, false, false, false, false, false, false, false] -- stretched in the floor window in progress
  capLogged : Bool := false          -- CAP_LIMITING logged in this pitch
  holdLogged : Bool := false         -- HOLDUP_LOW logged in this pitch
  nv : List NvJob := []              -- stores in request order
  sensors : SMap Nat := []           -- PLDM sensors as last refreshed (Table 280)
  pldm : List PldmAnswer := []       -- answers to PLDM requests, newest first
  spdmOut : List (List Byte) := []   -- SPDM responses, newest first
  deriving DecidableEq, Repr

/-! ### Bring-up and reset (file 17) -/

/-- A partial reset in progress (R487). -/
structure PReset where
  level : Nat
  target : Nat
  cmd : Bool                         -- requested through RESET_CMD
  event : Nat := 0                   -- SEQ of the fault event that started it
  code : Nat := 0                    -- its code
  done : Bool := false               -- the scope is in reset; only the end is missing
  deriving DecidableEq, Repr

structure Boot where
  ready : Bool := false              -- a cold boot has reached READY since auxiliary power-on
  perst : Bool := false              -- PERST_N is asserted
  pcieUp : Bool := false             -- step 4a has ended: configuration requests complete
  slot : Nat := 0                    -- base-camp image slot started last
  fetched : List Nat := []           -- clusters whose controller has its firmware
  resets : List PReset := []
  absorbed : Option (Nat × Nat × Nat) := none -- RESET_CMD request that ends with a larger reset (R489): level, target, STATUS
  wait : Option Bool := none         -- a module reset that waits for a fuse program (R489): true cold
  testMode : Bool := false           -- TEST_MODE as sampled
  mgmtAddr : Nat := 0                -- MGMT_ADDR as sampled
  deriving DecidableEq, Repr

/-- A CXL device found on a far-tier port (R222). -/
structure CxlDev where
  rev : Nat
  rate : Nat
  width : Nat
  gib : Nat
  direct : Bool := true              -- attached directly, with no switch
  single : Bool := true              -- one logical device
  mem : Bool := true                 -- a Type 3 device that exposes host-managed device memory over CXL.io and CXL.mem
  cache : Bool := false              -- CXL.cache
  dynCap : Bool := false             -- dynamic capacity
  backInv : Bool := false            -- back-invalidation
  deriving DecidableEq, Repr

/-! ### The boundary-scan port (R515) -/

/-- States of the IEEE 1149.1 controller. -/
inductive TapState where
  | reset | idle | selDr | capDr | shDr | ex1Dr | pauDr | ex2Dr | updDr | selIr | capIr | shIr | ex1Ir | pauIr | ex2Ir | updIr
  deriving DecidableEq, Repr

structure TapPort where
  st : TapState := .reset
  ir : Nat := 0xFF                   -- instruction in force: BYPASS
  irSh : Nat := 0
  bypass : Bool := false
  bsr : List Bool := List.replicate 18 false  -- boundary shift register, the cell nearest TDI first
  upd : List Bool := List.replicate 18 false  -- update latches
  tdo : Bool := false
  deriving DecidableEq, Repr

/-! ### Repair (file 13) -/

/-- A condemned slot that waits for its take-over (R394). -/
structure Condemn where
  slot : Nat                         -- 17 × global cluster + slot
  wm : Nat                           -- waymark of the condemnation
  deriving DecidableEq, Repr

structure Integ where
  condemned : List Condemn := []
  testing : Option Nat := none       -- slot under test
  returned : List Nat := []          -- slots that passed and wait for the boundary
  repl : SMap (Nat × Bool) := []     -- comparison in progress per group: its start waymark, and whether VERIFY asked for it
  replLast : SMap Nat := []          -- pitch of the last comparison of a group
  window : Nat := 0                  -- pitch at which the retire window in progress began
  scrubFrom : Nat := 0               -- waymark at which the scrub pass in progress began (R389)
  scrubbed : List ScrubLoc := []     -- what the scrubber has read in it
  deriving DecidableEq, Repr

end Sys2Proof.Machine
end

