-- ==== Sys2Proof/Machine/StTime.lean ====
section
/-! DEFINITION. State of the time base (file 02): the flywheel, the time code, the time state, the pitch schedule and the floor windows. Instants and
intervals are exact rationals in nanoseconds since auxiliary power-on. -/

namespace Sys2Proof.Machine

/-- The time states of Table 22 (R40). -/
inductive TState where
  | acquire | locked | holdover | degraded | free
  deriving DecidableEq, Repr

/-- The number TIME_STATE.STATE reports (Table 23). -/
def TState.code : TState → Nat
  | .acquire => 0
  | .locked => 1
  | .holdover => 2
  | .degraded => 3
  | .free => 4

/-- How far acquisition of the edges has come in ACQUIRE (R526). -/
inductive AcqStep where
  | none      -- no valid edge of a series yet: the next one sets p
  | first     -- one valid edge: the next, in the first window, sets I and p
  | steering  -- every valid edge steers by the law
  deriving DecidableEq, Repr

/-- The waymark receiver, the flywheel and the pitch schedule. -/
structure TimeBase where
  now : Rat := 0                     -- instant of the latest timed command
  st : TState := .acquire
  traceable : Bool := false
  sourceId : Nat := 0
  holdEnd : Nat := 0                 -- waymark at which HOLDOVER ends (R41)
  stepPending : Bool := false
  count : Nat := 0                   -- waymark count
  ticks : Nat := 0                   -- internal ticks since auxiliary power-on (R525)
  interval : Rat := 1000             -- I (R526)
  pred : Rat := 0                    -- p: predicted instant of the next edge not judged yet
  ticked : Bool := false             -- the tick of that waymark is already out
  tickWait : Option Rat := none      -- prediction of a judged waymark whose tick is not out yet
  base : Rat := 0                    -- predicted edge of the latest tick
  slew : Rat := 0                    -- offset of the tick from the external edges during the slew of R43
  tickOff : Option (Rat × Rat) := none -- least and greatest offset of a tick from its predicted edge (R32)
  edgeSeen : Bool := false           -- an edge since auxiliary power-on
  lastEdge : Rat := 0                -- instant t of the last valid edge (R31)
  windows : Nat := 8                 -- windows of the series that have passed empty, 8: exhausted
  acq : AcqStep := .none
  missRun : Nat := 0                 -- consecutive missing waymarks in LOCKED
  samples : List (Option Bool) := [] -- time-code bits, newest first, at most 128; none: missing waymark
  aligned : Bool := false            -- frame alignment held (R34)
  sinceTest : Nat := 0               -- waymarks since the end of the last tested frame
  tested : Bool := false             -- the present position has been tested
  failRun : Nat := 0                 -- consecutive tested frames that failed
  lastFrame : Option Nat := none     -- WM_COUNT of the last valid frame
  anyFrame : Bool := false           -- a valid frame since auxiliary power-on
  lastTick : Nat := 0                -- tick number of the waymark sampled last
  disagree : Int := 0                -- run of disagreeing frames, signed by direction (R37)
  ext : Option Nat := none           -- external count of the latest external waymark
  validRun : Nat := 0                -- consecutive valid waymarks outside LOCKED (R43)
  validFrames : Nat := 0             -- consecutive valid frames after them (R43)
  phaseErr : Rat := 0                -- measured phase error (R31)
  pitchLen : Nat := 100
  pitchPhase : Nat := 0
  pendingCfg : Option (Nat × Nat × Nat) := none -- LEN, PHASE and the tick number at the write (R47)
  lastBoundary : Option Nat := none  -- count of the last boundary taken
  pitches : Nat := 0                 -- boundaries since cold boot (retire windows, R393)
  stepTick : Option Nat := none      -- tick number of the latest step (R48)
  floorDone : List Nat := [0, 0, 0, 0, 0, 0, 0, 0]          -- floor windows judged, per die
  holdUntil : List (Option Nat) := [none, none, none, none, none, none, none, none] -- R49 case 3, per die
  floorLogged : List Bool := [false, false, false, false, false, false, false, false] -- CLK_FLOOR logged in this pitch
  deriving DecidableEq, Repr

end Sys2Proof.Machine
end

