-- ==== Sys2Proof/Machine/State.lean ====
section
/-! DEFINITION. The state of the S4 block as plain data, and the state after reset. A sparse table lists what differs from the default of its reader; a register
not listed reads as its reset value. -/

namespace Sys2Proof.Machine

/-- Why the block would stop with a fault. -/
inductive Fault where
  /-- No meaning raises it: the spec gives every error of a command an effect on the state (a record, a refused access, a drained section). Safe. -/
  | never
  deriving DecidableEq, Repr

/-- Why a command has no meaning in the model. -/
inductive Refusal where
  /-- Raised by an arm of `exec` whose command has no meaning yet, with the command's mnemonic. Safe: the block stops. -/
  | notModelled (mnemonic : String)
  deriving DecidableEq, Repr

/-- The three part numbers (Table 1). -/
inductive Part where
  | au | a | b
  deriving DecidableEq, Repr

/-- A hardware upset that no read has met yet (R362, R363, R366). -/
inductive Upset where
  | sram (word : Nat)                -- uncorrectable error in the 64-bit word at 8 × word
  | sramFix (word : Nat)             -- correctable error
  | store (x : Store)                -- uncorrectable error in a store without an address
  | storeFix (x : Store)             -- correctable error
  | parity (sector : Nat)            -- a byte of the sector's next delivery arrives with bad parity
  | payload (cluster code sec : Nat) -- a byte of payload sector sec of the next packet at an endpoint arrives with bad parity
  | nbrByte (cell k : Nat)           -- byte k of the next neighbour write to a cell arrives with bad parity
  | header (cluster : Nat)           -- parity mismatch in a packet header at the router of a cluster
  | adder (cell : Nat)               -- a node addition disagrees twice
  | mac (cell : Nat)                 -- the array of a cell errs in the next unit it computes or checks (R370)
  | bank (cell store : Nat) (fix : Bool) -- 0 instruction bank, 2 channel or bounds table of a cell; correctable when fix
  | ctlMem (g store : Nat)           -- 1 memory of a controller, 2 slot table of its router
  | hubStore (store : Nat)           -- ledger, intake, route cards, event log (Table 205)
  | cache (core line : Nat)          -- dirty line of an application core's cache
  | vbatt                            -- VBATT was lost while the auxiliary input was off (R456)
  | bistSlot (slot : Nat)            -- self-test fails: 17 × cluster + slot
  | bistClu (g : Nat)
  | bistDie (d dom : Nat)            -- die 0 to 7, 8 the hub; domain 0 router, 1 die logic, 2 hub
  | kaSlot (slot : Nat)              -- a known-answer run fails
  | kaClu (g : Nat)
  | trainDie (d : Nat)               -- UCIe training of a die fails
  | trainHbm (d : Nat)
  | trainCxl (p : Nat)
  | trainPcie
  | fuseCopy (copy : Nat)            -- a fuse copy reads back wrong (R445)
  deriving DecidableEq, Repr

/-- Triangle index of the door bit of partitions i < j (R450). -/
def doorIndex (i j : Nat) : Nat := i * 63 - i * (i - 1) / 2 + (j - i - 1)

/-- Door bits of partition i towards j = i + 1, …: set towards those of its die. -/
def factoryDoors (i : Nat) : Nat := (2 ^ (7 - i % 8) - 1) * 2 ^ doorIndex i (i + 1)

/-- Layout slot 0 as manufactured (R448): WRITTEN 0x5A, every CODE 0, every door bit of a pair of partitions on one die set. -/
def factoryLayout : Nat := 0x5A + 2 ^ 24 * ((List.range 64).map factoryDoors).foldl (· + ·) 0

/-- The block. -/
structure State where
  pending : List Instr := []         -- commands that wait, first in first out
  part : Part := .au
  draws : Nat := 0                   -- values taken from Config.freeWord so far
  readVal : Word := 0                -- value the last register or memory access returned
  readData : List Byte := []         -- bytes the last host access returned
  regs : SMap Word := []             -- registers whose value has been set, under their addresses
  mem : List Host.Cell := []         -- bytes of the near tier, far tier, memory tiles and scratchpads
  poison : List Nat := []            -- poisoned 64-byte sectors (address div 64), rising
  upsets : List Upset := []
  time : TimeBase := {}
  evt : EvtLog := {}
  partEvt : SMap EvtRing := []
  badReg : List Nat := []            -- requesters that logged REG_ACCESS_BAD in this pitch (R16)
  teams : SMap Team := []
  adm : Adm := {}
  host : HostIf := {}
  cells : SMap Cell := []
  clus : SMap Clu := []
  net : List Packet := []            -- packets in flight, oldest first
  xbar : List Packet := []           -- memory-tile requests of lead engines and their answers in the cluster crossbars, oldest first (R212, R233)
  links : SMap LinkTx := []          -- router outputs, under 5 × cluster + output (R365)
  nbr : List NbrMsg := []            -- neighbour-link messages in flight, oldest first
  anchors : SMap Word := []
  ancPois : List Nat := []           -- poisoned anchors
  bars : SMap BarUnit := []
  tlbBusy : Bool := false            -- NT_TLB_INV.BUSY (R231)
  layout : Nat := factoryLayout      -- active layout slot (R448): voted at the last cold boot
  imsic : SMap IrqFile := []         -- interrupt file 8 × hart + file (R346)
  sec : Sec := {}
  flash : Flash := {}
  pwr : Pwr := {}
  boot : Boot := {}
  tap : TapPort := {}
  integ : Integ := {}
  cxl : List (Option CxlDev) := List.replicate 8 none -- devices behind the far-tier ports (R222)
  cores : SMap AppCore := []
  dir : SMap DirLine := []           -- directory of the L3, under address div 64
  link : Link := {}
  exporting : Option (Bool × Nat × Nat) := none -- export engine (R413): import, source, destination
  deriving DecidableEq, Repr

/-- The machine right after reset: every field at its declared default, which is its reset value; no command waits. -/
def State.reset : State := {}

end Sys2Proof.Machine
end

