-- ==== Sys2Proof/Machine/Ops.lean ====
section
/-! DEFINITION. The named operations over memory, registers, the event log, units and teams that every family's meanings call. -/

namespace Sys2Proof.Machine

/-! ### Memory -/

/-- The byte at an address; an unlisted one reads 0 (assumption 4). -/
def memRead : List Host.Cell → Nat → Byte
  | [], _ => 0
  | (k, v) :: m, a => if k = a then v else memRead m a

/-- List a byte under an address, addresses rising. -/
def memIns (a : Nat) (b : Byte) : List Host.Cell → List Host.Cell
  | [] => [(a, b)]
  | (k, v) :: m => if k = a then (a, b) :: m else if a < k then (a, b) :: (k, v) :: m else (k, v) :: memIns a b m

/-- Write one byte: writing 0 removes the entry. -/
def memWrite (m : List Host.Cell) (a : Nat) (b : Byte) : List Host.Cell :=
  if b = 0 then m.filter (fun c => c.1 != a) else memIns a b m

/-- n bytes from an address. -/
def memReadN (m : List Host.Cell) (a n : Nat) : List Byte := (List.range n).map (fun i => memRead m (a + i))

/-- Write bytes from an address upward. -/
def memWriteN (m : List Host.Cell) (a : Nat) : List Byte → List Host.Cell
  | [] => m
  | b :: l => memWriteN (memWrite m a b) (a + 1) l

/-- Addresses rise from a lower bound, and no entry holds the byte an unlisted address reads. -/
def memWfFrom (lo : Nat) : List Host.Cell → Bool
  | [] => true
  | (k, v) :: m => decide (lo ≤ k) && v != 0 && memWfFrom (k + 1) m

/-- The canonical form of memory. -/
def Memory.wf (m : List Host.Cell) : Bool := memWfFrom 0 m

/-- Sectors touched by bytes [a, a + n). -/
def sectorsOf (a n : Nat) : List Nat := if n = 0 then [] else (List.range ((a + n - 1) / 64 - a / 64 + 1)).map (· + a / 64)

/-- Insert a number into a rising list. -/
def insNat (x : Nat) : List Nat → List Nat
  | [] => [x]
  | y :: l => if x = y then y :: l else if x < y then x :: y :: l else y :: insNat x l

/-- The poison list after a write of n bytes at a whose poisoned sectors are `bad`: a poisoned sector becomes poisoned, a clean write of all 64 bytes clears it
(R221). -/
def poisonAfter (p : List Nat) (a n : Nat) (bad : List Nat) : List Nat :=
  let whole (k : Nat) : Bool := decide (a ≤ 64 * k) && decide (64 * k + 64 ≤ a + n)
  let touched := sectorsOf a n
  let kept := p.filter (fun k => !(touched.contains k && whole k && !bad.contains k))
  (touched.filter (fun k => bad.contains k)).foldl (fun l k => insNat k l) kept

/-- Is any byte of a range in a poisoned sector? -/
def State.poisoned (s : State) (a n : Nat) : Bool := (sectorsOf a n).any (fun k => s.poison.contains k)

/-- Poisoned sectors of a range. -/
def State.badIn (s : State) (a n : Nat) : List Nat := (sectorsOf a n).filter (fun k => s.poison.contains k)

/-- n bytes of device memory. -/
def State.rd (s : State) (a n : Nat) : List Byte := memReadN s.mem a n

/-- Write device memory, with the poisoned sectors of the data. -/
def State.wr (s : State) (a : Nat) (bs : List Byte) (bad : List Nat) : State :=
  { s with mem := memWriteN s.mem a bs, poison := poisonAfter s.poison a bs.length bad }

/-- The sectors of a block of n bytes at dst that correspond to poisoned sectors of a block at src. -/
def mapBad (bad : List Nat) (src dst n : Nat) : List Nat :=
  if n = 0 then [] else
  (sectorsOf dst n).filter (fun k =>
    let lo := max (64 * k) dst
    let hi := min (64 * k + 64) (dst + n)
    (sectorsOf (src + (lo - dst)) (hi - lo)).any (fun j => bad.contains j))

/-! ### The address map (Table 18) -/

/-- Address of scratchpad byte `off` of logical cell L. -/
def scratchAddr (L off : Nat) : Nat := 0x081000000000 + L * 0x400000 + off

/-- Address of byte `off` of the memory-tile space of global cluster g. -/
def tileAddr (g off : Nat) : Nat := 0x080000000000 + g * 0x4000000 + off

/-- Address of anchor a in the anchor array. -/
def anchorAddr (a : Nat) : Nat := 0x0F4000000000 + 8 * a

/-! ### Registers -/

/-- The block, unit and offset of a register address (Table 19, R524). -/
def blockOf (a : Nat) : Option (Blk × Nat × Nat) :=
  if 0x1000000000000 ≤ a then some (.ring, (a - 0x1000000000000) / 0x1000, a % 0x1000)
  else if 0x0F3000000000 ≤ a ∧ a < 0x0F3004000000 then some (.part, (a - 0x0F3000000000) / 0x100000, a % 0x100000)
  else if 0x0F2000000000 ≤ a ∧ a < 0x0F2010000000 then some (.cluster, (a - 0x0F2000000000) / 0x100000, a % 0x100000)
  else if 0x0F1000000000 ≤ a ∧ a < 0x0F1010000000 then some (.cell, (a - 0x0F1000000000) / 0x10000, a % 0x10000)
  else if 0x0F0000100000 ≤ a ∧ a < 0x0F0000B00000 then
    let o := a % 0x100000
    match (a - 0x0F0000000000) / 0x100000 with
    | 1 => some (.adm, 0, o)
    | 2 => some (.time, 0, o)
    | 3 => some (.fuse, 0, o)
    | 4 => some (.sec, 0, o)
    | 5 => some (.pwr, 0, o)
    | 6 => some (.evt, 0, o)
    | 7 => some (.host, 0, o)
    | 8 => some (.link, 0, o)
    | 9 => some (.cxl, 0, o)
    | _ => some (.hbm, 0, o)
  else none

/-- Is an offset one of a register array's? The dimensions are (stride, count). -/
def inDims : Nat → List (Nat × Nat) → Bool
  | o, [] => decide (o = 0)
  | o, (st, n) :: ds =>
    match ds with
    | [] => decide (o % st = 0) && decide (o / st < n)
    | _ => decide (o / st < n) && inDims (o % st) ds

/-- The table that describes a register address, with its unit. -/
def regDescAt (a : Nat) : Option (RegDesc × Nat) :=
  match blockOf a with
  | none => none
  | some (b, u, o) =>
    match b.regs.find? (fun d => decide (d.off ≤ o) && inDims (o - d.off) d.dims) with
    | some d => some (d, u)
    | none => none

/-- Reset value of a table's register. -/
def RegDesc.reset (d : RegDesc) : Word := d.fields.foldl (fun w f => setF w f.f f.rst) 0

/-- Reset value of a register: SECT_TEAM.TEAM_ID is the partition's own number (Table 49), both engines of a share are its own number (Table 169). -/
def regReset (a : Nat) : Word :=
  match regDescAt a with
  | some (d, u) =>
    if d.blk = .part ∧ d.off = 0x120 then setF d.reset F.SECT_TEAM_TEAM_ID u
    else if d.blk = .adm ∧ (d.off = 0x100 ∨ d.off = 0x140) then
      let i := a % 64 / 8
      setF (setF d.reset F.ADM_NT_SHARE_ENGINE_A i) F.ADM_NT_SHARE_ENGINE_B i
    else d.reset
  | none => 0

/-- The stored value of a register. -/
def State.reg (s : State) (a : Nat) : Word :=
  match SMap.find? s.regs a with
  | some v => v
  | none => regReset a

/-- Store a register's value. -/
def State.setReg (s : State) (a : Nat) (v : Word) : State := { s with regs := SMap.ins a v s.regs }

/-- A field of a stored register. -/
def State.fld (s : State) (a : Nat) (f : Fld) : Nat := getF (s.reg a) f

/-- Set a field of a stored register. -/
def State.setFld (s : State) (a : Nat) (f : Fld) (v : Nat) : State := s.setReg a (setF (s.reg a) f v)

/-- Add to a counter field that saturates. -/
def State.bump (s : State) (a : Nat) (f : Fld) (d : Nat) : State := s.setFld a f (satAdd (Fld.top f) (s.fld a f) d)

/-- Add to a counter field that wraps. -/
def State.wrap (s : State) (a : Nat) (f : Fld) (d : Nat) : State := s.setFld a f (s.fld a f + d)

/-- Return every stored register a predicate selects to its reset value. -/
def State.clearRegs (s : State) (p : Nat → Bool) : State := { s with regs := s.regs.filter (fun r => !p r.1) }

/-- The share wheels of clusters read 31 in every entry, their reset value (R216, Table 113). -/
def State.clearWheelsOf (s : State) (gs : List Nat) : State :=
  s.clearRegs (fun a => gs.any (fun g => decide (R.CLU_XBAR_WHEEL g 0 0 ≤ a) && decide (a < R.CLU_XBAR_WHEEL g 0 0 + 256)))

/-! ### Units -/

/-- Layout code of a die in the active layout (R448). -/
def State.code (s : State) (d : Nat) : Nat := bitsOf s.layout (9 + 2 * d) (8 + 2 * d)

/-- Global cluster of cluster k of partition p (R22, R449). -/
def State.cluster (s : State) (p k : Nat) : Nat :=
  let d := p / 8
  let q := p % 8
  let (col, row) :=
    if s.code d = 1 then (4 * (q % 2) + k, q / 2)
    else if s.code d = 2 then (q, k)
    else (2 * (q % 4) + k % 2, 2 * (q / 4) + k / 2)
  32 * d + 8 * row + col

/-- Partition and cluster index of a global cluster (R22, R449). -/
def State.partOf (s : State) (g : Nat) : Nat × Nat :=
  let d := g / 32
  let col := g % 8
  let row := (g % 32) / 8
  if s.code d = 1 then (8 * d + 2 * row + col / 4, col % 4)
  else if s.code d = 2 then (8 * d + col, row)
  else (8 * d + 4 * (row / 2) + col / 2, 2 * (row % 2) + col % 2)

/-- Global cluster of a logical cell. -/
def State.clusterOf (s : State) (L : Nat) : Nat := s.cluster (L / 64) (L % 64 / 16)

/-- Logical cell at grid position j of a cluster. -/
def State.cellAt (s : State) (g j : Nat) : Nat :=
  let (p, k) := s.partOf g
  64 * p + 16 * k + j

/-- Is a logical cell's position populated (R7)? -/
def State.populated (s : State) (L : Nat) : Bool := decide (L < 4096) && (s.part ≠ .b || decide (L % 64 < 56))

/-- Mesh coordinate of a cluster (R18). -/
def meshXY (g : Nat) : Nat × Nat :=
  let n := g / 32
  let c := g % 32
  (8 * (n % 4) + c % 8, 4 * (n / 4) + c / 8)

/-- Cluster at a mesh coordinate. -/
def meshAt (x y : Nat) : Nat := 32 * (4 * (y / 4) + x / 8) + 8 * (y % 4) + x % 8

/-- Cell-grid coordinate of a logical cell (R23): column and row. -/
def State.grid (s : State) (L : Nat) : Nat × Nat :=
  let (x, y) := meshXY (s.clusterOf L)
  (4 * x + L % 16 % 4, 4 * y + L % 16 / 4)

/-- The populated neighbour of a cell in direction 1 north, 2 east, 3 south, 4 west (R23). -/
def State.neighbour (s : State) (L dir : Nat) : Option Nat :=
  let (c, r) := s.grid L
  let at' (c r : Nat) : Option Nat :=
    let n := s.cellAt (meshAt (c / 4) (r / 4)) (4 * (r % 4) + c % 4)
    if s.populated n then some n else none
  match dir with
  | 1 => if r = 0 then none else at' c (r - 1)
  | 2 => if c = 127 then none else at' (c + 1) r
  | 3 => if r = 31 then none else at' c (r + 1)
  | 4 => if c = 0 then none else at' (c - 1) r
  | _ => none

/-- The opposite direction. -/
def opposite (dir : Nat) : Nat :=
  match dir with
  | 1 => 3
  | 2 => 4
  | 3 => 1
  | _ => 2

/-- Is a device physical address backed, seals apart (R27, R524)? -/
def State.backedRaw (s : State) (a : Nat) : Bool :=
  if a < 0x8000000000 then
    s.fld (R.NT_STACK_STATUS (a / 2 ^ 36)) F.NT_STACK_STATUS_STATE != 2
  else if 0x020000000000 ≤ a ∧ a < 0x040000000000 then
    decide (a - 0x020000000000 < s.fld R.CXL_MAP F.CXL_MAP_MAPPED_GIB * 2 ^ 30)
  else if 0x080000000000 ≤ a ∧ a < 0x080400000000 then true
  else if 0x081000000000 ≤ a ∧ a < 0x081400000000 then s.populated ((a - 0x081000000000) / 0x400000)
  else if 0x0F4000000000 ≤ a ∧ a < 0x0F4000040000 then true
  else a < 0x1000000000000 && (blockOf a).isSome

/-- Does a byte range touch a sealed range (R406)? -/
def State.isSealed (s : State) (a n : Nat) : Bool :=
  (List.range 8).any (fun i =>
    let r := R.UPD_SEAL i
    let b := s.fld r F.UPD_SEAL_BASE_2M * 0x200000
    decide (s.fld r F.UPD_SEAL_VALID = 1) && decide (a < b + s.fld r F.UPD_SEAL_LEN_2M * 0x200000) && decide (b < a + n))

/-- Does one sealed range hold a byte range wholly (R406)? -/
def State.inSeal (s : State) (a n : Nat) : Bool :=
  (List.range 8).any (fun i =>
    let r := R.UPD_SEAL i
    let b := s.fld r F.UPD_SEAL_BASE_2M * 0x200000
    decide (s.fld r F.UPD_SEAL_VALID = 1) && decide (b ≤ a) && decide (a + n ≤ b + s.fld r F.UPD_SEAL_LEN_2M * 0x200000))

/-- Is a device physical address backed for an access that no seal permits (R27, R406)? -/
def State.backed (s : State) (a : Nat) : Bool := s.backedRaw a && !s.isSealed a 1

/-! ### Cells, clusters, teams -/

def State.cell (s : State) (L : Nat) : Cell := SMap.get {} s.cells L
def State.setCell (s : State) (L : Nat) (c : Cell) : State := { s with cells := SMap.ins L c s.cells }
def State.clu (s : State) (g : Nat) : Clu := SMap.get {} s.clus g
def State.setClu (s : State) (g : Nat) (c : Clu) : State := { s with clus := SMap.ins g c s.clus }
def State.team (s : State) (t : Nat) : Team := SMap.get {} s.teams t
def State.setTeam (s : State) (t : Nat) (x : Team) : State := { s with teams := SMap.ins t x s.teams }

/-- The hart of a cluster controller leaves U mode (R328); where its M-mode firmware goes on is open. -/
def State.leaveU (s : State) (g : Nat) (st : HartState) : State :=
  let c := s.clu g
  { s with draws := s.draws + 1 }.setClu g { c with ctl := { c.ctl with st := st, umode := false, wait := .none, pc := (Config.freeWord s.draws).toNat } }

/-- TEAM_ID of a partition. -/
def State.teamId (s : State) (p : Nat) : Nat := s.fld (R.SECT_TEAM p) F.SECT_TEAM_TEAM_ID

/-- Member partitions of a team in team order (R78). -/
def State.members (s : State) (t : Nat) : List Nat :=
  sortBy (fun a b => decide (s.fld (R.SECT_TEAM a) F.SECT_TEAM_TEAM_INDEX ≤ s.fld (R.SECT_TEAM b) F.SECT_TEAM_TEAM_INDEX))
    ((List.range 64).filter (fun p => s.teamId p = t))

/-- TEAM_ID of the team a cell belongs to. -/
def State.teamOfCell (s : State) (L : Nat) : Nat := s.teamId (L / 64)

/-- TEAM_ID of the team a cluster belongs to. -/
def State.teamOfClu (s : State) (g : Nat) : Nat := s.teamId (s.partOf g).1

/-- Logical cells of a team's running binding, in team order: populated ones below REQ_CELLS in each partition. -/
def State.sectCells (s : State) (x : Sect) : List Nat :=
  ((x.binding.map (fun p => (List.range x.reqCells).map (fun i => 64 * p + i))).flatten).filter s.populated

/-- Every populated cell of a list of partitions. -/
def State.partCells (s : State) (ps : List Nat) : List Nat :=
  ((ps.map (fun p => (List.range 64).map (fun i => 64 * p + i))).flatten).filter s.populated

/-- Global clusters of a list of partitions. -/
def State.partClus (s : State) (ps : List Nat) : List Nat := (ps.map (fun p => (List.range 4).map (fun k => s.cluster p k))).flatten

/-- The running section of a team, if any. -/
def State.runSect (s : State) (t : Nat) : Option Sect := (s.team t).running

/-- SECTION_ID running on a team, 0 when none. -/
def State.sectId (s : State) (t : Nat) : Nat :=
  match s.runSect t with
  | some x => x.id
  | none => 0

/-- The section whose program a cell runs: the staged one once the cell has switched (R88). -/
def State.sectOf (s : State) (L : Nat) : Option Sect :=
  let x := s.team (s.teamOfCell L)
  if (s.cell L).switched then x.staged else x.running

/-- SECTION_ID, STRICT and E4M3_SAT of the section that a cell runs. -/
def State.sectIdAt (s : State) (L : Nat) : Nat := match s.sectOf L with
  | some x => x.id
  | none => 0
def State.strict (s : State) (L : Nat) : Bool := match s.sectOf L with
  | some x => x.strict
  | none => false
def State.e4sat (s : State) (L : Nat) : Bool := match s.sectOf L with
  | some x => x.sat
  | none => false

/-- Team cell index of a logical cell in a section's binding (R78). -/
def teamCellOf (x : Sect) (L : Nat) : Nat := 64 * (x.binding.idxOf (L / 64)) + L % 64

/-- Set a register that every member of a team holds alike (R99). -/
def State.setMembers (s : State) (ps : List Nat) (a : Nat → Nat) (f : Fld) (v : Nat) : State :=
  ps.foldl (fun s p => s.setFld (a p) f v) s

/-! ### Time -/

/-- The flywheel's next predicted edge whose tick is not out yet (R31, R32, R43). -/
def TimeBase.nextEdge (t : TimeBase) : Rat :=
  match t.tickWait with
  | some p => p
  | none => if t.ticked then t.pred + t.interval + t.slew else t.pred + t.slew

/-- TS64 of the present moment (R38): the latest predicted edge and the fraction since. In ACQUIRE, where there is no count, all of it is 0, the fraction included
(assumption 115). -/
def TimeBase.ts64 (t : TimeBase) : Nat :=
  if t.st = .acquire then 0 else
  let (n, d) := if t.nextEdge ≤ t.now then (t.count + 1, t.now - t.nextEdge) else (t.count, t.now - t.base)
  let fr := if t.interval ≤ 0 then 0 else (d * 1024 / t.interval).floor.toNat
  (n % 2 ^ 54) * 1024 + min 1023 fr

/-- Position of a waymark in the pitch schedule (R46): pitch number and position. A waymark below the phase has the number 0 (assumption 115). -/
def TimeBase.pitchOf (t : TimeBase) (w : Nat) : Nat × Nat :=
  let d : Int := (w : Int) - t.pitchPhase
  ((d / t.pitchLen).toNat, (d % t.pitchLen).toNat)

/-- Is a waymark a pitch boundary (R46)? -/
def TimeBase.isBoundary (t : TimeBase) (w : Nat) : Bool := decide ((((w : Int) - t.pitchPhase) % t.pitchLen) = 0)

/-- First boundary strictly after a waymark. -/
def TimeBase.boundaryAfter (t : TimeBase) (w : Nat) : Nat := w + (t.pitchLen - (t.pitchOf w).2)

/-- First boundary at or after a waymark. -/
def TimeBase.boundaryFrom (t : TimeBase) (w : Nat) : Nat := if t.isBoundary w then w else t.boundaryAfter w

/-! ### Events -/

/-- Does the device set HW on a code (R355, Table 205)? -/
def evtHw (code : Nat) : Bool :=
  decide (code / 4096 = 4) || decide (code / 4096 = 5) ||
    [0x3020, 0x3137, 0x3180, 0x3202, 0x3203, 0x3204, 0x3205, 0x3207, 0x3208].contains code

/-- FLAGS of a record (Table 188). -/
def EvtRec.flags (r : EvtRec) : Nat :=
  b2n r.evt.req.isSome + 2 * b2n r.evt.tenant.isSome + 4 * b2n r.evt.addr.isSome + 8 * b2n (evtHw r.evt.code || r.evt.hw) + 16 * b2n r.lostBefore +
    32 * b2n r.evt.part.isSome

/-- The 64 bytes of a record (Table 188). -/
def EvtRec.bytes (r : EvtRec) : List Byte :=
  let e := r.evt
  let (tag, job) := e.req.getD (0, 0)
  let b := leBytes 2 e.code ++ leBytes 1 e.kind ++ leBytes 1 r.flags ++ leBytes 2 e.src ++ leBytes 1 (e.part.getD 0) ++ leBytes 1 job ++
    leBytes 8 r.ts ++ leBytes 8 r.seq ++ leBytes 8 e.sect ++ leBytes 4 tag ++ leBytes 2 (e.tenant.getD 0) ++ leBytes 2 r.count ++
    leBytes 8 (e.addr.getD 0) ++ leBytes 12 e.detail
  b ++ leBytes 4 (crc32c b)

/-- Write a record into a ring of n slots under the reserve rule (R357, R359): the new ring, and whether it was written. -/
def EvtRing.push (g : EvtRing) (n reserve : Nat) (r : EvtRec) : EvtRing × Bool :=
  let held := (g.head + 2 * n - g.tail) % (2 * n)
  if reserve ≤ n - held then
    ({ g with head := (g.head + 1) % (2 * n), lostBefore := false, slots := SMap.ins (g.head % n) { r with lostBefore := g.lostBefore } g.slots }, true)
  else ({ g with lostBefore := true }, false)

/-- Signal an MSI-X vector of a function (R425). A virtual function exists only below NumVFs. -/
def HostIf.signal (h : HostIf) (fn v : Nat) : HostIf := if fn < h.numVFs ∨ fn = 64 then { h with msix := (fn, v) :: h.msix } else h

/-- An identity becomes pending in an interrupt file (R346). -/
def State.setIrq (s : State) (k id : Nat) : State := { s with imsic := SMap.upd {} k (fun f => { f with pend := f.pend ||| 2 ^ id }) s.imsic }

/-- Raise interrupt source n of Table 180 (R347). Its FILE names files 0 to 6. -/
def State.coreMsi (s : State) (n : Nat) : State :=
  let a := R.EVT_CORE_MSI n
  let eiid := s.fld a F.EVT_CORE_MSI_EIID
  let f := s.fld a F.EVT_CORE_MSI_FILE
  if eiid = 0 ∨ 7 ≤ f then s else s.setIrq (8 * s.fld a F.EVT_CORE_MSI_HART + f) eiid

/-- Write a raised record to the module log, its owner's ring and, for class 0x4 and 0x5, the queue of flash commits (R357, R359, R360). -/
def State.writeRec (s : State) (r0 : EvtRec) : State :=
  let r := { r0 with seq := s.evt.seq }
  let cls := r.evt.code / 4096
  let low := decide (cls = 1 ∨ cls = 2 ∨ cls = 6)
  let (g, ok) := s.evt.ring.push 4096 (if low then 65 else 1) r
  let s := { s with
    evt := { s.evt with ring := g, seq := s.evt.seq + 1 },
    host := if ok then s.host.signal 64 0 else s.host,
    pwr := if cls = 4 ∨ cls = 5 then { s.pwr with nv := s.pwr.nv ++ [({ item := .log r } : NvJob)] } else s.pwr }
  let s := if ok then s else s.bump R.EVT_LOG_HEAD F.EVT_LOG_HEAD_LOST 1
  let s := s.coreMsi (cls - 1)
  match r.evt.part with
  | none => s
  | some p =>
    let (g, ok) := (SMap.get {} s.partEvt p).push 256 (if low then 9 else 1) r
    let s := { s with partEvt := SMap.ins p g s.partEvt, host := if ok then s.host.signal p 0 else s.host }
    if ok then s else s.bump (R.PART_EVT_HEAD p) F.PART_EVT_HEAD_LOST 1

/-- Raise an event (R354 to R360): class 0x1 is coalesced per pitch (R358). -/
def State.raise (s : State) (e : Evt) : State :=
  let r : EvtRec := { evt := e, ts := s.time.ts64, seq := 0, count := 1, lostBefore := false }
  if e.code / 4096 = 1 then
    let same (x : EvtRec) : Bool := decide (x.evt.code = e.code) && decide (x.evt.kind = e.kind) && decide (x.evt.src = e.src)
    if s.evt.pend.any same then
      { s with evt := { s.evt with pend := s.evt.pend.map (fun x => if same x then { x with count := satAdd 65535 x.count 1 } else x) } }
    else if s.evt.pend.length < 256 then { s with evt := { s.evt with pend := s.evt.pend ++ [r] } }
    else s.bump R.EVT_LOG_HEAD F.EVT_LOG_HEAD_LOST 1
  else s.writeRec r

/-- Write the pending class 0x1 records (R358). -/
def State.flushCorrected (s : State) : State :=
  let l := s.evt.pend
  l.foldl (fun s r => s.writeRec r) { s with evt := { s.evt with pend := [] } }

end Sys2Proof.Machine
end

