-- ==== Sys2Proof/Machine/Flit.lean ====
section
/-! DEFINITION. Packets as flits (R257, R364): the header bytes of Table 135, the type fields of Table 136, the sideband of Tables 134 and 194, and the CRC-16
that protects a flit on a link. -/

namespace Sys2Proof.Machine

/-! ### Header and type fields -/

/-- DEST and SRC of a packet (Table 135): X, Y and endpoint code. -/
def Endpoint.word (e : Endpoint) : Nat :=
  let (x, y) := meshXY e.cluster
  x + 32 * y + 256 * e.code

/-- SENDER of a packet (Table 135). -/
def Sender.word : Sender → Nat
  | .cell l => l
  | .cluster g => 0x1000 + g
  | .hub => 0x2000
  | .hbm d => 0x3000 + d

/-- The 16 header bytes of a packet (Table 135). -/
def Packet.header (p : Packet) : List Byte :=
  leBytes 1 p.pkt.type ++ leBytes 1 (b2n p.gs + 2 * vcOf p.pkt.type + 8 * b2n p.gen) ++ leBytes 1 p.pkt.body ++ leBytes 1 (p.job % 8) ++
    leBytes 2 p.dest.word ++ leBytes 2 p.src.word ++ leBytes 2 p.sender.word ++ leBytes 1 p.epoch ++ [0] ++ leBytes 2 (p.tenant % 4096) ++ [0, 0]

/-- The 16-byte channel header (Table 143). -/
def ChTile.header (t : ChTile) : List Byte :=
  leBytes 2 t.src ++ leBytes 1 t.srcChan ++ leBytes 1 t.nfl ++ leBytes 2 t.tag ++ leBytes 1 t.job ++
    leBytes 1 (b2n t.gen + 2 * b2n t.gs + 4 * b2n (t.poison ≠ 0)) ++ leBytes 8 t.poison

/-- ADDR, LEN, TAG and TEPOCH of a memory request (Table 136). -/
def MemReq.fields (r : MemReq) : List Byte := leBytes 8 r.addr ++ leBytes 4 r.len ++ leBytes 2 r.tag ++ leBytes 2 r.tepoch

/-- A digest as its 16 bytes (R367). -/
def digestBytes (d : Word × Word) : List Byte := leBytes 8 d.1.toNat ++ leBytes 8 d.2.toNat

/-- The type fields of a head flit from byte 0x10 on (Table 136, and the table of R371 for taps). -/
def Pkt.fields : Pkt → List Byte
  | .chTile t c => t.header ++ leBytes 1 c
  | .chMarker a b => leBytes 1 a ++ leBytes 1 b
  | .chCredit a b n => leBytes 1 a ++ leBytes 1 b ++ leBytes 1 n
  | .ancOp op a v e => leBytes 2 op ++ leBytes 2 a ++ leBytes 4 0 ++ leBytes 8 v.toNat ++ leBytes 8 e.toNat
  | .ancReply st old => leBytes 8 st ++ leBytes 8 old.toNat
  | .ancWake st a => leBytes 2 st ++ leBytes 2 a
  | .ancNotyet a => leBytes 2 0 ++ leBytes 2 a
  | .barArrive u f => leBytes 1 u ++ leBytes 1 f
  | .barDone u m => leBytes 2 u ++ leBytes 2 m
  | .memRead _ r | .memWrite _ r _ _ | .memData _ r _ _ | .memAck _ r | .hubReq r _ _ _ | .hubResp r _ _ => r.fields
  | .epochSet k i e w => leBytes 2 k ++ leBytes 2 i ++ leBytes 4 e ++ leBytes 8 w
  | .tap t part last => leBytes 8 t.word.toNat ++ digestBytes t.digest ++ leBytes 4 t.unit ++
      leBytes 1 (b2n part + 2 * b2n last + 4 * b2n t.checked + 8 * b2n t.alt)
  | .tapDigest d u _ _ alt pois _ _ => digestBytes d ++ leBytes 4 u ++ leBytes 1 (b2n alt + 2 * b2n pois)

/-! ### Payload -/

/-- Payload bytes of a packet's body flits. -/
def Pkt.payload : Pkt → List Byte
  | .chTile t _ => t.bytes
  | .memWrite _ _ b _ | .memData _ _ b _ | .hubReq _ _ b _ | .hubResp _ b _ => b
  | .tap t part _ => let l := t.a ++ t.b
    if part then l.drop 4096 else l.take 4096
  | _ => []

/-- Is the 64-byte sector i of a packet's payload poisoned (Table 134)? -/
def Pkt.badSector (k : Pkt) (i : Nat) : Bool := match k with
  | .chTile t _ => t.poison.testBit i
  | .memWrite _ r _ bad | .memData _ r _ bad | .hubReq r _ _ bad | .hubResp r _ bad => (sectorsOf (r.addr + 64 * i) 64).any bad.contains
  | .tap t .. => t.pois
  | _ => false

/-- A packet whose payload sector i is poisoned. -/
def Pkt.spoil (k : Pkt) (i : Nat) : Pkt :=
  let bad (r : MemReq) (n : Nat) (l : List Nat) : List Nat := if 64 * i < n then l ++ sectorsOf (r.addr + 64 * i) (min 64 (n - 64 * i)) else l
  match k with
  | .chTile t c => .chTile { t with poison := t.poison ||| 2 ^ (i % 64) } c
  | .memWrite x r b l => .memWrite x r b (bad r b.length l)
  | .memData x r b l => .memData x r b (bad r b.length l)
  | .hubReq r w b l => .hubReq r w b (bad r b.length l)
  | .hubResp r b l => .hubResp r b (bad r b.length l)
  | .tap t a b => .tap { t with pois := true } a b
  | k => k

/-- The sender's body flits from flit n on are replaced by zeros with every sector poisoned (R261). -/
def Pkt.cutAt (k : Pkt) (n : Nat) : Pkt :=
  let cut (b : List Byte) : List Byte := b.take (256 * n) ++ List.replicate (b.length - 256 * n) 0
  let k' : Pkt := match k with
    | .chTile t c => .chTile { t with bytes := cut t.bytes } c
    | .memWrite x r b l => .memWrite x r (cut b) l
    | .memData x r b l => .memData x r (cut b) l
    | .hubReq r w b l => .hubReq r w (cut b) l
    | .hubResp r b l => .hubResp r (cut b) l
    | k => k
  (List.range (4 * (k.body - n))).foldl (fun k i => k.spoil (4 * n + i)) k'

/-! ### Flits -/

/-- A flit on a link: its sideband fields that the sender sets before the link does, and its 256 bytes. -/
structure Flit where
  head : Bool
  tail : Bool
  gs : Bool
  vc : Nat
  stream : Nat
  poison : Nat
  bytes : List Byte
  deriving DecidableEq, Repr

/-- Flit i of a packet, 0 the head (R257). -/
def Packet.flit (p : Packet) (i : Nat) : Flit :=
  { head := decide (i = 0), tail := decide (i = p.pkt.body), gs := p.gs, vc := vcOf p.pkt.type, stream := p.src.word,
    poison := if i = 0 then 0 else (List.range 4).foldl (fun m j => m + b2n (p.pkt.badSector (4 * (i - 1) + j)) * 2 ^ j) 0,
    bytes := if i = 0 then sliceB (p.header ++ p.pkt.fields) 0 256 else sliceB p.pkt.payload (256 * (i - 1)) 256 }

/-- The parity of the bits of a number below 2^n. -/
def parityOf (n v : Nat) : Bool := (List.range n).foldl (fun b i => b != v.testBit i) false

/-- Sideband bits [21:0] (Table 134). -/
def Flit.side (f : Flit) : Nat := b2n f.head + 2 * b2n f.tail + 4 * b2n f.gs + 8 * f.vc + 32 * f.stream + 2 ^ 18 * f.poison

/-- SB_PAR (Table 194): even parity over sideband bits [7:0], [15:8] and [21:16]. -/
def Flit.sbPar (f : Flit) : Nat :=
  b2n (parityOf 8 (bitsOf f.side 7 0)) + 2 * b2n (parityOf 8 (bitsOf f.side 15 8)) + 4 * b2n (parityOf 6 (bitsOf f.side 21 16))

/-- The parity lane: one even-parity bit per payload byte (Table 193). -/
def Flit.lane (f : Flit) : List Bool := f.bytes.map (fun b => parityOf 8 b.toNat)

/-- One bit into the CRC-16 of Table 194 (polynomial 0x1021, no reflection). -/
def crc16Bit (c : Nat) (b : Bool) : Nat :=
  let x := 2 * (c % 32768)
  if (decide (32768 ≤ c)) != b then x ^^^ 0x1021 else x

/-- The n low bits of a number, highest first. -/
def bitsMsb (n v : Nat) : List Bool := (List.range n).map (fun i => v.testBit (n - 1 - i))

/-- LCRC (Table 194): over the payload, the parity lane and sideband bits [24:0], in this order, each from its highest bit (assumption 107). -/
def Flit.lcrc (f : Flit) : Nat :=
  (f.bytes.flatMap (fun b => bitsMsb 8 b.toNat) ++ f.lane ++ bitsMsb 25 (f.side + 2 ^ 22 * f.sbPar)).foldl crc16Bit 0xFFFF

/-- The 64 sideband bits of a flit with an LSEQ, first sent or retransmitted (Tables 134 and 194). -/
def Flit.sideband (f : Flit) (lseq : Nat) (replayed : Bool) : Nat :=
  f.side + 2 ^ 22 * f.sbPar + 2 ^ 25 * f.lcrc + 2 ^ 41 * (lseq % 64) + 2 ^ 47 * b2n replayed

/-- The flit that a router output keeps. -/
def SentFlit.flit (x : SentFlit) : Flit := x.pkt.flit x.idx

/-! ### The sender's side of a link -/

/-- A packet's flits leave an output, each with the next LSEQ; the last 64 flits of the output are kept (R365). -/
def LinkTx.push (t : LinkTx) (p : Packet) : LinkTx :=
  let n := 1 + p.pkt.body
  let new := (List.range n).map (fun i => ({ pkt := p, idx := i, lseq := (t.next + i) % 64 } : SentFlit))
  let l := t.sent ++ new
  { next := (t.next + n) % 64, sent := l.drop (l.length - 64) }

/-- Retransmission from the flit at place k on (R365). -/
def LinkTx.resend (t : LinkTx) (k : Nat) : LinkTx :=
  { t with sent := t.sent.take k ++ (match t.sent.drop k with
      | [] => []
      | x :: l => { x with tries := x.tries + 1, replayed := true } :: l.map (fun y => { y with replayed := true })) }

end Sys2Proof.Machine
end

