-- ==== Sys2Proof/Machine/Team.lean ====
section
/-! DEFINITION. Operations over teams and requests that many families share: completions (R422 to R424), the ledger's columns (R294), the end of a request, the
drain (R486) and the faults of a section (R82, R93, R125). -/

namespace Sys2Proof.Machine

/-! ### Completions -/

/-- Function that owns a tenant's ring: the VF of its partition while the tenant is mapped, else the PF (R420, R424). -/
def State.ownerFn (s : State) (tenant : Nat) : Nat :=
  if s.fld (R.ADM_TENANT tenant) F.ADM_TENANT_VALID = 1 then s.fld (R.ADM_TENANT tenant) F.ADM_TENANT_PARTITION else 64

/-- Agreed Focia version of a function. -/
def State.agreed (s : State) (fn : Nat) : Nat :=
  if fn = 64 then s.fld R.HOST_FOCIA_VER F.HOST_FOCIA_VER_AGREED else s.fld (R.PART_FOCIA_VER fn) F.HOST_FOCIA_VER_AGREED

/-- Post a completion (R424, Table 235), using one reserved entry; one that a function-level reset discarded is not posted (R426). Under versions 1.0 and 1.1
the HW flag and EVT_SEQ are zero. The write bears the function of the doorbell (R416), the vector goes to the ring's owner (R424, assumption 84). -/
def State.post (s : State) (c : Completion) : State :=
  if c.cmd.dead then s else
  let t := c.cmd.tenant
  let g : RingPage := SMap.get {} s.host.pages t
  let old := decide (s.agreed c.cmd.fn < 0x12)
  let fl := (if old then c.flags % 8 else c.flags) - c.flags % 2 + g.passes % 2
  let e := { c with flags := fl, evtSeq := if old then 0 else c.evtSeq, code := if old ∧ c.flags.testBit 3 then 0 else c.code }
  let fn := s.ownerFn t
  let n := 2 ^ g.log2
  let last := decide ((g.cqTail + 1) % n = 0)
  let v := if g.vector = 0xFF then none else some g.vector
  let g' := { g with cqTail := (g.cqTail + 1) % 4096, passes := if last then g.passes + 1 else g.passes, reserved := g.reserved - 1 }
  let h := { s.host with pages := SMap.ins t g' s.host.pages, posted := { addr := g.cqBase + 32 * (g.cqTail % n), fn := c.cmd.fn, entry := e, vector := v } :: s.host.posted }
  { s with host := match v with
    | some v => h.signal fn v
    | none => h }

/-- Release a reserved completion entry that will not be posted. -/
def State.unreserve (s : State) (tenant : Nat) : State :=
  { s with host := { s.host with pages := SMap.upd {} tenant (fun g => { g with reserved := g.reserved - 1 }) s.host.pages } }

/-- ADM_STATUS counts an ACCEPTED, REFUSED or BUSY answer (Table 166), whatever command it answers. -/
def State.countAnswer (s : State) (status : Nat) : State :=
  match status with
  | 1 => s.bump R.ADM_STATUS F.ADM_STATUS_ACCEPTED 1
  | 2 => s.bump R.ADM_STATUS F.ADM_STATUS_REFUSED 1
  | 3 => s.bump R.ADM_STATUS F.ADM_STATUS_BUSY 1
  | _ => s

/-- Answer a command (Table 235): the posting waymark unless another is given. -/
def State.answer (s : State) (cmd : CmdRef) (status reason : Nat) (wm : Option Nat := none) (flags : Nat := 0) (code : Nat := 0) (frame : Nat := 0) : State :=
  (s.countAnswer status).post { status := status, reason := reason, cmd := cmd, waymark := wm.getD s.time.count, flags := flags, code := code, frame := frame }

def stAccepted : Nat := 1
def stRefused : Nat := 2
def stBusy : Nat := 3
def stDone : Nat := 4
def stExpired : Nat := 5
def stFault : Nat := 6

/-! ### Requests and the ledger -/

def State.req (s : State) (r : Nat) : Option Request := SMap.find? s.adm.reqs r
def State.setReq (s : State) (r : Nat) (q : Request) : State := { s with adm := { s.adm with reqs := SMap.ins r q s.adm.reqs } }
def State.updReq (s : State) (r : Nat) (f : Request → Request) : State :=
  match s.req r with
  | some q => s.setReq r (f q)
  | none => s

/-- Numbers of the requests a predicate selects, in acceptance order. -/
def State.reqsWhere (s : State) (p : Request → Bool) : List Nat := (s.adm.reqs.filter (fun x => p x.2)).map (·.1)

/-- Waymarks of [a, b) inside pitch k. -/
def overlapWm (t : TimeBase) (k a b : Nat) : Nat :=
  let lo := k * t.pitchLen + t.pitchPhase
  min b (lo + t.pitchLen) - max a lo

/-- Does [a, b) touch pitch k? -/
def touches (t : TimeBase) (k a b : Nat) : Bool := decide (0 < overlapWm t k a b)

/-- Element-wise sum of two lists of eight. -/
def addV (a b : List Nat) : List Nat := (List.range 8).map (fun i => nthD a i 0 + nthD b i 0)

/-- Element-wise maximum of two lists of eight. -/
def maxV (a b : List Nat) : List Nat := (List.range 8).map (fun i => max (nthD a i 0) (nthD b i 0))

/-- A list of eight scaled. -/
def mulV (n : Nat) (a : List Nat) : List Nat := (List.range 8).map (fun i => n * nthD a i 0)

def Cols.add (x y : Cols) : Cols :=
  ⟨x.lanes + y.lanes, x.jobs + y.jobs, x.slots + y.slots, addV x.nt y.nt, addV x.rd y.rd, addV x.wr y.wr⟩

/-- Two bookings of one request in one pitch: its jobs, lanes and slots count once, its bytes add up (R294). -/
def Cols.join (x y : Cols) : Cols :=
  ⟨max x.lanes y.lanes, max x.jobs y.jobs, max x.slots y.slots, addV x.nt y.nt, addV x.rd y.rd, addV x.wr y.wr⟩

/-- What a request's released booking holds beside the one it has now. -/
def Cols.beside (x y : Cols) : Cols := { x with lanes := x.lanes - y.lanes, jobs := x.jobs - y.jobs, slots := x.slots - y.slots }

/-- What a booking contributes to pitch k (R294). -/
def contribution (t : TimeBase) (l : List Interval) (k : Nat) : Cols :=
  let m := l.filter (fun i => touches t k i.a i.b)
  let c0 : Cols := { jobs := if m.isEmpty then 0 else 1 }
  m.foldl (fun c i =>
    let n := overlapWm t k i.a i.b
    { c with lanes := max c.lanes i.lanes, slots := max c.slots i.slots, nt := addV c.nt (mulV n i.nt), rd := addV c.rd (mulV n i.rd),
             wr := addV c.wr (mulV n i.wr) }) c0

/-- The ledger of a set of teams in pitch k: bookings of their requests and what released ones still hold. -/
def State.ledger (s : State) (team : Nat → Bool) (k : Nat) : Cols :=
  let c := s.adm.reqs.foldl (fun c x =>
    let c := if team x.2.team then Cols.add c (contribution s.time x.2.booked k) else c
    match x.2.moved with
    | some (t, l, _) => if team t then Cols.add c (contribution s.time l k) else c
    | none => c) {}
  s.adm.ghosts.foldl (fun c g =>
    if team g.team && decide (g.pitch = k) then
      Cols.add c (match g.req.bind s.req with
        | some q => g.cols.beside (contribution s.time q.booked k)
        | none => g.cols)
    else c) c

/-- The pitch in progress. -/
def State.pitch (s : State) : Nat := (s.time.pitchOf s.time.count).1

/-- What the released bookings of a request hold in a pitch. -/
def State.ghostOf (s : State) (r k : Nat) : Cols :=
  (s.adm.ghosts.filter (fun g => decide (g.req = some r) && decide (g.pitch = k))).foldl (fun c g => c.join g.cols) {}

/-- Release a request's bookings (R314): they are bookable from the next pitch on, and its lanes and bytes of the present one pass to best-effort work. -/
def State.unbook (s : State) (r : Nat) : State :=
  match s.req r with
  | none => s
  | some q =>
    let k := s.pitch
    let c := contribution s.time q.booked k
    let others := s.adm.ghosts.filter (fun g => !(decide (g.req = some r) && decide (g.pitch = k)))
    let gs := if c.jobs = 0 then s.adm.ghosts else others ++ [{ team := q.team, pitch := k, cols := (s.ghostOf r k).join c, req := some r }]
    let x := s.team q.team
    let s := s.setTeam q.team { x with lanes := x.lanes.map (fun y => if y = some r then none else y),
                                       budgets := x.budgets.filter (fun b => decide (some b.job ≠ q.job)) }
    let s := s.setReq r { q with booked := [], moved := none }
    { s with adm := { s.adm with ghosts := gs } }

/-- Clear CLU_JOB_TENANT.VALID of a job tag in every cluster of a team (R227). -/
def State.unbind (s : State) (t job : Nat) : State :=
  (s.partClus (s.members t)).foldl (fun s g => s.setFld (R.CLU_JOB_TENANT g job) F.CLU_JOB_TENANT_VALID 0) s

/-- Empty a job's open group and ready queue in every arbiter of a team (R330). -/
def State.dropGroups (s : State) (t job : Nat) : State :=
  (s.partClus (s.members t)).foldl (fun s g =>
    let c := s.clu g
    s.setClu g { c with openG := c.openG.set job [], ready := c.ready.set job [] }) s

/-- End a request: its final completion, its bookings, intake entry, job binding and bivouac space released, and a CANCEL that waited answered (R227, R297,
R314, R431). -/
def State.endReq (s : State) (r status reason : Nat) (code : Nat := 0) : State :=
  match s.req r with
  | none => s
  | some q =>
    let s := s.unbook r
    let s := match q.job with
      | some j => (s.dropGroups q.team j).unbind q.team j
      | none => s
    let hw := decide (q.hwSeq ≠ 0 ∨ q.hwCode ≠ 0)
    let s := s.post { status := status, reason := reason, cmd := q.cmd, waymark := s.time.count, code := if hw then q.hwCode else code,
                      flags := 2 * b2n q.degraded + 8 * b2n hw, evtSeq := q.hwSeq }
    let s := q.cancelCmds.foldl (fun s c => s.answer c stDone 0) s
    { s with adm := { s.adm with reqs := SMap.del r s.adm.reqs } }

/-- Partition of a tenant. -/
def State.partOfTenant (s : State) (t : Nat) : Nat := s.fld (R.ADM_TENANT t) F.ADM_TENANT_PARTITION

/-- SECT_STATUS.LAST_EVENT shows the last event of Table 52 of a team's section. -/
def State.lastEvent (s : State) (t code : Nat) : State :=
  if 0x3130 ≤ code ∧ code ≤ 0x3138 then s.setMembers (s.members t) R.SECT_STATUS F.SECT_STATUS_LAST_EVENT code else s

/-- Raise a record contained to a request (R355, R359; its source is the team, assumption 103); a record with HW is remembered as the request's latest. -/
def State.raiseReq (s : State) (r code detail : Nat) : State :=
  match s.req r with
  | none => s
  | some q =>
    let seq := s.evt.seq
    let s := s.raise { code := code, kind := 8, src := q.team, part := some (s.partOfTenant q.tenant), req := some (q.tag, q.job.getD 0),
                       tenant := some q.tenant, sect := q.sect, detail := detail }
    let s := s.lastEvent q.team code
    if evtHw code then s.updReq r (fun q => { q with hwSeq := seq, hwCode := code }) else s

/-- Remember a record with HW that names no request as the latest of every request of the partitions it affects (R355). -/
def State.nameHw (s : State) (ps : List Nat) (seq code : Nat) : State :=
  { s with adm := { s.adm with reqs := s.adm.reqs.map (fun x =>
      if ps.contains (s.partOfTenant x.2.tenant) then (x.1, { x.2 with hwSeq := seq, hwCode := code }) else x) } }

/-- A request loses its guarantee and goes on as best-effort (R5, R311): no booking, lanes or budget, class BE in its job bindings (assumption 68), and, where its
section is ending, a bivouac (R309). -/
def State.loseGuar (s : State) (r : Nat) : State :=
  match s.req r with
  | none => s
  | some q =>
    let s := s.unbook r
    let s := match q.job with
      | some j => (s.partClus (s.members q.team)).foldl (fun (s : State) g =>
          if s.fld (R.CLU_JOB_TENANT g j) F.CLU_JOB_TENANT_VALID = 1 then s.setFld (R.CLU_JOB_TENANT g j) F.CLU_JOB_TENANT_CLASS 0 else s) s
      | none => s
    s.updReq r (fun q => { q with guar := false, spill := q.spill || ((s.team q.team).secEnd && !q.staged) })

/-- Release a request from its guarantee (R5, R305): it goes on as best-effort. -/
def State.releaseReq (s : State) (r : Nat) : State := (s.loseGuar r).updReq r (fun q => { q with released := true })

/-! ### Teams -/

/-- Change a team's run state: every member's SECT_STATUS shows it, and source 7 of Table 180 signals. -/
def State.setRun (s : State) (t : Nat) (r : Run) : State :=
  let x := s.team t
  if x.run = r then s
  else ((s.setTeam t { x with run := r }).setMembers (s.members t) R.SECT_STATUS F.SECT_STATUS_RUN_STATE r.code).coreMsi 7

/-- Empty every staging store of a team (R73): shadow banks and tables, shadow programs, slot tables, plausibility stores and the card in the staged section or
the load. A running section's card that waits for its boundary (R91) is no staged one. -/
def State.discardStaged (s : State) (t : Nat) : State :=
  let ps := s.members t
  let s := (s.partCells ps).foldl (fun s L => let c := s.cell L; s.setCell L { c with shadow := {}, staged := false }) s
  let s := (s.partClus ps).foldl (fun s g =>
    let c := s.clu g
    s.setClu g { c with ctl := { c.ctl with progShadow := [] }, plausShadow := [], router := { c.router with shadow := none, switchDue := false } }) s
  let x := s.team t
  let s := s.setTeam t { x with staged := none, load := none, cutover := 0 }
  let s := s.setMembers ps R.PART_ADM_CUTOVER F.PART_ADM_CUTOVER_CUTOVER 0
  s.setMembers ps R.WV_LOAD_STATUS F.WV_LOAD_STATUS_STATE 0

/-- Void what a hub cancel voids in a cell's lead engine for a job, or every job (R243). -/
def Lead.cancel (l : Lead) (job : Option Nat) : Lead :=
  let hit (j : Nat) : Bool := match job with
    | some k => decide (j = k)
    | none => true
  { l with started := l.started.map (fun i => if hit i.q.job then { i with stopped := true, walk := false } else i),
           tags := l.tags.map (fun g => if hit g.job && !g.put && decide (g.got = 0) then { g with void := true } else g),
           ring := l.ring.map (fun r => if hit r.job && !r.drained then { r with void := true } else r),
           port := l.port.map (fun r => if hit r.job then { r with void := true } else r) }

/-- A running descriptor of an update unit is abandoned: what its write ranges hold is unspecified (R410). -/
def State.abandonUpd (s : State) (u : UpdRun) : State :=
  u.outs.foldl (fun s r => { s with draws := s.draws + 1 }.wr r.1 ((List.range r.2).map (Config.freeByte s.draws)) (s.badIn r.1 r.2)) s

/-- Hub cancel of a job, or every job, of a team (R243, R244, R410): queued lead instructions go, started ones stop, DMA tags become void. -/
def State.hubCancel (s : State) (t : Nat) (job : Option Nat) : State :=
  let ps := s.members t
  let hit (j : Nat) : Bool := match job with
    | some k => decide (j = k)
    | none => true
  let s := (s.partCells ps).foldl (fun s L =>
    let c := s.cell L
    if c.qLead.any (fun q => hit q.job) || c.lead.started.any (fun i => hit i.q.job) then
      s.setCell L { c with qLead := c.qLead.filter (fun q => !hit q.job),
                           lead := { c.lead.cancel job with cancels := c.lead.cancels ++ [{ job := job }] } }
    else s) s
  (s.partClus ps).foldl (fun s g =>
    let s := ((s.clu g).upd.filter (fun u => hit u.job)).toList.foldl State.abandonUpd s
    let c := s.clu g
    s.setClu g { c with dma := c.dma.map (fun d => if hit d.job then { d with stopped := true, walk := false } else d),
                        dmaTags := c.dmaTags.map (fun x => if hit x.job && !x.put then { x with void := true } else x),
                        dmaCancels := if c.dma.any (fun d => hit d.job) then c.dmaCancels ++ [job] else c.dmaCancels,
                        updQ := c.updQ.filter (fun a => !hit (leNat (s.rd (a + 1) 1) % 8)),
                        upd := c.upd.filter (fun u => !hit u.job),
                        updTags := c.updTags.map (fun x => if hit x.job && !x.put then { x with void := true } else x),
                        updCancels := if c.updTags.any (fun x => hit x.job) then c.updCancels ++ [job] else c.updCancels }) s

/-- The drain of a team begins (R486 steps 1 to 3): dispatch stops, controllers leave U mode, cells are asked to stop, jobs are cancelled. -/
def State.beginDrain (s : State) (t code reason : Nat) : State :=
  if (s.team t).run = .draining then s else
  let s := s.setRun t .draining
  let x := s.team t
  let s := s.setTeam t { x with cause := code, reason := reason, secEnd := false }
  let ps := s.members t
  let s := (s.partClus ps).foldl (fun s g =>
    let c := s.clu g
    let s := s.setClu g { c with openG := List.replicate 8 [], ready := List.replicate 8 [], lbase := [], sfu := [{}, {}], dmaQ := [], updQ := [] }
    if c.ctl.st = .user ∨ c.ctl.st = .ended then s.leaveU g .firmware else s) s
  let s := (s.partCells ps).foldl (fun s L => s.setCell L { s.cell L with stopReq := true }) s
  s.hubCancel t none

def evSwitchAborted : Nat := 0x3134
def evSwitchTimeout : Nat := 0x3135

/-- SECTION_ID of a record (R125): the section that its agent runs, the staged one once a cell or controller has switched; while no section runs, the staged
one (assumption 103). -/
def State.sectOfRec (s : State) (t kind src : Nat) : Nat :=
  let x := s.team t
  let id (o : Option Sect) : Nat := match o with
    | some y => y.id
    | none => 0
  let new := (decide (kind = 1) && (s.cell src).switched) || (decide (kind = 2) && (s.clu src).switched) || x.running.isNone
  id (if new then x.staged else x.running)

/-- Raise an event of a team's section (R125): PART_VALID, SECTION_ID and, for an event of Table 52, SECT_STATUS.LAST_EVENT. -/
def State.raiseSect (s : State) (t part kind src code : Nat) (detail : Nat := 0) (addr : Option Nat := none) : State :=
  let s := s.raise { code := code, kind := kind, src := src, part := some part, sect := s.sectOfRec t kind src, detail := detail, addr := addr }
  s.lastEvent t code

/-- A contained fault, a reset or the bound during SWITCHING (R82): the staged section goes, the team drains. -/
def State.abortSwitch (s : State) (t ev code : Nat) : State :=
  let s := s.raiseSect t t 8 t ev
  (s.discardStaged t).beginDrain t code 0

/-- What follows a section's fault once its event is logged (R82, R125). -/
def State.sectFails (s : State) (t code : Nat) : State :=
  match (s.team t).run with
  | .switching => s.abortSwitch t evSwitchAborted code
  | .draining | .empty => s
  | _ => s.beginDrain t code 0

/-- A fault of section software raised by an agent that is no cell (R125). -/
def State.faultAgent (s : State) (t part kind src code : Nat) (detail : Nat := 0) (addr : Option Nat := none) : State :=
  (s.raiseSect t part kind src code detail addr).sectFails t code

/-- A fault of section software at a cell (R125): the cell stops issuing, CELL_SEQ_FAULT keeps the first, the team drains. -/
def State.faultCell (s : State) (L code iaddr job opcode : Nat) (addr : Option Nat := none) : State :=
  let t := s.teamOfCell L
  let first := decide (s.fld (R.CELL_SEQ_FAULT L) F.CELL_SEQ_FAULT_CODE = 0)
  let s := if first then
      let w := setF (setF (setF (setF 0 F.CELL_SEQ_FAULT_CODE code) F.CELL_SEQ_FAULT_PC iaddr) F.CELL_SEQ_FAULT_JOB job) F.CELL_SEQ_FAULT_OPCODE opcode
      s.setReg (R.CELL_SEQ_FAULT L) w
    else s
  let s := s.setCell L { s.cell L with st := .stopped }
  s.faultAgent t (L / 64) 1 L code 0 addr

/-! ### Refused capacity changes (R318) -/

def crNone : Nat := 0
def crDoor : Nat := 1
def crNotEmpty : Nat := 2
def crIncongruent : Nat := 3
def crBound : Nat := 4
def crBusy : Nat := 5

/-- Show a change in ADM_TEAM_CHANGE_STATUS: STATE 1 pending, 2 done, 3 refused; done and refused signal source 8 (R347). -/
def State.changeStatus (s : State) (st reason w : Nat) : State :=
  let v := setF (setF (setF 0 F.ADM_TEAM_CHANGE_STATUS_STATE st) F.ADM_TEAM_CHANGE_STATUS_REASON reason) F.ADM_TEAM_CHANGE_STATUS_W_LOW w
  let s := s.setReg R.ADM_TEAM_CHANGE_STATUS v
  if st = 2 ∨ st = 3 then s.coreMsi 8 else s

/-- Refuse a change (R318, R320): a traverse logs TRAVERSE_REFUSED too. -/
def State.refuseChange (s : State) (t op reason w : Nat) : State :=
  let s := (s.changeStatus 3 reason w).raise { code := 0x6184 }
  if op = 3 then s.raiseSect t t 8 t 0x3136 else s

def evMapOverflow : Nat := 0x3130

/-- The nearest valid region whose base is at or below an address (Table 50), 0 when none. -/
def nearestRegion (b : List (Option Region)) (a : Nat) : Nat :=
  let best := (List.range 16).foldl (fun (acc : Option (Nat × Nat)) n =>
    match nthD b n none with
    | some r => if r.base ≤ a ∧ !r.tile then
        match acc with
        | some (_, x) => if x < r.base then some (n, r.base) else acc
        | none => some (n, r.base)
      else acc
    | none => acc) none
  match best with
  | some (n, _) => n
  | none => 0

/-- A mapping overflow (R93, R94): the cell stops; the first of the section is recorded and drains the team, later ones are counted. -/
def State.overflow (s : State) (L iaddr off : Nat) (write : Bool) : State :=
  let t := s.teamOfCell L
  let s := s.setCell L { s.cell L with st := .stopped }
  let ps := s.members t
  let x := s.team t
  if x.faulted then ps.foldl (fun s p => s.bump (R.SECT_STATUS p) F.SECT_STATUS_MORE_FAULTS 1) s
  else
    let tc := match s.sectOf L with
      | some sc => teamCellOf sc L
      | none => L % 64
    let w := setF (setF (setF (setF (setF 0 F.SECT_FAULT_CELL tc) F.SECT_FAULT_REGION (nearestRegion (s.cell L).store.bounds off))
      F.SECT_FAULT_IADDR (8 * iaddr)) F.SECT_FAULT_BYTE_ADDR off) F.SECT_FAULT_WRITE (b2n write)
    let s := ps.foldl (fun s p => s.setReg (R.SECT_FAULT p) w) s
    let s := s.setTeam t { s.team t with faulted := true }
    let s := if (s.team t).run = .running then s.setRun t .faulted else s
    let s := s.raiseSect t (L / 64) 1 L evMapOverflow
    s.sectFails t evMapOverflow

/-- A controller memory (store 1) or a router's slot table (store 2) of a cluster holds an uncorrectable error that a read meets (R362). -/
def State.memFails (s : State) (g k : Nat) : State :=
  let seq := s.evt.seq
  let t := s.teamOfClu g
  let s := { s with upsets := s.upsets.erase (.ctlMem g k) }.raiseSect t (s.partOf g).1 2 g 0x3208 k
  (s.nameHw (s.members t) seq 0x3208).sectFails t 0x3208

end Sys2Proof.Machine
end

