-- ==== Sys2Proof/Machine/Mesh.lean ====
section
/-! DEFINITION. Sending and ejecting mesh packets (R249 to R261), and what reads of the on-die stores meet (R362, R363). -/

namespace Sys2Proof.Machine

/-- Physical slot that serves a logical cell's grid position (R19, Table 12). -/
def State.slotOf (s : State) (L : Nat) : Nat := if s.fld (R.CLU_SLOT_MAP (s.clusterOf L)) F.CLU_SLOT_MAP_SPARE_POS = L % 16 then 16 else L % 16

/-- Is the slot that serves position j of cluster g fenced (R261)? -/
def State.fenced (s : State) (g j : Nat) : Bool :=
  let slot := if s.fld (R.CLU_SLOT_MAP g) F.CLU_SLOT_MAP_SPARE_POS = j then 16 else j
  (s.fld (R.CLU_RTR_FENCE g) F.CLU_RTR_FENCE_FENCE).testBit slot

/-- Endpoint of a cell's channel and sync units. -/
def State.cellEp (s : State) (L : Nat) : Endpoint := ⟨s.clusterOf L, L % 16⟩

/-- The hub attach port nearest to a cluster: local cluster 11 of its die (Table 130). -/
def hubEp (g : Nat) : Endpoint := ⟨32 * (g / 32) + 11, 23⟩

/-- Epoch a sender stamps (R258). -/
def State.epochOf (s : State) : Sender → Nat
  | .cell l => s.fld (R.CELL_EPOCH l) F.CELL_EPOCH_EPOCH
  | .cluster g => (s.clu g).epoch
  | _ => 0

/-- Tenant of a job of a cluster, 0 when none (Table 135). -/
def State.jobTenant (s : State) (g j : Nat) : Nat :=
  if s.fld (R.CLU_JOB_TENANT g j) F.CLU_JOB_TENANT_VALID = 1 then s.fld (R.CLU_JOB_TENANT g j) F.CLU_JOB_TENANT_TENANT else 0

/-- Is a job of a cluster of class G1 or G2 (R251)? -/
def State.jobGuar (s : State) (g j : Nat) : Bool :=
  decide (s.fld (R.CLU_JOB_TENANT g j) F.CLU_JOB_TENANT_VALID = 1) &&
    (decide (s.fld (R.CLU_JOB_TENANT g j) F.CLU_JOB_TENANT_CLASS = 1) || decide (s.fld (R.CLU_JOB_TENANT g j) F.CLU_JOB_TENANT_CLASS = 2))

/-- Mark a job's work in a cluster as suspect (Table 199). -/
def State.suspect (s : State) (g job : Nat) (f : Fld) (yes : Bool := true) : State := if yes then s.setFld (R.CLU_JOB_SUSPECT g job) f 1 else s

/-- The router outputs a packet takes from one mesh node to another: first along X, then along Y, then local (R250). -/
def routeOf : Nat → Nat × Nat → Nat × Nat → List (Nat × Nat)
  | 0, _, _ => []
  | f + 1, (x, y), (a, b) =>
    let g := meshAt x y
    if x < a then (g, 1) :: routeOf f (x + 1, y) (a, b)
    else if a < x then (g, 3) :: routeOf f (x - 1, y) (a, b)
    else if y < b then (g, 2) :: routeOf f (x, y + 1) (a, b)
    else if b < y then (g, 0) :: routeOf f (x, y - 1) (a, b)
    else [(g, 4)]

/-- A packet passes every output of its route: its flits are counted (Table 140) and kept for retransmission (R365). -/
def State.countLinks (s : State) (p : Packet) : State :=
  (routeOf 64 (meshXY p.src.cluster) (meshXY p.dest.cluster)).foldl (fun s h =>
    { s.bump (R.CLU_RTR_LINK h.1 h.2) (if p.gs then F.CLU_RTR_LINK_GS_FLITS else F.CLU_RTR_LINK_BE_FLITS) (1 + p.pkt.body) with
      links := SMap.upd {} (5 * h.1 + h.2) (fun t => t.push p) s.links }) s

/-- Inject a packet with its sender's epoch; a fenced slot's flits are discarded (R258, R261). -/
def State.send (s : State) (p : Packet) : State :=
  if p.src.code < 16 ∧ s.fenced p.src.cluster p.src.code then
    s.bump (R.CLU_RTR_DROP p.src.cluster) F.CLU_RTR_DROP_FENCED (1 + p.pkt.body)
  else
    let p := { p with epoch := s.epochOf p.sender }
    { s.countLinks p with net := s.net ++ [p] }

/-- The packet of an endpoint that may be partly injected is its youngest; a fence that cuts it leaves zero, poisoned flits behind those already sent, whose
number is a free value (R261, assumption 108). -/
def State.cutInjection (s : State) (g code : Nat) : State :=
  match s.net.reverse.findIdx? (fun p => decide (p.src = ⟨g, code⟩)) with
  | none => s
  | some k =>
    let i := s.net.length - 1 - k
    { s with draws := s.draws + 1,
             net := s.net.modify i (fun p => { p with pkt := p.pkt.cutAt ((Config.freeWord s.draws).toNat % (1 + p.pkt.body)) }) }

/-- Same stream, class, virtual channel and path: FIFO order (R257). -/
def samePath (p q : Packet) : Bool :=
  decide (p.src = q.src) && decide (p.gs = q.gs) && decide (vcOf p.pkt.type = vcOf q.pkt.type) && decide (p.dest = q.dest)

/-- Place in the list of the n-th packet a predicate selects. -/
def pickNth (sel : Packet → Bool) : List Packet → Nat → Nat → Option Nat
  | [], _, _ => none
  | p :: l, n, i => if sel p then (match n with
      | 0 => some i
      | m + 1 => pickNth sel l m (i + 1)) else pickNth sel l n (i + 1)

/-- Take the n-th selected packet out of the mesh, if no packet of its path is ahead of it. -/
def State.takePkt (s : State) (sel : Packet → Bool) (n : Nat) : Option (State × Packet) :=
  match pickNth sel s.net n 0 with
  | none => none
  | some i =>
    match s.net[i]? with
    | none => none
    | some p => if (s.net.take i).any (samePath p) then none else some ({ s with net := s.net.eraseIdx i }, p)

/-- Epoch the routers hold for a sender at a cluster (R258). -/
def State.routerEpoch (s : State) (g : Nat) : Sender → Option Nat
  | .cell l => some (SMap.get 0 (s.clu g).router.epochs l)
  | .cluster c => some (SMap.get 0 (s.clu g).router.epochs (4096 + c))
  | _ => none

/-- Eject the n-th selected packet (R260, R261): stale packets and those for a fenced position are discarded and counted. -/
def State.eject (s : State) (sel : Packet → Bool) (n : Nat) : Option (State × Option Packet) :=
  match s.takePkt sel n with
  | none => none
  | some (s, p) =>
    let g := p.dest.cluster
    if p.dest.code < 16 ∧ s.fenced g p.dest.code then some (s.bump (R.CLU_RTR_DROP g) F.CLU_RTR_DROP_FENCED (1 + p.pkt.body), none)
    else match s.routerEpoch g p.sender with
      | some e => if e = p.epoch then some (s, some p) else some (s.bump (R.CLU_RTR_DROP g) F.CLU_RTR_DROP_STALE 1, none)
      | none => some (s, some p)

/-- A header byte of a packet is met with bad parity at a router of cluster g (R363): the partition fails. -/
def State.headerUpset (s : State) (g : Nat) : Bool := s.upsets.contains (.header g)

/-! ### Slots that err (R393, R394) -/

/-- Grid position that a physical slot serves, if any (R20). -/
def State.servesPos (s : State) (g slot : Nat) : Option Nat :=
  let a := R.CLU_SLOT_MAP g
  let sp := s.fld a F.CLU_SLOT_MAP_SPARE_POS
  if slot = 16 then (if sp < 16 then some sp else none)
  else if sp = slot ∨ (s.fld a F.CLU_SLOT_MAP_RETIRED).testBit slot ∨ !s.populated (s.cellAt g slot) then none
  else some slot

/-- Is a slot, 17 × cluster + slot, condemned? -/
def State.isCondemned (s : State) (k : Nat) : Bool := s.integ.condemned.any (fun c => decide (c.slot = k))

/-- Is every tapped unit of a job on a cell decided, of those below a number when one is given (R378, R394)? -/
def State.votesIn (s : State) (L job : Nat) (below : Option Nat := none) : Bool :=
  let mine (primary unit j : Nat) : Bool := decide (primary = L) && decide (j = job) && (match below with
    | some n => decide (unit < n)
    | none => true)
  !s.net.any (fun p => match p.pkt with
    | .tap t .. => mine t.primary t.unit t.job
    | .tapDigest _ k q j .. => mine q k j
    | _ => false) &&
  !s.clus.any (fun (c : Nat × Clu) => c.2.taps.any (fun e => mine e.tap.primary e.tap.unit e.tap.job) || c.2.collect.any (fun e => mine e.primary e.unit e.job))

/-- Condemn a slot (R393, R394). `trigger` is the DETAIL of CELL_CONDEMNED; an error threshold only advises while RETIRE_AUTO is 0. -/
def State.condemn (s : State) (k trigger : Nat) : State :=
  let g := k / 17
  let ev (s : State) : State := s.raise { code := 0x6202, kind := 9, src := k, detail := trigger }
  if s.isCondemned k then s
  else if decide (1 ≤ trigger ∧ trigger ≤ 3) && decide (s.fld R.INTEG_CTRL F.INTEG_CTRL_RETIRE_AUTO = 0) then ev s
  else
    let s := { s with integ := { s.integ with condemned := s.integ.condemned ++ [({ slot := k, wm := s.time.count } : Condemn)] },
                      pwr := { s.pwr with nv := s.pwr.nv ++ [({ item := .retire k true } : NvJob)] } }
    match s.servesPos g (k % 17) with
    | none => s
    | some j =>
      let L := s.cellAt g j
      let t := s.teamOfClu g
      let s := ev s
      let jobs := s.adm.reqs.filterMap (fun (x : Nat × Request) =>
        if x.2.team = t then x.2.job.filter (fun j => !(x.2.checked && s.votesIn L j)) else none)
      let s := jobs.foldl (fun (s : State) j => s.setFld (R.CLU_JOB_SUSPECT g j) F.CLU_JOB_SUSPECT_TAKEOVER 1) s
      match (s.team t).change with
      | some c =>
        if c.started then s
        else
          let s := (s.reqsWhere (fun q => decide (q.team = t) && q.moved.isSome)).foldl (fun (s : State) r => s.updReq r (fun q => { q with moved := none })) s
          (s.setTeam t { s.team t with change := none }).refuseChange t c.op crBound c.w
      | none => s

/-- Count an error in a slot's arrays (Table 207) and condemn it at the limit of R393: 1 uncorrectable, 2 corrected, 3 tree. -/
def State.slotErr (s : State) (k what : Nat) : State :=
  let a := R.CLU_SLOT_ERR (k / 17) (k % 17)
  if what = 1 then
    let s := s.bump a F.CLU_SLOT_ERR_UE 1
    if s.fld a F.CLU_SLOT_ERR_UE = s.fld R.INTEG_CTRL F.INTEG_CTRL_UE_LIMIT then s.condemn k 1 else s
  else if what = 2 then
    let s := s.bump a F.CLU_SLOT_ERR_CE 1
    if s.fld a F.CLU_SLOT_ERR_CE = s.fld R.INTEG_CTRL F.INTEG_CTRL_CE_LIMIT + 1 then s.condemn k 2 else s
  else
    let s := s.bump a F.CLU_SLOT_ERR_TREE 1
    if s.fld a F.CLU_SLOT_ERR_TREE = 2 then s.condemn k 3 else s

/-- The slot whose scratchpad holds a sector counts its error; a memory tile belongs to no slot. -/
def State.sectorErr (s : State) (k what : Nat) : State :=
  if 0x081000000000 ≤ 64 * k ∧ 64 * k < 0x081400000000 then
    let L := (64 * k - 0x081000000000) / 0x400000
    s.slotErr (17 * s.clusterOf L + s.slotOf L) what
  else s

/-- The 64-bit words of a sector. -/
def wordsOf (k : Nat) : List Nat := (List.range 8).map (8 * k + ·)

/-- The first word of a sector with an uncorrectable error, and with a correctable one. -/
def State.badWord (s : State) (k : Nat) : Option Nat := (wordsOf k).find? (fun w => s.upsets.contains (.sram w))
def State.fixWord (s : State) (k : Nat) : Option Nat := (wordsOf k).find? (fun w => s.upsets.contains (.sramFix w))

/-- The errors of a sector are dealt with: it is poisoned, or each word is corrected. -/
def State.dropBad (s : State) (k : Nat) : State := { s with upsets := s.upsets.filter (fun u => !(wordsOf k).any (fun w => decide (u = .sram w))) }
def State.dropFix (s : State) (k : Nat) : State := { s with upsets := s.upsets.filter (fun u => !(wordsOf k).any (fun w => decide (u = .sramFix w))) }

/-- What reads of SRAM sectors meet (R362, R363): uncorrectable errors and bad parity mark the sector, corrected ones are logged.
`kind` and `src` name the source of the record, `arr` the array of DETAIL, `ep` the consumer's endpoint code. -/
def State.meet (s : State) (kind src arr ep : Nat) (secs : List Nat) : State × List Nat :=
  secs.foldl (fun (x : State × List Nat) k =>
    let s := x.1
    let s := if (s.fixWord k).isSome then
        ((s.dropFix k).raise { code := 0x1200, kind := kind, src := src, addr := some (64 * k), detail := arr }).sectorErr k 2 else s
    let s := if (s.badWord k).isSome then
        let t := s.dropBad k
        if t.poison.contains k then t
        else ({ t with poison := insNat k t.poison }.raise { code := 0x2201, kind := kind, src := src, addr := some (64 * k), detail := arr }).sectorErr k 1 else s
    if s.upsets.contains (.parity k) then
      ({ s with upsets := s.upsets.erase (.parity k), poison := insNat k s.poison }.raise
        { code := 0x2200, kind := kind, src := src, addr := some (64 * k), detail := ep }, x.2 ++ [k])
    else (s, x.2)) (s, [])

/-! ### Stores without an address (R362) -/

/-- The cell that a store belongs to, and its array code (Table 205). -/
def storeCell : Store → Nat
  | .treg L _ | .opnd L | .slot L _ _ | .haul L _ | .check L | .acc L _ | .const L _ => L
def storeArray : Store → Nat
  | .acc .. => 3
  | _ => 2

/-- Count an error in the slot that serves a store's cell. -/
def State.storeErr (s : State) (x : Store) (what : Nat) : State := s.slotErr (17 * s.clusterOf (storeCell x) + s.slotOf (storeCell x)) what

/-- What a store holds carries poison from now on (Table 193): the register, the tile's sector, the accumulator's flag word, the unit to be checked, the word of
the constant cache. What the tile buffers, the operand cache and the haul ring hold is the consumer's to mark. -/
def State.spoil (s : State) (x : Store) : State :=
  let L := (storeCell x)
  let c := s.cell L
  match x with
  | .treg _ r => s.setCell L { c with tregs := c.tregs.modify r.val (fun t => { t with poison := t.full }) }
  | .slot _ ch sec => s.setCell L { c with chIn := c.chIn.modify ch.val (fun i => { i with slots := match i.slots with
      | t :: l => { t with poison := t.poison ||| 2 ^ sec.val } :: l
      | [] => [] }) }
  | .acc _ a => s.setCell L { c with accs := c.accs.modify a.val (fun y => { y with flags := y.flags ||| flPoison }) }
  | .check _ =>
    let g := s.clusterOf L
    let k := s.clu g
    match k.taps.findIdx? (fun e => decide (e.pos = L % 16)) with
    | some i => s.setClu g { k with taps := k.taps.modify i (fun e => { e with tap := { e.tap with pois := true } }) }
    | none => s
  | .const _ w => s.setCell L { c with constBad := insNat w.val c.constBad }
  | .opnd _ | .haul _ _ => s

/-- A unit reads a store (R362): a corrected error is logged, an uncorrectable one poisons what the store holds (assumption 113). -/
def State.meetStore (s : State) (x : Store) : State :=
  let s := if s.upsets.contains (.storeFix x) then
      ({ s with upsets := s.upsets.erase (.storeFix x) }.raise { code := 0x1200, kind := 1, src := (storeCell x), detail := (storeArray x) }).storeErr x 2 else s
  if s.upsets.contains (.store x) then
    (({ s with upsets := s.upsets.erase (.store x) }.spoil x).raise { code := 0x2201, kind := 1, src := (storeCell x), detail := (storeArray x) }).storeErr x 1
  else s

/-- A unit of a cell reads stores of the cell. -/
def State.meetStores (s : State) (l : List Store) : State := if s.upsets.isEmpty then s else l.foldl (fun s x => s.meetStore x) s

/-- The stores of a cell, by number. -/
def cellNum (L : Nat) : Fin 4096 := ⟨L % 4096, Nat.mod_lt _ (by decide)⟩
def tregStores (L : Nat) (rs : List Nat) : List Store := rs.map (fun r => .treg (cellNum L) ⟨r % 16, Nat.mod_lt _ (by decide)⟩)
def accStores (L : Nat) (as : List Nat) : List Store := as.map (fun a => .acc (cellNum L) ⟨a % 4, Nat.mod_lt _ (by decide)⟩)
def slotStores (L ch : Nat) : List Store := (List.range 64).map (fun k => .slot (cellNum L) ⟨ch % 8, Nat.mod_lt _ (by decide)⟩ ⟨k % 64, Nat.mod_lt _ (by decide)⟩)

/-- Does the tile buffer or the operand cache hold an uncorrectable error for the next unit of a cell's array? -/
def State.opndBad (s : State) (L : Nat) : Bool := s.upsets.contains (.store (.opnd (cellNum L)))

/-- Pieces of a run of n bytes at an address: cut at every multiple of `cut` (R233). -/
def pieceCount (cut va n : Nat) : Nat := if n ≤ cut - va % cut then 1 else 1 + (n - (cut - va % cut) + cut - 1) / cut

/-- The ports of the memory tiles grant the beats of an access (R212, R218): one fc a beat, a partial beat too. -/
def State.tileBusy (s : State) (a n : Nat) : State :=
  if n = 0 ∨ a < 0x080000000000 ∨ 0x080400000000 ≤ a then s
  else
    let g := (a - 0x080000000000) / 0x4000000
    (List.range 4).foldl (fun s k =>
      let lo := max a (tileAddr g (0x1000000 * k))
      let hi := min (a + n) (tileAddr g (0x1000000 * (k + 1)))
      if lo < hi then s.bump (R.CLU_XBAR_STAT g k) F.CLU_XBAR_STAT_BUSY (pieceCount 128 lo (hi - lo)) else s) s

/-- A write through a memory-tile port, or to a scratchpad. -/
def State.tileWr (s : State) (a : Nat) (bs : List Byte) (bad : List Nat) : State := (s.tileBusy a bs.length).wr a bs bad

/-- Bytes [a, a + n) as a consumer receives them, with the poisoned sectors among them. -/
def State.deliver (s : State) (kind src arr ep a n : Nat) : State × List Byte × List Nat :=
  let s := s.tileBusy a n
  let (s, par) := if s.upsets.isEmpty then (s, []) else s.meet kind src arr ep (sectorsOf a n)
  (s, s.rd a n, (s.badIn a n) ++ par)

/-- Bytes of a cell's scratchpad as one of its own units receives them. -/
def State.ownRead (s : State) (L off n : Nat) : State × List Byte × List Nat := s.deliver 1 L 0 (L % 16) (scratchAddr L off) n

end Sys2Proof.Machine
end

