-- ==== Sys2Proof/Machine/Seq.lean ====
section
/-! DEFINITION. The sequencer (R100 to R106) and the order in which engines start their queues (R109, R124, R163, R207, R234, R269, R275): issue,
footprints of instructions, scratchpad accesses with bounds, belay windows and conflict counters. -/

namespace Sys2Proof.Machine

/-! ### Words and addresses -/

/-- The instruction word at a word index of the running bank. -/
def Cell.word (c : Cell) (pc : Nat) : Word := SMap.get 0 c.store.bank pc

/-- The instruction at the PC, when it is legal (R106, R108). -/
def Cell.atPc (c : Cell) : Option CellInstr :=
  match CellInstr.decode (c.word c.pc) with
  | some i => if i.formOk then some i else none
  | none => none

/-- X register n of a snapshot. -/
def xval (xs : List Nat) (n : BitVec 4) : Nat := nthD xs n.toNat 0

/-- X[XB] + 32 × OFF modulo 2^32 (Table 53). -/
def offAddr (xs : List Nat) (xb : BitVec 4) (off : Nat) : Nat := (xval xs xb + 32 * off) % 2 ^ 32

/-- Advance an address register modulo 2^32. -/
def bumpX (xs : List Nat) (n : BitVec 4) (d : Int) : List Nat := xs.set n.toNat (wrapN 32 ((xval xs n : Nat) + d))

/-- The format of a code, FP32 when it is reserved (an issued instruction never has one, R108). -/
def fmtOf (c : BitVec 5) : Fmt := (Fmt.ofCode c.toNat).getD .fp32

/-- Words of the bank as numbers, for descriptors. -/
def CellStore.num (st : CellStore) (i : Nat) : Nat := (SMap.get 0 st.bank i).toNat

/-- Bytes that the K or V block of an F.PAIR takes (R200). -/
def pairBytes (fb : BitVec 5) (sb dch1 : BitVec 2) : Nat := (dch1.toNat + 1) * tileBytes (fmtOf fb) sb.toNat

/-- A post-increment of n bytes. -/
def byN (x : BitVec 4) (n : Nat) : BitVec 4 × Int := (x, n)

/-- The post-increments of an instruction in order (R101): register and bytes. -/
def CellInstr.steps (st : CellStore) : CellInstr → List (BitVec 4 × Int)
  | .tLd _ _ _ _ xb _ _ inc => [(xb, 32 * inc.toInt)]
  | .tSt _ _ _ _ _ xb _ _ inc => [(xb, 32 * inc.toInt)]
  | .mMv fb _ sb _ _ _ _ _ _ kc1 xb inc => if inc = 1#1 then [byN xb ((kc1.toNat + 1) * tileBytes (fmtOf fb) sb.toNat)] else []
  | .fPair fb _ sb _ _ _ xk _ _ xv dch1 _ inc _ => if inc = 1#1 then [byN xk (pairBytes fb sb dch1), byN xv (pairBytes fb sb dch1)] else []
  | .vChain xa xb xd xm inc r3 n1 r7 chain =>
    if inc = 0#1 ∨ r3 ≠ 0#3 ∨ r7 ≠ 0#7 then [] else
    let n := n1.toNat + 1
    match Desc.read st.num chain.toNat n with
    | none => []
    | some d =>
      [byN xa (streamLen d.fmtA d.sclA d.layout n)] ++ (if d.usesB then [byN xb (streamLen d.fmtB d.sclB d.layout n)] else []) ++
        [byN xd (streamLen d.fmtD d.sclD d.layout n)] ++ (if d.mask = 1 then [byN xm ((n + 255) / 256 * 32)] else [])
  | .cSend _ inc xb nfl1 _ _ => if inc = 1#1 then [byN xb (256 * (nfl1.toNat + 1))] else []
  | .cRecv _ inc xb nfl1 _ => if inc = 1#1 then [byN xb (256 * (nfl1.toNat + 1))] else []
  | .lFetch a _ _ _ xd inc len1 => if inc = 1#1 then [byN a (32 * (len1.toNat + 1)), byN xd (32 * (len1.toNat + 1))] else []
  | .lGather _ _ _ xd xt inc _ count1 len1 =>
    if inc = 1#1 then [byN xt (4 * (count1.toNat + 1)), byN xd ((count1.toNat + 1) * (32 * (len1.toNat + 1)))] else []
  | _ => []

/-- The address registers after the post-increments of an instruction (R101). -/
def CellInstr.incX (st : CellStore) (xs : List Nat) (i : CellInstr) : List Nat := (i.steps st).foldl (fun xs p => bumpX xs p.1 p.2) xs

/-- Does a fault of an instruction leave its address registers as they were (R114, R115, R123, R169, R183: it has no effect)? -/
def CellInstr.allOrNone : CellInstr → Bool
  | .mMv .. | .fPair .. | .vChain .. => true
  | _ => false

/-- Address registers an instruction reads (R109). -/
def CellInstr.xReads : CellInstr → List Nat
  | .tLd _ _ _ _ xb _ _ _ | .tSt _ _ _ _ _ xb _ _ _ | .aDrain _ _ _ _ _ _ _ xb _ | .aMerge _ _ xb _ => [xb.toNat]
  | .mMv _ _ _ _ _ _ _ _ _ _ xb _ | .cSend _ _ xb _ _ _ | .cRecv _ _ xb _ _ => [xb.toNat]
  | .fPair _ _ _ _ _ _ xk _ _ xv _ _ _ _ => [xk.toNat, xv.toNat]
  | .vChain xa xb xd xm _ _ _ _ _ => [xa.toNat, xb.toNat, xd.toNat, xm.toNat]
  | .lFetch a _ _ _ xd _ _ => [a.toNat, xd.toNat]
  | .lGather a _ _ xd xt _ _ _ _ => [a.toNat, xd.toNat, xt.toNat]
  | .sAdd xa _ xv _ _ | .sSub xa _ xv _ _ | .sSet xa _ xv _ _ | .sWait xa _ xv _ _ => [xa.toNat, xv.toNat]
  | .sCas xa _ xv _ xe xd _ => [xa.toNat, xv.toNat, xe.toNat, xd.toNat]
  | _ => []

/-! ### Footprints -/

/-- Stored rows of a tile image (R198): row pitch, row bytes and the whole span. -/
def imagePitch (f : Fmt) (stride : Nat) : Nat := if stride = 0 then f.bytes 32 else 32 * stride
def imageSpan (f : Fmt) (scl stride : Nat) : Nat :=
  let p := imagePitch f stride
  if scl = 0 then 31 * p + f.bytes 32 else 32 * p + 32 * sclBytes scl

/-- Largest frame: a header and twelve slots (Table 76). -/
def maxFrame : Nat := 256 + 12 * 4096

/-- A scratchpad byte range and whether it is written. -/
structure Span where
  off : Nat
  len : Nat
  wr : Bool
  deriving DecidableEq, Repr

def Span.meets (a b : Span) : Bool := (a.wr || b.wr) && decide (a.off < b.off + b.len) && decide (b.off < a.off + a.len)

/-- Own-scratchpad ranges an instruction touches (R109, R234). Frames, whose length depends on the accumulator, count at their longest. -/
def QInstr.spans (st : CellStore) (q : QInstr) : List Span :=
  match q.i with
  | .tLd f scl _ _ xb off stride _ => [⟨offAddr q.xs xb off.toNat, imageSpan (fmtOf f) scl.toNat stride.toNat, false⟩]
  | .tSt f scl _ _ dir xb off stride _ =>
    if dir = 0#3 then [⟨offAddr q.xs xb off.toNat, imageSpan (fmtOf f) scl.toNat stride.toNat, true⟩] else []
  | .aDrain _ _ _ frame _ _ _ xb off => if frame = 1#1 then [⟨offAddr q.xs xb off.toNat, maxFrame, true⟩] else []
  | .aMerge _ n1 xb off => [⟨offAddr q.xs xb off.toNat, (n1.toNat + 1) * maxFrame, false⟩]
  | .mMv fb _ sb _ _ _ _ _ _ kc1 xb _ => [⟨xval q.xs xb, (kc1.toNat + 1) * tileBytes (fmtOf fb) sb.toNat, false⟩]
  | .fPair fb _ sb _ _ _ xk _ _ xv dch1 _ _ _ => [⟨xval q.xs xk, pairBytes fb sb dch1, false⟩, ⟨xval q.xs xv, pairBytes fb sb dch1, false⟩]
  | .vChain xa xb xd xm _ _ n1 _ chain =>
    let n := n1.toNat + 1
    match Desc.read st.num chain.toNat n with
    | none => []
    | some d =>
      [⟨xval q.xs xa, streamLen d.fmtA d.sclA d.layout n, false⟩] ++
      (if d.usesB then [⟨xval q.xs xb, streamLen d.fmtB d.sclB d.layout n, false⟩] else []) ++
      (if d.mask = 1 then [⟨xval q.xs xm, (n + 7) / 8, false⟩] else []) ++
      (if d.dest then [] else [⟨xval q.xs xd, streamLen d.fmtD d.sclD d.layout n, true⟩])
  | .cSend _ _ xb nfl1 off _ => [⟨offAddr q.xs xb off.toNat, 256 * (nfl1.toNat + 1), false⟩]
  | .cRecv _ _ xb nfl1 off => [⟨offAddr q.xs xb off.toNat, 256 * (nfl1.toNat + 1), true⟩]
  | .lFetch _ _ _ dir xd _ len1 => [⟨xval q.xs xd, 32 * (len1.toNat + 1), dir = 0#1⟩]
  | .lGather _ _ _ xd xt _ _ count1 len1 =>
    [⟨xval q.xs xd, (count1.toNat + 1) * (32 * (len1.toNat + 1)), true⟩, ⟨xval q.xs xt, 4 * (count1.toNat + 1), false⟩]
  | .sCas _ _ _ _ _ xd _ => [⟨xval q.xs xd / 8 * 8, 8, true⟩]
  | _ => []

/-- Registers an F.PAIR names from a first one: n of them. -/
def regRun (a n : Nat) : List Nat := (List.range n).map (fun i => (a + i) % 16)

/-- Tile registers read. -/
def CellInstr.tregReads : CellInstr → List Nat
  | .tSt _ _ tr _ _ _ _ _ _ => [tr.toNat]
  | .aMma _ _ _ _ _ ta tb _ _ _ => [ta.toNat, tb.toNat]
  | .mMv _ _ _ _ _ ta _ _ _ _ _ _ => [ta.toNat]
  | .fPair _ _ _ _ _ tq _ _ _ _ dch1 _ _ _ => regRun tq.toNat (dch1.toNat + 1)
  | _ => []

/-- Tile registers written (R165: a release counts as a write). -/
def CellInstr.tregWrites : CellInstr → List Nat
  | .tLd _ _ tr _ _ _ _ _ => [tr.toNat]
  | .tRel m => (List.range 16).filter (fun i => m.toNat.testBit i)
  | .aDrain _ _ ta frame _ _ _ _ _ => if frame = 0#1 then [ta.toNat] else []
  | _ => []

/-- Is it a release operation (Table 152, R283)? -/
def CellInstr.release : CellInstr → Bool
  | .sAdd .. | .sSub .. | .sSet .. | .sCas .. | .sBar .. => true
  | _ => false

/-- Is it an acquire operation? -/
def CellInstr.acquire : CellInstr → Bool
  | .sCas .. | .sWait .. | .sBar .. => true
  | _ => false

/-- Does it write the scratchpad, a neighbour, a tile or a tier, or send on a channel (R275)? -/
def CellInstr.writesOut : CellInstr → Bool
  | .tSt .. | .vChain .. | .aDrain .. | .cSend .. | .cRecv .. | .lFetch .. | .lGather .. | .sCas .. => true
  | _ => false

/-- Does it read or write any of those, or send or receive on a channel (R275)? -/
def CellInstr.touches : CellInstr → Bool
  | .tLd .. | .tSt .. | .aDrain .. | .aMerge .. | .mMv .. | .fPair .. | .vChain .. | .cSend .. | .cRecv .. | .lFetch .. | .lGather .. | .sCas .. => true
  | _ => false

/-- Is it a neighbour T.ST or a put (R207, R234)? -/
def CellInstr.farWrite : CellInstr → Bool
  | .tSt _ _ _ _ dir _ _ _ _ => dir ≠ 0#3
  | .lFetch _ _ _ dir _ _ _ => dir = 1#1
  | _ => false

def CellInstr.isPair : CellInstr → Bool
  | .fPair .. => true
  | _ => false

def CellInstr.isSend : CellInstr → Bool
  | .cSend .. => true
  | _ => false

/-- Must instruction q wait for the earlier, uncompleted instruction p of another engine? -/
def mustWait (st : CellStore) (q p : QInstr) : Bool :=
  decide (p.seq < q.seq) &&
  (q.i.tregReads.any (fun r => p.i.tregWrites.contains r) ||
   q.i.tregWrites.any (fun r => p.i.tregReads.contains r || p.i.tregWrites.contains r) ||
   (q.spans st).any (fun a => (p.spans st).any (fun b => a.meets b)) ||
   q.incs.any (fun k => decide (k.seq = p.seq) && q.i.xReads.contains k.reg) ||
   (q.i.release && p.i.writesOut) || (p.i.acquire && q.i.touches) || (q.i.isSend && p.i.farWrite) ||
   (q.i.isPair && p.i.engine = some .vector) || (p.i.isPair && q.i.engine = some .vector))

/-- The queue of an engine. -/
def Cell.queue (c : Cell) : Engine → List QInstr
  | .tile => c.qTile
  | .array => c.qArray
  | .vector => c.qVector
  | .channel => c.qChannel
  | .lead => c.qLead
  | .sync => c.qSync

/-- Replace the queue of an engine. -/
def Cell.setQueue (c : Cell) (e : Engine) (l : List QInstr) : Cell :=
  match e with
  | .tile => { c with qTile := l }
  | .array => { c with qArray := l }
  | .vector => { c with qVector := l }
  | .channel => { c with qChannel := l }
  | .lead => { c with qLead := l }
  | .sync => { c with qSync := l }

/-- Instructions issued and not completed, outside an engine's own queue: the lead engine's started ones and the sync unit's outstanding one count with them.
A neighbour T.ST that has left the tile mover holds nothing that these rules order but the operations of `nbrHolds`. -/
def Cell.others (c : Cell) (e : Engine) : List QInstr :=
  let q (x : Engine) := if x = e then [] else c.queue x
  q .tile ++ q .array ++ q .vector ++ q .channel ++ q .lead ++ q .sync ++ c.lead.started.map (·.q) ++
    (match c.sync with
      | some o => [o.q]
      | none => [])

/-- Every issued and uncompleted instruction of a cell. -/
def Cell.inFlight (c : Cell) : List QInstr :=
  c.qTile ++ c.qArray ++ c.qVector ++ c.qChannel ++ c.qLead ++ c.qSync ++ c.lead.started.map (·.q) ++ c.nbrOut.map (·.2) ++
    (match c.sync with
      | some o => [o.q]
      | none => [])

/-- Does an earlier neighbour T.ST that waits for its acknowledgement hold an instruction (R207, R275): a release operation or a C.SEND? -/
def Cell.nbrHolds (c : Cell) (q : QInstr) : Bool :=
  (q.i.release || q.i.isSend) && c.nbrOut.any (fun p => decide (p.2.seq < q.seq))

/-- Has an instruction a cursor point at which a stop request ends it (R348, R349)? -/
def CellInstr.hasCursor : CellInstr → Bool
  | .vChain .. | .lFetch .. | .lGather .. | .aMerge .. => true
  | _ => false

/-- Is an instruction the youngest started one, stopped at its cursor by a stop request (R348)? -/
def Cell.stoppedAt (c : Cell) (q : QInstr) : Bool := c.stopping && q.i.hasCursor && (match c.started with
  | some h => decide (h.seq = q.seq)
  | none => false)

/-- The head of an engine's queue when it may start or go on (R109). -/
def Cell.head (c : Cell) (e : Engine) : Option QInstr :=
  match c.queue e with
  | [] => none
  | q :: _ => if c.stoppedAt q || c.nbrHolds q || (c.others e).any (mustWait c.store q) then none else some q

/-- Drop the head of an engine's queue, which has completed; it is the youngest started so far, or older (R348). -/
def Cell.done (c : Cell) (e : Engine) : Cell := c.setQueue e ((c.queue e).drop 1)

/-- Note that an instruction has started (h of R348). -/
def Cell.begin (c : Cell) (q : QInstr) : Cell :=
  { c with started := match c.started with
      | some p => if p.seq < q.seq then some q else some p
      | none => some q }

/-- Complete the head of an engine's queue of a cell. -/
def State.finish (s : State) (L : Nat) (e : Engine) : State := s.setCell L ((s.cell L).done e)

/-- Mark the head of an engine's queue as started. -/
def State.startHead (s : State) (L : Nat) (q : QInstr) : State := s.setCell L ((s.cell L).begin q)

/-- Opcode of an instruction. -/
def QInstr.op (q : QInstr) : Nat := bitsOf q.i.encode.toNat 63 56

/-- Address registers without the increments of one instruction. -/
def unbumpX (xs : List Nat) (incs : List XInc) (seq : Nat) : List Nat :=
  (incs.filter (fun k => decide (k.seq = seq))).foldl (fun xs k => bumpX xs (BitVec.ofNat 4 k.reg) (-k.by_)) xs

/-- An instruction without the increments of another in the registers it issued with. -/
def QInstr.unbump (q : QInstr) (seq : Nat) : QInstr :=
  { q with xs := unbumpX q.xs q.incs seq, incs := q.incs.filter (fun k => decide (k.seq ≠ seq)) }

/-- The post-increments of an instruction that had no effect are taken back, from the sequencer and from what issued after it (R169, R183). -/
def Cell.unbump (c : Cell) (seq : Nat) : Cell :=
  let f (l : List QInstr) := l.map (fun q => q.unbump seq)
  { c with x := unbumpX c.x c.incs seq, incs := c.incs.filter (fun k => decide (k.seq ≠ seq)), qTile := f c.qTile, qArray := f c.qArray, qVector := f c.qVector,
           qChannel := f c.qChannel, qLead := f c.qLead, qSync := f c.qSync }

/-- The head of an engine's queue leaves it with a fault, without effect. -/
def State.dropHead (s : State) (L : Nat) (e : Engine) (q : QInstr) : State :=
  let s := (s.startHead L q).finish L e
  if q.i.allOrNone then s.setCell L ((s.cell L).unbump q.seq) else s

/-- A fault raised by the head of an engine's queue: it has no effect and leaves the queue (R125). -/
def State.headFault (s : State) (L : Nat) (e : Engine) (q : QInstr) (code : Nat) : State :=
  (s.dropHead L e q).faultCell L code q.iaddr q.job q.op

/-- A mapping overflow by the head of an engine's queue (R93). -/
def State.headOverflow (s : State) (L : Nat) (e : Engine) (q : QInstr) (off : Nat) (wr : Bool) : State :=
  (s.dropHead L e q).overflow L q.iaddr off wr

/-! ### Scratchpad accesses -/

/-- Does a byte range lie wholly in one scratchpad region with a permission (R93)? -/
def Cell.inRegion (c : Cell) (off n : Nat) (p : Region → Bool) : Bool :=
  c.store.bounds.any (fun r => match r with
    | some r => !r.tile && p r && decide (r.base ≤ off) && decide (off + n ≤ r.base + r.len)
    | none => false)

/-- The same for a range of the cluster's memory tiles. -/
def Cell.inTile (c : Cell) (off n : Nat) (p : Region → Bool) : Bool :=
  c.store.bounds.any (fun r => match r with
    | some r => r.tile && p r && decide (r.base ≤ off) && decide (off + n ≤ r.base + r.len)
    | none => false)

/-- Units of a window of 256-byte units that a range touches. -/
def unitsIn (base units off n : Nat) : List Nat :=
  (List.range units).filter (fun u => decide (off < base + 256 * u + 256) && decide (base + 256 * u < off + n))

/-- R208: a completed read of FULL units of a CONSUME window returns their credits. -/
def State.consumeRead (s : State) (L off n : Nat) : State :=
  (List.range 4).foldl (fun s d =>
    let c := s.cell L
    let w := nthD c.rx d {}
    if w.granted && w.consume then
      let us := (unitsIn w.base w.units off n).filter (fun u => w.full.testBit u)
      if us.isEmpty then s else
      let full := us.foldl (fun m u => m - 2 ^ u) w.full
      let s := s.setCell L { c with rx := c.rx.set d { w with full := full, home := if w.closed then us.foldl (fun m u => m ||| 2 ^ u) w.home else w.home } }
      if w.closed then s else { s with nbr := s.nbr ++ us.map (fun u => { cell := L, dir := d + 1, body := .credit u c.gen }) }
    else s) s

/-- Bank of a scratchpad unit (R194). -/
def bankOf (unit : Nat) : Nat := (unit % 8) ^^^ (unit / 8 % 8) ^^^ (unit / 64 % 8)

/-- 32-byte units of a byte range, ascending. -/
def unitsOfRange (off n : Nat) : List Nat := if n = 0 then [] else (List.range ((off + n - 1) / 32 - off / 32 + 1)).map (· + off / 32)

/-- Keep the first touch of each unit (R196). -/
def firstTouch (l : List Nat) : List Nat := l.foldl (fun acc u => if acc.contains u then acc else acc ++ [u]) []

/-- Units of each bank in a group of eight. -/
def bankCounts (g : List Nat) : List Nat := (List.range 8).map (fun b => (g.filter (fun u => bankOf u = b)).length)

/-- Histogram bin of a number of extra cycles (Table 106). -/
def histBin (x : Nat) : Nat := if x < 2 then x else min 7 (x.log2 + 1)

/-- The bank counts of each group of eight units of an access (R196). -/
def bankGroups (units : List Nat) : List (List Nat) := (blocksOf (units.length + 1) 8 units).map bankCounts

/-- Extra cycles of an access (R196). -/
def extraCycles (units : List Nat) : Nat := (bankGroups units).foldl (fun n g => n + (g.foldl max 0 - 1)) 0

/-- fc for which units bound for bank b waited in one access's own groups (R196). -/
def bankWaits (units : List Nat) (b : Nat) : Nat := (bankGroups units).foldl (fun n g => n + (nthD g b 0 - 1)) 0

/-- Waits of units of any port on other ports' units (R197): the spec gives no order between ports in time, so each bank's count takes a free increment. -/
def State.portWaits (s : State) (L : Nat) : State :=
  let s' := (List.range 8).foldl (fun u b => u.bump (R.CELL_SP_CONFLICT L b) F.CELL_SP_CONFLICT_WAIT (Config.freeWord (s.draws + b)).toNat) s
  { s' with draws := s.draws + 8 }

/-- Count the conflicts of a completed P0–P2 instruction with its accesses (R196, R197, R210): its extra cycles are those of its own groups and a free number
of cycles for which another port held a bank. -/
def State.countAccs (s : State) (L : Nat) (q : QInstr) (accs : List (List Nat)) : State :=
  let extra := accs.foldl (fun n us => n + extraCycles us) 0 + (Config.freeWord s.draws).toNat
  let s := (List.range 8).foldl (fun s b =>
    let w := accs.foldl (fun n us => n + bankWaits us b) 0
    if w = 0 then s else s.bump (R.CELL_SP_CONFLICT L b) F.CELL_SP_CONFLICT_WAIT w) (State.portWaits { s with draws := s.draws + 1 } L)
  let k := R.CELL_SP_HIST_CTRL L
  let op := s.fld k F.CELL_SP_HIST_CTRL_OPCODE
  if s.fld k F.CELL_SP_HIST_CTRL_ENABLE = 1 ∧ (op = 0 ∨ op = q.op) ∧ s.fld k F.CELL_SP_HIST_CTRL_IADDR_LO ≤ q.iaddr ∧
      q.iaddr ≤ s.fld k F.CELL_SP_HIST_CTRL_IADDR_HI then s.bump (R.CELL_SP_HIST L (histBin extra)) F.CELL_SP_HIST_COUNT 1
  else s

/-- Count the conflicts of a completed P0–P2 instruction with one access. -/
def State.countBanks (s : State) (L : Nat) (q : QInstr) (units : List Nat) : State := s.countAccs L q [units]

/-- Add to a counter of Table 69 unless FREEZE holds them. -/
def State.count (s : State) (L k n : Nat) : State :=
  if s.fld (R.CELL_CNT_CTRL L) F.CELL_CNT_CTRL_FREEZE = 1 then s else s.wrap (R.CELL_CNT L k) F.CELL_CNT_COUNT n

/-- The counters of Table 69 that only time moves, 0, 6 and 7: what has passed since they were last brought up to date is a free increment of each, none while
the cell is IDLE or FREEZE holds them. -/
def State.countTime (s : State) (L : Nat) : State :=
  if (s.cell L).st = .idle then s
  else
    let u := ((s.count L 0 (Config.freeWord s.draws).toNat).count L 6 (Config.freeWord (s.draws + 1)).toNat).count L 7 (Config.freeWord (s.draws + 2)).toNat
    { u with draws := s.draws + 3 }

/-- Write own scratchpad bytes, a poisoned source marking every sector it touches (R164). -/
def State.ownWrite (s : State) (L off : Nat) (bs : List Byte) (pois : Bool) : State :=
  let a := scratchAddr L off
  s.wr a bs (if pois then sectorsOf a bs.length else [])

/-! ### Issue -/

/-- Move the PC past the word that has issued, by the loop rules (R105): the fault PC_RANGE when it would pass word 8,191. -/
def loopNext : List LoopEntry → Nat → List LoopEntry × Nat
  | [], pc => ([], pc + 1)
  | l :: r, pc => if l.last = pc then (if 0 < l.left then ({ l with left := l.left - 1 } :: r, l.first) else loopNext r pc) else (l :: r, pc + 1)

/-- Advance a cell past its word at pc. -/
def State.advance (s : State) (L : Nat) (op : Nat) : State :=
  let c := s.cell L
  let (ls, pc) := loopNext c.loops c.pc
  if pc < 8192 then s.setCell L { c with loops := ls, pc := pc }
  else s.faultCell L 0x3146 c.pc c.job op

/-- A fault of the word at the PC, at issue. -/
def State.issueFault (s : State) (L code : Nat) : State :=
  let c := s.cell L
  s.faultCell L code c.pc c.job (bitsOf (c.word c.pc).toNat 63 56)

/-- May the sequencer issue (Table 64, R348)? -/
def Cell.issues (c : Cell) : Bool := decide (c.st = .running) && !c.stopping

/-- The error of a cell's instruction bank or tables that its next issue meets: the store, and whether it is correctable. -/
def State.bankErr (s : State) (L : Nat) : Option (Nat × Bool) :=
  s.upsets.findSome? (fun u => match u with
    | .bank c k fix => if c = L then some (k, fix) else none
    | _ => none)

/-- The sequencer meets an error of its instruction bank or tables (R362): a corrected one is logged, an uncorrectable one is IMEM_UNCORRECTABLE against the
section. The answer says whether the word still issues. -/
def State.bankMeet (s : State) (L : Nat) : State × Bool :=
  match s.bankErr L with
  | none => (s, true)
  | some (k, fix) =>
    let slot := 17 * s.clusterOf L + s.slotOf L
    let u := { s with upsets := s.upsets.erase (.bank L k fix) }
    if fix then ((u.raise { code := 0x1200, kind := 1, src := L, detail := 4 }).slotErr slot 2, true)
    else
      let seq := s.evt.seq
      let u := u.setCell L { s.cell L with st := .stopped }
      let t := s.teamOfCell L
      let u := u.raiseSect t (L / 64) 1 L 0x3208 k
      (((u.nameHw (s.members t) seq 0x3208).sectFails t 0x3208).slotErr slot 1, false)

/-- The word at the PC as the sequencer holds it once issued: with the state just before (R348) and the bases of that moment (R236). -/
def Cell.entry (c : Cell) (i : CellInstr) (incs : List XInc) (cur : Resume) : QInstr :=
  { i := i, iaddr := c.pc, job := c.job, seq := c.issued, xs := c.x, loops := c.loops, mbox := c.mbox, incs := incs, cur := cur, bases := c.lead.bases }

/-- Run f on the word at the PC of a cell that issues, when f has a meaning for it: the word counts as issued and started (R348). -/
def State.seqStep (s : State) (L : Nat) (f : State → Cell → CellInstr → Option State) : State :=
  let c := s.cell L
  if !c.issues then s else
  match s.bankMeet L with
  | (s, false) => s
  | (s, true) =>
    match c.atPc with
    | some i =>
      let c := { c with issued := c.issued + 1 }.begin (c.entry i c.incs .fresh)
      (f (s.setCell L c) c i).getD s
    | none => s

/-- Q.NOP, Q.SETX and Q.ADDX: one fc at issue. -/
def execQNop (c : Fin 4096) (s : State) : Host.Outcome State Fault Refusal :=
  .next (s.seqStep c.val (fun s _ i => match i with
    | .qNop => some ((s.count c.val 1 1).advance c.val 0x01)
    | _ => none))

/-- Q_SETX (Table 53). -/
def execQSetx (c : Fin 4096) (s : State) : Host.Outcome State Fault Refusal :=
  .next (s.seqStep c.val (fun s k i => match i with
    | .qSetx xd imm =>
      some (((s.count c.val 1 1).setCell c.val { k with x := k.x.set xd.toNat imm.toNat, incs := k.incs.filter (fun j => decide (j.reg ≠ xd.toNat)) }).advance c.val 0x02)
    | _ => none))

/-- Q_ADDX (Table 53). -/
def execQAddx (c : Fin 4096) (s : State) : Host.Outcome State Fault Refusal :=
  .next (s.seqStep c.val (fun s k i => match i with
    | .qAddx xd xs imm =>
      some (((s.count c.val 1 1).setCell c.val { k with
        x := k.x.set xd.toNat ((xval k.x xs + imm.toNat) % 2 ^ 32),
        incs := k.incs.filter (fun j => decide (j.reg ≠ xd.toNat)) ++
          (k.incs.filter (fun j => decide (j.reg = xs.toNat))).map (fun j => { j with reg := xd.toNat }) }).advance c.val 0x03)
    | _ => none))

/-- Q.LOOP (R105); LENGTH 0 lies outside its range and is ILLEGAL_OP (assumption 10). -/
def State.qLoop (s : State) (L : Nat) (k : Cell) (count len : Nat) : State :=
  let last := k.pc + len
  let nested := match k.loops with
    | l :: _ => decide (last ≤ l.last)
    | [] => true
  if len = 0 then s.issueFault L 0x3140
  else if 4 ≤ k.loops.length ∨ !nested then s.issueFault L 0x3144
  else
    let s := s.count L 1 1
    if 8192 ≤ k.pc + 1 then s.faultCell L 0x3146 k.pc k.job 0x04
    else s.setCell L { k with loops := ⟨k.pc + 1, last, count - 1⟩ :: k.loops, pc := k.pc + 1 }

/-- Q_LOOP (R105). -/
def execQLoop (c : Fin 4096) (s : State) : Host.Outcome State Fault Refusal :=
  .next (s.seqStep c.val (fun s k i => match i with
    | .qLoop count1 len => some (s.qLoop c.val k (count1.toNat + 1) len.toNat)
    | _ => none))

/-- Q.BLOCK takes the oldest mailbox entry (R103, R236): PC, JOB and the LEAD_BASE writes held with it. -/
def State.takeBlock (s : State) (L : Nat) (k : Cell) (e : MboxEntry) (rest : List MboxEntry) : State :=
  if k.store.prog.any (fun r => decide (r.1 ≤ e.word) && decide (e.word < r.1 + r.2)) then
    let lb := e.bases.foldl (fun l b => l.set b.1 b.2) k.lead.bases
    s.setCell L { k with mbox := rest, pc := e.word, job := e.job, st := .running, lead := { k.lead with bases := lb } }
  else (s.setCell L { k with mbox := rest }).issueFault L 0x3145

/-- Q_BLOCK (R103, R105): inside a loop body it is LOOP_BAD; with an empty mailbox the cell waits. -/
def execQBlock (c : Fin 4096) (s : State) : Host.Outcome State Fault Refusal :=
  .next (s.seqStep c.val (fun s k i => match i with
    | .qBlock =>
      if !k.loops.isEmpty then some (s.issueFault c.val 0x3144) else
      let s := s.count c.val 1 1
      some (match k.mbox with
      | e :: r => s.takeBlock c.val k e r
      | [] => s.setCell c.val { k with st := .blockWait })
    | _ => none))

/-- Q_BLOCK_TAKE (R103): a cell that waits takes the entry that has come. -/
def execQBlockTake (c : Fin 4096) (s : State) : Host.Outcome State Fault Refusal :=
  let k := s.cell c.val
  .next (match k.mbox with
    | e :: r => if k.st = .blockWait ∧ !k.stopping then s.takeBlock c.val k e r else s
    | [] => s)

/-- Entries of the queues an instruction enters (R124: F.PAIR enters two). -/
def Cell.room (c : Cell) (i : CellInstr) : Bool :=
  let vec := c.qVector.length + (c.qArray.filter (fun q => q.i.isPair)).length
  match i.engine with
  | some .vector => decide (vec < 8)
  | some e => decide ((c.queue e).length < e.depth) && (!i.isPair || decide (vec < 8))
  | none => true

/-- The word at the PC resumes from a valid cursor that names it and the job, which then is no longer valid (R350). -/
def Cell.takeCursor (c : Cell) (i : CellInstr) : Cell × Resume :=
  match i with
  | .vChain .. => match c.veStop with
    | some v => if v.iaddr = c.pc ∧ v.job = c.job then ({ c with veStop := none }, .ve v) else (c, .fresh)
    | none => (c, .fresh)
  | .aMerge .. => match c.mergeStop with
    | some m => if m.iaddr = c.pc ∧ m.job = c.job then ({ c with mergeStop := none }, .merge m) else (c, .fresh)
    | none => (c, .fresh)
  | .lFetch .. | .lGather .. => match c.lead.cursor with
    | some f => if f.iaddr = c.pc ∧ f.job = c.job then ({ c with lead := { c.lead with cursor := none } }, .fetch f) else (c, .fresh)
    | none => (c, .fresh)
  | _ => (c, .fresh)

/-- A withdrawn instruction gives the cursor it was to resume from back (R348, R350). -/
def Cell.giveCursor (c : Cell) (q : QInstr) : Cell :=
  match q.cur with
  | .fresh => c
  | .ve v => { c with veStop := some v }
  | .merge m => { c with mergeStop := some m }
  | .fetch f => { c with lead := { c.lead with cursor := some f } }

/-- INSTRUCTION_ISSUE (R100, R106, R109): an illegal word faults; a full queue stalls; otherwise the instruction enters its queue. -/
def State.issue (s : State) (L : Nat) : State :=
  let c := s.cell L
  if !c.issues then s else
  match s.bankMeet L with
  | (s, false) => s
  | (s, true) =>
    match c.atPc with
    | none => s.issueFault L 0x3140
    | some i =>
      match i.engine with
      | none => s
      | some e =>
        if !c.room i then s else
        let live := c.incs.filter (fun k => c.inFlight.any (fun p => decide (p.seq = k.seq)))
        let (c, cur) := c.takeCursor i
        let q := c.entry i live cur
        let c' := (c.setQueue e (c.queue e ++ [q]))
        let own := if i.allOrNone then (i.steps c.store).map (fun p => (⟨p.1.toNat, c.issued, p.2⟩ : XInc)) else []
        let s := s.count L 1 1
        (s.setCell L { c' with issued := c.issued + 1, x := i.incX c.store c.x, incs := live ++ own }).advance L q.op

def execInstructionIssue (c : Fin 4096) (s : State) : Host.Outcome State Fault Refusal := .next (s.issue c.val)

end Sys2Proof.Machine
end

