-- ==== Sys2Proof/Machine/Tap.lean ====
section
/-! DEFINITION. Sampled shadow execution at the primary (R369 to R371): which units are sampled, and the taps they send. -/

namespace Sys2Proof.Machine

/-- The request a job tag of a team belongs to. -/
def State.jobReq (s : State) (t j : Nat) : Option Request :=
  match s.adm.reqs.find? (fun x => decide (x.2.team = t) && decide (x.2.job = some j)) with
  | some x => some x.2
  | none => none

/-- Is a job of a team in checked mode (R373)? -/
def State.checkedJob (s : State) (t j : Nat) : Bool := match s.jobReq t j with
  | some q => q.checked
  | none => false

/-- Global cluster of team cluster index u in a section's binding (R60, R78). -/
def State.teamCluster (s : State) (x : Sect) (u : Nat) : Nat := s.cluster (nthD x.binding (u / 4) 0) (u % 4)

/-- Logical cell at grid position j of team cluster u. -/
def State.teamCellAt (s : State) (x : Sect) (u j : Nat) : Nat := s.cellAt (s.teamCluster x u) j

/-- Is unit k of a cell sampled (R369)? -/
def State.sampled (s : State) (L k job : Nat) : Bool :=
  let t := s.teamOfCell L
  match s.sectOf L with
  | none => false
  | some x =>
    let pl := (s.clu (s.clusterOf L)).plaus
    let n := max (numAt pl 5 1) (s.fld R.INTEG_CTRL F.INTEG_CTRL_SAMPLE_N_MIN)
    if pl.isEmpty then false
    else if s.checkedJob t job then true
    else decide (s.fld R.INTEG_CTRL F.INTEG_CTRL_SAMPLE_EN = 1) && decide ((k + draw x.id (teamCellOf x L) 0 % 2 ^ n) % 2 ^ n = 0)

/-- Entries of a check store that a unit's operands take: one per 4,096 bytes (R371). -/
def entriesFor (n : Nat) : Nat := if 4096 < n then 2 else 1
def tapEntries (u : TapUnit) : Nat := entriesFor (u.a.length + u.b.length)

/-- Entries of a check store that a grid position holds. -/
def State.checkHeld (s : State) (g pos : Nat) : Nat := ((s.clu g).taps.filter (fun e => decide (e.pos = pos))).foldl (fun n e => n + tapEntries e.tap) 0

/-- Entries reserved for the taps of checked jobs that are on their way to a grid position (R373). -/
def State.checkReserved (s : State) (g pos : Nat) : Nat :=
  s.net.foldl (fun n p => match p.pkt with
    | .tap u _ last => if last && u.checked && decide (p.dest = ⟨g, pos⟩) then n + tapEntries u else n
    | _ => n) 0

/-- Entries of a check store that a new tap finds taken. -/
def State.checkLoad (s : State) (g pos : Nat) : Nat := s.checkHeld g pos + s.checkReserved g pos

/-- The cells that check a cell's units: shadow and alternate (Table 197). -/
def State.checkers (s : State) (L : Nat) : Option (Nat × Nat) :=
  match s.sectOf L with
  | none => none
  | some x =>
    let pl := (s.clu (s.clusterOf L)).plaus
    if pl.isEmpty then none else some (s.teamCellAt x (numAt pl 8 2) (L % 16), s.teamCellAt x (numAt pl 10 2) (L % 16))

/-- May a primary start a unit of a job with n operand bytes: in checked mode both targets have an entry free for it (R373)? The later units of one instruction
hold their taps back until an entry is free. -/
def State.mayCheck (s : State) (L job n : Nat) : Bool :=
  let free (a : Nat) : Bool := decide (s.checkLoad (s.clusterOf a) (a % 16) + entriesFor n ≤ 8)
  if s.checkedJob (s.teamOfCell L) job then
    match s.checkers L with
    | some (a, b) => free a && free b
    | none => true
  else true

/-- The packets of one tap: two when the operands exceed 4,096 bytes. -/
def State.sendTap (s : State) (L tgt : Nat) (u : TapUnit) : State :=
  let p (last : Bool) : Packet :=
    { pkt := .tap u (last && decide (tapEntries u = 2)) last, gs := true, gen := (s.cell L).gen, job := u.job, dest := s.cellEp tgt, src := s.cellEp L,
      sender := .cell L, tenant := s.jobTenant (s.clusterOf L) u.job }
  if tapEntries u = 2 then (s.send (p false)).send (p true) else s.send (p true)

/-- A unit of a cell has completed (R369 to R371): count it, and tap it when it is sampled. -/
def State.unitDone (s : State) (L job : Nat) (word : Word) (klen rows : Nat) (leaves : List RowLeaves) (a b : List Byte) (pois : Bool) : State :=
  let c := s.cell L
  let k := c.units
  let s := s.setCell L { c with units := k + 1 }
  if !s.sampled L k job then s else
  match s.checkers L with
  | none => s
  | some (sh, al) =>
    let chk := s.checkedJob (s.teamOfCell L) job
    let bad := s.upsets.contains (.mac L)
    let s := if bad then { s with upsets := s.upsets.erase (.mac L), draws := s.draws + 2 } else s
    let dg := if bad then (Config.freeWord (s.draws - 2), Config.freeWord (s.draws - 1)) else unitDigest leaves
    let u : TapUnit := { word := word, digest := dg, unit := k, primary := L, job := job, klen := klen, rows := rows, checked := chk,
                         alt := false, pois := pois, a := a, b := b }
    let s := (s.sendTap L sh u).bump (R.CELL_SHADOW_CNT L) F.CELL_SHADOW_CNT_SAMPLED 1
    if chk then s.sendTap L al { u with alt := true } else s

end Sys2Proof.Machine
end

