-- ==== Sys2Proof/Machine/Xlate.lean ====
section
/-! DEFINITION. The tiers (R220 to R225), grants (R226), translation (R228 to R231), the budgets of R239 and what a translation fault does (R243, R244). The lead
engines, the DMA and the update units share these. -/

namespace Sys2Proof.Machine

/-! ### Where an address lies -/

/-- Ports of S, lowest first (R223). -/
def State.farPorts (s : State) : List Nat := (List.range 8).filter (fun p => (s.fld R.CXL_MAP F.CXL_MAP_PORTS).testBit p)

/-- Far-tier port of an address of the window (R223 step 3). -/
def State.portOf (s : State) (a : Nat) : Option Nat :=
  if 0x020000000000 ≤ a ∧ a < 0x040000000000 then
    let l := s.farPorts
    if l.isEmpty then none else l[(a - 0x020000000000) / 4096 % l.length]?
  else none

/-- Does an address lie on a FAILED far-tier port (R225)? -/
def State.farFailed (s : State) (a : Nat) : Bool := match s.portOf a with
  | some p => decide (s.fld (R.CXL_PORT_STATUS p) F.CXL_PORT_STATUS_STATE = 4)
  | none => false

/-- Pseudo-channel of a near-tier address (R220). -/
def pseudoChannel (a : Nat) : Nat := bitsOf a 13 8 ^^^ bitsOf a 19 14 ^^^ bitsOf a 25 20

/-- Mesh endpoint that serves a tier address: the HBM attach port of the pseudo-channel, or the attach port of the far-tier port's die. -/
def State.tierEp (s : State) (a : Nat) : Endpoint :=
  if a < 0x8000000000 then
    let d := a / 2 ^ 36
    ⟨32 * d + (if d < 4 then 0 else 24) + pseudoChannel a / 8, 22⟩
  else ⟨32 * (s.portOf a).getD 0 + 11, 23⟩

/-- Who answers at a memory side. -/
def tierSender (a : Nat) : Sender :=
  if a < 0x8000000000 then .hbm (a / 2 ^ 36) else .hub

/-! ### The memory side (R221, R225) -/

/-- Count poisoned sectors at the stack or port of an address. -/
def State.countPoison (s : State) (a n : Nat) : State :=
  if n = 0 then s
  else if a < 0x8000000000 then s.bump (R.NT_STACK_STATUS (a / 2 ^ 36)) F.NT_STACK_STATUS_POISONED n
  else match s.portOf a with
    | some p => s.bump (R.CXL_PORT_STATUS p) F.CXL_PORT_STATUS_POISONED n
    | none => s

/-- Upsets that the controller meets in the sectors it reads (R221): a corrected error is counted, an uncorrectable one marks the sector. -/
def State.tierMeet (s : State) (a n : Nat) : State :=
  if s.upsets.isEmpty then s else
  (sectorsOf a n).foldl (fun s k =>
    let s := if (s.fixWord k).isSome then
        let s := s.dropFix k
        if a < 0x8000000000 then s.bump (R.NT_STACK_STATUS (a / 2 ^ 36)) F.NT_STACK_STATUS_CORRECTED 1 else s
      else s
    if (s.badWord k).isSome then let s := s.dropBad k; { s with poison := insNat k s.poison } else s) s

/-- n bytes of a tier as the memory side returns them, with the poisoned sectors. -/
def State.tierRead (s : State) (a n : Nat) : State × List Byte × List Nat :=
  let s := s.tierMeet a n
  let bad := s.badIn a n
  (s.countPoison a bad.length, s.rd a n, bad)

/-- Store bytes in a tier, with the poisoned sectors of the data. -/
def State.tierWrite (s : State) (a : Nat) (bs : List Byte) (bad : List Nat) : State := (s.wr a bs bad).countPoison a bad.length

/-- The 4 KiB granules that a byte range meets, each as its part of the range (R223). -/
def granules (a n : Nat) : List (Nat × Nat) :=
  (List.range ((a % 4096 + n + 4095) / 4096)).map (fun k =>
    let lo := max a ((a / 4096 + k) * 4096)
    (lo, min (a + n) ((a / 4096 + k + 1) * 4096) - lo))

/-- Store clean bytes granule by granule: on a FAILED port they are lost and counted as poisoned (R225). -/
def State.tierPut (s : State) (a : Nat) (bs : List Byte) : State :=
  (granules a bs.length).foldl (fun s r =>
    if s.farFailed r.1 then s.countPoison r.1 (sectorsOf r.1 r.2).length else s.tierWrite r.1 (sliceB bs (r.1 - a) r.2) []) s

/-! ### Grants (R226) -/

/-- Does one grant of the team hold a range, with WR for a write? -/
def State.granted (s : State) (t pa len : Nat) (wr : Bool) : Bool :=
  (s.members t).any (fun p => (List.range 16).any (fun n =>
    let a := R.PART_GRANT p n
    let b := s.fld a F.PART_GRANT_BASE_2M * 0x200000
    decide (s.fld a F.PART_GRANT_VALID = 1) && (!wr || decide (s.fld a F.PART_GRANT_WR = 1)) &&
      decide (b ≤ pa) && decide (pa + len ≤ b + s.fld a F.PART_GRANT_LEN_2M * 0x200000)))

/-! ### Translation (R228 to R230) -/

/-- Lowest virtual-address bit of a level's index (R228). -/
def levelShift : Nat → Nat
  | 0 => 39
  | 1 => 30
  | 2 => 21
  | _ => 16

/-- Entries of a level's table (R228). -/
def levelEntries (l : Nat) : Nat := if l = 3 then 32 else 512

/-- An 8-byte page-table entry; none when it is poisoned, unbacked or outside the near tier (R229). -/
def State.ptEntry (s : State) (a : Nat) : State × Option Nat :=
  if a < 0x8000000000 ∧ s.backed a then
    let (s, b, bad) := s.tierRead a 8
    (s, if bad.isEmpty then some (leNat b) else none)
  else (s, none)

/-- Keep an entry in a least-recently-used cache of n. -/
def lruPut {α : Type} (n : Nat) (same : α → Bool) (x : α) (l : List α) : List α := (x :: l.filter (fun y => !same y)).take n

/-- Keep a non-leaf entry in the cluster's walk cache. -/
def State.walkPut (s : State) (g : Nat) (w : WalkEnt) : State :=
  let c := s.clu g
  s.setClu g { c with walks := lruPut 128 (fun x => decide (x.tenant = w.tenant) && decide (x.level = w.level) && decide (x.pref = w.pref)) w c.walks }

/-- Table named by a non-leaf entry, if the entry is well formed (R229): V, no permission, aligned, in the near tier. -/
def nonLeaf (w level : Nat) : Option Nat :=
  let a := w % 2 ^ 48 / 256 * 256
  if bitOf w 0 && !bitOf w 1 && !bitOf w 2 && !bitOf w 3 && decide (bitsOf w 7 4 = 0) && decide (bitsOf w 63 48 = 0) &&
      decide (a % (if level = 3 then 256 else 4096) = 0) && decide (a < 0x8000000000) then some a else none

/-- Page mapped by a leaf entry at level 2 or 3. -/
def leafPage (w level tenant va : Nat) : Option Xlate :=
  let size := 2 ^ levelShift level
  let a := w % 2 ^ 48 / 256 * 256
  if bitOf w 0 && bitOf w 1 && decide (bitsOf w 7 4 = 0) && decide (bitsOf w 63 48 = 0) && decide (a % size = 0) then
    some { tenant := tenant, va := va / size * size, size := size, pa := a, rd := bitOf w 2, wr := bitOf w 3 } else none

/-- Walk from the table of a level down to a leaf (R228); fuel counts the levels. -/
def State.walkFrom (s : State) (g tenant va : Nat) : Nat → Nat → Nat → State × Option Xlate
  | 0, _, _ => (s, none)
  | f + 1, level, table =>
    match s.ptEntry (table + 8 * (va >>> levelShift level % levelEntries level)) with
    | (s, none) => (s, none)
    | (s, some w) =>
      if level = 3 ∨ (level = 2 ∧ bitOf w 1) then (s, leafPage w level tenant va)
      else match nonLeaf w (level + 1) with
        | some a => (s.walkPut g ⟨tenant, level + 1, va >>> levelShift level, a⟩).walkFrom g tenant va f (level + 1) a
        | none => (s, none)

/-- Walk-cache entry that names the table of a level for a virtual address. -/
def Clu.walkHit (c : Clu) (tenant va level : Nat) : Option WalkEnt :=
  let pre := if level = 0 then 0 else va >>> levelShift (level - 1)
  c.walks.find? (fun x => decide (x.tenant = tenant) && decide (x.level = level) && decide (x.pref = pre))

/-- A translation walk (R228, R230): it starts at the deepest table the walk cache names, whose entry is then the one used last, else at the tenant's root
entry. -/
def State.walk (s : State) (g tenant va : Nat) : State × Option Xlate :=
  match [3, 2, 1, 0].findSome? ((s.clu g).walkHit tenant va) with
  | some w => (s.walkPut g w).walkFrom g tenant va (4 - w.level) w.level w.addr
  | none =>
    if s.fld R.NT_PT_BASE F.NT_PT_BASE_VALID = 0 then (s, none)
    else match s.ptEntry (s.fld R.NT_PT_BASE F.NT_PT_BASE_BASE_32K * 32768 + 8 * tenant) with
      | (s, none) => (s, none)
      | (s, some w) =>
        match nonLeaf w 0 with
        | some a => (s.walkPut g ⟨tenant, 0, 0, a⟩).walkFrom g tenant va 4 0 a
        | none => (s, none)

/-- Does a cached page hold an address of a tenant? -/
def Xlate.holds (x : Xlate) (tenant va : Nat) : Bool := decide (x.tenant = tenant) && decide (x.va ≤ va) && decide (va < x.va + x.size)

/-- What a tier access of a job finds. -/
inductive Access where
  | ok (pa : Nat)
  | walk                             -- no cached page holds the address
  | fault (code : Nat)               -- 0x3160 XLATE_FAULT, 0x3161 ADDR_GRANT, 0x3010 ADDR_HOLE
  deriving DecidableEq, Repr

/-- Translate and check one piece (R226 to R229). Only the tiers are reached through a translation: cells of a cluster reach memory tiles by other ways (R21,
assumption 27). `page` is the cached page that holds it, if any; `unit`: the access is an update unit's, which seals permit. -/
def State.access (s : State) (g job : Nat) (page : Nat → Option Xlate) (va len : Nat) (wr : Bool) (unit : Bool := false) : Access :=
  if s.fld (R.CLU_JOB_TENANT g job) F.CLU_JOB_TENANT_VALID = 0 then .fault 0x3160
  else if s.fld R.NT_PT_BASE F.NT_PT_BASE_VALID = 0 then .fault 0x3160
  else match page (s.jobTenant g job) with
    | none => .walk
    | some x =>
      if (if wr then !x.wr else !x.rd) then .fault 0x3160
      else
        let pa := x.pa + (va - x.va)
        if !s.backedRaw pa || (!unit && s.isSealed pa len) then .fault 0x3010
        else if !s.granted (s.teamOfClu g) pa len wr || decide (0x040000000000 < pa + len) then .fault 0x3161
        else .ok pa

/-! ### Budgets (R239, R296) -/

/-- Is a tag of a job guaranteed-service for a tier access of n bytes? Its part of the team's budget is used; a spent budget is logged once per pitch, team and
stack or port. -/
def State.takeBudget (s : State) (g job pa n : Nat) (wr : Bool) : State × Bool :=
  if !s.jobGuar g job then (s, false) else
  let t := s.teamOfClu g
  let tm := s.team t
  let near := decide (pa < 0x8000000000)
  let i := if near then pa / 2 ^ 36 else (s.portOf pa).getD 0
  let part (b : Budget) : Nat := nthD (if near then b.nt else if wr then b.wr else b.rd) i 0
  let mine := tm.budgets.foldl (fun m b => if b.job = job then m + part b else m) 0
  if 0 < mine then
    let use (b : Budget) : Budget :=
      if b.job = job then
        (if near then { b with nt := b.nt.set i (part b - n) } else if wr then { b with wr := b.wr.set i (part b - n) } else { b with rd := b.rd.set i (part b - n) })
      else b
    (s.setTeam t { tm with budgets := tm.budgets.map use }, true)
  else
    let key := if near then i else 8 + i
    if tm.budgets.all (fun b => decide (part b = 0)) && !tm.resvLogged.contains key then
      let s := s.setTeam t { tm with resvLogged := key :: tm.resvLogged }
      (s.raise { code := 0x6160, kind := if near then 4 else 5, src := i, part := some t, sect := s.sectId t }, false)
    else (s, false)

/-! ### Faults of an access, and the end of a hub cancel (R243, R244) -/

/-- Does a cancellation of the hub for a job still run in some cell or DMA of a team? -/
def State.cancelling (s : State) (t job : Nat) : Bool :=
  let hit (j : Option Nat) : Bool := match j with
    | some k => decide (k = job)
    | none => true
  (s.partCells (s.members t)).any (fun L => (s.cell L).lead.cancels.any (fun c => c.q.isNone && hit c.job)) ||
    (s.partClus (s.members t)).any (fun g => (s.clu g).dmaCancels.any hit || (s.clu g).updCancels.any hit)

/-- Has every group of a job that a cell of a team has taken completed (R314)? -/
def State.jobQuiet (s : State) (t job : Nat) : Bool :=
  (s.partCells (s.members t)).all (fun L =>
    let c := s.cell L
    !c.inFlight.any (fun q => decide (q.job = job)) && !c.mbox.any (fun e => decide (e.job = job)) &&
      !(decide (c.st = .running) && decide (c.job = job)) && !c.lead.tags.any (fun t => decide (t.job = job)))

/-- End a request whose hub cancel has completed (R244, R314): a CANCEL waits for the groups taken too. -/
def State.settleCancel (s : State) (r : Nat) : State :=
  match s.req r with
  | none => s
  | some q =>
    match q.cancelling, q.job with
    | some (st, rs, code), some j => if s.cancelling q.team j || (decide (rs = 0x40) && !s.jobQuiet q.team j) then s else s.endReq r st rs code
    | _, _ => s

/-- Settle every request of a team whose cancel may have completed. -/
def State.settleTeam (s : State) (t : Nat) : State :=
  (s.reqsWhere (fun q => decide (q.team = t) && q.cancelling.isSome)).foldl (fun s r => s.settleCancel r) s

/-- Number of the request that holds a job tag of a team. -/
def State.jobNum (s : State) (t j : Nat) : Option Nat :=
  match s.adm.reqs.find? (fun x => decide (x.2.team = t) && decide (x.2.job = some j)) with
  | some x => some x.1
  | none => none

/-- A translation or grant fault (R226, R229, R244): logged, contained to the request, whose work the hub cancels; the request completes with FAULT when the
cancellation has completed. -/
def State.accessFault (s : State) (kind src g job code va : Nat) : State :=
  let t := s.teamOfClu g
  let r := s.jobNum t job
  let q := match r with
    | some n => s.req n
    | none => none
  let s := s.raise { code := code, kind := kind, src := src, part := some (s.partOf g).1,
                     req := match q with
                       | some q => some (q.tag, job)
                       | none => none,
                     tenant := if s.fld (R.CLU_JOB_TENANT g job) F.CLU_JOB_TENANT_VALID = 1 then some (s.jobTenant g job) else none,
                     sect := s.sectOfRec t kind src, addr := some va }
  let s := s.hubCancel t (some job)
  match r with
  | some n => (s.updReq n (fun q => { q with cancelling := some (q.cancelling.getD (stFault, if code = 0x3160 then 0x4E else 0, code)) })).settleCancel n
  | none => s

end Sys2Proof.Machine
end

