-- ==== Sys2Proof/Machine/Camlink.lean ====
section
/-! DEFINITION. Camley frames and their Ethernet packing (R434, R435), sending on a port (R436, R437) and the credit a receiving stream gives (R440). -/

namespace Sys2Proof.Machine

def State.port (s : State) (p : Nat) : CamPort := SMap.get {} s.link.ports p
def State.setPort (s : State) (p : Nat) (x : CamPort) : State := { s with link := { s.link with ports := SMap.ins p x s.link.ports } }
def State.stream (s : State) (n : Nat) : CamStream := SMap.get {} s.link.streams n
def State.setStream (s : State) (n : Nat) (x : CamStream) : State := { s with link := { s.link with streams := SMap.ins n x s.link.streams } }

/-! ### Port records and stream entries (Tables 238 and 239) -/

def CamPort.mode (x : CamPort) : Nat := numAt x.record 0 1
def CamPort.maxVer (x : CamPort) : Nat := numAt x.record 1 1
def CamPort.peer (x : CamPort) : Nat := numAt x.record 2 2
def CamPort.retx (x : CamPort) : Nat := numAt x.record 0x28 4

def CamStream.recv (x : CamStream) : Bool := (numAt x.entry 0 1).testBit 1
def CamStream.gs (x : CamStream) : Bool := (numAt x.entry 0 1).testBit 2
def CamStream.port (x : CamStream) : Nat := numAt x.entry 1 1
def CamStream.peerStream (x : CamStream) : Nat := numAt x.entry 2 2
def CamStream.peerModule (x : CamStream) : Nat := numAt x.entry 4 2
def CamStream.part (x : CamStream) : Nat := numAt x.entry 6 1 % 64
def CamStream.buf (x : CamStream) : Nat := numAt x.entry 8 8
def CamStream.units (x : CamStream) : Nat := numAt x.entry 0x10 4
def CamStream.ancData (x : CamStream) : Nat := numAt x.entry 0x14 2
def CamStream.ancFree (x : CamStream) : Nat := numAt x.entry 0x16 2
def CamStream.lead (x : CamStream) : Nat := numAt x.entry 0x18 4
def CamStream.rate (x : CamStream) : Nat := numAt x.entry 0x1C 4

/-! ### Frames -/

/-- Fields of a Camley frame header (Table 237). -/
structure CamHdr where
  ver : Nat
  type : Nat
  flags : Nat := 0
  poison : Nat := 0
  due : Nat := 0
  src : Nat
  dst : Nat
  stream : Nat := 0
  lseq : Nat := 0
  unit : Nat := 0

/-- A Camley frame (R435). -/
def camFrame (h : CamHdr) (payload : List Byte) : List Byte :=
  let b := leBytes 1 h.ver ++ leBytes 1 h.type ++ leBytes 1 h.flags ++ leBytes 1 h.poison ++ leBytes 4 h.due ++ leBytes 2 h.src ++ leBytes 2 h.dst ++
    leBytes 2 h.stream ++ leBytes 2 h.lseq ++ leBytes 8 h.unit ++ leBytes 4 0
  b ++ leBytes 4 (crc32c (b ++ payload)) ++ payload

/-- Does a Camley frame's CRC hold (R435)? -/
def camCrcOk (f : List Byte) : Bool := decide (crc32c (f.take 0x1C ++ f.drop 0x20) = numAt f 0x1C 4)

/-- Bit and byte steps of the Ethernet CRC-32. -/
def fcsBit (c : Nat) : Nat := if c % 2 = 1 then (c / 2) ^^^ 0xEDB88320 else c / 2
def fcsByte (c b : Nat) : Nat := fcsBit (fcsBit (fcsBit (fcsBit (fcsBit (fcsBit (fcsBit (fcsBit (c ^^^ b))))))))

/-- Frame check sequence of an Ethernet frame. -/
def ethFcs (l : List Byte) : List Byte := leBytes 4 (l.foldl (fun c b => fcsByte c b.toNat) 0xFFFFFFFF ^^^ 0xFFFFFFFF)

/-- Big-endian bytes. -/
def netBytes (n v : Nat) : List Byte := (leBytes n v).reverse

/-- Ones' complement sum of big-endian 16-bit words. -/
def sum16 : Nat → List Byte → Nat → Nat
  | 0, _, a => a
  | f + 1, l, a => match l with
    | [] => a
    | [x] => a + 256 * x.toNat
    | x :: y :: r => sum16 f r (a + 256 * x.toNat + y.toNat)

/-- Fold carries back in. -/
def fold16 (a : Nat) : Nat := let b := a % 65536 + a / 65536; let c := b % 65536 + b / 65536; c % 65536 + c / 65536

/-- UDP checksum sum over the IPv6 pseudo-header and the datagram; a correct datagram sums to 0xFFFF. -/
def udpSum (src dst udp : List Byte) : Nat :=
  let l := src ++ dst ++ netBytes 4 udp.length ++ netBytes 4 17 ++ udp
  fold16 (sum16 (l.length + 1) l 0)

/-- The Ethernet frame that carries one Camley frame (R434); dst6 is the routed destination address. -/
def ethFrame (x : CamPort) (p : Nat) (dst6 : List Byte) (f : List Byte) : List Byte :=
  let pack := leBytes 4 1 ++ f
  let mac := sliceB x.record 0x10 6 ++ sliceB x.record 0x08 6
  let b :=
    if x.mode = 2 then
      let gs := (numAt f 2 1).testBit 0
      let cls := numAt x.record (if gs then 6 else 7) 1
      let port := numAt x.record 4 2 + p
      let own := sliceB x.record 0x18 16
      let head := netBytes 2 port ++ netBytes 2 port ++ netBytes 2 (8 + pack.length)
      let sum := 0xFFFF - udpSum own dst6 (head ++ netBytes 2 0 ++ pack)
      mac ++ netBytes 2 0x86DD ++ netBytes 4 (0x60000000 + cls * 2 ^ 20) ++ netBytes 2 (8 + pack.length) ++ [17, 64] ++ own ++ dst6 ++
        head ++ netBytes 2 (if sum = 0 then 0xFFFF else sum) ++ pack
    else mac ++ netBytes 2 0x88B5 ++ pack
  b ++ ethFcs b

/-- Is the module time-unlocked for its frames (R51)? -/
def State.unlocked (s : State) : Bool := decide (s.time.st ≠ .locked) && decide (s.time.st ≠ .holdover)

/-- Header of a frame this module sends on a port. -/
def State.camHdr (s : State) (p type : Nat) : CamHdr :=
  { ver := (s.port p).ver, type := type, flags := 2 * b2n s.unlocked, src := s.fld R.LINK_CTRL F.LINK_CTRL_MODULE_ID, dst := (s.port p).peer }

/-- Put a Camley frame on the wire; a frame of a stream goes to the stream's address, another one to an open address in routed mode. -/
def State.camWire (s : State) (p stream : Nat) (f : List Byte) : State :=
  let x := s.port p
  let (s, d6) := if stream < 4096 then (s, sliceB (s.stream stream).entry 0x20 16)
    else if x.mode = 2 then ({ s with draws := s.draws + 1 }, (List.range 16).map (Config.freeByte s.draws))
    else (s, [])
  { s with link := { s.link with sent := (p, ethFrame x p d6 f) :: s.link.sent } }

/-- Send an ACK, NAK or HELLO. -/
def State.camControl (s : State) (p type unit : Nat) : State :=
  let h := s.camHdr p type
  s.camWire p 4096 (camFrame { h with unit := unit, ver := if type = 5 then (s.port p).maxVer else h.ver } [])

/-- Send the HELLO of a port (R436, Table 237). -/
def State.sendHello (s : State) (p : Nat) : State := s.camControl p 5 (p + 256 * b2n (decide ((s.port p).maxVer = 2)))

/-- Every port in hello that has received none sends HELLO again, once per waymark (R436). -/
def State.sendHellos (s : State) : State :=
  (s.link.ports.filter (fun (x : Nat × CamPort) => decide (x.2.st = 3) && !x.2.heard)).foldl (fun s x => s.sendHello x.1) s

/-- Send a DATA or CREDIT frame under the next LSEQ and keep it until it is acknowledged (R437). -/
def State.camSeq (s : State) (p stream : Nat) (h : CamHdr) (payload : List Byte) : State :=
  let x := s.port p
  let f := camFrame { h with lseq := x.txSeq } payload
  let x := { x with txSeq := (x.txSeq + 1) % 65536, ackWm := if x.unacked.isEmpty then s.time.count else x.ackWm,
                    unacked := x.unacked ++ [⟨x.txSeq, f, if h.type = 1 then stream else 4096, 0⟩] }
  (s.setPort p x).camWire p stream f

/-- A receiving stream permits units below ANCHOR_FREE + UNITS (R440); while its port keeps 4,096 unacknowledged frames the credit waits (R437). -/
def State.camCredit (s : State) (n : Nat) : State :=
  let x := s.stream n
  if x.enabled ∧ x.recv ∧ (s.port x.port).st = 4 then
    if 4096 ≤ (s.port x.port).unacked.length then s.setStream n { x with owes := true }
    else (s.setStream n { x with owes := false }).camSeq x.port n
      { s.camHdr x.port 2 with stream := x.peerStream, unit := (SMap.get 0 s.anchors x.ancFree).toNat + x.units } []
  else s

/-- ANCHOR_FREE of a receiving stream has risen (R440). -/
def State.anchorRose (s : State) (a : Nat) : State :=
  (s.link.streams.filter (fun (x : Nat × CamStream) => x.2.enabled && x.2.recv && decide (x.2.ancFree = a))).foldl (fun s x => s.camCredit x.1) s

end Sys2Proof.Machine
end

