-- ==== Sys2Proof/Machine/Fatal.lean ====
section
/-! DEFINITION. What the hub does at once for a load that fails (R73, R76), a partial reset (R487, R489), an event of class 0x4 (R473) and one of class 0x5 (R483). -/

namespace Sys2Proof.Machine

def stHwFault : Nat := 0x48
def stReset : Nat := 0x4F

/-- Logical cell of a team cell index (R78). -/
def Sect.logical (x : Sect) (c : Nat) : Nat := 64 * nthD x.binding (c / 64) 0 + c % 64

/-- The scratchpad bytes that the frames of a failed load wrote hold nothing the spec names (R74): free values. -/
def State.forgetWritten (s : State) (l : Load) : State :=
  (l.written.filter (fun w => decide (w.1 = 7))).foldl (fun s w =>
    { s with draws := s.draws + 1 }.wr (scratchAddr (l.sect.logical w.2.1) w.2.2.1) ((List.range (w.2.2.2 - w.2.2.1)).map (Config.freeByte s.draws)) []) s

/-- Refuse the load that holds a team's load slot (R73, R74, R76, R77). -/
def State.failLoad (s : State) (t code frame : Nat) : State :=
  match (s.team t).load with
  | none => s
  | some l =>
    let s := s.raise { code := code, kind := 8, src := t, part := some t, sect := l.sect.id, detail := frame }
    let s := s.forgetWritten l
    let s := s.discardStaged t
    let ps := s.members t
    let s := s.setMembers ps R.WV_LOAD_STATUS F.WV_LOAD_STATUS_STATE 4
    let s := s.setMembers ps R.WV_LOAD_STATUS F.WV_LOAD_STATUS_ERROR code
    let s := s.setMembers ps R.WV_LOAD_STATUS F.WV_LOAD_STATUS_FRAME frame
    let s := s.answer l.cmd stFault 0x4B none 0 code frame
    if (s.team t).run = .traverse ∧ code ≠ 0x3119 then s.beginDrain t code stHwFault else s

/-- Does the scope of a reset hold a partition, cluster or cell (Table 264)? -/
def State.holdsPart (_ : State) (r : PReset) (p : Nat) : Bool := decide (r.level = 3 ∧ r.target = p)
def State.holdsClu (s : State) (r : PReset) (g : Nat) : Bool := decide (r.level = 2 ∧ r.target = g) || s.holdsPart r (s.partOf g).1
def State.holdsCell (s : State) (r : PReset) (L : Nat) : Bool := decide (r.level = 1 ∧ r.target = L) || s.holdsClu r (s.clusterOf L)

/-- Does the scope of one reset hold that of another (R489)? -/
def State.scopeHolds (s : State) (r x : PReset) : Bool :=
  match x.level with
  | 1 => s.holdsCell r x.target
  | 2 => s.holdsClu r x.target
  | _ => s.holdsPart r x.target

/-- The partition that the scope of a reset lies in. -/
def State.scopePart (s : State) (r : PReset) : Nat :=
  match r.level with
  | 1 => r.target / 64
  | 2 => (s.partOf r.target).1
  | _ => r.target

/-- A reset drains a team it touches (R75, R82, R486, R487): its load is aborted, its staged section goes. -/
def State.resetDrain (s : State) (t : Nat) (r : PReset) : State :=
  let x := s.team t
  let s := match x.load with
    | some _ => s.failLoad t 0x3119 0xFFFFFFFF
    | none => s
  let reason := if r.cmd then stReset else stHwFault
  match x.run with
  | .empty => s
  | .draining => if x.staged.isSome then s.discardStaged t else s
  | .switching => ((s.raiseSect t t 8 t evSwitchAborted).discardStaged t).beginDrain t evSwitchAborted reason
  | _ => (s.discardStaged t).beginDrain t r.code reason

/-- Teams that a traverse joins to a team: the target of its traverse, and the source of one it receives (R487 step 1). -/
def State.traverseMates (s : State) (t : Nat) : List Nat :=
  let x := s.team t
  (match x.run, x.change with
    | .traverse, some c => [c.target]
    | _, _ => []) ++
  (s.teams.filter (fun (y : Nat × Team) => match y.2.run, y.2.change with
    | .traverse, some c => decide (c.op = 3 ∧ c.target = t)
    | _, _ => false)).map (·.1)

/-- Begin a partial reset (R487 step 1), or let it end with the one that holds its scope (R489). -/
def State.startReset (s : State) (r : PReset) : State :=
  if s.boot.resets.any (fun x => s.scopeHolds x r) then
    (if r.cmd then { s with boot := { s.boot with absorbed := some (r.level, r.target, 2) } } else s)
  else
    let smaller := s.boot.resets.filter (fun x => s.scopeHolds r x)
    let ab := match smaller.find? (·.cmd) with
      | some x => some (x.level, x.target, 0)
      | none => s.boot.absorbed
    let s := { s with boot := { s.boot with resets := s.boot.resets.filter (fun x => !s.scopeHolds r x) ++ [r], absorbed := ab } }
    let t := s.teamId (s.scopePart r)
    (t :: s.traverseMates t).foldl (fun s t => s.resetDrain t r) s

/-- An event of class 0x4 in a partition (R354, R473): the record, the requests it names, the partition reset. -/
def State.partFatal (s : State) (p : Nat) (e : Evt) : State :=
  let seq := s.evt.seq
  let s := (s.raise e).nameHw (s.members (s.teamId p)) seq e.code
  s.startReset { level := 3, target := p, cmd := false, event := seq, code := e.code }

/-! ### The safe state -/

/-- Is the endpoint's link up? -/
def State.linkUp (s : State) : Bool := s.boot.pcieUp && !s.boot.perst

/-- Stage of the boot (Table 271): 7 READY, 8 SAFE. -/
def State.stage (s : State) : Nat := s.fld R.BOOT_STATUS F.BOOT_STATUS_STAGE

/-- The command of every reserved completion entry (R423), with its request where one has been accepted. -/
def State.reservedCmds (s : State) : List (CmdRef × Request) :=
  s.host.pages.flatMap (fun (x : Nat × RingPage) => x.2.inbox.flatMap (fun c => if c.cmd.opcode = 1 then [(c.cmd, ({} : Request)), (c.cmd, {})] else [(c.cmd, {})])) ++
  s.host.copies.map (fun c => (c.cmd, ({} : Request))) ++
  s.teams.filterMap (fun (x : Nat × Team) => x.2.load.map (fun l => (l.cmd, ({} : Request)))) ++
  s.adm.reqs.flatMap (fun (x : Nat × Request) => (x.2.cmd, x.2) :: x.2.cancelCmds.map (fun c => (c, ({} : Request))))

/-- Post one status for every reserved completion entry (R483, R485); one of an accepted request carries the flag of R42. -/
def State.postAll (s : State) (reason : Nat) : State :=
  s.reservedCmds.foldl (fun s c => s.post { status := stFault, reason := reason, cmd := c.1, waymark := s.time.count, code := c.2.hwCode, evtSeq := c.2.hwSeq,
                                            flags := 2 * b2n c.2.degraded + 8 * b2n (c.2.hwCode ≠ 0) }) s

/-- Forget every command and request the hub holds. -/
def State.dropCommands (s : State) : State :=
  { s with host := { s.host with pages := s.host.pages.map (fun (x : Nat × RingPage) => (x.1, { x.2 with inbox := [], vis := [], reserved := 0 })), copies := [] },
           adm := {} }

/-- The logic of every compute die in reset (R483): units, packets and messages. -/
def State.stopDies (s : State) : State :=
  { s with cells := [], clus := [], net := [], xbar := [], links := [], nbr := [], bars := [], teams := [], exporting := none,
           boot := { s.boot with resets := [], absorbed := none, fetched := [] }, link := {} }

/-- The endpoint trains unless its link fails, PERST_N is asserted or it is up: at 64 GT/s in Flit mode or slower, x16 or x8; a narrower link stays in Detect
(R415, R479, Table 243). -/
def State.trainHost (s : State) : State :=
  let h := s.host
  if s.boot.pcieUp ∨ s.boot.perst ∨ s.upsets.contains .trainPcie ∨ (h.linkWidth ≠ 16 ∧ h.linkWidth ≠ 8) ∨ h.linkSpeed = 0 ∨ 3 < h.linkSpeed then s
  else
    let w := setF (setF (setF 0 F.HOST_LINK_SPEED h.linkSpeed) F.HOST_LINK_FLIT (b2n (decide (h.linkSpeed = 3)))) F.HOST_LINK_WIDTH h.linkWidth
    { (s.setReg R.HOST_LINK w) with boot := { s.boot with pcieUp := true } }

/-- Enter the safe state (R483). SAFE_CAUSE: 1 fuse, 2 boot verify, 3 self-test, 4 UCIe, 5 a run-time event. -/
def State.enterSafe (s : State) (cause : Nat) : State :=
  if s.stage = 8 then s else
  let s := if s.linkUp then s.postAll stHwFault else s
  let s := s.dropCommands.stopDies
  let s := { s with host := { s.host with numVFs := 0 } }.trainHost
  (s.setFld R.BOOT_STATUS F.BOOT_STATUS_STAGE 8).setFld R.BOOT_STATUS F.BOOT_STATUS_SAFE_CAUSE cause

/-- An event of class 0x5 (R354, R355, R483). -/
def State.fatal (s : State) (e : Evt) (cause : Nat := 5) : State :=
  let seq := s.evt.seq
  ((s.raise e).nameHw (List.range 64) seq e.code).enterSafe cause

/-- A header byte of a packet meets bad parity at a router input on its way (R363): the router's partition fails and the packet is lost. -/
def State.headerFails (s : State) (p : Packet) : Option State :=
  if s.upsets.isEmpty then none
  else
    match (routeOf 64 (meshXY p.src.cluster) (meshXY p.dest.cluster)).find? (fun h => s.upsets.contains (.header h.1)) with
    | none => none
    | some (g, _) =>
      let q := (s.partOf g).1
      some ({ s with upsets := s.upsets.erase (.header g) }.partFatal q { code := 0x4200, kind := 2, src := g, part := some q, detail := 1 })

end Sys2Proof.Machine
end

