-- ==== Sys2Proof/Machine/Tile.lean ====
section
/-! DEFINITION. The tile mover (R161 to R166, R198, R199, R206): T.LD, T.ST, T.REL and bank gating. -/

namespace Sys2Proof.Machine

def evTregEmpty : Nat := 0x3150
def evBelayCredit : Nat := 0x3154

/-- The codes of an image's 32 stored rows turned into 32 columns (R199). -/
def transposeTile (f : Fmt) (l : List Byte) : List Byte :=
  let rows := blocksOf 32 32 (codesOf f (sliceB l 0 (f.bytes 1024)))
  let cols := (List.range 32).map (columnOf rows)
  packCodes f (cols.flatten) ++ l.drop (f.bytes 1024)

/-- Byte runs of an image in the scratchpad: rows, then scales (R198). One run when it is packed. -/
def imageRuns (f : Fmt) (scl stride base : Nat) : List (Nat × Nat) :=
  let p := imagePitch f stride
  if p = f.bytes 32 then [(base, tileBytes f scl)]
  else (List.range 32).map (fun r => (base + r * p, f.bytes 32)) ++ (if scl = 0 then [] else [(base + 32 * p, 32 * sclBytes scl)])

/-- Cut a tile's bytes along its runs. -/
def cutRuns : List (Nat × Nat) → List Byte → List (Nat × List Byte)
  | [], _ => []
  | (o, n) :: r, l => (o, sliceB l 0 n) :: cutRuns r (l.drop n)

/-- Read byte runs of the own scratchpad: the bytes in order, and whether any sector was poisoned. -/
def State.readRuns (s : State) (L : Nat) (runs : List (Nat × Nat)) : State × List Byte × Bool :=
  runs.foldl (fun (x : State × List Byte × Bool) r =>
    let (s, b, bad) := x.1.ownRead L r.1 r.2
    (s.consumeRead L r.1 r.2, x.2.1 ++ b, x.2.2 || !bad.isEmpty)) (s, [], false)

/-- 32-byte units of byte runs in the order first touched. -/
def runUnits (runs : List (Nat × Nat)) : List Nat := firstTouch (runs.flatMap (fun r => unitsOfRange r.1 r.2))

/-- Fill a tile register; the write ungates its bank (R161, R166). -/
def State.setTreg (s : State) (L r : Nat) (t : TReg) : State :=
  let c := s.cell L
  s.setCell L { c with tregs := c.tregs.set r t, gated := c.gated.set (r / 4) false }

/-- T.LD (R162, R198, R199). -/
def State.tLoad (s : State) (L : Nat) (q : QInstr) (f : Fmt) (scl tr : Nat) (tps : Bool) (base stride : Nat) : State :=
  let c := s.cell L
  if !c.inRegion base (imageSpan f scl stride) Region.rd then s.headOverflow L .tile q base false
  else
    let runs := imageRuns f scl stride base
    let (s, b, bad) := (s.startHead L q).readRuns L runs
    let s := s.setTreg L tr { full := true, bytes := if tps then transposeTile f b else b, flags := 0, poison := bad }
    (s.countBanks L q (runUnits runs)).finish L .tile

/-- T.ST to the own scratchpad (R164). -/
def State.tStore (s : State) (L : Nat) (q : QInstr) (f : Fmt) (scl tr : Nat) (tps : Bool) (base stride : Nat) : State :=
  let s := s.meetStores (tregStores L [tr])
  let c := s.cell L
  let t := nthD c.tregs tr {}
  if !t.full then s.headFault L .tile q evTregEmpty
  else if !c.inRegion base (imageSpan f scl stride) Region.wr then s.headOverflow L .tile q base true
  else
    let b := sliceB t.bytes 0 (tileBytes f scl)
    let b := if tps then transposeTile f b else b
    let runs := imageRuns f scl stride base
    let s := (cutRuns runs b).foldl (fun s r => s.ownWrite L r.1 r.2 t.poison) (s.startHead L q)
    let s := s.setFld (R.CELL_VE_FLAGS L) F.CELL_VE_FLAGS_FLAGS (s.fld (R.CELL_VE_FLAGS L) F.CELL_VE_FLAGS_FLAGS ||| t.flags)
    (s.countBanks L q (runUnits runs)).finish L .tile

/-- T.ST to a neighbour (R206, R207): it leaves the tile mover when its beats have gone, and completes with the acknowledgement. -/
def State.tStoreNbr (s : State) (L : Nat) (q : QInstr) (f : Fmt) (scl tr : Nat) (tps : Bool) (base stride dir : Nat) : State :=
  let s := s.meetStores (tregStores L [tr])
  let c := s.cell L
  let t := nthD c.tregs tr {}
  let span := imageSpan f scl stride
  let tx := nthD c.tx (dir - 1) {}
  if !t.full then s.headFault L .tile q evTregEmpty
  else
    match tx.win with
    | none => s.headOverflow L .tile q base true
    | some w =>
      if !(decide (w.base ≤ base) && decide (base + span ≤ w.base + 256 * w.units)) then s.headOverflow L .tile q base true
      else
        let us := unitsIn w.base w.units base span
        if !us.all (fun u => tx.held.testBit u) then s.headFault L .tile q evBelayCredit
        else
          let b := sliceB t.bytes 0 (tileBytes f scl)
          let b := if tps then transposeTile f b else b
          let held := us.foldl (fun m u => m - 2 ^ u) tx.held
          let c := (c.begin q).done .tile
          let s := s.setCell L { c with tx := c.tx.set (dir - 1) { tx with held := held }, nbrOut := c.nbrOut ++ [(dir, q)] }
          let s := s.setFld (R.CELL_VE_FLAGS L) F.CELL_VE_FLAGS_FLAGS (s.fld (R.CELL_VE_FLAGS L) F.CELL_VE_FLAGS_FLAGS ||| t.flags)
          let s := s.suspect (s.clusterOf L) q.job F.CLU_JOB_SUSPECT_POISON t.poison
          { s with nbr := s.nbr ++ [{ cell := L, dir := dir, body := .write base span (cutRuns (imageRuns f scl stride base) b) t.poison q.iaddr }] }

/-- Run f on the head of an engine's queue of a cell when it may start. -/
def State.atHead (s : State) (L : Nat) (e : Engine) (f : QInstr → State) : State :=
  match (s.cell L).head e with
  | some q => f q
  | none => s

/-- T_LD (R162). -/
def execTLd (c : Fin 4096) (s : State) : Host.Outcome State Fault Refusal :=
  .next (s.atHead c.val .tile (fun q => match q.i with
    | .tLd fmt scl tr tps xb off stride _ => s.tLoad c.val q (fmtOf fmt) scl.toNat tr.toNat (tps = 1#1) (offAddr q.xs xb off.toNat) stride.toNat
    | _ => s))

/-- T_ST (R164, R206). -/
def execTSt (c : Fin 4096) (s : State) : Host.Outcome State Fault Refusal :=
  .next (s.atHead c.val .tile (fun q => match q.i with
    | .tSt fmt scl tr tps dir xb off stride _ =>
      let a := offAddr q.xs xb off.toNat
      if dir = 0#3 then s.tStore c.val q (fmtOf fmt) scl.toNat tr.toNat (tps = 1#1) a stride.toNat
      else s.tStoreNbr c.val q (fmtOf fmt) scl.toNat tr.toNat (tps = 1#1) a stride.toNat dir.toNat
    | _ => s))

/-- Empty the registers of a mask (R165). -/
def Cell.releaseTregs (c : Cell) (m : Nat) : Cell :=
  { c with tregs := (List.range 16).map (fun i => if m.testBit i then {} else nthD c.tregs i {}) }

/-- T_REL (R165). -/
def execTRel (c : Fin 4096) (s : State) : Host.Outcome State Fault Refusal :=
  .next (s.atHead c.val .tile (fun q => match q.i with
    | .tRel m => (s.setCell c.val (((s.cell c.val).begin q).releaseTregs m.toNat)).finish c.val .tile
    | _ => s))

/-- Are the four registers of a bank empty? -/
def Cell.bankEmpty (c : Cell) (b : Nat) : Bool := (List.range 4).all (fun i => !(nthD c.tregs (4 * b + i) {}).full)

/-- TREG_BANK_GATE (R166): a bank that has been empty for 64 fc is gated unless GATE_DIS is 1. -/
def execTregBankGate (c : Fin 4096) (b : Fin 4) (s : State) : Host.Outcome State Fault Refusal :=
  let k := s.cell c.val
  .next (if k.bankEmpty b.val ∧ s.fld (R.CELL_TREG_CTRL c.val) F.CELL_TREG_CTRL_GATE_DIS = 0 then
    s.setCell c.val { k with gated := k.gated.set b.val true } else s)

end Sys2Proof.Machine
end

