-- ==== Sys2Proof/Machine/Chan.lean ====
section
/-! DEFINITION. Rope channels (R263 to R271): C.SEND, C.RECV, and the arrival of tiles, markers and credits. -/

namespace Sys2Proof.Machine

/-- A packet of a channel from a cell to its peer: tiles, markers and credits (R251, R263). -/
def State.chanSend (s : State) (L : Nat) (b : ChanBind) (job : Nat) (p : Pkt) : State :=
  s.send { pkt := p, gs := b.gs, gen := (s.cell L).gen, job := job, dest := s.cellEp b.peer, src := s.cellEp L, sender := .cell L,
           tenant := s.jobTenant (s.clusterOf L) job }

/-- SECT_POISON of n bytes read at an address, from the poisoned sectors read (Table 143). -/
def tilePoison (addr n : Nat) (bad : List Nat) : Nat :=
  (List.range (n / 64)).foldl (fun m i => if (sectorsOf (addr + 64 * i) 64).any (fun k => bad.contains k) then m + 2 ^ i else m) 0

/-- Sectors at an address that receive the poisoned sectors of a tile. -/
def poisonSectors (addr n mask : Nat) : List Nat :=
  ((List.range (n / 64)).filter (fun i => mask.testBit i)).flatMap (fun i => sectorsOf (addr + 64 * i) 64)


/-- C.SEND (R265, R266). -/
def State.cSend (s : State) (L : Nat) (q : QInstr) (ch off nfl tag : Nat) : State :=
  let c := s.cell L
  let o := nthD c.chOut ch {}
  let n := 256 * nfl
  match o.bind with
  | none => s.headFault L .channel q 0x3175
  | some b =>
    if o.credits = 0 then s
    else if off % 32 ≠ 0 then s.headFault L .channel q 0x3175
    else if !c.inRegion off n Region.rd then s.headOverflow L .channel q off false
    else
      let s := s.startHead L q
      let c := s.cell L
      let s := s.setCell L { c with chOut := c.chOut.set ch { o with credits := o.credits - 1 } }
      let (s, bs, bad) := s.ownRead L off n
      let s := s.consumeRead L off n
      let m := tilePoison (scratchAddr L off) n bad
      let t : ChTile := { src := L, srcChan := ch, nfl := nfl, tag := tag, job := q.job, gen := (s.cell L).gen, gs := b.gs, poison := m, bytes := bs }
      let s := (s.chanSend L b q.job (.chTile t b.peerChan)).bump (R.CH_OUT_CNT L ch) F.CH_OUT_CNT_TILES 1
      let s := s.suspect (s.clusterOf L) q.job F.CLU_JOB_SUSPECT_POISON (m != 0)
      (s.portWaits L).finish L .channel

/-- C_SEND (R266). -/
def execCSend (c : Fin 4096) (s : State) : Host.Outcome State Fault Refusal :=
  .next (s.atHead c.val .channel (fun q => match q.i with
    | .cSend ch _ xb nfl1 off tag => s.cSend c.val q ch.toNat (offAddr q.xs xb off.toNat) (nfl1.toNat + 1) tag.toNat
    | _ => s))

/-- C.RECV (R265, R267, R268). -/
def State.cRecv (s : State) (L : Nat) (q : QInstr) (ch off nfl : Nat) : State :=
  let s := s.meetStores (slotStores L ch)
  let c := s.cell L
  let i := nthD c.chIn ch {}
  let n := 256 * nfl
  match i.bind with
  | none => s.headFault L .channel q 0x3175
  | some b =>
    match i.slots with
    | [] => if i.latch then s.headFault L .channel q 0x3175 else s
    | t :: rest =>
      if off % 32 ≠ 0 then s.headFault L .channel q 0x3175
      else if t.nfl ≠ nfl then s.headFault L .channel q 0x3175
      else if !c.inRegion off n Region.wr then s.headOverflow L .channel q off true
      else
        let s := s.startHead L q
        let c := s.cell L
        let s := s.setCell L { c with chIn := c.chIn.set ch { i with slots := rest } }
        let a := scratchAddr L off
        let s := s.wr a (sliceB t.bytes 0 n) (poisonSectors a n t.poison)
        let s := (s.chanSend L b q.job (.chCredit b.peerChan ch 1)).bump (R.CH_IN_CNT L ch) F.CH_IN_CNT_TILES 1
        (s.portWaits L).finish L .channel

/-- C_RECV (R267). -/
def execCRecv (c : Fin 4096) (s : State) : Host.Outcome State Fault Refusal :=
  .next (s.atHead c.val .channel (fun q => match q.i with
    | .cRecv ch _ xb nfl1 off => s.cRecv c.val q ch.toNat (offAddr q.xs xb off.toNat) (nfl1.toNat + 1)
    | _ => s))

/-- CHAN_MISMATCH at a cell (R268). -/
def State.chanMismatch (s : State) (L : Nat) : State :=
  let c := s.cell L
  s.faultCell L 0x3170 c.pc c.job 0

/-- Rebind an inbound channel and grant its sender the first four credits (R85, R86). -/
def State.rebindIn (s : State) (L ch : Nat) (b : Option ChanBind) : State :=
  let c := s.cell L
  let s := s.setCell L { c with chIn := c.chIn.set ch { nthD c.chIn ch {} with bind := b, latch := false, took := true } }
  match b with
  | some b => s.chanSend L b 0 (.chCredit b.peerChan ch 4)
  | none => s

/-- Binding of channel ch in the staged section; none while no section is staged (R73). -/
def Cell.stagedIn (c : Cell) (ch : Nat) : Option ChanBind := if c.staged then nthD c.shadow.chanIn ch none else none
def Cell.stagedOut (c : Cell) (ch : Nat) : Option ChanBind := if c.staged then nthD c.shadow.chanOut ch none else none

/-- Markers popped and tiles found unread while a Q.END is in progress (R85, R87). -/
def State.endProgress (s : State) (L : Nat) : State :=
  if (s.cell L).st ≠ .ending then s else
  (List.range 8).foldl (fun s ch =>
    let c := s.cell L
    if c.st ≠ .ending then s else
    let i := nthD c.chIn ch {}
    if i.took then s
    else if i.bind.isNone then s.rebindIn L ch (c.stagedIn ch)
    else if !i.slots.isEmpty then s.faultCell L 0x3131 c.pc c.job 0x0F
    else if i.latch then s.rebindIn L ch (c.stagedIn ch)
    else s) s

/-- Does the entry of an inbound channel name a sender and its outbound channel? -/
def ChanIn.names (i : ChanIn) (src chan : Nat) : Bool := match i.bind with
  | some b => decide (b.peer = src) && decide (b.peerChan = chan)
  | none => false

/-- Logical cell at a cell endpoint. -/
def State.cellOf (s : State) (e : Endpoint) : Nat := s.cellAt e.cluster e.code

/-- Address of the sector that payload sector i of a packet holds: a memory packet names it, a tile's slot has none. -/
def Pkt.sectorAddr (k : Pkt) (i : Nat) : Option Nat := match k with
  | .memWrite _ r .. | .memData _ r .. | .hubReq r .. | .hubResp r .. => some ((r.addr + 64 * i) / 64 * 64)
  | _ => none

/-- Payload bytes that reach their endpoint with bad parity poison their sectors (R363). -/
def State.payloadMeet (s : State) (p : Packet) : State × Packet :=
  if s.upsets.isEmpty then (s, p)
  else (List.range (4 * p.pkt.body)).foldl (fun x i =>
    let u := Upset.payload p.dest.cluster p.dest.code i
    if x.1.upsets.contains u then
      ({ x.1 with upsets := x.1.upsets.erase u }.raise
        { code := 0x2200, kind := if p.dest.code < 16 then 1 else 2, src := if p.dest.code < 16 then s.cellOf p.dest else p.dest.cluster,
          addr := p.pkt.sectorAddr i, detail := p.dest.code }, { x.2 with pkt := x.2.pkt.spoil i })
    else x) (s, p)

/-- Run f on the n-th packet of some kind once it is ejected: nothing to eject leaves the state, a discarded packet has only its count. -/
def State.onPkt (s : State) (sel : Packet → Bool) (n : Nat) (f : State → Packet → State) : State :=
  match s.takePkt sel n with
  | none => s
  | some (u, p) =>
    match u.headerFails p with
    | some v => v
    | none =>
      match s.eject sel n with
      | none => s
      | some (s, none) => s
      | some (s, some p) =>
        let (s, p) := s.payloadMeet p
        f s p

/-- CH_TILE (R267, R268). -/
def execChTile (n : Nat) (s : State) : Host.Outcome State Fault Refusal :=
  .next (s.onPkt (fun p => decide (p.pkt.type = 0x01)) n (fun s p => match p.pkt with
    | .chTile t ch =>
      let L := s.cellOf p.dest
      let c := s.cell L
      let i := nthD c.chIn ch {}
      if i.names t.src t.srcChan then (s.setCell L { c with chIn := c.chIn.set ch { i with slots := i.slots ++ [t] } }).endProgress L else s.chanMismatch L
    | _ => s))

/-- CH_MARKER (R85, R268). -/
def execChMarker (n : Nat) (s : State) : Host.Outcome State Fault Refusal :=
  .next (s.onPkt (fun p => decide (p.pkt.type = 0x02)) n (fun s p => match p.pkt, p.sender with
    | .chMarker sc ch, .cell src =>
      let L := s.cellOf p.dest
      let c := s.cell L
      let i := nthD c.chIn ch {}
      if i.names src sc then (s.setCell L { c with chIn := c.chIn.set ch { i with latch := true } }).endProgress L else s.chanMismatch L
    | _, _ => s))

/-- CH_CREDIT (R268). -/
def execChCredit (n : Nat) (s : State) : Host.Outcome State Fault Refusal :=
  .next (s.onPkt (fun p => decide (p.pkt.type = 0x03)) n (fun s p => match p.pkt, p.sender with
    | .chCredit oc ic k, .cell src =>
      let L := s.cellOf p.dest
      let c := s.cell L
      let o := nthD c.chOut oc {}
      let ok := match o.bind with
        | some b => decide (b.peer = src) && decide (b.peerChan = ic)
        | none => false
      if ok && decide (o.credits + k ≤ 4) then s.setCell L { c with chOut := c.chOut.set oc { o with credits := o.credits + k } } else s.chanMismatch L
    | _, _ => s))

end Sys2Proof.Machine
end

