-- ==== Sys2Proof/Machine/Ctlbase.lean ====
section
/-! DEFINITION. Operations on a cluster controller that other units' commands call (R328, R332 to R335): registers, interrupts, summaries, the completion of a
waiting instruction. -/

namespace Sys2Proof.Machine

/-- Write a controller's register; x0 stays zero. -/
def Ctl.setX (c : Ctl) (rd : Nat) (v : Word) : Ctl := if rd = 0 then c else { c with x := c.x.set rd v }

/-- An instruction retires and the hart goes on at an address (R325). -/
def Ctl.retire (c : Ctl) (pc : Nat) : Ctl := { c with pc := pc % 2 ^ 64, wait := .none, minstret := c.minstret + 1 }

/-- Change the controller of a cluster. -/
def State.updCtl (s : State) (g : Nat) (f : Ctl → Ctl) : State :=
  let c := s.clu g
  s.setClu g { c with ctl := f c.ctl }

/-- A U-mode exception stops the section program (R328): CTL_TRAP with its cause. -/
def State.ctlTrap (s : State) (g cause : Nat) : State :=
  let c := s.clu g
  let s := s.setFld (R.CLU_CTL_STATUS g) F.CLU_CTL_STATUS_CAUSE cause
  let s := s.setFld (R.CLU_CTL_STATUS g) F.CLU_CTL_STATUS_UPC c.ctl.pc
  (s.leaveU g .stopped).faultAgent (s.teamOfClu g) (s.partOf g).1 2 g 0x3190 0

/-- The section program of a controller stops for a section event already raised (R333); the exception code of this case is open. -/
def State.ctlStop (s : State) (g : Nat) : State :=
  let s := s.setFld (R.CLU_CTL_STATUS g) F.CLU_CTL_STATUS_CAUSE (Config.freeWord s.draws).toNat
  let s := s.setFld (R.CLU_CTL_STATUS g) F.CLU_CTL_STATUS_UPC (s.clu g).ctl.pc
  { s with draws := s.draws + 1 }.leaveU g .stopped

/-- Move the oldest summary record to the data RAM (R332). -/
def State.sumCopy (s : State) (g addr rd : Nat) (r : SumRec) (rest : List SumRec) : State :=
  let c := s.clu g
  let ram := ((List.range 32).zip r.bytes).foldl (fun m x => SMap.ins (addr + x.1) x.2 m) c.ctl.ram
  let s := s.setClu g { c with sums := rest, ctl := (({ c.ctl with ram := ram } : Ctl).retire (c.ctl.pc + 4)).setX rd 1 }
  let L := s.cellAt g r.pos
  s.setCell L { s.cell L with summaries := (s.cell L).summaries - 1 }

/-- A record has come: a waiting X.SUMWT completes, and PEND shows it (R332, R335). -/
def State.sumArrived (s : State) (g : Nat) : State :=
  let c := s.clu g
  match c.ctl.wait, c.sums with
  | .summary addr rd, r :: rest => s.sumCopy g addr rd r rest
  | _, _ => s

end Sys2Proof.Machine
end

