-- ==== Sys2Proof/Machine/Sync.lean ====
section
/-! DEFINITION. Anchors (R272 to R280) and barriers (R281 to R285): the agents, the sync unit of a cell, and the accesses of controllers, cores and the host. -/

namespace Sys2Proof.Machine

/-! ### The anchor agent -/

/-- Anchor of a team anchor index in a section's binding (R272): none when it is out of range. -/
def State.teamAnchor (s : State) (x : Sect) (u : Nat) : Option Nat :=
  if u < 512 * x.partitions then some (128 * s.teamCluster x (u / 128) + u % 128) else none

def State.anchor (s : State) (a : Nat) : Word := SMap.get 0 s.anchors a

/-- Endpoint of the anchor agent of an anchor. -/
def ancEp (a : Nat) : Endpoint := ⟨a / 128, 17⟩

/-- Set or clear the poison of an anchor; CLU_ANCHOR_POISON shows it. -/
def State.setAncPois (s : State) (a : Nat) (v : Bool) : State :=
  { s with ancPois := if v then insNat a s.ancPois else s.ancPois.filter (· != a) }

/-- Wake the monitors of an anchor that a predicate selects, in ascending entry order, and free their entries (R277, R278). -/
def State.wake (s : State) (a status : Nat) (sel : Monitor → Bool) : State :=
  let g := a / 128
  let hits := ((s.clu g).mons.filterMap id).filter (fun m => decide (m.anchor = a) && sel m)
  let c := s.clu g
  let s := s.setClu g { c with mons := c.mons.map (fun m => match m with
    | some m => if m.anchor = a ∧ sel m then none else some m
    | none => none) }
  hits.foldl (fun s m => s.send { pkt := .ancWake status a, gs := m.pkt.gs, gen := m.pkt.gen, job := m.pkt.job, dest := m.pkt.src, src := ancEp a,
                                  sender := .cluster g, tenant := m.pkt.tenant, req := m.pkt.req }) s

/-- Write an anchor, wake the monitors that its new value satisfies, and let a Camley stream that watches it give credit (R440). -/
def State.setAnchor (s : State) (a : Nat) (w : Word) : State :=
  let old := s.anchor a
  let s := { s with anchors := if w = 0 then SMap.del a s.anchors else SMap.ins a w s.anchors }.wake a 0 (fun m => decide (m.value.toNat ≤ w.toNat))
  if old.toNat < w.toNat then s.anchorRose a else s

/-- An anchor operation at its agent (R274, R278): the status (0 done, 1 underflow, 2 overflow, 3 owner, 4 poisoned) and the old word. `own`: the issuer's team
holds the anchor's partition, or the issuer is the hub or the host; `log`: an error is a section event. -/
def State.ancApply (s : State) (op a : Nat) (v e : Word) (own log : Bool) : State × Nat × Word :=
  let g := a / 128
  let w := s.anchor a
  if !own then (s, 3, w)
  else
    let s := s.bump (R.CLU_ANCHOR_MON g) F.CLU_ANCHOR_MON_OPS 1
    if op = 0x62 ∨ op = 0x6F then ((s.setAncPois a false).setAnchor a v, 0, w)
    else if s.ancPois.contains a then (s, 4, w)
    else
      let err (s : State) (code : Nat) : State :=
        if log then s.faultAgent (s.teamOfClu g) (s.partOf g).1 2 g code 0 (some (anchorAddr a)) else s
      if op = 0x60 then
        (if w.toNat + v.toNat < 2 ^ 64 then (s.setAnchor a (w + v), 0, w) else (err s 0x3172, 2, w))
      else if op = 0x61 then
        (if v.toNat ≤ w.toNat then (s.setAnchor a (w - v), 0, w) else (err s 0x3171, 1, w))
      else if op = 0x63 then
        (if w = e then (s.setAnchor a v, 0, w) else (s, 0, w))
      else (s, 0, w)

/-- Does the sender of a packet belong to the team that holds an anchor (R272)? The hub may reach every anchor. -/
def State.ancOwned (s : State) (x : Sender) (a : Nat) : Bool :=
  match x with
  | .cell l => decide (s.teamOfCell l = s.teamOfClu (a / 128))
  | .cluster g => decide (s.teamOfClu g = s.teamOfClu (a / 128))
  | _ => true

/-- An S.WAIT reaches its agent (R277): answered at once, monitored, or refused for want of an entry. -/
def State.ancWait (s : State) (p : Packet) (a : Nat) (v : Word) : State :=
  let g := a / 128
  let answer (s : State) (k : Pkt) : State :=
    s.send { pkt := k, gs := p.gs, gen := p.gen, job := p.job, dest := p.src, src := ancEp a, sender := .cluster g, tenant := p.tenant, req := p.req }
  if !s.ancOwned p.sender a then answer s (.ancReply 3 (s.anchor a))
  else
    let s := s.bump (R.CLU_ANCHOR_MON g) F.CLU_ANCHOR_MON_OPS 1
    if s.ancPois.contains a then answer s (.ancReply 4 (s.anchor a))
    else if v.toNat ≤ (s.anchor a).toNat then answer s (.ancReply 0 (s.anchor a))
    else
      let c := s.clu g
      match (List.range 32).find? (fun i => (nthD c.mons i none).isNone) with
      | some i => s.setClu g { c with mons := c.mons.set i (some ⟨a, v, p⟩) }
      | none => answer (s.bump (R.CLU_ANCHOR_MON g) F.CLU_ANCHOR_MON_NOTYET 1) (.ancNotyet a)

/-- ANC_OP (R274, R276 to R278). -/
def execAncOp (n : Nat) (s : State) : Host.Outcome State Fault Refusal :=
  .next (s.onPkt (fun p => decide (p.pkt.type = 0x10)) n (fun s p => match p.pkt with
    | .ancOp op a v e =>
      if op = 0x64 then s.ancWait p a v
      else
        let (s, st, old) := s.ancApply op a v e (s.ancOwned p.sender a) true
        s.send { pkt := .ancReply st old, gs := p.gs, gen := p.gen, job := p.job, dest := p.src, src := p.dest, sender := .cluster (a / 128),
                 tenant := p.tenant, req := p.req }
    | _ => s))

/-- An S.ADD of 1 by an engine of a cluster when a descriptor completes (R187, R337, R407): its errors are the section's. -/
def State.ancDone (s : State) (g a : Nat) : State :=
  if 32768 ≤ a then s else
  let (s, st, _) := s.ancApply 0x60 a 1 0 (decide (s.teamOfClu g = s.teamOfClu (a / 128))) true
  if st = 3 then s.faultAgent (s.teamOfClu g) (s.partOf g).1 2 g 0x3173 0 (some (anchorAddr a))
  else if st = 4 then s.faultAgent (s.teamOfClu g) (s.partOf g).1 2 g 0x3174 0 (some (anchorAddr a))
  else s

/-! ### The sync unit of a cell -/

/-- The operation of an S instruction: op byte, team anchor index, v and e (Table 151). -/
def syncOp (q : QInstr) : Option (Nat × Nat × Word × Word) :=
  let u (xa : BitVec 4) (aoff : BitVec 15) : Nat := (xval q.xs xa + aoff.toNat) % 2 ^ 15
  let v (xv : BitVec 4) (vreg : BitVec 1) (imm : BitVec 24) : Word := BitVec.ofNat 64 (if vreg = 1#1 then xval q.xs xv else imm.toNat)
  match q.i with
  | .sAdd xa ao xv vr im => some (0x60, u xa ao, v xv vr im, 0)
  | .sSub xa ao xv vr im => some (0x61, u xa ao, v xv vr im, 0)
  | .sSet xa ao xv vr im => some (0x62, u xa ao, v xv vr im, 0)
  | .sCas xa ao xv vr xe _ im => some (0x63, u xa ao, v xv vr im, BitVec.ofNat 64 (xval q.xs xe))
  | .sWait xa ao xv vr im => some (0x64, u xa ao, v xv vr im, 0)
  | _ => none

/-- Where an S.CAS writes the old word (Table 151). -/
def casDest (q : QInstr) : Option Nat := match q.i with
  | .sCas _ _ _ _ _ xd _ => some (xval q.xs xd / 8 * 8)
  | _ => none

/-- Send an anchor operation of a cell (R251). -/
def State.ancSend (s : State) (L job op a : Nat) (v e : Word) (req : Nat) : State :=
  let g := s.clusterOf L
  s.send { pkt := .ancOp op a v e, gs := s.jobGuar g job, gen := (s.cell L).gen, job := job, dest := ancEp a, src := s.cellEp L, sender := .cell L,
           tenant := s.jobTenant g job, req := req }

/-- Start an anchor operation (R272, R274, R275). -/
def State.syncStart (s : State) (L : Nat) (q : QInstr) : State :=
  let c := s.cell L
  if c.sync.isSome then s else
  match syncOp q with
  | none => s
  | some (op, u, v, e) =>
    let a := match s.sectOf L with
      | some x => s.teamAnchor x u
      | none => none
    let bad := match casDest q with
      | some d => if c.inRegion d 8 Region.wr then none else some d
      | none => none
    match bad, a with
    | some d, _ => s.headOverflow L .sync q d true
    | none, none => s.headFault L .sync q 0x3173
    | none, some a =>
      let s := (s.startHead L q).finish L .sync
      (s.setCell L { s.cell L with sync := some { q := q } }).ancSend L q.job op a v e q.seq

/-- The operation outstanding at a cell's sync unit completes (R275). -/
def State.syncDone (s : State) (L : Nat) : State := s.setCell L { s.cell L with sync := none }

/-- The answer of an anchor agent reaches a cell (R274, R277, R278); one to a request that is not the outstanding one is dropped. -/
def State.syncReply (s : State) (L status : Nat) (old : Word) (req : Nat) : State :=
  match (s.cell L).sync with
  | none => s
  | some o =>
    if o.q.seq ≠ req then s else
    let s := s.syncDone L
    if status = 3 then s.faultCell L 0x3173 o.q.iaddr o.q.job o.q.op
    else if status = 4 then s.faultCell L 0x3174 o.q.iaddr o.q.job o.q.op
    else match casDest o.q with
      | some d => if status = 0 then s.ownWrite L d (leBytes 8 old.toNat) false else s
      | none => s

def execSAdd (c : Fin 4096) (s : State) : Host.Outcome State Fault Refusal :=
  .next (s.atHead c.val .sync (fun q => match q.i with
    | .sAdd .. => s.syncStart c.val q
    | _ => s))

def execSSub (c : Fin 4096) (s : State) : Host.Outcome State Fault Refusal :=
  .next (s.atHead c.val .sync (fun q => match q.i with
    | .sSub .. => s.syncStart c.val q
    | _ => s))

def execSSet (c : Fin 4096) (s : State) : Host.Outcome State Fault Refusal :=
  .next (s.atHead c.val .sync (fun q => match q.i with
    | .sSet .. => s.syncStart c.val q
    | _ => s))

def execSCas (c : Fin 4096) (s : State) : Host.Outcome State Fault Refusal :=
  .next (s.atHead c.val .sync (fun q => match q.i with
    | .sCas .. => s.syncStart c.val q
    | _ => s))

def execSWait (c : Fin 4096) (s : State) : Host.Outcome State Fault Refusal :=
  .next (s.atHead c.val .sync (fun q => match q.i with
    | .sWait .. => s.syncStart c.val q
    | _ => s))

/-- S_WAIT_RESEND (R277): 32 fc after ANC_NOTYET the sync unit sends its S.WAIT again. -/
def execSWaitResend (c : Fin 4096) (s : State) : Host.Outcome State Fault Refusal :=
  let k := s.cell c.val
  .next (match k.sync, s.sectOf c.val with
    | some o, some x =>
      if !o.resend then s
      else match syncOp o.q with
        | some (op, u, v, e) => (match s.teamAnchor x u with
          | some a => (s.setCell c.val { k with sync := some { o with resend := false } }).ancSend c.val o.q.job op a v e o.q.seq
          | none => s)
        | none => s
    | _, _ => s)

/-- The answer of an anchor agent reaches a waiting controller (R333): rd takes the old word, errors stop the section program. An answer to an S.WAIT that an
interrupt abandoned is dropped. -/
def State.ctlReply (s : State) (g status : Nat) (old : Word) (req : Nat) : State :=
  let c := s.clu g
  match c.ctl.wait with
  | .anchor op rd _ n =>
    let done (s : State) (v : Word) : State := s.updCtl g (fun c => (c.retire (c.pc + 4)).setX rd v)
    if n ≠ req then s
    else if status = 0 then done s (if op = 0x64 then 0 else old)
    else
      let s := if status = 3 then s.faultAgent (s.teamOfClu g) (s.partOf g).1 2 g 0x3173
        else if status = 4 then s.faultAgent (s.teamOfClu g) (s.partOf g).1 2 g 0x3174 else s
      if c.ctl.umode then s.ctlStop g else done s (BitVec.ofNat 64 (2 ^ 63 + status))
  | _ => s

/-- Deliver an answer of an anchor agent to a cell or a controller. -/
def State.ancDeliver (s : State) (p : Packet) (status : Nat) (old : Word) : State :=
  if p.dest.code < 16 then s.syncReply (s.cellOf p.dest) status old p.req
  else if p.dest.code = 16 then s.ctlReply p.dest.cluster status old p.req
  else s

/-- ANC_REPLY (R275, R278). -/
def execAncReply (n : Nat) (s : State) : Host.Outcome State Fault Refusal :=
  .next (s.onPkt (fun p => decide (p.pkt.type = 0x11)) n (fun s p => match p.pkt with
    | .ancReply st old => s.ancDeliver p st old
    | _ => s))

/-- ANC_WAKE (R277). -/
def execAncWake (n : Nat) (s : State) : Host.Outcome State Fault Refusal :=
  .next (s.onPkt (fun p => decide (p.pkt.type = 0x12)) n (fun s p => match p.pkt with
    | .ancWake st _ => s.ancDeliver p st 0
    | _ => s))

/-- ANC_NOTYET (R277): a cell resends after 32 fc; a controller's S.WAIT is sent again at once. -/
def execAncNotyet (n : Nat) (s : State) : Host.Outcome State Fault Refusal :=
  .next (s.onPkt (fun p => decide (p.pkt.type = 0x13)) n (fun s p =>
    if p.dest.code < 16 then
      let L := s.cellOf p.dest
      let c := s.cell L
      s.setCell L { c with sync := c.sync.map (fun o => if o.q.seq = p.req then { o with resend := true } else o) }
    else match (s.clu p.dest.cluster).ctl.wait, p.pkt with
      | .anchor op _ v n, .ancNotyet a =>
        let g := p.dest.cluster
        if n ≠ p.req then s
        else s.send { pkt := .ancOp op a v 0, gs := p.gs, gen := p.gen, job := p.job, dest := ancEp a, src := ⟨g, 16⟩, sender := .cluster g,
                      tenant := p.tenant, req := n }
      | _, _ => s))

/-! ### Barriers -/

/-- Hardware partition and unit endpoint of a barrier unit. -/
def State.barEp (s : State) (p unit : Nat) : Endpoint := ⟨s.cluster p (unit / 4), 18⟩

def State.bar (s : State) (p unit : Nat) : BarUnit := SMap.get {} s.bars (16 * p + unit)
def State.setBar (s : State) (p unit : Nat) (b : BarUnit) : State := { s with bars := SMap.ins (16 * p + unit) b s.bars }

/-- Populated members of a CELLS mask: bits 56 to 63 do not count on SG4-3584-B (R7, R284). -/
def State.barMask (s : State) (d : BarDesc) : Nat := if s.part = .b ∧ !d.units then d.mask % 2 ^ 56 else d.mask

/-- The section of a generation on a team: the running one, or the staged one. -/
def State.genSect (s : State) (t : Nat) (gen : Bool) : Option Sect :=
  let x := s.team t
  if x.gen = gen then x.running else x.staged

/-- Place of a hardware partition in the binding of a generation's section. -/
def State.teamPart (s : State) (p : Nat) (gen : Bool) : Nat := match s.genSect (s.teamId p) gen with
  | some x => x.binding.idxOf p
  | none => 0

/-- BAR_NOT_MEMBER at a unit of partition p (R283). -/
def State.barFault (s : State) (p g : Nat) : State := s.faultAgent (s.teamId p) p 2 g 0x3176

/-- BAR_DONE to every cluster of a partition that holds members of a CELLS unit (R284). -/
def State.barCells (s : State) (p unit mask : Nat) (q : Packet) : State :=
  (List.range 4).foldl (fun s k =>
    let m := mask / 2 ^ (16 * k) % 2 ^ 16
    if m = 0 then s else
    s.send { q with pkt := .barDone unit m, dest := ⟨s.cluster p k, 18⟩, src := s.barEp p unit, sender := .cluster (s.barEp p unit).cluster }) s

/-- Children of a UNITS unit: the units of a partition whose descriptor of a generation names it as parent. -/
def State.barChildren (s : State) (p unit : Nat) (gen : Bool) (child : Nat) : List Nat :=
  (List.range 16).filter (fun n => match ((s.bar child n).gen gen).desc with
    | some d => decide (d.parent = some (p, unit))
    | none => false)

/-- A unit completes or is released (R284): the arrival set clears, EPISODES counts, the members hear of it. -/
def State.barRelease (s : State) (p unit : Nat) (q : Packet) : State :=
  let b := s.bar p unit
  let x := b.gen q.gen
  match x.desc with
  | none => s
  | some d =>
    let s := s.setBar p unit { b.setGen q.gen { x with arrived := 0, waiting := false } with episodes := (b.episodes + 1) % 2 ^ 32 }
    if d.units then
      match s.genSect (s.teamId p) q.gen with
      | none => s
      | some sc =>
        (List.range 64).foldl (fun s i =>
          if !d.mask.testBit i then s else
          let cp := nthD sc.binding i 0
          (s.barChildren p unit q.gen cp).foldl (fun s n =>
            s.send { q with pkt := .barDone n 0, dest := s.barEp cp n, src := s.barEp p unit, sender := .cluster (s.barEp p unit).cluster }) s) s
    else s.barCells p unit (s.barMask d) q

/-- The arrival set of a unit may be complete (R284): to the parent, or done. -/
def State.barCheck (s : State) (p unit : Nat) (q : Packet) : State :=
  let b := s.bar p unit
  let x := b.gen q.gen
  match x.desc with
  | none => s
  | some d =>
    if x.arrived ≠ s.barMask d ∨ x.waiting then s
    else match d.parent with
      | some (pp, pu) =>
        let s := s.setBar p unit (b.setGen q.gen { x with waiting := true })
        s.send { q with pkt := .barArrive pu (0x80 + s.teamPart p q.gen), dest := s.barEp pp pu, src := s.barEp p unit,
                        sender := .cluster (s.barEp p unit).cluster }
      | none => s.barRelease p unit q

/-- BAR_ARRIVE at a unit (R283, R284). -/
def State.barArrive (s : State) (q : Packet) (unit src : Nat) : State :=
  let p := (s.partOf q.dest.cluster).1
  let b := s.bar p unit
  let x := b.gen q.gen
  let child := decide (0x80 ≤ src)
  let i := if child then src - 0x80 else src
  match x.desc with
  | none => s.barFault p q.dest.cluster
  | some d =>
    if d.units ≠ child ∨ !d.mask.testBit i then s.barFault p q.dest.cluster
    else (s.setBar p unit (b.setGen q.gen { x with arrived := x.arrived ||| 2 ^ i })).barCheck p unit q

/-- BAR_ARRIVE (R283, R284). -/
def execBarArrive (n : Nat) (s : State) : Host.Outcome State Fault Refusal :=
  .next (s.onPkt (fun p => decide (p.pkt.type = 0x18)) n (fun s p => match p.pkt with
    | .barArrive u src => s.barArrive p u src
    | _ => s))

/-- Does a cell wait in S.BAR for a unit in a generation? -/
def Cell.inBar (c : Cell) (unit : Nat) (gen : Bool) : Bool := match c.sync with
  | some o => (match o.q.i with
    | .sBar u => decide (u.toNat = unit) && decide (c.gen = gen)
    | _ => false)
  | none => false

/-- BAR_DONE (R284): released cells complete their S.BAR; a released child unit releases its own members. -/
def execBarDone (n : Nat) (s : State) : Host.Outcome State Fault Refusal :=
  .next (s.onPkt (fun p => decide (p.pkt.type = 0x19)) n (fun s p => match p.pkt with
    | .barDone u m =>
      if m = 0 then s.barRelease (s.partOf p.dest.cluster).1 u p
      else (List.range 16).foldl (fun s j =>
        let L := s.cellAt p.dest.cluster j
        if m.testBit j ∧ (s.cell L).inBar u p.gen then s.syncDone L else s) s
    | _ => s))

/-- S_BAR (R283). -/
def execSBar (c : Fin 4096) (s : State) : Host.Outcome State Fault Refusal :=
  .next (s.atHead c.val .sync (fun q => match q.i with
    | .sBar u =>
      let L := c.val
      if (s.cell L).sync.isSome then s else
      let g := s.clusterOf L
      let s := (s.startHead L q).finish L .sync
      (s.setCell L { s.cell L with sync := some { q := q } }).send
        { pkt := .barArrive u.toNat (L % 64), gs := s.jobGuar g q.job, gen := (s.cell L).gen, job := q.job, dest := s.barEp (L / 64) u.toNat,
          src := s.cellEp L, sender := .cell L, tenant := s.jobTenant g q.job }
    | _ => s))

end Sys2Proof.Machine
end

