-- ==== Sys2Proof/Machine/Host.lean ====
section
/-! DEFINITION. The Focia host interface (R415 to R425, R427): ring pages, doorbells, the reading of ring entries, version negotiation and host writes of
anchors. -/

namespace Sys2Proof.Machine

/-- May a function make accesses: the physical function, or a virtual function below NumVFs (R416), with the link up? -/
def State.fnLive (s : State) (f : Nat) : Bool := s.linkUp && decide (f = 64 ∨ f < s.host.numVFs)

/-- Is the block at READY (R476, R482)? -/
def State.ready (s : State) : Bool := decide (s.stage = 7)

/-- Does a function's ring window show a tenant's page (R420)? -/
def State.pageShown (s : State) (f t : Nat) : Bool :=
  decide (f = 64) || (decide (s.fld (R.ADM_TENANT t) F.ADM_TENANT_VALID = 1) && decide (s.partOfTenant t = f))

def State.page (s : State) (t : Nat) : RingPage := SMap.get {} s.host.pages t
def State.setPage (s : State) (t : Nat) (g : RingPage) : State := { s with host := { s.host with pages := SMap.ins t g s.host.pages } }

/-! ### Doorbells -/

/-- A write of TR_SQ through function f (R421, Table 229). -/
def State.writeTrSq (s : State) (f t : Nat) (v : Word) : State :=
  let g := s.page t
  let tail := getF v F.TR_SQ_TAIL
  let k := (tail + 16 - g.sqTail) % 16
  if k = 0 ∨ s.agreed f = 0 then s
  else if 16 ≤ g.vis.length + k then s.setPage t { g with badDb := satAdd 65535 g.badDb 1 }
  else s.setPage t { g with sqTail := tail, vis := g.vis ++ List.replicate k f }

/-- DOORBELL (R421). -/
def execDoorbell (f : Fin 65) (t : Fin 4096) (v : Word) (s : State) : Host.Outcome State Fault Refusal :=
  .next (if s.ready && s.fnLive f.val && s.pageShown f.val t.val then s.writeTrSq f.val t.val v else s)

/-! ### Reading a ring (R422, R423, R427) -/

/-- Free entries of a completion ring. -/
def RingPage.free (g : RingPage) : Nat := min (2 ^ g.log2) 4095 - (g.cqTail + 4096 - g.cqHead) % 4096

/-- Byte ranges (first, count) of an entry that Tables 233 and 234 mark zero. -/
def zeroBytes (op : Nat) : List (Nat × Nat) :=
  [(0x01, 1), (0x06, 2), (0x0C, 4)] ++
  (if op = 1 ∨ op = 5 then [(0x1B, 1), (0x30, 16)]
   else if op = 3 then [(0x25, 27)]
   else if op = 4 then [(0x19, 7), (0x28, 24)]
   else [(0x10, 48)])

/-- Is an opcode in the version a function agreed (Table 226)? -/
def opKnown (ver op : Nat) : Bool := decide (1 ≤ op ∧ op ≤ 4) || (decide (op = 5) && decide (0x11 ≤ ver)) || (decide (op = 6) && decide (0x12 ≤ ver))

/-- Does an entry break R427 or the ranges of Table 234, the TENANT rule apart? -/
def entryBad (ver : Nat) (b : List Byte) : Bool :=
  let op := numAt b 0 1
  !opKnown ver op || decide (4096 ≤ numAt b 2 2) || (zeroBytes op).any (fun r => decide (numAt b r.1 r.2 ≠ 0)) ||
    (decide (op = 3) && (decide (2 ≤ numAt b 0x24 1) || decide (numAt b 0x10 8 % 64 ≠ 0) || decide (numAt b 0x18 8 % 64 ≠ 0) || decide (numAt b 0x20 4 % 64 ≠ 0) ||
      decide (16777216 < numAt b 0x20 4)))

/-- Admission engine of a tenant's team (R295). -/
def State.engineOf (s : State) (tenant : Nat) : Nat := s.teamId (s.partOfTenant tenant) / 8

/-- Submissions and queries that wait at an engine (R302). -/
def State.waitingAt (s : State) (e : Nat) : Nat :=
  (s.host.pages.map (fun (x : Nat × RingPage) => if s.engineOf x.1 = e then (x.2.inbox.filter (fun c => decide (c.cmd.opcode = 1 ∨ c.cmd.opcode = 5))).length else 0)).sum

/-- A BUSY answer (R323, R324), logged once per partition and pitch. -/
def State.answerBusy (s : State) (c : CmdRef) (reason : Nat) (retry : Option Nat) : State :=
  let s := s.answer c stBusy reason retry
  let s := if c.opcode = 1 then s.unreserve c.tenant else s
  let p := s.partOfTenant c.tenant
  if s.adm.busyLogged.contains p then s
  else { s with adm := { s.adm with busyLogged := p :: s.adm.busyLogged } }.raise { code := 0x6180, kind := 8, src := p, part := some p, tenant := some c.tenant }

/-- Intake entries in use (R297): those of requests that are not bivouacked, and those that submissions took when they were read. -/
def State.intakeHeld (s : State) : List Nat :=
  s.adm.reqs.filterMap (fun (x : Nat × Request) => if x.2.st = .bivouacked then none else some x.2.intake) ++
    s.host.pages.flatMap (fun (x : Nat × RingPage) => x.2.inbox.filterMap (·.intake))

/-- A free intake entry of a team: of the tenant's partition first, then of the other members in team order (R297). -/
def State.freeIntake (s : State) (t p : Nat) : Option Nat :=
  let held := s.intakeHeld
  let es := ((p :: (s.members t).filter (fun x => decide (x ≠ p))).map (fun p => (List.range 64).map (fun i => 64 * p + i))).flatten
  es.find? (fun e => !held.contains e)

/-- The intake entry that the read of a submission takes (R297): none for an unmapped tenant, which has no team. -/
def State.takeIntake (s : State) (t : Nat) : Option Nat :=
  if s.fld (R.ADM_TENANT t) F.ADM_TENANT_VALID = 1 then s.freeIntake (s.teamId (s.partOfTenant t)) (s.partOfTenant t) else none

/-- RING_ENTRY_READ (R422, R423, R427): read the front visible entry, reserve its completions and advance HEAD. A bad command is answered at once, a submission
that finds 5 waiting at its engine with BUSY QUEUE_FULL (R302). -/
def State.readEntry (s : State) (t : Nat) : State :=
  let g := s.page t
  match g.vis with
  | [] => s
  | f :: rest =>
    let b := (List.range 64).map (fun i => SMap.get 0 g.sq (64 * g.sqHead + i))
    let op := numAt b 0 1
    let need := if op = 1 then 2 else 1
    if !g.enable ∨ g.free < g.reserved + need then s
    else
      let cmd : CmdRef := { tenant := t, cmdId := numAt b 4 2, reqTag := numAt b 8 4, opcode := op, fn := f }
      let s := s.setPage t { g with vis := rest, sqHead := (g.sqHead + 1) % 16, reserved := g.reserved + need }
      let bad := entryBad (s.agreed f) b
      if bad ∨ (numAt b 2 2 ≠ t ∧ op ≠ 1) then
        let s := s.answer cmd stFault 0x4D
        if op = 1 then s.unreserve t else s
      else if (op = 1 ∨ op = 5) ∧ 5 ≤ s.waitingAt (s.engineOf t) then s.answerBusy cmd 0x22 (some (s.time.count + 1))
      else
        let g := s.page t
        s.setPage t { g with inbox := g.inbox ++ [{ wm := s.time.count, cmd := cmd, bytes := b, intake := if op = 1 then s.takeIntake t else none }] }

/-- RING_ENTRY_READ. -/
def execRingEntryRead (t : Fin 4096) (s : State) : Host.Outcome State Fault Refusal :=
  .next (if s.ready && s.linkUp then s.readEntry t.val else s)

/-- Take the front command of an opcode out of a tenant's page and run f on it. -/
def State.onCmd (s : State) (t op : Nat) (f : State → HostCmd → State) : State :=
  let g := s.page t
  match g.inbox with
  | [] => s
  | c :: rest => if c.cmd.opcode = op then f (s.setPage t { g with inbox := rest }) c else s

/-! ### Ring configuration and versions -/

/-- A write of TR_CQ_CFG (R424, Table 231). -/
def State.writeTrCqCfg (s : State) (t : Nat) (v : Word) : State :=
  let g := s.page t
  let en := decide (getF v F.TR_CQ_CFG_ENABLE = 1)
  let lg := getF v F.TR_CQ_CFG_LOG2
  let vec := getF v F.TR_CQ_CFG_VECTOR
  s.setPage t { g with
    enable := if en then true else g.enable && decide (g.reserved ≠ 0),
    log2 := if !g.enable ∧ 4 ≤ lg ∧ lg ≤ 12 then lg else g.log2,
    vector := if 1 ≤ vec ∧ vec ≤ 64 then vec else 0xFF,
    cqHead := getF v F.TR_CQ_CFG_HEAD }

/-- TR_CQ_CFG_WRITE. -/
def execTrCqCfgWrite (f : Fin 65) (t : Fin 4096) (v : Word) (s : State) : Host.Outcome State Fault Refusal :=
  .next (if s.ready && s.fnLive f.val && s.pageShown f.val t.val then s.writeTrCqCfg t.val v else s)

/-- Address of a function's version register (Table 227). -/
def verReg (f : Nat) : Nat := if f = 64 then R.HOST_FOCIA_VER else R.PART_FOCIA_VER f

/-- Does any ring of a function hold an unread entry or an unposted completion (R419)? -/
def State.ringsBusy (s : State) (f : Nat) : Bool :=
  s.host.pages.any (fun (x : Nat × RingPage) => (decide (s.ownerFn x.1 = f) && (!x.2.vis.isEmpty || decide (x.2.reserved ≠ 0))) || x.2.vis.contains f)

/-- A write of HOST_FOCIA_VER or PART_FOCIA_VER (R419): the highest of versions 0x10 to 0x12 within MIN and MAX, once the device is ready (R476, R482). -/
def State.writeFocia (s : State) (f : Nat) (v : Word) : State :=
  let a := verReg f
  let s := if getF v F.HOST_FOCIA_VER_REJECTED = 1 then s.setFld a F.HOST_FOCIA_VER_REJECTED 0 else s
  if s.ringsBusy f then s.setFld a F.HOST_FOCIA_VER_REJECTED 1
  else
    let lo := getF v F.HOST_FOCIA_VER_MIN
    let hi := getF v F.HOST_FOCIA_VER_MAX
    let best := if !s.ready then 0 else ([0x12, 0x11, 0x10].find? (fun x => decide (lo ≤ x ∧ x ≤ hi))).getD 0
    ((s.setFld a F.HOST_FOCIA_VER_MIN lo).setFld a F.HOST_FOCIA_VER_MAX hi).setFld a F.HOST_FOCIA_VER_AGREED best

/-- FOCIA_VERSION_WRITE (R419). -/
def execFociaVersionWrite (f : Fin 65) (v : Word) (s : State) : Host.Outcome State Fault Refusal :=
  .next (if s.fnLive f.val && (s.ready || decide (f.val = 64)) then s.writeFocia f.val v else s)

/-! ### Anchors from the host -/

/-- Log REG_ACCESS_BAD (R16), once per requester and pitch. The requester: 0 the host, 1 + h core h, 100 + g controller g. -/
def State.badAccess (s : State) (who a size : Nat) (write : Bool) : State :=
  if s.badReg.contains who then s
  else
    let (kind, src) := if who = 0 then (7, 0) else if who < 100 then (0, who - 1) else (2, who - 100)
    { s with badReg := who :: s.badReg }.raise { code := 0x6010, kind := kind, src := src, addr := some a, detail := size + 256 * b2n write }

/-- May function f reach anchor a (Table 224)? -/
def State.anchorShown (s : State) (f a : Nat) : Bool := decide (f = 64) || decide ((s.partOf (a / 128)).1 = f)

/-- An anchor operation that the hub sends for the host or an application core (R257, R279, R340): the ANC_OP and its answer cross the mesh and the agent applies
the operation within one command (assumption 123). The hub may reach every anchor, and an error is no section event. -/
def State.hubAnc (s : State) (op a : Nat) (v : Word) : State × Nat × Word :=
  let hub := hubEp (a / 128)
  let (s, st, old) := (s.countLinks { pkt := .ancOp op a v 0, dest := ancEp a, src := hub, sender := .hub }).ancApply op a v 0 true false
  (s.countLinks { pkt := .ancReply st old, dest := hub, src := ancEp a, sender := .cluster (a / 128) }, st, old)

/-- HOST_ANCHOR_WRITE (R279): a whole-word write sets the anchor as S.SET does; a partial one follows R16. -/
def execHostAnchorWrite (f : Fin 65) (a : Fin 32768) (v : Word) (be : BitVec 8) (s : State) : Host.Outcome State Fault Refusal :=
  .next (
    if !s.ready || !s.fnLive f.val || !s.anchorShown f.val a.val || be = 0 then s
    else if be ≠ 0xFF then
      let n := ((List.range 8).filter (fun i => be.toNat.testBit i)).length
      let lo := ((List.range 8).find? (fun i => be.toNat.testBit i)).getD 0
      s.badAccess 0 (anchorAddr a.val + lo) n true
    else (s.hubAnc 0x6F a.val v).1)

end Sys2Proof.Machine
end

