-- ==== Sys2Proof/Machine/Camley.lean ====
section
/-! DEFINITION. Camley ports and streams (R433 to R442): LINK_CMD, frames received and sent, resends, units and credit. -/

namespace Sys2Proof.Machine

/-! ### Ports -/

/-- Is a Camley port present (R8)? -/
def State.portPresent (s : State) (p : Nat) : Bool := s.part ≠ .b || decide (p % 2 = 0)

/-- Is a port enabled: training, in hello or up? -/
def CamPort.on (x : CamPort) : Bool := decide (x.st = 2 ∨ x.st = 3 ∨ x.st = 4)

/-- Complete a stream disable once no frame of it is in flight (R442). -/
def State.settleDisable (s : State) : State :=
  match s.link.disabling with
  | none => s
  | some n =>
    if s.link.ports.any (fun (x : Nat × CamPort) => x.2.unacked.any (fun f => decide (f.stream = n))) then s
    else ({ s with link := { s.link with disabling := none } }).setFld R.LINK_CMD F.LINK_CMD_STATUS 0

/-- Disable every stream of a port. -/
def State.dropStreams (s : State) (p : Nat) : State :=
  { s with link := { s.link with streams := s.link.streams.map (fun (x : Nat × CamStream) => if x.2.port = p then (x.1, { x.2 with enabled := false }) else x) } }

/-- A frame resent 16 times takes the port down (R437). -/
def State.portDown (s : State) (p : Nat) : State :=
  let mine := s.link.streams.filter (fun (x : Nat × CamStream) => x.2.enabled && decide (x.2.port = p))
  let parts := (List.range 64).filter (fun q => mine.any (fun x => decide (x.2.part = q)))
  let s := parts.foldl (fun s q =>
    let gs := mine.any (fun x => decide (x.2.part = q) && x.2.gs)
    let seq := s.evt.seq
    let s := s.raise { code := 0x3302, kind := 6, src := p, part := some q, hw := gs }
    if gs then s.nameHw [q] seq 0x3302 else s) s
  let x := s.port p
  ((s.setPort p { x with st := 5, unacked := [], rx := [] }).dropStreams p).settleDisable

/-- A field of a port record that must be zero or in range (Table 238). -/
def portRecordBad (b : List Byte) : Bool :=
  decide (numAt b 0 1 ≠ 1 ∧ numAt b 0 1 ≠ 2) || decide (numAt b 1 1 ≠ 1 ∧ numAt b 1 1 ≠ 2) || decide (numAt b 0x0E 2 ≠ 0) || decide (numAt b 0x16 2 ≠ 0) ||
    decide (numAt b 0x2C 20 ≠ 0) || decide (numAt b 0x28 4 < 1 ∨ 1023 < numAt b 0x28 4)

/-- The Camley table (R438). -/
def State.camTable (s : State) : Nat := s.fld R.LINK_CTRL F.LINK_CTRL_TABLE * 2 ^ 17

/-- End a LINK_CMD at once with a STATUS. -/
def State.linkStatus (s : State) (v : Nat) : State := s.setFld R.LINK_CMD F.LINK_CMD_STATUS v

/-- LINK_CMD OP 1: enable a port (R438). DESIGN CHOICE (assumption 45): an absent port has STATUS 1. -/
def State.portEnable (s : State) (p : Nat) : State :=
  if 16 ≤ p ∨ !s.portPresent p then s.linkStatus 1
  else if (s.port p).on then s.linkStatus 5
  else
    let (s, b, _) := s.tierRead (s.camTable + 64 * p) 64
    if portRecordBad b then s.linkStatus 1 else (s.setPort p { st := 2, record := b }).linkStatus 0

/-- LINK_CMD OP 2: disable a port; an absent one has STATUS 1 (assumption 45). -/
def State.portDisable (s : State) (p : Nat) : State :=
  if 16 ≤ p ∨ !s.portPresent p then s.linkStatus 1
  else if (s.port p).st = 1 then s.linkStatus 5
  else (((s.dropStreams p).setPort p {}).settleDisable).linkStatus 0

/-- A field of a stream entry that must be zero or in range (Table 239). -/
def streamEntryBad (b : List Byte) : Bool :=
  let fl := numAt b 0 1
  let u := numAt b 0x10 4
  decide (fl % 2 = 0) || decide (8 ≤ fl) || decide (16 ≤ numAt b 1 1) || decide (64 ≤ numAt b 6 1) || decide (numAt b 7 1 ≠ 0) || decide (numAt b 8 8 % 4096 ≠ 0) ||
    !(List.range 13).any (fun i => decide (u = 16 * 2 ^ i)) || decide (numAt b 0x30 16 ≠ 0) ||
    (!fl.testBit 1 && decide (numAt b 0x18 4 < 1 ∨ 1000000 < numAt b 0x18 4))

/-- LINK_CMD OP 3: enable a stream (R438, R439): its anchors become 0, and a receiving stream gives its first credit. -/
def State.streamEnable (s : State) (n : Nat) : State :=
  if (s.stream n).enabled then s.linkStatus 5
  else
    let (s, b, _) := s.tierRead (s.camTable + 1024 + 64 * n) 64
    if streamEntryBad b then s.linkStatus 1
    else
      let x : CamStream := { enabled := true, entry := b }
      let t := s.teamId x.part
      let own (a : Nat) : Bool := decide (a < 32768) && decide (s.teamOfClu (a / 128) = t)
      if !(s.port x.port).on then s.linkStatus 2
      else if 0x8000000000 < x.buf + 256 * x.units ∨ !s.granted t x.buf (256 * x.units) x.recv ∨ s.isSealed x.buf (256 * x.units) then s.linkStatus 3
      else if !own x.ancData ∨ !own x.ancFree then s.linkStatus 4
      else
        let s := (s.ancApply 0x62 x.ancData 0 0 true false).1
        let s := (s.ancApply 0x62 x.ancFree 0 0 true false).1
        ((s.setStream n x).camCredit n).linkStatus 0

/-- LINK_CMD OP 4: disable a stream (R442). BUSY stays until its frames in flight are acknowledged. -/
def State.streamDisable (s : State) (n : Nat) : State :=
  let x := s.stream n
  if !x.enabled then s.linkStatus 5
  else
    let s := s.setStream n { x with enabled := false }
    { s with link := { s.link with disabling := some n } }.settleDisable

/-- A write of LINK_CMD (Table 241). -/
def State.writeLinkCmd (s : State) (v : Word) : State :=
  let op := getF v F.LINK_CMD_OP
  let tg := getF v F.LINK_CMD_TARGET
  let s := (s.setFld R.LINK_CMD F.LINK_CMD_OP op).setFld R.LINK_CMD F.LINK_CMD_TARGET tg
  if getF v F.LINK_CMD_GO = 0 ∨ s.link.disabling.isSome then s
  else match op with
    | 1 => s.portEnable tg
    | 2 => s.portDisable tg
    | 3 => s.streamEnable tg
    | 4 => s.streamDisable tg
    | _ => s.linkStatus 1

/-- A LINK_CMD command of one OP. -/
def State.linkCmdOp (s : State) (op : Nat) (v : Word) : State :=
  if s.ready ∧ getF v F.LINK_CMD_OP = op then s.writeLinkCmd v else s

/-- PORT_ENABLE (R438). -/
def execPortEnable (v : Word) (s : State) : Host.Outcome State Fault Refusal := .next (s.linkCmdOp 1 v)
/-- PORT_DISABLE (R438). -/
def execPortDisable (v : Word) (s : State) : Host.Outcome State Fault Refusal := .next (s.linkCmdOp 2 v)
/-- STREAM_ENABLE (R439). -/
def execStreamEnable (v : Word) (s : State) : Host.Outcome State Fault Refusal := .next (s.linkCmdOp 3 v)
/-- STREAM_DISABLE (R442). -/
def execStreamDisable (v : Word) (s : State) : Host.Outcome State Fault Refusal := .next (s.linkCmdOp 4 v)

/-- CAMLEY_PORT_TRAINED (R433, R436): the lanes are up, at 400 Gb/s after a fallback (`half`), and the port sends HELLO. -/
def execCamleyPortTrained (p : Fin 16) (half : Bool) (s : State) : Host.Outcome State Fault Refusal :=
  let x := s.port p.val
  .next (if x.st = 2 then (s.setPort p.val { x with st := 3, half := half }).sendHello p.val else s)

/-! ### Receiving -/

/-- Cut COUNT Camley frames out of a pack: none when the length disagrees (R434). -/
def unpackCam : Nat → List Byte → Option (List (List Byte))
  | 0, l => if l.isEmpty then some [] else none
  | n + 1, l =>
    let k := if numAt l 1 1 = 1 then 288 else 32
    if l.length < k then none else (unpackCam n (l.drop k)).map (fun r => l.take k :: r)

/-- A big-endian number of k bytes at a place. -/
def netAt (b : List Byte) (o k : Nat) : Nat := leNat (sliceB b o k).reverse

/-- Does an Ethernet frame carry the encapsulation of a routed port p (R434): IPv6 with a UDP datagram between the port's UDP ports, whose lengths and checksum
hold? -/
def CamPort.routedOk (x : CamPort) (p : Nat) (d : List Byte) : Bool :=
  let udp := (numAt x.record 4 2 + p) % 65536
  let n := d.length - 54
  decide (54 + 8 ≤ d.length) && decide (netAt d 14 1 / 16 = 6) && decide (netAt d 20 1 = 17) && decide (netAt d 18 2 = n) && decide (netAt d 54 2 = udp) &&
    decide (netAt d 56 2 = udp) && decide (netAt d 58 2 = n) && decide (udpSum (sliceB d 22 16) (sliceB d 38 16) (d.drop 54) = 0xFFFF)

/-- The Camley frames of an Ethernet frame at port p, FCS included; none when it is discarded (R434, R436). -/
def CamPort.unpack (x : CamPort) (p : Nat) (b : List Byte) : Option (List (List Byte)) :=
  let n := b.length - 4
  let d := b.take n
  if b.length < 22 ∨ 9216 < b.length ∨ b.drop n ≠ ethFcs d then none
  else
    let ty := 256 * numAt d 12 1 + numAt d 13 1
    let pack : Option (List Byte) :=
      if x.mode = 1 ∧ ty = 0x88B5 then some (d.drop 14)
      else if x.mode = 2 ∧ ty = 0x86DD ∧ x.routedOk p d then some (d.drop 62)
      else none
    match pack with
    | none => none
    | some k =>
      let c := numAt k 0 1
      if c = 0 ∨ 31 < c ∨ numAt k 1 3 ≠ 0 ∨ (x.ver = 1 ∧ c ≠ 1) then none else unpackCam c (k.drop 4)

/-- A gap or a failed CRC (R437): one NAK with the next LSEQ expected. -/
def State.camNak (s : State) (p : Nat) : State :=
  let x := s.port p
  if x.gap ∨ x.st ≠ 4 then s else (s.setPort p { x with gap := true }).camControl p 4 x.rxSeq

/-- CAMLEY_PACK (R434, R435). -/
def execCamleyPack (p : Fin 16) (b : List Byte) (s : State) : Host.Outcome State Fault Refusal :=
  let x := s.port p.val
  .next (if x.st ≠ 3 ∧ x.st ≠ 4 then s
    else match x.unpack p.val b with
      | none => s
      | some l => l.foldl (fun s f =>
          if camCrcOk f then let x := s.port p.val; s.setPort p.val { x with rx := x.rx ++ [f] } else s.camNak p.val) s)

/-- Take the front waiting frame of a port if it has a type, noting UNLOCKED (R51). -/
def State.onFrame (s : State) (p type : Nat) (g : State → List Byte → State) : State :=
  let x := s.port p
  match x.rx with
  | [] => s
  | f :: rest => if numAt f 1 1 = type then g (s.setPort p { x with rx := rest, unlocked := (numAt f 2 1).testBit 1 }) f else s

/-- Accept a DATA or CREDIT frame in LSEQ order (R437), acknowledge it and run g; an old one is acknowledged again, a later one is a gap. -/
def State.inOrder (s : State) (p : Nat) (f : List Byte) (g : State → State) : State :=
  let x := s.port p
  let q := numAt f 0x0E 2
  if x.st ≠ 4 then s
  else if q = x.rxSeq then g ((s.setPort p { x with rxSeq := (q + 1) % 65536, gap := false }).camControl p 3 q)
  else if 32768 ≤ (q + 65536 - x.rxSeq) % 65536 then s.camControl p 3 ((x.rxSeq + 65535) % 65536)
  else s.camNak p

/-- Count a discarded frame (R440). -/
def State.camDropped (s : State) (p : Nat) : State := s.bump (R.LINK_PORT_STATUS p) F.LINK_PORT_STATUS_DROPPED 1

/-- Extend a WS32 stamp to the count nearest to the device's own (R39); of two that are equally near, the one in the device's own block of 2^32 counts
(assumption 115). -/
def extendWs (now w : Nat) : Nat :=
  let c := now / 2 ^ 32 * 2 ^ 32 + w
  if now + 2 ^ 31 < c ∧ 2 ^ 32 ≤ c then c - 2 ^ 32 else if c + 2 ^ 31 < now then c + 2 ^ 32 else c

/-- A unit reaches its stream (R440). -/
def State.camData (s : State) (p : Nat) (f : List Byte) : State :=
  let n := numAt f 0x0C 2
  let x := s.stream n
  if 4096 ≤ n ∨ !x.enabled ∨ !x.recv ∨ x.port ≠ p ∨ x.peerModule ≠ numAt f 8 2 then s.camDropped p
  else
    let u := numAt f 0x10 8
    let a := x.buf + 256 * (u % x.units)
    let m := numAt f 3 1
    let s := s.tierWrite a (f.drop 32) ((List.range 4).filterMap (fun i => if m.testBit i then some (a / 64 + i) else none))
    let due := extendWs s.time.count (numAt f 4 4)
    let late := decide (due ≤ s.time.count)
    let s := if late then s.bump (R.LINK_PORT_STATUS p) F.LINK_PORT_STATUS_LATE 1 else s
    let s := if late && !x.lateLogged then s.raise { code := 0x6301, kind := 6, src := p } else s
    s.setStream n { x with arrived := x.arrived ++ [⟨u, if late then s.time.count + 1 else due, late⟩], lateLogged := x.lateLogged || late }

/-- DATA (R440). -/
def execData (p : Fin 16) (s : State) : Host.Outcome State Fault Refusal :=
  .next (s.onFrame p.val 1 (fun s f => s.inOrder p.val f (fun s => s.camData p.val f)))

/-- CREDIT (R440): the latest UNIT received limits the sending stream. -/
def execCredit (p : Fin 16) (s : State) : Host.Outcome State Fault Refusal :=
  .next (s.onFrame p.val 2 (fun s f => s.inOrder p.val f (fun s =>
    let n := numAt f 0x0C 2
    let x := s.stream n
    if 4096 ≤ n ∨ !x.enabled ∨ x.recv ∨ x.port ≠ p.val ∨ x.peerModule ≠ numAt f 8 2 then s.camDropped p.val
    else s.setStream n { x with credit := numAt f 0x10 8 })))

/-- Retire the frames up to an LSEQ; an acknowledged unit frees its slot through ANCHOR_FREE (R437, R440, R442). -/
def State.camRetire (s : State) (p q : Nat) : State :=
  let x := s.port p
  match x.unacked.findIdx? (fun f => decide (f.lseq = q)) with
  | none => s
  | some i =>
    let out := x.unacked.take (i + 1)
    let s := s.setPort p { x with unacked := x.unacked.drop (i + 1), ackWm := s.time.count }
    let s := out.foldl (fun s f =>
      let y := s.stream f.stream
      if f.stream < 4096 ∧ (y.enabled ∨ s.link.disabling = some f.stream) then (s.ancApply 0x60 y.ancFree 1 0 true true).1 else s) s
    ((s.link.streams.filter (fun (y : Nat × CamStream) => y.2.owes && decide (y.2.port = p))).foldl (fun s y => s.camCredit y.1) s).settleDisable

/-- ACK (R437). -/
def execAck (p : Fin 16) (s : State) : Host.Outcome State Fault Refusal :=
  .next (s.onFrame p.val 3 (fun s f => s.camRetire p.val (numAt f 0x10 2)))

/-- Set RETX in a frame, mark it time-unlocked or not as the module now is (R51), and renew its CRC. -/
def retxFrame (unlocked : Bool) (f : List Byte) : List Byte :=
  let b := f.take 2 ++ leBytes 1 (numAt f 2 1 &&& 1 ||| 2 * b2n unlocked ||| 4) ++ (f.drop 3).take 0x19
  b ++ leBytes 4 (crc32c (b ++ f.drop 0x20)) ++ f.drop 0x20

/-- Resend the unacknowledged frames from place i on (R437). -/
def State.camResend (s : State) (p i : Nat) : State :=
  let x := s.port p
  let l := x.unacked.drop i
  if l.isEmpty then s
  else if l.any (fun f => decide (16 ≤ f.resends)) then s.portDown p
  else
    let l' := l.map (fun f => { f with bytes := retxFrame s.unlocked f.bytes, resends := f.resends + 1 })
    let s := s.setPort p { x with unacked := x.unacked.take i ++ l', ackWm := s.time.count }
    let s := l'.foldl (fun s f => s.camWire p f.stream f.bytes) s
    let s := s.bump (R.LINK_PORT_STATUS p) F.LINK_PORT_STATUS_RETRIES l'.length
    s.raise { code := 0x1301, kind := 6, src := p }

/-- NAK (R437). -/
def execNak (p : Fin 16) (s : State) : Host.Outcome State Fault Refusal :=
  .next (s.onFrame p.val 4 (fun s f =>
    match (s.port p.val).unacked.findIdx? (fun x => decide (x.lseq = numAt f 0x10 2)) with
    | some i => s.camResend p.val i
    | none => s))

/-- CAMLEY_RESEND_TIMEOUT (R437). -/
def execCamleyResendTimeout (p : Fin 16) (s : State) : Host.Outcome State Fault Refusal :=
  let x := s.port p.val
  .next (if x.st = 4 ∧ !x.unacked.isEmpty ∧ x.ackWm + x.retx ≤ s.time.count then s.camResend p.val 0 else s)

/-- Leave a port in hello with a REASON (R436). -/
def State.helloFails (s : State) (p reason : Nat) : State :=
  (s.setPort p { s.port p with reason := reason, heard := true }).raise { code := 0x6303, kind := 6, src := p }

/-- HELLO (R436): both sides use the lower version; the receiving streams of a port that comes up give their credit. -/
def execHello (p : Fin 16) (s : State) : Host.Outcome State Fault Refusal :=
  .next (s.onFrame p.val 5 (fun s f =>
    let x := s.port p.val
    if x.st ≠ 3 then s
    else
      let v := min x.maxVer (numAt f 0 1)
      if numAt f 8 2 ≠ x.peer then s.helloFails p.val 2
      else if v = 0 ∨ (x.mode = 2 ∧ v = 1) then s.helloFails p.val 1
      else if x.mode = 2 ∧ !(numAt f 0x10 8).testBit 8 then s.helloFails p.val 3
      else
        let s := s.setPort p.val { x with st := 4, ver := v, heard := true, reason := 0 }
        (s.link.streams.filter (fun (y : Nat × CamStream) => decide (y.2.port = p.val))).foldl (fun s y => s.camCredit y.1) s))

/-! ### Sending and delivering units (R440, R441) -/

/-- May a sending stream send its next unit now? -/
def State.unitReady (s : State) (x : CamStream) : Bool :=
  let used := if x.paceWm = s.time.count then x.sentWm else 0
  x.enabled && !x.recv && decide ((s.port x.port).st = 4) && decide (x.next < (s.anchor x.ancData).toNat) && decide (x.next < x.credit) &&
    decide ((s.port x.port).unacked.length < 4096) && (!x.gs || decide (used + 256 ≤ x.rate)) && !s.ancPois.contains x.ancData

/-- UNIT_SEND (R440, R441): a best-effort stream waits while a GS stream of its port has a unit ready. -/
def execUnitSend (n : Fin 4096) (s : State) : Host.Outcome State Fault Refusal :=
  let x := s.stream n.val
  let first := !x.gs && s.link.streams.any (fun (y : Nat × CamStream) => decide (y.2.port = x.port) && y.2.gs && s.unitReady y.2)
  .next (
    if !s.unitReady x || first then s
    else
      let a := x.buf + 256 * (x.next % x.units)
      let (s, b, bad) := s.tierRead a 256
      let m := ((List.range 4).filter (fun i => bad.contains (a / 64 + i))).foldl (fun m i => m + 2 ^ i) 0
      let h := s.camHdr x.port 1
      let s := s.setStream n.val { x with next := x.next + 1, sentWm := (if x.paceWm = s.time.count then x.sentWm else 0) + 256, paceWm := s.time.count }
      s.camSeq x.port n.val { h with flags := h.flags + b2n x.gs, poison := m, due := (s.time.count + x.lead) % 2 ^ 32, stream := x.peerStream, unit := x.next } b)

/-- UNIT_DELIVERY (R440): at its waymark the next unit in order raises ANCHOR_DATA. -/
def execUnitDelivery (n : Fin 4096) (s : State) : Host.Outcome State Fault Refusal :=
  let x := s.stream n.val
  .next (match x.arrived.find? (fun u => decide (u.n = x.next)) with
    | some u =>
      if x.enabled ∧ x.recv ∧ u.due ≤ s.time.count then
        (((s.setStream n.val { x with next := x.next + 1, arrived := x.arrived.filter (fun y => decide (y.n ≠ u.n)) }).ancApply 0x60 x.ancData 1 0 true true)).1
      else s
    | none => s)

/-- Streams whose anchors a reset poisons are disabled (R442). -/
def State.disableStreamsOf (s : State) (g : Nat) : State :=
  { s with link := { s.link with streams := s.link.streams.map (fun (x : Nat × CamStream) =>
      if x.2.ancData / 128 = g ∨ x.2.ancFree / 128 = g then (x.1, { x.2 with enabled := false }) else x) } }

end Sys2Proof.Machine
end

