-- ==== Sys2Proof/Machine/Crypto.lean ====
section
/-! DEFINITION. The algorithms that the root of trust names: SHA-384 (FIPS 180-4), HMAC and HKDF (RFC 5869), AES-256-GCM (FIPS 197, SP 800-38D) and ECDSA and
ECDH on P-384 (FIPS 186-5). All byte strings are big-endian as R57 and R452 say. -/

namespace Sys2Proof.Machine

/-! ### SHA-384 -/

/-- The round constants of SHA-512, in four parts. -/
def shaK0 : List Word :=
  [0x428A2F98D728AE22, 0x7137449123EF65CD, 0xB5C0FBCFEC4D3B2F, 0xE9B5DBA58189DBBC, 0x3956C25BF348B538,
   0x59F111F1B605D019, 0x923F82A4AF194F9B, 0xAB1C5ED5DA6D8118, 0xD807AA98A3030242, 0x12835B0145706FBE,
   0x243185BE4EE4B28C, 0x550C7DC3D5FFB4E2, 0x72BE5D74F27B896F, 0x80DEB1FE3B1696B1, 0x9BDC06A725C71235,
   0xC19BF174CF692694, 0xE49B69C19EF14AD2, 0xEFBE4786384F25E3, 0x0FC19DC68B8CD5B5, 0x240CA1CC77AC9C65]

/-- Round constants, further part. -/
def shaK1 : List Word :=
  [0x2DE92C6F592B0275, 0x4A7484AA6EA6E483, 0x5CB0A9DCBD41FBD4, 0x76F988DA831153B5, 0x983E5152EE66DFAB,
   0xA831C66D2DB43210, 0xB00327C898FB213F, 0xBF597FC7BEEF0EE4, 0xC6E00BF33DA88FC2, 0xD5A79147930AA725,
   0x06CA6351E003826F, 0x142929670A0E6E70, 0x27B70A8546D22FFC, 0x2E1B21385C26C926, 0x4D2C6DFC5AC42AED,
   0x53380D139D95B3DF, 0x650A73548BAF63DE, 0x766A0ABB3C77B2A8, 0x81C2C92E47EDAEE6, 0x92722C851482353B]

/-- Round constants, further part. -/
def shaK2 : List Word :=
  [0xA2BFE8A14CF10364, 0xA81A664BBC423001, 0xC24B8B70D0F89791, 0xC76C51A30654BE30, 0xD192E819D6EF5218,
   0xD69906245565A910, 0xF40E35855771202A, 0x106AA07032BBD1B8, 0x19A4C116B8D2D0C8, 0x1E376C085141AB53,
   0x2748774CDF8EEB99, 0x34B0BCB5E19B48A8, 0x391C0CB3C5C95A63, 0x4ED8AA4AE3418ACB, 0x5B9CCA4F7763E373,
   0x682E6FF3D6B2B8A3, 0x748F82EE5DEFB2FC, 0x78A5636F43172F60, 0x84C87814A1F0AB72, 0x8CC702081A6439EC]

/-- Round constants, further part. -/
def shaK3 : List Word :=
  [0x90BEFFFA23631E28, 0xA4506CEBDE82BDE9, 0xBEF9A3F7B2C67915, 0xC67178F2E372532B, 0xCA273ECEEA26619C,
   0xD186B8C721C0C207, 0xEADA7DD6CDE0EB1E, 0xF57D4F7FEE6ED178, 0x06F067AA72176FBA, 0x0A637DC5A2C898A6,
   0x113F9804BEF90DAE, 0x1B710B35131C471B, 0x28DB77F523047D84, 0x32CAAB7B40C72493, 0x3C9EBE0A15C9BEBC,
   0x431D67C49C100D4C, 0x4CC5D4BECB3E42B6, 0x597F299CFC657E2A, 0x5FCB6FAB3AD6FAEC, 0x6C44198C4A475817]

/-- All 80 round constants. -/
def shaK : List Word := shaK0 ++ shaK1 ++ shaK2 ++ shaK3

/-- The eight working variables. -/
structure ShaH where
  a : Word
  b : Word
  c : Word
  d : Word
  e : Word
  f : Word
  g : Word
  h : Word
  deriving DecidableEq, Repr

/-- The initial value of SHA-384. -/
def shaInit : ShaH :=
  ⟨0xCBBB9D5DC1059ED8, 0x629A292A367CD507, 0x9159015A3070DD17, 0x152FECD8F70E5939, 0x67332667FFC00B31, 0x8EB44A8768581511, 0xDB0C2E0D64F98FA7, 0x47B5481DBEFA4FA4⟩

def rotr (x : Word) (n : Nat) : Word := x.rotateRight n

/-- The message schedule: the newest word first. -/
def shaSched : Nat → List Word → List Word
  | 0, l => l
  | n + 1, l =>
    let w2 := nthD l 1 0
    let w7 := nthD l 6 0
    let w15 := nthD l 14 0
    let w16 := nthD l 15 0
    let s0 := rotr w15 1 ^^^ rotr w15 8 ^^^ (w15 >>> 7)
    let s1 := rotr w2 19 ^^^ rotr w2 61 ^^^ (w2 >>> 6)
    shaSched n ((w16 + s0 + w7 + s1) :: l)

/-- One round. -/
def ShaH.round (x : ShaH) (k w : Word) : ShaH :=
  let s1 := rotr x.e 14 ^^^ rotr x.e 18 ^^^ rotr x.e 41
  let ch := (x.e &&& x.f) ^^^ (~~~x.e &&& x.g)
  let t1 := x.h + s1 + ch + k + w
  let s0 := rotr x.a 28 ^^^ rotr x.a 34 ^^^ rotr x.a 39
  let mj := (x.a &&& x.b) ^^^ (x.a &&& x.c) ^^^ (x.b &&& x.c)
  ⟨t1 + (s0 + mj), x.a, x.b, x.c, x.d + t1, x.e, x.f, x.g⟩

/-- Big-endian number of a byte list. -/
def beNat (l : List Byte) : Nat := l.foldl (fun n b => 256 * n + b.toNat) 0

/-- The n big-endian bytes of a number. -/
def beBytes (n v : Nat) : List Byte := (leBytes n v).reverse

/-- One 128-byte block. -/
def ShaH.block (x : ShaH) (b : List Byte) : ShaH :=
  let ws := (List.range 16).map (fun i => BitVec.ofNat 64 (beNat (sliceB b (8 * i) 8)))
  let sched := (shaSched 64 ws.reverse).reverse
  let y := (shaK.zip sched).foldl (fun (y : ShaH) p => y.round p.1 p.2) x
  ⟨x.a + y.a, x.b + y.b, x.c + y.c, x.d + y.d, x.e + y.e, x.f + y.f, x.g + y.g, x.h + y.h⟩

/-- SHA-384 of a byte string: 48 bytes. -/
def sha384 (m : List Byte) : List Byte :=
  let n := m.length
  let p := m ++ [0x80] ++ List.replicate ((239 - n % 128) % 128) 0 ++ beBytes 16 (8 * n)
  let h := (blocksOf (p.length / 128 + 1) 128 p).foldl ShaH.block shaInit
  [h.a, h.b, h.c, h.d, h.e, h.f].flatMap (fun w => beBytes 8 w.toNat)

/-- HMAC-SHA-384. -/
def hmac384 (key m : List Byte) : List Byte :=
  let k := if 128 < key.length then sha384 key else key
  let k := k ++ List.replicate (128 - k.length) 0
  sha384 (k.map (· ^^^ 0x5C) ++ sha384 (k.map (· ^^^ 0x36) ++ m))

/-- HKDF-SHA-384 (RFC 5869) for at most 48 bytes of output. -/
def hkdf384 (salt ikm info : List Byte) (len : Nat) : List Byte := (hmac384 (hmac384 salt ikm) (info ++ [1])).take len

/-! ### AES-256-GCM -/

/-- Multiplication by x in the field of AES. -/
def xtime (b : Byte) : Byte := (b <<< 1) ^^^ (if b.msb then 0x1B else 0)

/-- Multiplication in the field of AES; fuel counts bits. -/
def gmul : Nat → Byte → Byte → Byte
  | 0, _, _ => 0
  | n + 1, a, b => (if b.getLsbD 0 then a else 0) ^^^ gmul n (xtime a) (b >>> 1)

/-- Power in the field of AES. -/
def gpow : Nat → Byte → Byte
  | 0, _ => 1
  | n + 1, a => gmul 8 a (gpow n a)

/-- The S-box: the inverse, then the affine map. -/
def sboxOf (b : Byte) : Byte :=
  let i := gpow 254 b
  i ^^^ i.rotateLeft 1 ^^^ i.rotateLeft 2 ^^^ i.rotateLeft 3 ^^^ i.rotateLeft 4 ^^^ 0x63

/-- The S-box as a table. -/
def sboxTable : List Byte := (List.range 256).map (fun i => sboxOf (BitVec.ofNat 8 i))

def sbox (b : Byte) : Byte := nthD sboxTable b.toNat 0

/-- The key schedule of AES-256, newest word first: 60 words of four bytes. -/
def aesSched : Nat → Nat → Byte → List (List Byte) → List (List Byte)
  | 0, _, _, l => l
  | n + 1, i, rc, l =>
    let t := nthD l 0 []
    let w := nthD l 7 []
    let (t, rc') := if i % 8 = 0 then
        (match (t.drop 1 ++ t.take 1).map sbox with
          | a :: r => ((a ^^^ rc) :: r, xtime rc)
          | [] => ([], rc))
      else if i % 8 = 4 then (t.map sbox, rc)
      else (t, rc)
    aesSched n (i + 1) rc' ((List.zipWith (· ^^^ ·) w t) :: l)

/-- The 15 round keys. -/
def aesKeys (key : List Byte) : List (List Byte) :=
  let ws := (aesSched 52 8 1 (blocksOf 9 4 key).reverse).reverse
  (blocksOf 16 4 ws).map List.flatten

/-- ShiftRows on 16 bytes in column order. -/
def shiftRows (b : List Byte) : List Byte := (List.range 16).map (fun i => nthD b ((i + 4 * (i % 4)) % 16) 0)

/-- MixColumns on one column. -/
def mixColumn : List Byte → List Byte
  | [a, b, c, d] =>
    [xtime a ^^^ (xtime b ^^^ b) ^^^ c ^^^ d, a ^^^ xtime b ^^^ (xtime c ^^^ c) ^^^ d, a ^^^ b ^^^ xtime c ^^^ (xtime d ^^^ d), (xtime a ^^^ a) ^^^ b ^^^ c ^^^ xtime d]
  | l => l

def xorB (a b : List Byte) : List Byte := List.zipWith (· ^^^ ·) a b

/-- The rounds after the first key addition. -/
def aesRounds : List (List Byte) → List Byte → List Byte
  | [], b => b
  | [k], b => xorB (shiftRows (b.map sbox)) k
  | k :: ks, b => aesRounds ks (xorB ((blocksOf 5 4 (shiftRows (b.map sbox))).flatMap mixColumn) k)

/-- AES-256 on one block. -/
def aes256 (key b : List Byte) : List Byte :=
  match aesKeys key with
  | k :: ks => aesRounds ks (xorB b k)
  | [] => b

/-- Multiplication in GF(2^128) of GCM, bit 0 of the standard the most significant; fuel counts bits. -/
def gcmMul : Nat → Nat → Nat → Nat → Nat
  | 0, _, _, z => z
  | n + 1, x, v, z => gcmMul n x ((v / 2) ^^^ (if v % 2 = 1 then 0xE1 * 2 ^ 120 else 0)) (if x.testBit n then z ^^^ v else z)

/-- GHASH. -/
def ghash (h : Nat) (l : List Byte) : Nat := (blocksOf (l.length / 16 + 1) 16 l).foldl (fun y b => gcmMul 128 (y ^^^ beNat b) h 0) 0

/-- A byte string zero-padded to blocks of 16. -/
def pad16 (l : List Byte) : List Byte := l ++ List.replicate ((16 - l.length % 16) % 16) 0

/-- AES-256-GCM decryption with a 12-byte nonce: the plaintext when the tag agrees. -/
def gcmOpen (key iv aad ct tag : List Byte) : Option (List Byte) :=
  let h := beNat (aes256 key (List.replicate 16 0))
  let ctr (i : Nat) : List Byte := iv ++ beBytes 4 i
  let s := ghash h (pad16 aad ++ pad16 ct ++ beBytes 8 (8 * aad.length) ++ beBytes 8 (8 * ct.length))
  let t := xorB (beBytes 16 s) (aes256 key (ctr 1))
  if t = tag then
    some ((blocksOf (ct.length / 16 + 1) 16 ct).zipIdx.flatMap (fun (x : List Byte × Nat) => xorB x.1 (aes256 key (ctr (x.2 + 2)))))
  else none

/-! ### P-384 -/

def p384p : Nat := 2 ^ 384 - 2 ^ 128 - 2 ^ 96 + 2 ^ 32 - 1
def p384n : Nat := 0xFFFFFFFFFFFFFFFFFFFFFFFFFFFFFFFFFFFFFFFFFFFFFFFFC7634D81F4372DDF581A0DB248B0A77AECEC196ACCC52973
def p384b : Nat := 0xB3312FA7E23EE7E4988E056BE3F82D19181D9C6EFE8141120314088F5013875AC656398D8A2ED19D2A85C8EDD3EC2AEF
def p384gx : Nat := 0xAA87CA22BE8B05378EB1C71EF320AD746E1D3B628BA79B9859F741E082542A385502F25DBF55296C3A545E3872760AB7
def p384gy : Nat := 0x3617DE4A96262C6F5D9E98BF9292DC29F8F41DBD289A147CE9DA3113B5F0B8C00A60B1CE1D7E819D7A431D7C90EA0E5F

/-- a^e modulo m; fuel counts the bits of e. -/
def powMod (m : Nat) : Nat → Nat → Nat → Nat
  | 0, _, _ => 1
  | n + 1, a, e => if e % 2 = 1 then a * powMod m n (a * a % m) (e / 2) % m else powMod m n (a * a % m) (e / 2)

/-- Inverse modulo a prime of 384 bits. -/
def invMod (m a : Nat) : Nat := powMod m 384 (a % m) (m - 2)

/-- A point in Jacobian coordinates; z = 0 is the neutral point. -/
structure JPoint where
  x : Nat
  y : Nat
  z : Nat
  deriving DecidableEq, Repr

def subP (a b : Nat) : Nat := (a + p384p - b % p384p) % p384p
def mulP (a b : Nat) : Nat := a * b % p384p

def JPoint.zero : JPoint := ⟨1, 1, 0⟩

/-- Doubling, with a = −3. -/
def JPoint.double (p : JPoint) : JPoint :=
  if p.z = 0 ∨ p.y = 0 then .zero else
  let d := mulP p.z p.z
  let g := mulP p.y p.y
  let b := mulP p.x g
  let al := mulP 3 (mulP (subP p.x d) (p.x + d))
  let x := subP (mulP al al) (8 * b)
  ⟨x, subP (mulP al (subP (4 * b) x)) (8 * mulP g g), mulP 2 (mulP p.y p.z)⟩

/-- Addition. -/
def JPoint.add (p q : JPoint) : JPoint :=
  if p.z = 0 then q else if q.z = 0 then p else
  let z1 := mulP p.z p.z
  let z2 := mulP q.z q.z
  let u1 := mulP p.x z2
  let u2 := mulP q.x z1
  let s1 := mulP p.y (mulP q.z z2)
  let s2 := mulP q.y (mulP p.z z1)
  if u1 = u2 then (if s1 = s2 then p.double else .zero)
  else
    let h := subP u2 u1
    let r := subP s2 s1
    let h2 := mulP h h
    let h3 := mulP h h2
    let v := mulP u1 h2
    let x := subP (subP (mulP r r) h3) (2 * v)
    ⟨x, subP (mulP r (subP v x)) (mulP s1 h3), mulP h (mulP p.z q.z)⟩

/-- Scalar multiple; fuel counts bits. -/
def JPoint.mul : Nat → Nat → JPoint → JPoint
  | 0, _, _ => .zero
  | n + 1, k, p => if k % 2 = 1 then p.add (JPoint.mul n (k / 2) p.double) else JPoint.mul n (k / 2) p.double

/-- Affine coordinates, none for the neutral point. -/
def JPoint.affine (p : JPoint) : Option (Nat × Nat) :=
  if p.z = 0 then none else
  let i := invMod p384p p.z
  some (mulP p.x (mulP i i), mulP p.y (mulP i (mulP i i)))

def p384g : JPoint := ⟨p384gx, p384gy, 1⟩

/-- A SEC1 uncompressed point that lies on the curve. -/
def sec1Point (b : List Byte) : Option JPoint :=
  let x := beNat (sliceB b 1 48)
  let y := beNat (sliceB b 49 48)
  if b.length = 97 ∧ b.take 1 = [4] ∧ x < p384p ∧ y < p384p ∧ mulP y y = (mulP x (subP (mulP x x) 3) + p384b) % p384p then some ⟨x, y, 1⟩ else none

/-- The SEC1 form of a point. -/
def sec1Bytes (p : JPoint) : List Byte := match p.affine with
  | some (x, y) => 4 :: (beBytes 48 x ++ beBytes 48 y)
  | none => [0]

/-- Does (r, s) sign a message under a public key with SHA-384 (FIPS 186-5)? -/
def ecdsaVerify (pub m rb sb : List Byte) : Bool :=
  match sec1Point pub with
  | none => false
  | some q =>
    let r := beNat rb
    let s := beNat sb
    if r = 0 ∨ p384n ≤ r ∨ s = 0 ∨ p384n ≤ s then false
    else
      let w := invMod p384n s
      let e := beNat (sha384 m)
      match ((JPoint.mul 384 (e * w % p384n) p384g).add (JPoint.mul 384 (r * w % p384n) q)).affine with
      | some (x, _) => decide (x % p384n = r)
      | none => false

/-- A signature with private scalar d and per-message scalar k: r and s. -/
def ecdsaSign (d k : Nat) (m : List Byte) : List Byte × List Byte :=
  match (JPoint.mul 384 k p384g).affine with
  | some (x, _) =>
    let r := x % p384n
    (beBytes 48 r, beBytes 48 (invMod p384n k * (beNat (sha384 m) + r * d) % p384n))
  | none => ([], [])

/-- The shared x-coordinate of ECDH, if the point is on the curve. -/
def ecdhX (d : Nat) (pub : List Byte) : Option (List Byte) :=
  match sec1Point pub with
  | none => none
  | some q => match (JPoint.mul 384 d q).affine with
    | some (x, _) => some (beBytes 48 x)
    | none => none

end Sys2Proof.Machine
end

