-- ==== Sys2Proof/Machine/Power.lean ====
section
/-! DEFINITION. Power, supply disturbances, capping, hold-up energy and PLDM (file 18, R514, R523). Measured voltages, temperatures and powers that no command
carries are free values (assumption 3). -/

namespace Sys2Proof.Machine

/-- Supply state (Table 281): 0 NORMAL, 1 LOW, 2 BROWNOUT, 3 STOP. -/
def State.supply (s : State) : Nat := s.fld R.PWR_STATE F.PWR_STATE_SUPPLY

/-- Class of a main-input sample in mV (Table 278). -/
def supplyClass (mv : Nat) : Nat := if 40000 ≤ mv ∧ mv ≤ 60000 then 0 else if 38000 ≤ mv ∧ mv < 40000 then 1 else 2

/-- A 10-µs sample of the main input (R493). -/
def supplySample (mv : Nat) (s0 : State) : State :=
  if !s0.pwr.aux then s0 else
  let s := { s0 with pwr := { s0.pwr with mainMv := mv } }
  let old := s.supply
  let new := supplyClass mv
  if old = 3 ∨ old = new then s
  else
    let s := s.setFld R.PWR_STATE F.PWR_STATE_SUPPLY new
    let s := if new = 0 then s else s.bump R.PWR_STATE F.PWR_STATE_LOW_EVENTS 1
    if new = 1 then s.raise { code := 0x6600 } else s

/-- SUPPLY_SAMPLE (R493). -/
def execSupplySample (mv : Nat) (s : State) : Host.Outcome State Fault Refusal := .next (supplySample mv s)

/-- An ordered stop (R494). -/
def State.orderedStop (s : State) : State := (s.setFld R.PWR_STATE F.PWR_STATE_SUPPLY 3).fatal { code := 0x5600 }

/-- BROWNOUT_TIMEOUT (R493): 10 ms below 38 V. -/
def execBrownoutTimeout (s : State) : Host.Outcome State Fault Refusal :=
  .next (if s.pwr.aux ∧ s.supply = 2 ∧ s.pwr.mainMv < 38000 then s.orderedStop else s)

/-- UNDERVOLTAGE_STOP (R493): 100 µs below 34 V. -/
def execUndervoltageStop (s : State) : Host.Outcome State Fault Refusal :=
  .next (if s.pwr.aux ∧ s.supply = 2 ∧ s.pwr.mainMv < 34000 then s.orderedStop else s)

/-- OVERVOLTAGE_STOP (R493): 1 ms above 60 V. -/
def execOvervoltageStop (s : State) : Host.Outcome State Fault Refusal :=
  .next (if s.pwr.aux ∧ s.supply = 2 ∧ 60000 < s.pwr.mainMv then s.orderedStop else s)

/-- AUX_INPUT_LOW (R496). -/
def execAuxInputLow (s : State) : Host.Outcome State Fault Refusal :=
  .next (if s.pwr.aux ∧ s.supply ≠ 3 then s.orderedStop else s)

/-! ### Droop, capping and heat -/

/-- CORE_DROOP (R497): cycles of the die stretch until the voltage recovers. -/
def execCoreDroop (d : Fin 8) (s : State) : Host.Outcome State Fault Refusal :=
  .next { s with pwr := { s.pwr with stretching := s.pwr.stretching.set d.val true, stretched := s.pwr.stretched.set d.val true } }

/-- DROOP_RECOVERED (R497). -/
def execDroopRecovered (d : Fin 8) (s : State) : Host.Outcome State Fault Refusal :=
  .next { s with pwr := { s.pwr with stretching := s.pwr.stretching.set d.val false } }

/-- CORE_UNDERVOLT (R498). -/
def execCoreUndervolt (d : Fin 8) (s : State) : Host.Outcome State Fault Refusal :=
  .next (if s.stage = 8 ∨ s.supply = 3 then s else s.fatal { code := 0x5601, kind := 3, src := d.val })

/-- CAP_STEP (R499): the common target moves one step of 8 MHz toward what the cap allows at an average power of w watts. -/
def capStep (w : Nat) (s : State) : State :=
  if s.supply = 3 then s else
  let s := s.setFld R.PWR_INPUT F.PWR_INPUT_POWER_W (min w 65535)
  let cap := s.fld R.PWR_INPUT F.PWR_INPUT_CAP_W
  let t := s.pwr.target
  let t' := if cap < w then max 1440 (t - 8) else if w < cap then min 1600 (t + 8) else t
  let s := { s with pwr := { s.pwr with target := t' } }
  if t' < 1600 ∧ !s.pwr.capLogged then { s with pwr := { s.pwr with capLogged := true } }.raise { code := 0x6601 } else s

/-- CAP_STEP. -/
def execCapStep (w : Nat) (s : State) : Host.Outcome State Fault Refusal := .next (capStep w s)

/-- Fabric-clock target of a die (R499, R500, R523). -/
def Pwr.targetOf (p : Pwr) (d : Nat) : Nat := if nthD p.hot d false ∨ nthD p.hotStack d false then 1440 else p.target

/-- Is a die limited (PWR_STATE.THERMAL)? -/
def Pwr.thermal (p : Pwr) : Bool := p.hot.any id || p.hotStack.any id

/-- THERMAL_LIMIT (R500, R523): of the die's junction, or of its stack. -/
def execThermalLimit (d : Fin 8) (hbm : Bool) (s : State) : Host.Outcome State Fault Refusal :=
  .next (
    if s.supply = 3 then s
    else if hbm then
      (if nthD s.pwr.hotStack d.val false then s
       else { s with pwr := { s.pwr with hotStack := s.pwr.hotStack.set d.val true } }.raise { code := 0x6602, kind := 4, src := d.val })
    else if nthD s.pwr.hot d.val false then s
    else { s with pwr := { s.pwr with hot := s.pwr.hot.set d.val true } }.raise { code := 0x6602, kind := 3, src := d.val })

/-- THERMAL_LIMIT_END (R500, R523). -/
def execThermalLimitEnd (d : Fin 8) (hbm : Bool) (s : State) : Host.Outcome State Fault Refusal :=
  .next { s with pwr := if hbm then { s.pwr with hotStack := s.pwr.hotStack.set d.val false } else { s.pwr with hot := s.pwr.hot.set d.val false } }

/-- THERMAL_TRIP (R500, R514, R523): a die, the hub (d = 8) or a stack. The compute dies and stacks are not at work in the safe state and without the main input;
the hub's trip holds in every state. -/
def execThermalTrip (d : Fin 9) (hbm : Bool) (s : State) : Host.Outcome State Fault Refusal :=
  .next (
    let hub := decide (d.val = 8) && !hbm
    if !s.pwr.aux ∨ (hbm ∧ d.val = 8) ∨ (!hub ∧ (s.stage = 8 ∨ s.supply = 3)) then s
    else
      let k : Nat × Nat := if hbm then (4, d.val) else if hub then (0, 0) else (3, d.val)
      ({ s with pwr := { s.pwr with trip := true } }).fatal { code := 0x5602, kind := k.1, src := k.2 })

/-! ### Hold-up energy (R503, R504) -/

/-- Measure the bank voltage: PWR_HOLDUP shows it, in 10 mV, and the energy. -/
def State.measureBank (s : State) : State × Nat :=
  let v := (Config.freeWord s.draws).toNat % 65536
  let c := s.fld R.PWR_HOLDUP_CFG F.PWR_HOLDUP_CFG_CAP_MF
  let s := { s with draws := s.draws + 1 }
  let s := s.setFld R.PWR_HOLDUP F.PWR_HOLDUP_BANK_10MV v
  (s.setFld R.PWR_HOLDUP F.PWR_HOLDUP_AVAIL_MJ (min 65535 (c * (v * v - 810000) / 20000)), v)

/-- Does a bank of c mF at v × 10 mV cover an energy in mJ (R503)? -/
def covers (c v mj : Nat) : Bool := decide (c ≠ 0) && decide (20000 * mj ≤ c * (v * v - 810000))

/-- Measure the bank before a store of mj millijoules: may it start? A refusal logs HOLDUP_LOW at most once per pitch (R504). -/
def State.holdUp (s : State) (mj : Nat) : State × Bool :=
  let (s, v) := s.measureBank
  if covers (s.fld R.PWR_HOLDUP_CFG F.PWR_HOLDUP_CFG_CAP_MF) v mj then (s.setFld R.PWR_HOLDUP F.PWR_HOLDUP_NV_LAST 1, true)
  else
    let s := s.setFld R.PWR_HOLDUP F.PWR_HOLDUP_NV_LAST 2
    (if s.pwr.holdLogged then s else { s with pwr := { s.pwr with holdLogged := true } }.raise { code := 0x6603 }, false)

/-- A list with its elements from a on replaced by others, lengthened by a filler to reach them. -/
def overlay {α : Type} (fill : α) (l : List α) (a : Nat) (b : List α) : List α :=
  l.take a ++ List.replicate (a - l.length) fill ++ b ++ l.drop (a + b.length)

/-- A 64-KiB block of an image slot programmed; flash that nothing has written holds 0xFF (assumption 121). -/
def Flash.program (f : Flash) (image blk : Nat) (bytes : List Byte) : Flash :=
  { f with images := f.images.set image (overlay 0xFF (nthD f.images image []) (65536 * blk) (overlay 0xFF (bytes.take 65536) 65536 [])) }

/-- What a store writes to flash. -/
def Flash.store (f : Flash) : NvItem → Flash
  | .log r => { f with logs := f.logs ++ [r] }
  | .retire k true => { f with retired := insNat k f.retired }
  | .retire k false => { f with retired := f.retired.filter (· != k) }
  | .block i k b => f.program i k b

/-- Energy of a store in mJ (Table 279). -/
def NvItem.energy : NvItem → Nat
  | .block .. => 4000
  | _ => 1200

/-- Is a store a log commit, which a refusal leaves pending (R504)? -/
def NvItem.commit : NvItem → Bool
  | .block .. => false
  | _ => true

/-- Is a fuse program or a key write of the root of trust in progress? -/
def Sec.storing (x : Sec) : Bool := match x.run with
  | some r => (match r.work with
    | .fuse .. | .key .. => true
    | _ => false)
  | none => false

/-- Remove the first element that a predicate selects. -/
def dropFirst {α : Type} (p : α → Bool) : List α → List α
  | [] => []
  | x :: l => if p x then l else x :: dropFirst p l

/-- Mark the first store of its turn as refused. -/
def refuseFirst : List NvJob → List NvJob
  | [] => []
  | x :: l => if x.refused then x :: refuseFirst l else { x with refused := true } :: l

/-- The next store in turn (R503, R504): a log commit behind a pending one waits with it; a refused firmware block is not written. -/
def State.nvStore (s : State) : State :=
  match s.pwr.nv.find? (fun j => !j.refused) with
  | none => s
  | some j =>
    if j.item.commit && s.pwr.nv.any (·.refused) then { s with pwr := { s.pwr with nv := refuseFirst s.pwr.nv } }
    else
      let (s, ok) := s.holdUp j.item.energy
      let rest := dropFirst (fun j => !j.refused) s.pwr.nv
      if ok then { s with flash := s.flash.store j.item, pwr := { s.pwr with nv := rest } }
      else { s with pwr := { s.pwr with nv := if j.item.commit then refuseFirst s.pwr.nv else rest } }

/-- Every store requested so far has its turn, before one that is requested now (R504). -/
def State.storesAhead (s : State) : State := s.pwr.nv.foldl (fun s _ => s.nvStore) s

/-- NV_STORE (R503, R504): the next store in turn, while the root of trust runs none; `blk` is a firmware block program that base-camp firmware requests with it. -/
def execNvStore (s : State) (blk : Option FlashBlock := none) : Host.Outcome State Fault Refusal :=
  .next (if !s.pwr.aux then s
    else
      let s := match blk with
        | some x => { s with pwr := { s.pwr with nv := s.pwr.nv ++ [{ item := .block x.image.val x.block.val x.bytes }] } }
        | none => s
      if s.sec.storing then s else s.nvStore)

/-- The oldest pending log commit is tried again (R504). -/
def State.nvRetry (s : State) : State :=
  match s.pwr.nv.find? (·.refused) with
  | none => s
  | some j =>
    let (s, ok) := s.holdUp 1200
    if ok then { s with flash := s.flash.store j.item, pwr := { s.pwr with nv := dropFirst (·.refused) s.pwr.nv } } else s

/-- NV_STORE_RETRY. -/
def execNvStoreRetry (s : State) : Host.Outcome State Fault Refusal := .next (if s.pwr.aux ∧ !s.sec.storing then s.nvRetry else s)

/-! ### PLDM (R505) -/

/-- Identifiers of Table 280 whose readings no command carries. -/
def freeSensors : List Nat := [2, 4, 6, 10, 11, 12, 13, 14, 15, 16, 17, 18, 20, 21, 22, 23, 24, 25, 26, 27]

/-- The 1-ms refresh of the sensors. -/
def State.refreshSensors (s : State) : State :=
  let (s, v) := s.measureBank
  let m := freeSensors.foldl (fun (m : SMap Nat × Nat) i => (SMap.ins i ((Config.freeWord m.2).toNat % 65536) m.1, m.2 + 1)) (s.pwr.sensors, s.draws)
  let m' := SMap.ins 1 (s.pwr.mainMv / 10) (SMap.ins 3 (s.fld R.PWR_INPUT F.PWR_INPUT_POWER_W) (SMap.ins 5 v m.1))
  let s := { s with draws := m.2, pwr := { s.pwr with sensors := m' } }
  s.setFld R.PWR_INPUT F.PWR_INPUT_AUX_10MV (SMap.get 0 m' 4)

/-- SENSOR_REFRESH. -/
def execSensorRefresh (s : State) : Host.Outcome State Fault Refusal := .next (if s.pwr.aux then s.refreshSensors else s)

/-- The management controller answers a PLDM request. -/
def State.pldmSay (s : State) (a : PldmAnswer) : State := { s with pwr := { s.pwr with pldm := a :: s.pwr.pldm } }

/-- Answer of a request for a value of Table 280: a sensor as last refreshed, the effecter's cap in force, or an error for an ID that names neither. -/
def State.pldmValue (s : State) (id : Nat) : Option Nat :=
  if id = 1 ∨ id = 3 ∨ id = 5 ∨ freeSensors.contains id then some (SMap.get 0 s.pwr.sensors id)
  else if id = 30 then some (s.fld R.PWR_INPUT F.PWR_INPUT_CAP_W)
  else none

/-- PLDM_SENSOR_READ: a value of Table 280 (R505), or record n of the flash log (R360). -/
def execPldmSensorRead (q : PldmReq) (s : State) : Host.Outcome State Fault Refusal :=
  .next (if !s.pwr.aux then s
    else match q with
      | .value id => s.pldmSay (.value id (s.pldmValue id))
      | .flashLog n => s.pldmSay (.record n s.flash.logs[n]?))

/-- SET_NUMERIC_EFFECTER_VALUE: the power cap. -/
def execSetNumericEffecterValue (id v : Nat) (s : State) : Host.Outcome State Fault Refusal :=
  .next (
    if !s.pwr.aux then s
    else if id = 30 ∧ 2900 ≤ v ∧ v ≤ 3600 then (s.pldmSay (.value id (some v))).setFld R.PWR_INPUT F.PWR_INPUT_CAP_W v
    else s.pldmSay (.value id none))

/-! ### Status balls (R514) -/

/-- SAFE_N is low. -/
def State.safeLow (s : State) : Bool := decide (s.stage = 8) || !s.boot.ready

/-- THERMTRIP_N is low. -/
def State.tripLow (s : State) : Bool := s.pwr.trip

/-- ALERT_N is low: an unread record of class 0x4 or 0x5, a supply that is not NORMAL, or a limited die. -/
def State.alertLow (s : State) : Bool :=
  let g := s.evt.ring
  let held := (g.head + 8192 - g.tail) % 8192
  (List.range held).any (fun i => match SMap.find? g.slots ((g.tail + i) % 4096) with
    | some r => decide (r.evt.code / 4096 = 4 ∨ r.evt.code / 4096 = 5)
    | none => false) || decide (s.supply ≠ 0) || s.pwr.thermal

end Sys2Proof.Machine
end

