-- ==== Sys2Proof/Machine/Rot.lean ====
section
/-! DEFINITION. The fuse array and its vote, the partition layout, the keys and the verification of firmware images (R444 to R450, R456, R460 to R463). A field is
held as the little-endian number of its bytes in a directive's VALUE. -/

namespace Sys2Proof.Machine

/-! ### Fields of the fuse array (Table 245) -/

/-- Every FIELD, in order. -/
def fuseFields : List Nat :=
  [0x01, 0x02, 0x03, 0x10, 0x11, 0x12, 0x13, 0x14, 0x15, 0x20, 0x21, 0x22, 0x23, 0x24, 0x28, 0x29, 0x30, 0x31, 0x32, 0x33, 0x34, 0x40, 0x41, 0x42, 0x43]

/-- Fields that the ROM votes (Table 249 step 2). -/
def romFields : List Nat := [0x01, 0x02, 0x10, 0x11, 0x12, 0x13, 0x14, 0x15, 0x29]

/-- Bits per copy of a field, 0 for a code that names none. -/
def fuseBits (f : Nat) : Nat :=
  if f = 0x01 then 128
  else if f = 0x02 ∨ (0x30 ≤ f ∧ f ≤ 0x33) then 256
  else if f = 0x03 then 4416
  else if (0x10 ≤ f ∧ f ≤ 0x13) ∨ (0x20 ≤ f ∧ f ≤ 0x23) ∨ f = 0x28 then 384
  else if f = 0x14 ∨ f = 0x24 ∨ f = 0x34 then 4
  else if f = 0x15 then 64
  else if f = 0x29 then 8
  else if 0x40 ≤ f ∧ f ≤ 0x43 then 2040
  else 0

/-- Bytes of a field's value. -/
def fuseBytes (f : Nat) : Nat := (fuseBits f + 7) / 8

/-- Is a field set-only (R445)? -/
def setOnly (f : Nat) : Bool := decide (f = 0x14 ∨ f = 0x15 ∨ f = 0x24 ∨ f = 0x29 ∨ f = 0x34)

/-- The three copies of a field; layout slot 0 is written at manufacture (R448). -/
def Sec.copies (x : Sec) (f : Nat) : List Nat :=
  SMap.get (if f = 0x40 then List.replicate 3 factoryLayout else [0, 0, 0]) x.fuses f

/-- The vote over three copies (R444): the value that two hold, and whether one differs; none when all differ. -/
def vote3 (l : List Nat) : Option (Nat × Bool) :=
  let a := nthD l 0 0
  let b := nthD l 1 0
  let c := nthD l 2 0
  if a = b then some (a, decide (a ≠ c)) else if a = c then some (a, true) else if b = c then some (b, true) else none

/-- The value of a field in the array now. -/
def Sec.array (x : Sec) (f : Nat) : Nat := match vote3 (x.copies f) with
  | some (v, _) => v
  | none => 0

/-- The value of a field in force (R447): as voted at the last cold boot; a stream revocation also from the end of its program on. -/
def Sec.fuse (x : Sec) (f : Nat) : Nat := SMap.get 0 x.voted f

/-- Ones of a number of n bits. -/
def popCount : Nat → Nat → Nat
  | 0, _ => 0
  | n + 1, v => v % 2 + popCount n (v / 2)

/-- Does a written value equal a digest? -/
def hashIs (v : Nat) (h : List Byte) : Bool := decide (v ≠ 0) && decide (leBytes 48 v = h)

/-- Vote a list of fields (R444): corrected fields are logged and counted; the state, and whether every field has a value. -/
def State.voteFields (s : State) (l : List Nat) : State × Bool :=
  l.foldl (fun (x : State × Bool) f =>
    let s := x.1
    match vote3 (s.sec.copies f) with
    | some (v, fixed) =>
      let s := { s with sec := { s.sec with voted := SMap.ins f v s.sec.voted } }
      (if fixed then (s.raise { code := 0x1400, detail := f }).bump R.FUSE_STATUS F.FUSE_STATUS_CORRECTED 1 else s, x.2)
    | none =>
      let s := if x.2 then s.setFld R.FUSE_STATUS F.FUSE_STATUS_DIS_FIELD f else s
      ((s.setFld R.FUSE_STATUS F.FUSE_STATUS_DISAGREE 1).fatal { code := 0x5400, detail := f } 1, false)) (s, true)

/-- The active layout slot (R448): the highest written one. -/
def Sec.activeSlot (x : Sec) : Nat := (([3, 2, 1, 0] : List Nat).find? (fun n => decide (SMap.get 0 x.voted (0x40 + n) % 256 = 0x5A))).getD 0

/-- Door bit of two partitions in a layout (R450). -/
def doorBit (layout i j : Nat) : Bool :=
  if i = j then true else layout.testBit (24 + (if i < j then doorIndex i j else doorIndex j i))

/-- Is a set of partitions permitted (R450)? -/
def State.permitted (s : State) (ps : List Nat) : Bool := ps.all (fun i => ps.all (fun j => doorBit s.layout i j))

/-! ### Keys (R456, R460) -/

/-- The identity key, while it is in the engine. -/
def Sec.identityKey (x : Sec) : Option Nat := if x.identity ∧ !x.zeroised then some (Config.identityKey (SMap.get 0 x.voted 0x02)) else none

/-- A stream key by KEY_SOURCE and slot (R71, R456): 1 a fuse slot, 2 a key-memory slot; none when it is empty or answers no request (R469). -/
def Sec.streamKey (x : Sec) (src slot : Nat) : Option (List Byte) :=
  if x.zeroised then none
  else if src = 1 then
    (if slot < 4 ∧ x.fuse (0x30 + slot) ≠ 0 ∧ !(x.fuse 0x34).testBit slot then some (leBytes 32 (x.fuse (0x30 + slot))) else none)
  else if x.isolated then none else SMap.find? x.keys slot

/-- SEC_BBK_VALID word w. -/
def Sec.bbkValid (x : Sec) (w : Nat) : Nat :=
  x.keys.foldl (fun (n : Nat) (k : Nat × List Byte) => if k.1 / 64 = w then n + 2 ^ (k.1 % 64) else n) 0

/-- The nonce in force, 16 bytes (R455, Table 257). -/
def Sec.nonceBytes (x : Sec) : List Byte := beBytes 8 (Config.nonceWord x.nonce 0).toNat ++ beBytes 8 (Config.nonceWord x.nonce 1).toNat

/-- A fresh nonce. -/
def Sec.draw (x : Sec) : Sec := { x with nonce := x.nonce + 1 }

/-- Grants in force before any token (R466). -/
def Sec.openGrants (x : Sec) : Nat := if SMap.get 0 x.voted 0x29 % 4 = 0 then 0xF else 0

/-! ### Images (R462) -/

/-- Is an image accepted? `body`: where its body bytes are. -/
def Sec.imageOk (x : Sec) (hdr body : List Byte) : Bool :=
  let key := sliceB hdr 0x40 97
  let slot := numAt hdr 5 1
  decide (264 ≤ hdr.length) && decide (hdr.take 4 = [0x42, 0x43, 0x4D, 0x50]) && decide (slot < 4) &&
    hashIs (SMap.get 0 x.voted (0x10 + slot)) (sha384 key) && !(SMap.get 0 x.voted 0x14).testBit slot &&
    decide (popCount 64 (SMap.get 0 x.voted 0x15) ≤ numAt hdr 4 1) && decide (sha384 body = sliceB hdr 0x10 48) &&
    ecdsaVerify key (hdr.take 0xA8) (sliceB hdr 0xA8 48) (sliceB hdr 0xD8 48)

/-- Is a base-camp image accepted: header and LENGTH body bytes, at most 8 MiB in all? -/
def Sec.slotOk (x : Sec) (img : List Byte) : Bool :=
  let n := numAt img 8 4
  decide (264 + n ≤ 0x800000) && decide (264 + n ≤ img.length) && x.imageOk (img.take 264) ((img.drop 264).take n)

/-- Verify image slots in turn (Table 249 steps 4 to 6, Table 268 step 1): the slot that starts, with measurements 1 and 2, or the safe state. -/
def State.verifyBoot (s : State) (first : Nat) : State × Bool :=
  let order := [first, 1 - first]
  match order.find? (fun n => s.sec.slotOk (nthD s.flash.images n [])) with
  | none => (s.fatal { code := 0x5401 } 2, false)
  | some n =>
    let img := nthD s.flash.images n []
    let body := (img.drop 264).take (numAt img 8 4)
    let m := SMap.ins 2 (sha384 (body ++ [nthD img 4 0])) (SMap.ins 1 ((List.range 48).map Config.romDigest) s.sec.measure)
    ({ s with sec := { s.sec with measure := m }, boot := { s.boot with slot := n } }, true)

end Sys2Proof.Machine
end

