-- ==== Sys2Proof/Machine/Lead.lean ====
section
/-! DEFINITION. The lead engine (R232 to R246): L.FETCH, L.GATHER and L.CANCEL, the issue of their pieces, the answers of the memory sides, timeouts, walks and
cancellations. -/

namespace Sys2Proof.Machine

/-! ### Pieces -/

/-- One piece: its memory-side address (virtual, or in memory-tile space), its scratchpad offset and its length. -/
structure Piece where
  va : Nat
  off : Nat
  len : Nat
  deriving DecidableEq, Repr


/-- Piece k of a run. -/
def pieceAt (cut va off n k : Nat) : Piece :=
  let first := cut - va % cut
  let a := if k = 0 then 0 else first + cut * (k - 1)
  let b := min n (first + cut * k)
  ⟨(va + a) % 2 ^ 48, off + a, b - a⟩

/-- What a lead instruction moves: fetch or put, space, length of one run, target. -/
structure LeadShape where
  put : Bool
  space : Nat
  len : Nat
  target : Nat
  runs : Nat                         -- table entries of a gather, 1 for L.FETCH
  deriving DecidableEq, Repr

/-- The shape of a lead instruction. -/
def LeadInstr.shape (i : LeadInstr) : LeadShape :=
  match i.q.i with
  | .lFetch _ _ sp dir _ _ len1 => ⟨dir = 1#1, sp.toNat, 32 * (len1.toNat + 1), nthD i.x0 1 0, 1⟩
  | .lGather _ _ sp _ _ _ _ count1 len1 => ⟨false, sp.toNat, 32 * (len1.toNat + 1), nthD i.x0 1 0, count1.toNat + 1⟩
  | _ => ⟨false, 0, 0, 0, 0⟩

/-- Memory address of run r of a lead instruction: none where a table entry is 0xFFFF_FFFF (R232, R238). -/
def LeadInstr.runAt (i : LeadInstr) (r : Nat) : Option Nat :=
  match i.q.i with
  | .lFetch _ lb sp _ _ _ _ => some (if sp = 0#1 then (nthD i.bases lb.toNat 0 + nthD i.x0 0 0) % 2 ^ 48 else nthD i.x0 0 0)
  | .lGather _ lb sp _ _ _ pg _ _ =>
    let e := nthD i.table r 0
    if e = 0xFFFFFFFF then none
    else
      let o := e * 2 ^ (9 + pg.toNat) + nthD i.x0 0 0
      some (if sp = 0#1 then (nthD i.bases lb.toNat 0 + o) % 2 ^ 48 else o)
  | _ => none

/-- Pieces of each run. -/
def LeadInstr.perRun (i : LeadInstr) : Nat :=
  match (List.range i.shape.runs).findSome? i.runAt with
  | some a => pieceCount 512 a i.shape.len
  | none => 1

/-- Pieces of the whole instruction. -/
def LeadInstr.total (i : LeadInstr) : Nat := i.shape.runs * i.perRun

/-- Pieces of what NEXT of the fetch cursor counts: a piece of L.FETCH, an entry of L.GATHER (Table 128). -/
def LeadInstr.unit (i : LeadInstr) : Nat :=
  match i.q.i with
  | .lGather .. => i.perRun
  | _ => 1

/-- Does an instruction still issue pieces? -/
def LeadInstr.issuing (i : LeadInstr) : Bool := !i.stopped && decide (i.next < i.total)

/-! ### Delivery -/

/-- Place of an instruction among the started ones. -/
def Lead.updInstr (l : Lead) (ins : Nat) (f : LeadInstr → LeadInstr) : Lead :=
  { l with started := l.started.map (fun i => if i.q.seq = ins then f i else i) }

/-- Change the lead engine of a cell. -/
def State.updLead (s : State) (L : Nat) (f : Lead → Lead) : State :=
  let c := s.cell L
  s.setCell L { c with lead := f c.lead }

/-- The beats of a response: 128 bytes each, cut at multiples of 128 of the memory-side address, as a memory tile's port cuts them (R212; assumption 119). -/
def haulBeats (addr target : Nat) (bs : List Byte) (bad : List Nat) : List HaulBeat :=
  (List.range (pieceCount 128 addr bs.length)).map (fun k =>
    let p := pieceAt 128 addr target bs.length k
    ⟨p.va, p.off, sliceB bs (p.off - target) p.len, bad.filter (fun k => (sectorsOf p.va p.len).contains k)⟩)

/-- Waiting responses take ring positions from TAIL while enough are free, oldest first (R235). -/
def Lead.fill (l : Lead) : List HaulResp → Lead
  | [] => { l with port := [] }
  | r :: p =>
    if occupied l.ring + r.beats.length ≤ 128 then
      { l with ring := l.ring ++ [r], tail := (l.tail + r.beats.length) % 256 }.fill p
    else { l with port := r :: p }

/-- Fill the ring of a cell from its crossbar port, and note the highest occupancy (Table 126). -/
def State.haulFill (s : State) (L : Nat) : State :=
  let s := s.updLead L (fun l => l.fill l.port)
  s.setFld (R.LEAD_HAUL L) F.LEAD_HAUL_HIGH (max (s.fld (R.LEAD_HAUL L) F.LEAD_HAUL_HIGH) (occupied (s.cell L).lead.ring))

/-- The response of a tag comes to the cell: behind the others that wait, or into the ring (R235). `held`: its tag is not freed yet. -/
def State.haulIn (s : State) (L : Nat) (t : LeadTag) (held : Bool) (bs : List Byte) (bad : List Nat) : State :=
  let r : HaulResp := { num := t.num, ep := t.ep, ins := t.ins, job := t.job, held := held, void := t.void, beats := haulBeats t.addr t.target bs bad }
  (s.updLead L (fun l => { l with port := l.port ++ [r],
                                  tags := l.tags.map (fun x => if x.num = t.num then { x with arrived := true } else x) })).haulFill L

/-- The ring's store for a sector of a beat. -/
def haulStore (L k : Nat) : Store := .haul (cellNum L) ⟨k % 8, Nat.mod_lt _ (by decide)⟩

/-- A beat is written through P3 with its poison bits (R235, R241); an error of the ring poisons its sector (R362). -/
def State.beatWrite (s : State) (L : Nat) (b : HaulBeat) : State :=
  let n := b.bytes.length
  let secs := sectorsOf b.addr n
  let bad := secs.filter (fun k => b.bad.contains k || s.upsets.contains (.store (haulStore L k)))
  let s := (s.meetStores (secs.map (haulStore L))).bump (R.LEAD_STATUS L) F.LEAD_STATUS_POISON_BEATS (b2n !bad.isEmpty)
  let a := scratchAddr L b.target
  (s.portWaits L).wr a b.bytes (mapBad bad b.addr a n)

/-- Free a tag. -/
def Lead.free (l : Lead) (num : Nat) : Lead := { l with tags := l.tags.filter (fun t => !decide (t.num = num)) }

/-- A beat leaves HEAD (R235, R243): the last of a response frees its tag. -/
def Lead.drop1 (l : Lead) : Lead :=
  match l.ring with
  | [] => l
  | r :: rest =>
    let l := { l with head := (l.head + 1) % 256 }
    match r.beats with
    | _ :: b :: bs =>
      { l with ring := { r with beats := b :: bs, drained := true } :: rest,
               tags := if r.held then l.tags.map (fun t => if t.num = r.num then { t with got := t.got + 1 } else t) else l.tags }
    | _ => if r.held then { l with ring := rest }.free r.num else { l with ring := rest }

/-- The ring presents its next beat: a void one takes its turn and writes nothing (R235, R243). -/
def State.haulDrain1 (s : State) (L : Nat) : State :=
  let s := match (s.cell L).lead.ring with
    | r :: _ => (match r.beats with
      | b :: _ => if r.void then s else s.beatWrite L b
      | [] => s)
    | [] => s
  (s.updLead L Lead.drop1).haulFill L

/-- The ring presents n beats, fewer when it empties. -/
def State.haulDrain : Nat → Nat → State → State
  | 0, _, s => s
  | n + 1, L, s => if (s.cell L).lead.ring.isEmpty then s else haulDrain n L (s.haulDrain1 L)

/-- Does the lead engine still hold something of an instruction: a tag, or beats on their way to the scratchpad? -/
def Lead.holds (l : Lead) (seq : Nat) : Bool :=
  l.tags.any (fun t => decide (t.ins = seq)) || (l.ring ++ l.port).any (fun r => decide (r.ins = seq))

/-- Started instructions with nothing left to issue and nothing under way land (R234). -/
def Lead.land (l : Lead) : Lead := { l with started := l.started.filter (fun i => i.stopped || i.issuing || l.holds i.q.seq) }

/-! ### Issue -/

/-- Lowest free tag number. -/
def Lead.freeTag (l : Lead) : Option Nat := (List.range 64).find? (fun n => !l.tags.any (fun t => decide (t.num = n)))

/-- The class of what a job sends for a tier access, and the request packet (R251, R257). -/
def State.tierSend (s : State) (src : Endpoint) (sender : Sender) (gen : Bool) (job : Nat) (gs : Bool) (r : MemReq) (put : Option (List Byte × List Nat)) :
    State :=
  s.send { pkt := match put with
             | some (b, bad) => .memWrite true r b bad
             | none => .memRead true r,
           gs := gs, gen := gen, job := job, dest := s.tierEp r.addr, src := src, sender := sender, tenant := s.jobTenant src.cluster job }

/-- A piece takes a tag, whose epoch advances (R233, R242); a put reads its bytes from the scratchpad, with their poison at the memory side. -/
def State.takeTag (s : State) (L : Nat) (i : LeadInstr) (put : Bool) (p : Piece) (a space num : Nat) : State × LeadTag × Option (List Byte × List Nat) :=
  let g := s.clusterOf L
  let job := i.q.job
  let ep := (nthD (s.cell L).lead.epochs num 0 + 1) % 4
  let t : LeadTag := { num := num, ep := ep, ins := i.q.seq, job := job, put := put, addr := a, va := p.va, space := space, target := p.off, len := p.len,
                       tenant := s.jobTenant g job }
  let s := s.updLead L (fun l => { l with epochs := l.epochs.set num ep, tags := l.tags ++ [t] })
  if put then
    let (s, b, bad) := s.ownRead L p.off p.len
    ((s.consumeRead L p.off p.len).suspect g job F.CLU_JOB_SUSPECT_POISON (!bad.isEmpty), t, some (b, mapBad bad (scratchAddr L p.off) a p.len))
  else (s, t, none)

/-- The request of a piece with its data, to a tier or to a memory tile. -/
def pieceReq (tier : Bool) (r : MemReq) : Option (List Byte × List Nat) → Pkt
  | some (b, bad) => .memWrite tier r b bad
  | none => .memRead tier r

/-- Issue one piece of a started instruction in memory-tile space: its request goes to the tile's port over the crossbar (R21, R212, R233). -/
def State.pieceTile (s : State) (L : Nat) (i : LeadInstr) (put : Bool) (p : Piece) (num : Nat) : State :=
  let g := s.clusterOf L
  let a := tileAddr g p.va
  let (s, t, data) := s.takeTag L i put p a 1 num
  { s with xbar := s.xbar ++ [{ pkt := pieceReq false ⟨a, p.len, num, t.ep⟩ data, gen := (s.cell L).gen, job := t.job, dest := ⟨g, 21⟩, src := s.cellEp L,
                                sender := .cell L, tenant := t.tenant }] }

/-- Issue one piece in the tiers at its physical address (R233, R225): a FAILED port answers at once with poison, else a request goes out. -/
def State.pieceTier (s : State) (L : Nat) (i : LeadInstr) (put : Bool) (p : Piece) (pa num : Nat) : State :=
  let g := s.clusterOf L
  let (s, t, data) := s.takeTag L i put p pa 0 num
  if s.farFailed pa then
    let secs := sectorsOf pa p.len
    let s := s.countPoison pa secs.length
    if put then s.updLead L (fun l => l.free num)
    else ({ s with draws := s.draws + 1 }).haulIn L t true ((List.range p.len).map (Config.freeByte s.draws)) secs
  else
    let (s, gs) := s.takeBudget g t.job pa p.len put
    s.tierSend (s.cellEp L) (.cell L) (s.cell L).gen t.job gs ⟨pa, p.len, num, t.ep⟩ data

/-- Page of a cell's translation cache that holds an address. -/
def Lead.page (l : Lead) (va tenant : Nat) : Option Xlate := l.cache.find? (fun x => x.holds tenant va)

/-- Note a use of a cached page (least-recently-used order, R230). -/
def Lead.touch (l : Lead) (va tenant : Nat) : Lead :=
  match l.page va tenant with
  | some x => { l with cache := lruPut 64 (fun y => decide (y = x)) x l.cache }
  | none => l

/-- Does a fetch piece overlap an unacknowledged put piece (R234)? -/
def Lead.putAhead (l : Lead) (pa len : Nat) : Bool :=
  l.tags.any (fun t => t.put && decide (t.addr < pa + len) && decide (pa < t.addr + t.len))

/-- Issue the next piece of a cell's lead engine; none when it issues nothing now. An instruction that a stop request ends issues none (R348). -/
def State.leadIssue (s : State) (L : Nat) : Option State :=
  let l := (s.cell L).lead
  let g := s.clusterOf L
  match l.started.find? (·.issuing) with
  | none => none
  | some i =>
    if i.walk || (s.cell L).stoppedAt i.q then none else
    let sh := i.shape
    let run := i.next / i.perRun
    let k := i.next % i.perRun
    let off := sh.target + run * sh.len
    let step (d : Nat) (s : State) : State := s.updLead L (fun l => (l.updInstr i.q.seq (fun i => { i with next := i.next + d })).land)
    match i.runAt run with
    | none => some (step i.perRun ((s.portWaits L).wr (scratchAddr L off) (List.replicate sh.len 0) []))
    | some a =>
      match l.freeTag with
      | none => none
      | some num =>
        let p := pieceAt 512 a off sh.len k
        if sh.space = 1 then
          let p := { p with va := a + (p.off - off) }
          if !sh.put && l.putAhead (tileAddr g p.va) p.len then none else some (step 1 (s.pieceTile L i sh.put p num))
        else match s.access g i.q.job (l.page p.va) p.va p.len sh.put with
          | .walk => some (s.updLead L (fun l => l.updInstr i.q.seq (fun i => { i with walk := true })))
          | .fault code => some (s.accessFault 1 L g i.q.job code p.va)
          | .ok pa =>
            if !sh.put && l.putAhead pa p.len then none
            else
              let s := s.updLead L (fun l => l.touch p.va (s.jobTenant g i.q.job))
              some (step 1 (s.pieceTier L i sh.put p pa num))

/-- Issue pieces while a tag is free (R233); fuel bounds what one step issues. -/
def State.leadPump : Nat → Nat → State → State
  | 0, _, s => s
  | f + 1, L, s => match s.leadIssue L with
    | some s => leadPump f L s
    | none => s

/-- Most pieces that one step issues: a put to a FAILED port holds no tag. -/
def leadFuel : Nat := 16384

/-- Keep issuing after something has freed a tag or a walk has ended. -/
def State.leadGo (s : State) (L : Nat) : State := (s.updLead L Lead.land).leadPump leadFuel L

/-! ### Starting -/

/-- May a lead instruction start: the one before has issued its last piece, and fewer than 8 are unlanded (R233)? -/
def Lead.ready (l : Lead) : Bool := decide (l.started.length < 8) && !l.started.any (·.issuing)

/-- The instruction that a queue entry starts: the bases are those of its issue (R236); one that resumes goes on from NEXT with the cursor's registers and bases
(R245, R350). -/
def QInstr.leadInstr (q : QInstr) (x0 table : List Nat) : LeadInstr :=
  match q.cur with
  | .fetch f =>
    let i : LeadInstr := { q := q, x0 := f.xstart, bases := f.bases, table := table }
    { i with next := f.next * i.unit }
  | _ => { q := q, x0 := x0, bases := q.bases, table := table }

/-- Start the head of the lead queue. -/
def State.leadStart (s : State) (L : Nat) (q : QInstr) (x0 table : List Nat) : State :=
  let s := (s.startHead L q).finish L .lead
  let s := s.updLead L (fun l => { l with started := l.started ++ [q.leadInstr x0 table] })
  s.leadPump leadFuel L

/-- Address register n of a lead instruction at its start: the cursor's when it resumes (R245). `k` is its place in XSTART. -/
def QInstr.leadX (q : QInstr) (k : Nat) (r : BitVec 4) : Nat :=
  match q.cur with
  | .fetch f => nthD f.xstart k 0
  | _ => xval q.xs r

/-- L.FETCH (R232): the checks at its start. -/
def State.lFetch (s : State) (L : Nat) (q : QInstr) (space put : Bool) (src dst len : Nat) : State :=
  let c := s.cell L
  if !c.lead.ready then s
  else if !c.inRegion dst len Region.haul then s.headOverflow L .lead q dst (!put)
  else if space && !c.inTile src len (if put then Region.wr else Region.rd) then s.headOverflow L .lead q src put
  else s.leadStart L q [src, dst, 0] []

/-- L_FETCH (R232). -/
def execLFetch (c : Fin 4096) (s : State) : Host.Outcome State Fault Refusal :=
  .next (s.atHead c.val .lead (fun q => match q.i with
    | .lFetch xs _ sp dir xd _ len1 => s.lFetch c.val q (sp = 1#1) (dir = 1#1) (q.leadX 0 xs) (q.leadX 1 xd) (32 * (len1.toNat + 1))
    | _ => s))

/-- L.GATHER (R238): the checks at its start and the block table. -/
def State.lGather (s : State) (L : Nat) (q : QInstr) (space : Bool) (off dst tab pg count len : Nat) : State :=
  let c := s.cell L
  if !c.lead.ready then s
  else if off % 32 ≠ 0 ∨ 2 ^ (9 + pg) < off + len then s.headFault L .lead q 0x3162
  else if !c.inRegion tab (4 * count) Region.rd then s.headOverflow L .lead q tab false
  else if !c.inRegion dst (count * len) Region.haul then s.headOverflow L .lead q dst true
  else
    let (s, b, _) := s.ownRead L tab (4 * count)
    let s := s.consumeRead L tab (4 * count)
    let table := chunkWords count 4 b
    let bad := table.find? (fun e => space && decide (e ≠ 0xFFFFFFFF) && !c.inTile (e * 2 ^ (9 + pg) + off) len Region.rd)
    match bad with
    | some e => s.headOverflow L .lead q (e * 2 ^ (9 + pg) + off) false
    | none => s.leadStart L q [off, dst, tab] table

/-- L_GATHER (R238). -/
def execLGather (c : Fin 4096) (s : State) : Host.Outcome State Fault Refusal :=
  .next (s.atHead c.val .lead (fun q => match q.i with
    | .lGather xs _ sp xd xt _ pg count1 len1 =>
      s.lGather c.val q (sp = 1#1) (q.leadX 0 xs) (q.leadX 1 xd) (q.leadX 2 xt) pg.toNat (count1.toNat + 1) (32 * (len1.toNat + 1))
    | _ => s))

/-- L.CANCEL (R243): the cancel point. It stays at the head of the queue until the cancellation completes (R244). -/
def State.lCancel (s : State) (L : Nat) (q : QInstr) (all : Bool) : State :=
  let c := s.cell L
  if c.lead.cancels.any (fun x => x.q = some q) then s
  else
    let job := if all then none else some q.job
    let s := s.setCell L (c.begin q)
    s.updLead L (fun l => let l := l.cancel job; { l with cancels := l.cancels ++ [{ job := job, q := some q }] })

/-- L_CANCEL (R243). -/
def execLCancel (c : Fin 4096) (s : State) : Host.Outcome State Fault Refusal :=
  .next (s.atHead c.val .lead (fun q => match q.i with
    | .lCancel all => s.lCancel c.val q (all = 1#1)
    | _ => s))

/-! ### Answers, timeouts and cancellations at a cell -/

/-- The tag of a cell that an answer names, with its epoch (R242). -/
def Lead.tag (l : Lead) (num ep : Nat) : Option LeadTag := l.tags.find? (fun t => decide (t.num = num) && decide (t.ep = ep))

/-- Read data at a cell: a response of a freed tag is discarded, any other goes to the haul ring (R235, R242). -/
def State.leadData (s : State) (L : Nat) (r : MemReq) (bs : List Byte) (bad : List Nat) : State :=
  match (s.cell L).lead.tag r.tag r.tepoch with
  | none => s
  | some t => if t.put || t.arrived then s else s.haulIn L t true (sliceB bs 0 t.len) bad

/-- The haul ring of a cell presents n beats, and the engine goes on with the tags that frees (R233, R235). -/
def State.leadDrain (s : State) (L n : Nat) : State := (State.haulDrain n L s).leadGo L

/-- TIER_ACK at a cell. -/
def State.leadAck (s : State) (L : Nat) (r : MemReq) : State :=
  match (s.cell L).lead.tag r.tag r.tepoch with
  | none => s
  | some t => if t.put then (s.updLead L (fun l => l.free t.num)).leadGo L else s

/-- The record of a tag that timed out (R242). -/
def State.timeoutRec (s : State) (kind src g job tenant va : Nat) : State :=
  let q := match s.jobReq (s.teamOfClu g) job with
    | some q => q.tag
    | none => 0
  (s.suspect g job F.CLU_JOB_SUSPECT_TIMEOUT).raise
    { code := 0x2160, kind := kind, src := src, part := some (s.partOf g).1, req := some (q, job), tenant := some tenant, sect := s.sectId (s.teamOfClu g),
      addr := some va }

/-- LEAD_TIMEOUT at a cell (R242): zeros with poison for a fetch, unspecified memory for a put, silence for a void tag. -/
def State.leadTimeout (s : State) (L num : Nat) : State :=
  match (s.cell L).lead.tags.find? (fun t => decide (t.num = num) && !t.arrived) with
  | none => s
  | some t =>
    let s := s.updLead L (fun l => l.free num)
    if t.void then s.leadGo L
    else
      let s := (s.timeoutRec 1 L (s.clusterOf L) t.job t.tenant t.va).bump (R.LEAD_STATUS L) F.LEAD_STATUS_TIMEOUTS 1
      let s := if t.put then { s with draws := s.draws + 1 }.wr t.addr ((List.range t.len).map (Config.freeByte s.draws)) []
        else s.haulIn L t false (List.replicate t.len 0) (sectorsOf t.addr t.len)
      s.leadGo L

/-- PAGE_WALK_DONE at a cell (R230): the walk fills the cache, or faults, and the engine goes on. -/
def State.leadWalk (s : State) (L : Nat) : State :=
  let g := s.clusterOf L
  match (s.cell L).lead.started.find? (fun i => i.issuing && i.walk) with
  | none => s
  | some i =>
    let sh := i.shape
    match i.runAt (i.next / i.perRun) with
    | none => s
    | some a =>
      let p := pieceAt 512 a 0 sh.len (i.next % i.perRun)
      let s := s.updLead L (fun l => l.updInstr i.q.seq (fun i => { i with walk := false }))
      match s.walk g (s.jobTenant g i.q.job) p.va with
      | (s, some x) => (s.updLead L (fun l => { l with cache := lruPut 64 (fun y => decide (y.va = x.va) && decide (y.tenant = x.tenant)) x l.cache })).leadGo L
      | (s, none) => s.accessFault 1 L g i.q.job 0x3160 p.va

/-- May a cancellation of a lead engine complete (R244): no void tag and no unacknowledged put tag of its job, and nothing of the job still to be written? -/
def Lead.cancelDone (l : Lead) (c : Cancel) : Bool :=
  let hit (j : Nat) : Bool := match c.job with
    | some k => decide (j = k)
    | none => true
  !l.tags.any (fun t => hit t.job && (t.void || t.put)) && !(l.ring ++ l.port).any (fun r => hit r.job)

/-- CANCEL_COMPLETE at a cell (R244): the cancelled instructions count as landed, an L.CANCEL leaves the queue, the hub hears of its own. -/
def State.cancelCell (s : State) (L : Nat) : State :=
  let c := s.cell L
  match c.lead.cancels.find? c.lead.cancelDone with
  | none => s
  | some x =>
    let hit (j : Nat) : Bool := match x.job with
      | some k => decide (j = k)
      | none => true
    let s := s.setCell L { c with
      qLead := match x.q with
        | some q => c.qLead.filter (fun y => decide (y ≠ q))
        | none => c.qLead,
      lead := { c.lead with cancels := c.lead.cancels.erase x, started := c.lead.started.filter (fun i => !(i.stopped && hit i.q.job)) } }
    (s.leadGo L).settleTeam (s.teamOfCell L)

end Sys2Proof.Machine
end

