-- ==== Sys2Proof/Machine/Nbr.lean ====
section
/-! DEFINITION. Belay messages on the neighbour links (R205 to R209): grants, writes, acknowledgements, returned credits and closes. -/

namespace Sys2Proof.Machine

/-- Place of the n-th message a predicate selects. -/
def pickNbr (sel : NbrMsg → Bool) : List NbrMsg → Nat → Nat → Option Nat
  | [], _, _ => none
  | m :: l, n, i => if sel m then (match n with
      | 0 => some i
      | k + 1 => pickNbr sel l k (i + 1)) else pickNbr sel l n (i + 1)

/-- Run f on the n-th selected message, its receiving cell and the direction it comes from there; a message of the same link that was sent earlier keeps it
waiting. -/
def State.onNbr (s : State) (sel : NbrMsg → Bool) (n : Nat) (f : State → NbrMsg → Nat → Nat → State) : State :=
  match pickNbr sel s.nbr n 0 with
  | none => s
  | some i =>
    match s.nbr[i]? with
    | none => s
    | some m =>
      if (s.nbr.take i).any (fun x => decide (x.cell = m.cell) && decide (x.dir = m.dir)) then s
      else
        let s := { s with nbr := s.nbr.eraseIdx i }
        match s.neighbour m.cell m.dir with
        | some r => f s m r (opposite m.dir)
        | none => s

/-- Send a message to the neighbour of a cell in a direction. -/
def State.nbrSend (s : State) (L dir : Nat) (b : NbrBody) : State := { s with nbr := s.nbr ++ [{ cell := L, dir := dir, body := b }] }

/-- Does a cell run no program in its section (R209)? -/
def Cell.noProgram (c : Cell) : Bool := c.store.prog.isEmpty

/-- A grant takes effect at a cell (R205): it holds every credit; a cell without a program, or past its Q.END, sends the close at once (R85, R209). -/
def State.takeGrant (s : State) (L d : Nat) (g : Grant) (live : Bool) : State :=
  let c := s.cell L
  if c.noProgram || !live then
    (s.setCell L { c with tx := c.tx.set (d - 1) { win := some g, held := 0, pend := none } }).nbrSend L d (.close (ones g.units) g.gen)
  else s.setCell L { c with tx := c.tx.set (d - 1) { win := some g, held := ones g.units, pend := none } }

/-! ### Kinds of messages -/

def NbrMsg.isGrant (m : NbrMsg) : Bool := match m.body with
  | .grant _ => true
  | _ => false
def NbrMsg.isWrite (m : NbrMsg) : Bool := match m.body with
  | .write .. => true
  | _ => false
def NbrMsg.isAck (m : NbrMsg) : Bool := match m.body with
  | .ack => true
  | _ => false
def NbrMsg.isCredit (m : NbrMsg) : Bool := match m.body with
  | .credit .. => true
  | _ => false
def NbrMsg.isClose (m : NbrMsg) : Bool := match m.body with
  | .close .. => true
  | _ => false

/-- BELAY_GRANT (R205). -/
def execBelayGrant (n : Nat) (s : State) : Host.Outcome State Fault Refusal :=
  .next (s.onNbr NbrMsg.isGrant n (fun s m L d => match m.body with
    | .grant g =>
      let c := s.cell L
      if c.gen = g.gen then s.takeGrant L d g (c.filling || !decide (c.st = .ending ∨ c.st = .idle))
      else s.setCell L { c with tx := c.tx.set (d - 1) { nthD c.tx (d - 1) {} with pend := some g } }
    | _ => s))

/-- A byte of a neighbour write reached its receiver with bad parity: the sector that holds it is poisoned (R363). -/
def State.nbrParity (s : State) (L off span : Nat) : State :=
  if s.upsets.isEmpty then s
  else match (List.range span).find? (fun k => s.upsets.contains (.nbrByte L k)) with
    | none => s
    | some k =>
      let sec := scratchAddr L (off + k) / 64
      { s with upsets := s.upsets.erase (.nbrByte L k), poison := insNat sec s.poison }.raise
        { code := 0x2200, kind := 1, src := L, addr := some (64 * sec), detail := L % 16 }

/-- NEIGHBOUR_WRITE (R207): the write lands, its units become FULL and the receiver acknowledges. -/
def execNeighbourWrite (n : Nat) (s : State) : Host.Outcome State Fault Refusal :=
  .next (s.onNbr NbrMsg.isWrite n (fun s m L d => match m.body with
    | .write off span parts pois _ =>
      let w := nthD (s.cell L).rx (d - 1) {}
      let s := if w.granted then
          let s := parts.foldl (fun s r => s.ownWrite L r.1 r.2 pois) s
          let s := s.nbrParity L off span
          let c := s.cell L
          let full := (unitsIn w.base w.units off span).foldl (fun m u => m ||| 2 ^ u) w.full
          ((s.setCell L { c with rx := c.rx.set (d - 1) { w with full := full } }).bump (R.CELL_BELAY_RX L (d - 1)) F.CELL_BELAY_RX_WRITES 1).portWaits L
        else s
      s.nbrSend L d .ack
    | _ => s))

/-- Drop the oldest neighbour write of a direction. -/
def dropNbr (d : Nat) : List (Nat × QInstr) → List (Nat × QInstr)
  | [] => []
  | p :: l => if p.1 = d then l else p :: dropNbr d l

/-- NEIGHBOUR_ACK (R207): the oldest T.ST of that direction completes. -/
def execNeighbourAck (n : Nat) (s : State) : Host.Outcome State Fault Refusal :=
  .next (s.onNbr NbrMsg.isAck n (fun s _ L d =>
    s.setCell L { s.cell L with nbrOut := dropNbr d (s.cell L).nbrOut }))

/-- BELAY_CREDIT_RETURN (R208): the sender of the window's writes holds the unit again; one that has executed its Q.END, or has left the generation since, returns
it in a close (R85, R209). -/
def execBelayCreditReturn (n : Nat) (s : State) : Host.Outcome State Fault Refusal :=
  .next (s.onNbr NbrMsg.isCredit n (fun s m L d => match m.body with
    | .credit u gen =>
      let c := s.cell L
      let x := nthD c.tx (d - 1) {}
      let back := s.nbrSend L d (.close (2 ^ u) gen)
      (match x.win with
      | some w =>
        if w.gen ≠ gen ∨ c.st = .ending ∨ c.st = .idle then back
        else s.setCell L { c with tx := c.tx.set (d - 1) { x with held := x.held ||| 2 ^ u } }
      | none => back)
    | _ => s))

/-- BELAY_CLOSE (R209). -/
def execBelayClose (n : Nat) (s : State) : Host.Outcome State Fault Refusal :=
  .next (s.onNbr NbrMsg.isClose n (fun s m L d => match m.body with
    | .close m gen =>
      let c := s.cell L
      let w := nthD c.rx (d - 1) {}
      if w.granted ∧ c.gen = gen then s.setCell L { c with rx := c.rx.set (d - 1) { w with closed := true, home := w.home ||| m } } else s
    | _ => s))

end Sys2Proof.Machine
end

