-- ==== Sys2Proof/Machine/Switch.lean ====
section
/-! DEFINITION. Sections in place (R81 to R94, R307, R308, R348, R486): Q.END, the switch of cells, controllers and teams, its bound, stops at rest and the
drain. -/

namespace Sys2Proof.Machine

/-! ### Q.END and the switch of a cell -/

/-- Give back the credits a cell holds and has not used (R85, R209). -/
def State.closeBelay (s : State) (L : Nat) : State :=
  (List.range 4).foldl (fun s d =>
    let c := s.cell L
    let x := nthD c.tx d {}
    match x.win with
    | some w => if x.held = 0 then s else (s.setCell L { c with tx := c.tx.set d { x with held := 0 } }).nbrSend L (d + 1) (.close x.held w.gen)
    | none => s) s

/-- Markers on every bound outbound channel, which then takes its binding from the staged section's table (R85); what an unfinished load delivered has no
effect (R73). -/
def State.sendMarkers (s : State) (L : Nat) : State :=
  (List.range 8).foldl (fun s ch =>
    let c := s.cell L
    let o := nthD c.chOut ch {}
    let s := match o.bind with
      | some b => s.chanSend L b c.job (.chMarker ch b.peerChan)
      | none => s
    let c := s.cell L
    s.setCell L { c with chOut := c.chOut.set ch { bind := c.stagedOut ch, credits := 0 } }) s

/-- MAX_GROUP_FC of the outgoing section (R307). -/
def Team.groupFc (x : Team) : Nat := match x.activeCard with
  | some k => k.maxGroupFc
  | none => 11200

/-- E of R307. -/
def Team.endWm (x : Team) : Nat := (2 * x.groupFc + 1398) / 1399 + 13

/-- SWITCH_WM of the staged section (R82). -/
def Team.switchWm (x : Team) : Nat := match x.staged with
  | some k => (match k.card with
    | some d => d.switchWm
    | none => 1000)
  | none => 1000

/-- Cells of a team that the outgoing or the staged section covers. -/
def State.switchCells (s : State) (t : Nat) : List Nat :=
  let x := s.team t
  let a := match x.running with
    | some r => s.sectCells r
    | none => []
  let b := match x.staged with
    | some r => s.sectCells r
    | none => []
  a ++ b.filter (fun L => !a.contains L)

/-- Has a cell switched or gone idle in the switch in progress? -/
def State.cellThrough (s : State) (L : Nat) : Bool :=
  let c := s.cell L
  c.switched || (!c.staged && decide (c.st = .idle))

/-- The bound of R82 for the staged section, counted from the first Q.END; with nothing staged there is none (assumption 32). -/
def State.armSwitch (s : State) (t : Nat) : State :=
  let x := s.team t
  let d := match x.staged, x.swStart with
    | some _, some w => some (if x.cutover = 0 then w + x.switchWm else min (w + x.switchWm) (x.cutover + x.endWm + x.switchWm))
    | _, _ => none
  (s.setTeam t { x with swDeadline := d }).setMembers (s.members t) R.SECT_STATUS F.SECT_STATUS_CELLS_SWITCHED
    ((s.switchCells t).filter s.cellThrough).length

/-- A team enters SWITCHING (R81), with the bound of R82. -/
def State.enterSwitching (s : State) (t : Nat) : State :=
  let s := s.setRun t .switching
  (s.setTeam t { s.team t with swStart := some s.time.count }).armSwitch t

/-- A running team enters SWITCHING when a cell that takes part in the switch runs no program (R308) or has issued Q.END before the team ran. -/
def State.countEnded (s : State) (t : Nat) : State :=
  if (s.team t).run = .running && (s.switchCells t).any (fun L => decide ((s.cell L).st = .idle ∨ (s.cell L).st = .ending)) then s.enterSwitching t else s

/-- Q.END (R85): issued only after every earlier instruction has completed; inside a loop body it is LOOP_BAD (R105). -/
def State.qEnd (s : State) (L : Nat) (k : Cell) : Option State :=
  if !k.inFlight.isEmpty || !k.lead.tags.isEmpty then none
  else if !k.loops.isEmpty then some (s.issueFault L 0x3144)
  else
    let t := s.teamOfCell L
    let s := s.count L 1 1
    let s := if (s.team t).run = .running then s.enterSwitching t else s
    let s := s.setCell L { s.cell L with st := .ending, chIn := k.chIn.map (fun i => { i with took := false }) }
    some (((s.closeBelay L).sendMarkers L).endProgress L)

/-- Q_END (R85, R87). -/
def execQEnd (c : Fin 4096) (s : State) : Host.Outcome State Fault Refusal :=
  .next (s.seqStep c.val (fun s k i => match i with
    | .qEnd => s.qEnd c.val k
    | _ => none))

/-- Is every credit that a cell granted home (R88)? -/
def Cell.belayHome (c : Cell) : Bool := c.rx.all (fun w => !w.granted || decide (w.full ||| w.home = ones w.units))

/-- May a cell switch or go idle (R88)? -/
def Cell.ended (c : Cell) : Bool :=
  c.belayHome && (decide (c.st = .idle) || (decide (c.st = .ending) && c.chIn.all (·.took)))

/-- The grants of a cell that has switched (R205). -/
def State.sendGrants (s : State) (L : Nat) : State :=
  let c := s.cell L
  c.store.bounds.foldl (fun s r => match r with
    | some r =>
      if r.nbr && !r.tile && decide (1 ≤ r.dir ∧ r.dir ≤ 4) then
        let c := s.cell L
        let g : Grant := ⟨r.base, r.len / 256, r.consume, c.gen⟩
        let s := s.setCell L { c with rx := c.rx.set (r.dir - 1) { granted := true, units := g.units, base := r.base, consume := r.consume } }
        if (s.neighbour L r.dir).isSome then s.nbrSend L r.dir (.grant g) else s
      else s
    | none => s) s

/-- Channels of a cell that has switched: those not bound by its Q.END take their binding now (R88, R81). -/
def State.bindChannels (s : State) (L : Nat) : State :=
  let s := (List.range 8).foldl (fun s ch =>
    let c := s.cell L
    let o := nthD c.chOut ch {}
    let b := nthD c.store.chanOut ch none
    if o.bind = b then s else s.setCell L { c with chOut := c.chOut.set ch { bind := b, credits := 0 } }) s
  (List.range 8).foldl (fun s ch =>
    let c := s.cell L
    let i := nthD c.chIn ch {}
    let b := nthD c.store.chanIn ch none
    if i.took ∧ i.bind = b then s else s.rebindIn L ch b) s

/-- The tables, the generation and the sequencer state of a cell that switches (R88, R102, R161, R186, R369). -/
def Cell.switchTo (c : Cell) : Cell :=
  { c with
    store := c.shadow, shadow := c.store, gen := !c.gen, staged := false, switched := true,
    st := .idle, pc := 0, job := 0, x := List.replicate 16 0, loops := [], mbox := [], fp := none, accs := [{}, {}, {}, {}],
    rowMax := List.replicate 32 0, rowSum := List.replicate 32 0, merge := none, tregs := List.replicate 16 {},
    incs := [], mergeStop := none, veCur := none, veStop := none, const := if c.shadow.hasConst then c.const else [],
    constBad := if c.shadow.hasConst then c.constBad else [], units := 0,
    lead := { c.lead with cursor := none }, rx := List.replicate 4 {}, tx := c.tx.map (fun x => { x with win := none, held := 0 }),
    started := none }

/-- The program starts, unless a fill or a weight copy is outstanding (R88). -/
def State.startProgram (s : State) (L : Nat) : State :=
  let c := s.cell L
  s.setCell L { c with filling := false, st := if c.store.prog.isEmpty then .idle else .running }

/-- A cell switches (R88). -/
def State.cellSwitch (s : State) (L : Nat) : State :=
  let s := s.countTime L
  let s := s.setCell L (s.cell L).switchTo
  let s := (s.setFld (R.CELL_VE_FLAGS L) F.CELL_VE_FLAGS_FLAGS 0).setReg (R.CELL_SEQ_FAULT L) 0
  let s := (s.bindChannels L).sendGrants L
  let s := s.setCell L { s.cell L with chIn := (s.cell L).chIn.map (fun i => { i with took := false }) }
  let s := (List.range 4).foldl (fun s d =>
    match (nthD (s.cell L).tx d {}).pend with
    | some g => if g.gen = (s.cell L).gen then s.takeGrant L (d + 1) g true else s
    | none => s) s
  let c := s.cell L
  if c.store.hasConst || !c.store.copies.isEmpty then s.setCell L { c with filling := true } else s.startProgram L

/-- CELL_SWITCH (R88): a cell whose Q.END is through switches to the staged section, or goes idle with nothing staged. -/
def execCellSwitch (c : Fin 4096) (s : State) : Host.Outcome State Fault Refusal :=
  let L := c.val
  let k := s.cell L
  let t := s.teamOfCell L
  let done (s : State) : State := (s.members t).foldl (fun s p => s.bump (R.SECT_STATUS p) F.SECT_STATUS_CELLS_SWITCHED 1) s
  .next (
    if (s.team t).run ≠ .switching ∨ k.switched ∨ !k.ended ∨ k.stopReq ∨ k.stopping then s
    else if k.staged then done (s.cellSwitch L)
    else if k.st = .ending then
      let unbound := k.chIn.map (fun i => { i with bind := none, took := false })
      done ((s.countTime L).setCell L { k with st := .idle, switched := true, chIn := unbound, tx := List.replicate 4 {}, rx := List.replicate 4 {} })
    else s)

/-- The constant-cache fill from the cluster staging area (R88, Table 44). -/
def State.fillConst (s : State) (L : Nat) : State :=
  let g := s.clusterOf L
  let (s, b, _) := s.deliver 2 g 1 (L % 16) (tileAddr g (0x3FC0000 + 0x4000 * (L % 16))) 16384
  let ws := (List.range 4096).filterMap (fun i => let w := numAt b (4 * i) 4; if w = 0 then none else some (i, BitVec.ofNat 32 w))
  s.setCell L { s.cell L with const := ws, constBad := [] }

/-- One AT_SWITCH weight copy, checked against its CAIRN_ROOT (R65, R88): the new state and whether it matched. -/
def State.weightCopy (s : State) (L : Nat) (w : WCopy) : State × Bool :=
  let (s, b, bad) := s.tierRead w.near w.len
  let a := scratchAddr L w.off
  (s.wr a b (mapBad bad w.near a w.len), bad.isEmpty && decide (cairnRoot b = w.root))

/-- SWITCH_FILL_DONE (R88). -/
def execSwitchFillDone (c : Fin 4096) (s : State) : Host.Outcome State Fault Refusal :=
  let L := c.val
  .next (
    if !(s.cell L).filling then s
    else
      let s := if (s.cell L).store.hasConst then s.fillConst L else s
      let (s, ok) := (s.cell L).store.copies.foldl (fun (x : State × Bool) w => let (s, o) := x.1.weightCopy L w; (s, x.2 && o)) (s, true)
      let s := s.setCell L { s.cell L with filling := false }
      if ok then s.startProgram L
      else
        let t := s.teamOfCell L
        (s.raiseSect t (L / 64) 1 L 0x3132).sectFails t 0x3132)

/-! ### Controllers and the team -/

/-- CONTROLLER_SWITCH (R90, R328): after X.SECTEND, or with no program running, and with every team cell of its cluster through. -/
def execControllerSwitch (g : Fin 256) (s : State) : Host.Outcome State Fault Refusal :=
  let k := s.clu g.val
  let t := s.teamOfClu g.val
  let through := (s.switchCells t).all (fun L => decide (s.clusterOf L ≠ g.val) || s.cellThrough L)
  .next (
    if (s.team t).run ≠ .switching ∨ k.switched ∨ !through ∨ k.ctl.st = .user ∨ (s.team t).staged.isNone then s
    else
      let c := k.ctl
      let ctl : Ctl := if c.progShadow.isEmpty then { c with prog := [], progShadow := c.prog, sereq := false }
        else { c with prog := c.progShadow, progShadow := c.prog, st := .user, umode := true, pc := 0, x := List.replicate 32 0, wait := .none, sereq := false }
      s.setClu g.val { k with ctl := ctl, plaus := k.plausShadow, plausShadow := k.plaus, switched := true, router := { k.router with switchDue := true } })

/-- The old generation's barrier state at completion (R92, R282): abandoned arrivals are logged, descriptors discarded. -/
def State.dropBarGen (s : State) (p : Nat) (gen : Bool) : State :=
  (List.range 16).foldl (fun s n =>
    let b := s.bar p n
    let x := b.gen gen
    let s := if x.arrived = 0 then s
      else (s.raise { code := 0x3133, kind := 2, src := s.cluster p (n / 4), part := some p, sect := s.sectId (s.teamId p) }).lastEvent (s.teamId p) 0x3133
    s.setBar p n (b.setGen gen {})) s

/-- The team switch is complete (R91). A cell of the new section that has already issued its Q.END puts the team in SWITCHING again (R81). -/
def State.teamSwitched (s : State) (t : Nat) (y : Sect) : State :=
  let ps := s.members t
  let old := (s.team t).gen
  let s := ps.foldl (fun s p => s.dropBarGen p old) s
  let s := (s.partCells ps).foldl (fun s L => s.setCell L { s.cell L with shadow := {}, switched := false }) s
  let s := (s.partClus ps).foldl (fun s g =>
    let c := s.clu g
    s.setClu g { c with ctl := { c.ctl with progShadow := [] }, plausShadow := [], switched := false, router := { c.router with shadow := none } }) s
  let s := s.setTeam t { s.team t with running := some y, staged := none, gen := !old, faulted := false, cardAtBoundary := true, cutover := 0, secEnd := false,
                                       swStart := none, swDeadline := none, cause := 0, reason := 0 }
  let s := s.setMembers ps R.PART_ADM_CUTOVER F.PART_ADM_CUTOVER_CUTOVER 0
  let s := s.setMembers ps R.WV_LOAD_STATUS F.WV_LOAD_STATUS_STATE 0
  let s := s.setMembers ps R.SECT_RUN_ID F.SECT_RUN_ID_SECTION_ID y.id
  let s := { s with adm := { s.adm with reqs := s.adm.reqs.map (fun (x : Nat × Request) => if x.2.team = t then (x.1, { x.2 with staged := false }) else x) } }
  let s := s.setRun t .running
  if (s.sectCells y).any (fun L => decide ((s.cell L).st = .ending)) then s.enterSwitching t else s

/-- Every share wheel of a team's clusters reads 31 while no card is active (R216, Table 113): its reset value. -/
def State.clearWheels (s : State) (t : Nat) : State := s.clearWheelsOf (s.partClus (s.members t))

/-- TEAM_SWITCH_COMPLETE (R81, R91). -/
def execTeamSwitchComplete (p : Fin 64) (s : State) : Host.Outcome State Fault Refusal :=
  let t := p.val
  let x := s.team t
  let ps := s.members t
  .next (
    if x.run ≠ .switching then s
    else match x.staged with
      | some y =>
        if (s.switchCells t).all s.cellThrough && (s.sectCells y).all (fun L => (s.cell L).switched) &&
            (s.partClus y.binding).all (fun g => (s.clu g).switched && !(s.clu g).router.switchDue)
        then s.teamSwitched t y else s
      | none =>
        if (s.switchCells t).all s.cellThrough then
          let s := (s.partCells ps).foldl (fun s L => s.setCell L { s.cell L with switched := false }) s
          let s := s.setTeam t { s.team t with running := none, secEnd := false, swStart := none, swDeadline := none }
          ((s.clearWheels t).setMembers ps R.SECT_RUN_ID F.SECT_RUN_ID_SECTION_ID 0).setRun t .empty
        else s)

/-- SWITCH_TIMEOUT (R82): the switch has outlasted its bound. -/
def execSwitchTimeout (p : Fin 64) (s : State) : Host.Outcome State Fault Refusal :=
  let x := s.team p.val
  .next (match x.run, x.swDeadline with
    | .switching, some d => if d ≤ s.time.count then s.abortSwitch p.val evSwitchTimeout evSwitchTimeout else s
    | _, _ => s)

/-- SECTION_END_REQUEST (R307, R308, R309, R334): at C every controller of the team sees SEREQ, every best-effort request is to be written out, and cells that run
no program count as having issued Q.END. -/
def execSectionEndRequest (p : Fin 64) (s : State) : Host.Outcome State Fault Refusal :=
  let t := p.val
  let x := s.team t
  .next (
    if x.cutover = 0 ∨ s.time.count < x.cutover ∨ x.secEnd ∨ x.running.isNone ∨ (x.run ≠ .running ∧ x.run ≠ .switching) then s
    else
      let s := s.setTeam t { x with secEnd := true }
      let s := (s.partClus (s.members t)).foldl (fun s g =>
        let c := s.clu g
        s.setClu g { c with ctl := { c.ctl with sereq := true } }) s
      ((s.reqsWhere (fun q => decide (q.team = t) && !q.staged && !q.guar && decide (q.st ≠ .bivouacked))).foldl
        (fun s r => s.updReq r (fun q => { q with spill := true })) s).countEnded t)

/-- SECTEND_LATE (R308). -/
def execSectendLate (p : Fin 64) (s : State) : Host.Outcome State Fault Refusal :=
  let t := p.val
  let x := s.team t
  let late (k : Nat) : Bool := decide (x.cutover + (k * x.groupFc + 1398) / 1399 + 1 ≤ s.time.count)
  let ctl := (s.partClus (s.members t)).any (fun g => decide ((s.clu g).ctl.st = .user) && !(s.clu g).switched)
  let cell := match x.running with
    | some r => (s.sectCells r).any (fun L => let c := s.cell L; !c.switched && decide (c.st = .running ∨ c.st = .blockWait))
    | none => false
  .next (
    if !x.secEnd ∨ (x.run ≠ .running ∧ x.run ≠ .switching) then s
    else if (late 1 && ctl) || (late 2 && cell) then (s.raiseSect t t 8 t 0x3138).sectFails t 0x3138 else s)

/-! ### Stops at rest (R348, R349) -/

/-- Withdraw the issued instructions younger than h that have not started: the sequencer takes the state it had before the oldest of them. -/
def Cell.withdraw (c : Cell) : Cell :=
  let young (q : QInstr) : Bool := match c.started with
    | some h => decide (h.seq < q.seq)
    | none => true
  let all := (c.qTile ++ c.qArray ++ c.qVector ++ c.qChannel ++ c.qLead ++ c.qSync).filter young
  let old := all.foldl (fun (m : Option QInstr) q => match m with
    | some p => if q.seq < p.seq then some q else some p
    | none => some q) none
  let keep (l : List QInstr) : List QInstr := l.filter (fun q => !young q)
  let c := { c with qTile := keep c.qTile, qArray := keep c.qArray, qVector := keep c.qVector, qChannel := keep c.qChannel, qLead := keep c.qLead,
                    qSync := keep c.qSync }
  let c := all.foldl Cell.giveCursor c
  match old with
  | some w => { c with pc := w.iaddr, x := w.xs, incs := w.incs, loops := w.loops, mbox := w.mbox, job := w.job, issued := w.seq,
                       lead := { c.lead with bases := w.bases } }
  | none => c

/-- STOP_REQUEST (R348): the request reaches the cell. -/
def execStopRequest (c : Fin 4096) (s : State) : Host.Outcome State Fault Refusal :=
  let k := s.cell c.val
  .next (if k.stopReq ∧ !k.stopping then s.setCell c.val { k.withdraw with stopReq := false, stopping := true, atRest := false } else s)

/-- The instruction that a stop ended at its cursor, if any. -/
def Cell.stoppedInstr (c : Cell) : Option QInstr :=
  (c.qVector ++ c.qArray ++ c.lead.started.map (·.q)).find? c.stoppedAt

/-- Is every engine idle but for the stopped instruction? -/
def Cell.quiet (c : Cell) : Bool :=
  let rest := match c.stoppedInstr with
    | some h => c.inFlight.filter (fun (q : QInstr) => decide (q.seq ≠ h.seq))
    | none => c.inFlight
  rest.isEmpty && c.lead.tags.isEmpty && c.lead.ring.isEmpty && c.lead.port.isEmpty

/-- The fetch cursor of a stopped lead instruction (R245, R349): NEXT is a piece of L.FETCH, an entry of L.GATHER. -/
def LeadInstr.cursor (i : LeadInstr) : FetchCursor :=
  { iaddr := i.q.iaddr, job := i.q.job, next := i.next / i.unit, xstart := i.x0, bases := i.bases }

/-- The cell at rest: the sequencer image of R348 and the cursors of R349, of which the stopped instruction leaves its own. -/
def Cell.rest (c : Cell) : Cell :=
  match c.stoppedInstr with
  | none => { c with atRest := true, incs := [] }
  | some h =>
    let cur := (c.lead.started.find? (fun i => decide (i.q.seq = h.seq))).map LeadInstr.cursor
    { c with atRest := true, pc := h.iaddr, x := h.xs, incs := [], loops := h.loops, mbox := h.mbox, job := h.job, issued := h.seq,
             qVector := [], qArray := [], veStop := c.veCur.orElse (fun _ => c.veStop), veCur := none, mergeStop := c.merge.orElse (fun _ => c.mergeStop),
             merge := none, lead := { c.lead with started := [], cursor := cur.orElse (fun _ => c.lead.cursor), bases := h.bases } }

/-- CELL_AT_REST (R348). -/
def execCellAtRest (c : Fin 4096) (s : State) : Host.Outcome State Fault Refusal :=
  let k := s.cell c.val
  .next (if k.stopping ∧ !k.atRest ∧ k.quiet then s.setCell c.val k.rest else s)

/-! ### The drain (R486) -/

/-- What a drain clears in a cell (Table 269). -/
def Cell.drained (c : Cell) : Cell :=
  { c with st := .idle, pc := 0, job := 0, loops := [], mbox := [], qTile := [], qArray := [], qVector := [], qChannel := [], qLead := [], qSync := [],
           incs := [], merge := none, mergeStop := none, veCur := none, veStop := none, summaries := 0, lead := { c.lead with tags := [], started := [], cancels := [], cursor := none, ring := [], port := [], tail := c.lead.head },
           tx := List.replicate 4 {}, rx := List.replicate 4 {}, nbrOut := [], chIn := List.replicate 8 {}, chOut := List.replicate 8 {}, sync := none,
           switched := false, filling := false, started := none, stopReq := false, stopping := false, atRest := false }

/-- End the requests of a team that a drain ends (R486 step 4): bivouacked ones keep their records. -/
def State.endTeamReqs (s : State) (t : Nat) (alsoStaged : Bool) : State :=
  let x := s.team t
  (s.reqsWhere (fun q => decide (q.team = t) && decide (q.st ≠ .bivouacked) && (alsoStaged || !q.staged))).foldl (fun s r =>
    s.endReq r stFault x.reason x.cause) s

/-- The resources of Table 269 that a section leaves. -/
def State.clearSection (s : State) (t : Nat) : State :=
  let ps := s.members t
  let x := s.team t
  let mine (L : Nat) : Bool := ps.contains (L / 64)
  let s := { s with nbr := s.nbr.filter (fun m => !mine m.cell), xbar := s.xbar.filter (fun p => !(s.partClus ps).contains p.dest.cluster) }
  let s := (s.partCells ps).foldl (fun s L => (s.countTime L).setCell L (s.cell L).drained) s
  let s := ps.foldl (fun s p => (List.range 16).foldl (fun s n =>
    let b := s.bar p n
    s.setBar p n (if x.staged.isSome then b.setGen x.gen {} else { b with g0 := {}, g1 := {} })) s) s
  let s := (s.partClus ps).foldl (fun s g =>
    let c := s.clu g
    s.setClu g { c with dma := [], dmaTags := [], upd := none, updTags := [], sums := [], taps := [], collect := [], switched := false, plaus := [],
                        router := { c.router with switchDue := false } }) s
  let s := s.clearWheels t
  let s := s.setTeam t { s.team t with running := none, faulted := false, secEnd := false, cutover := 0, swStart := none, swDeadline := none,
                                       lanes := [], budgets := [], cause := 0, reason := 0, activeCard := none }
  let s := s.setMembers ps R.PART_ADM_CUTOVER F.PART_ADM_CUTOVER_CUTOVER 0
  s.setMembers ps R.SECT_RUN_ID F.SECT_RUN_ID_SECTION_ID 0

/-- Does a channel tile, marker or tap of a team's cells travel? -/
def State.tilesFly (s : State) (t : Nat) : Bool :=
  let ps := s.members t
  s.net.any (fun q => match q.sender with
    | .cell l => ps.contains (l / 64) && decide (vcOf q.pkt.type = 2)
    | _ => false)

/-- Steps 4 to 6 of a drain (R486): requests, the resources of Table 269, the staged section, and EMPTY. -/
def State.drainEnd (s : State) (t : Nat) : State :=
  let s := (s.endTeamReqs t (s.team t).staged.isNone).clearSection t
  let s := (List.range 8).foldl (fun s j => s.unbind t j) s
  let s := s.setRun t .empty
  if (s.team t).staged.isSome then s.enterSwitching t else s

/-- DRAIN_COMPLETE (R486): every cell at rest and every cancellation complete. -/
def execDrainComplete (p : Fin 64) (s : State) : Host.Outcome State Fault Refusal :=
  let t := p.val
  let ps := s.members t
  let idle (L : Nat) : Bool := let c := s.cell L; c.atRest && c.lead.cancels.isEmpty
  .next (
    if (s.team t).run = .draining ∧ (s.partCells ps).all idle ∧ (s.partClus ps).all (fun g => (s.clu g).dmaCancels.isEmpty && (s.clu g).updCancels.isEmpty) ∧ !s.tilesFly t then s.drainEnd t else s)

end Sys2Proof.Machine
end

