-- ==== Sys2Proof/Machine/Reset.lean ====
section
/-! DEFINITION. Resets (R473, R474, R476, R484 to R490): module resets and their triggers, partial resets, and the slots and clusters that tests put out of service
(R478). -/

namespace Sys2Proof.Machine

/-! ### Slots and clusters out of service (R317, R478) -/

/-- Is a cluster out of service (Table 267)? -/
def State.cluOut (s : State) (g : Nat) : Bool := (s.fld (R.BOOT_DIE (g / 32)) F.BOOT_DIE_CLU_FAIL).testBit (g % 32)

/-- Has a logical cell's position a serving slot (R317)? -/
def State.served (s : State) (L : Nat) : Bool :=
  let a := R.CLU_SLOT_MAP (s.clusterOf L)
  let j := L % 16
  !s.cluOut (s.clusterOf L) && (decide (s.fld a F.CLU_SLOT_MAP_SPARE_POS = j) || !(s.fld a F.CLU_SLOT_MAP_RETIRED).testBit j)

/-- Lowest unserved populated index of a partition, 64 when every position is served (R317). -/
def State.lowUnserved (s : State) (p : Nat) : Nat :=
  ((List.range 64).find? (fun i => s.populated (64 * p + i) && !s.served (64 * p + i))).getD 64

/-- Is a partition degraded (R317)? -/
def State.degraded (s : State) (p : Nat) : Bool := decide (s.lowUnserved p < 64)

/-- Fence of a cluster's retired slots (R397, R487 step 4). -/
def State.retiredFence (s : State) (g : Nat) : Nat :=
  let a := R.CLU_SLOT_MAP g
  s.fld a F.CLU_SLOT_MAP_RETIRED + (if s.fld a F.CLU_SLOT_MAP_SPARE_GOOD = 1 then 0 else 65536)

/-- Retire a slot before ready (Table 267): a good idle spare takes its position. -/
def State.retireSlot (s : State) (g slot : Nat) : State :=
  let a := R.CLU_SLOT_MAP g
  let s :=
    if slot = 16 then (s.setFld a F.CLU_SLOT_MAP_SPARE_POS 0x1F).setFld a F.CLU_SLOT_MAP_SPARE_GOOD 0
    else
      let s := s.setFld a F.CLU_SLOT_MAP_RETIRED (s.fld a F.CLU_SLOT_MAP_RETIRED ||| 2 ^ slot)
      if (s.fld a F.CLU_SLOT_MAP_POPULATED).testBit slot ∧ s.fld a F.CLU_SLOT_MAP_SPARE_GOOD = 1 ∧ s.fld a F.CLU_SLOT_MAP_SPARE_POS = 0x1F
      then s.setFld a F.CLU_SLOT_MAP_SPARE_POS slot else s
  s.setFld (R.CLU_RTR_FENCE g) F.CLU_RTR_FENCE_FENCE (s.retiredFence g)

/-- Poison every anchor of a cluster: waiters wake with the poisoned status, Camley streams that use one are disabled (R278, R442). -/
def State.poisonAnchors (s : State) (g : Nat) : State :=
  let s := (List.range 128).foldl (fun s i => s.setAncPois (128 * g + i) true) s
  let s := ((s.clu g).mons.filterMap id).foldl (fun s m => s.wake m.anchor 4 (fun _ => true)) s
  s.disableStreamsOf g

/-- Take a cluster out of service (Table 267): why 0 self-test, 1 firmware, 2 known-answer. It owns no wheel entries. Before READY the slot map shows its positions
unserved, the spare gone and every slot retired (assumption 114); from READY on R20 leaves the map as it is. -/
def State.cluFails (s : State) (g why : Nat) : State :=
  if s.cluOut g then s else
  let d := R.BOOT_DIE (g / 32)
  let a := R.CLU_SLOT_MAP g
  let s := s.setFld d F.BOOT_DIE_CLU_FAIL (s.fld d F.BOOT_DIE_CLU_FAIL ||| 2 ^ (g % 32))
  let s := if s.stage = 7 then s
    else ((s.setFld a F.CLU_SLOT_MAP_SPARE_POS 0x1F).setFld a F.CLU_SLOT_MAP_SPARE_GOOD 0).setFld a F.CLU_SLOT_MAP_RETIRED 0xFFFF
  let s := ((s.clearWheelsOf [g]).poisonAnchors g).updCtl g (fun c => { c with st := .reset })
  s.raise { code := 0x6501, kind := 2, src := g, detail := why }

/-- A slot fails a boot test (Table 267): why 0 self-test, 1 known-answer. -/
def State.slotFails (s : State) (k why : Nat) : State :=
  let g := k / 17
  (((s.retireSlot g (k % 17)).bump (R.BOOT_DIE (g / 32)) F.BOOT_DIE_SLOT_FAILS 1)).raise { code := 0x6500, kind := 9, src := k, detail := why }

/-! ### Module resets -/

/-- Does a module reset clear a register of a domain (R474)? -/
def Dom.cleared (cold : Bool) : Dom → Bool
  | .auxPower | .vbatt => false
  | .coldReset => cold
  | _ => true

/-- Does a module reset keep the memory at an address (Table 265)? The far tier's contents are the board's. -/
def memKept (cold : Bool) (a : Nat) : Bool := (!cold && decide (a < 0x8000000000)) || decide (0x020000000000 ≤ a ∧ a < 0x040000000000)

/-- Every store, unit and register of a module reset at its reset value (R474, Table 265). -/
def State.enterReset (s : State) (cold : Bool) : State :=
  let s := s.clearRegs (fun a => match regDescAt a with
    | some (d, _) => d.dom.cleared cold
    | none => false)
  { s.stopDies with
    mem := s.mem.filter (fun c => memKept cold c.1),
    poison := s.poison.filter (fun k => memKept cold (64 * k)),
    badReg := [], adm := {}, anchors := [], ancPois := [], tlbBusy := false, imsic := [], cores := [], dir := [], partEvt := [],
    evt := if cold then {} else s.evt,
    host := { s.host with pages := [], numVFs := 0, copies := [] },
    sec := if cold then { s.sec with voted := [], isolated := false, identity := false, zeroised := false, scan := false, run := none, grants := 0,
                                     measure := [], spdm := {} }
           else { s.sec with run := none, spdm := {} },
    pwr := { s.pwr with trip := s.pwr.trip && !cold, target := 1600, stretched := List.replicate 8 false },
    boot := { s.boot with pcieUp := false, fetched := [], resets := [], absorbed := none, wait := none },
    integ := if cold then { window := s.time.pitches }
             else { condemned := s.integ.condemned, returned := s.integ.returned, window := s.integ.window } }

/-- The warm path up to training (Table 268 step 1). -/
def State.warmVerify (s : State) : State :=
  match s.verifyBoot s.boot.slot with
  | (s, true) => (s.setFld R.BOOT_STATUS F.BOOT_STATUS_STAGE 3).setFld R.BOOT_STATUS F.BOOT_STATUS_PATH 1
  | (s, false) => s

/-- A module reset is triggered (R473, R484, R485, R489). `notify`: by RESET_CMD or a management request. A warm trigger in the safe state, or before a cold boot
has reached READY, runs the cold path. -/
def State.moduleReset (s : State) (cold notify : Bool) : State :=
  if s.supply = 3 ∨ s.boot.testMode then s
  else
    let cold := cold || decide (s.stage = 8) || !s.boot.ready
    let busy := s.sec.storing
    let s := if notify ∧ s.linkUp then s.postAll stReset else s
    let s := if notify then s.dropCommands else s
    if busy then { s with boot := { s.boot with wait := some (cold || s.boot.wait.getD false) } }
    else
      let s := s.enterReset cold
      if cold then s else s.warmVerify

/-! ### Epochs (R258, R259) -/

/-- The router itself, as the destination of EPOCH_SET. -/
def routerCode : Nat := 31

/-- Present epoch under a router-table key: a logical cell, or 4,096 + cluster. -/
def State.epochAt (s : State) (key : Nat) : Nat := s.epochOf (if key < 4096 then .cell key else .cluster (key - 4096))

/-- The hub advances an epoch: EPOCH_SET to every router, with its effective waymark. -/
def State.advanceEpoch (s : State) (key effective : Nat) : State :=
  let e := (s.epochAt key + 1) % 256
  (List.range 256).foldl (fun s g =>
    s.send { pkt := .epochSet (if key < 4096 then 0 else 1) (key % 4096) e effective, gs := true, dest := ⟨g, routerCode⟩, src := hubEp g, sender := .hub }) s

/-! ### Partial resets (R487 to R489) -/

/-- Is a requested partial reset in progress (Table 273)? -/
def State.resetBusy (s : State) : Bool := s.boot.resets.any (·.cmd) || s.boot.absorbed.isSome

/-- Does a reset level name a target that the part has: a populated logical cell, a cluster, a partition? -/
def State.resetTarget (s : State) (level target : Nat) : Bool :=
  (decide (level = 1) && s.populated target) || (decide (level = 2) && decide (target < 256)) || (decide (level = 3) && decide (target < 64))

/-- A write of RESET_CMD (Table 273). -/
def State.writeResetCmd (s : State) (v : Word) : State :=
  let level := getF v F.RESET_CMD_LEVEL
  let target := getF v F.RESET_CMD_TARGET
  let s := (s.setFld R.RESET_CMD F.RESET_CMD_LEVEL level).setFld R.RESET_CMD F.RESET_CMD_TARGET target
  if getF v F.RESET_CMD_GO = 0 ∨ s.resetBusy then s
  else if level = 4 ∨ level = 5 then s.moduleReset (decide (level = 5)) true
  else if s.resetTarget level target then s.startReset { level := level, target := target, cmd := true }
  else s.setFld R.RESET_CMD F.RESET_CMD_STATUS 1

/-- A write of RESET_CMD as the command of one level. -/
def State.resetLevel (s : State) (level : Nat) (v : Word) : State :=
  if getF v F.RESET_CMD_LEVEL = level ∧ s.pwr.aux then s.writeResetCmd v else s

/-- CELL_RESET (R487). -/
def execCellReset (v : Word) (s : State) : Host.Outcome State Fault Refusal := .next (s.resetLevel 1 v)

/-- CLUSTER_RESET (R487). -/
def execClusterReset (v : Word) (s : State) : Host.Outcome State Fault Refusal := .next (s.resetLevel 2 v)

/-- PARTITION_RESET (R488). -/
def execPartitionReset (v : Word) (s : State) : Host.Outcome State Fault Refusal := .next (s.resetLevel 3 v)

/-- MODULE_WARM_RESET (R484). -/
def execModuleWarmReset (v : Word) (s : State) : Host.Outcome State Fault Refusal := .next (s.resetLevel 4 v)

/-- MODULE_COLD_RESET (R475). -/
def execModuleColdReset (v : Word) (s : State) : Host.Outcome State Fault Refusal := .next (s.resetLevel 5 v)

/-- MGMT_WARM_RESET (R473, R485). -/
def execMgmtWarmReset (s : State) : Host.Outcome State Fault Refusal := .next (if s.pwr.aux then s.moduleReset false true else s)

/-- MGMT_COLD_RESET (R473). -/
def execMgmtColdReset (s : State) : Host.Outcome State Fault Refusal := .next (if s.pwr.aux then s.moduleReset true true else s)

/-- PERST_N_ASSERT (R473, R484, R485). -/
def execPerstNAssert (s : State) : Host.Outcome State Fault Refusal :=
  .next (
    if s.boot.perst ∨ !s.pwr.aux then s
    else ({ s with boot := { s.boot with perst := true } }).moduleReset (decide (s.fld R.BOOT_CTRL F.BOOT_CTRL_PERST_COLD = 1)) false)

/-- PERST_N_DEASSERT (R475 step 4a, R476): a link that waited for it trains. -/
def execPerstNDeassert (s : State) : Host.Outcome State Fault Refusal :=
  .next (
    if !s.boot.perst ∨ !s.pwr.aux then s
    else
      let s := { s with boot := { s.boot with perst := false } }
      if 4 ≤ s.stage then s.trainHost else s)

/-- Domains that a partial reset of a level clears. -/
def Dom.inLevel (level : Nat) : Dom → Bool
  | .cellReset => true
  | .clusterReset => decide (2 ≤ level)
  | .partReset => decide (3 ≤ level)
  | _ => false

/-- Does the scope of a reset hold a register? Epochs, fences, the slot map and the wheels keep their current values (R487 steps 3 and 4). -/
def State.resetReg (s : State) (r : PReset) (a : Nat) : Bool :=
  match regDescAt a with
  | some (d, u) =>
    d.dom.inLevel r.level &&
      (match d.blk with
      | .cell => s.holdsCell r u && decide (d.off ≠ 0x680)
      | .cluster => s.holdsClu r u && decide (d.off ≠ 0x200) && decide (d.off ≠ 0x508) && decide (d.off ≠ 0x400)
      | .part => s.holdsPart r u
      | _ => false)
  | none => false

/-- A packet on its way to a cell under reset is absorbed and counted (Table 269). -/
def State.absorbPkts (s : State) (r : PReset) : State :=
  let hit (p : Packet) : Bool := decide (p.dest.code < 16) && s.holdsCell r (s.cellOf p.dest)
  let s := (s.net.filter hit).foldl (fun s p => s.bump (R.CLU_RTR_DROP p.dest.cluster) F.CLU_RTR_DROP_FENCED (1 + p.pkt.body)) s
  { s with net := s.net.filter (fun p => !hit p) }

/-- The logic of a cluster under reset: the router's slot tables go with it (Table 137), its epochs stay. The controller fetches its firmware again (R480) unless
its cluster is out of service. -/
def Clu.resetLogic (c : Clu) (out : Bool) : Clu :=
  { ctl := { st := if out then .reset else .fetch }, router := { c.router with table := none, shadow := none, switchDue := false }, epoch := c.epoch }

/-- The scope of a partial reset in reset (R487 steps 2 to 4). -/
def State.resetScope (s : State) (r : PReset) : State :=
  let p := s.scopePart r
  let gen := (s.team (s.teamId p)).gen
  let cells := (List.range 64).filterMap (fun i => if s.holdsCell r (64 * p + i) then some (64 * p + i) else none)
  let clus := (List.range 4).filterMap (fun k => if s.holdsClu r (s.cluster p k) then some (s.cluster p k) else none)
  let s := s.absorbPkts r
  let s := { s with nbr := s.nbr.filter (fun m => !s.holdsCell r m.cell),
                    xbar := s.xbar.filter (fun p => !(s.holdsCell r (s.cellOf p.src) || s.holdsCell r (s.cellOf p.dest) || s.holdsClu r p.dest.cluster)) }
  let s := cells.foldl (fun s L => s.setCell L { gen := gen }) s
  let s := clus.foldl (fun s g => (((s.clu g).upd.toList.foldl State.abandonUpd s).poisonAnchors g).setClu g ((s.clu g).resetLogic (s.cluOut g))) s
  let s := { s with bars := s.bars.filter (fun (b : Nat × BarUnit) => !(decide (b.1 / 16 = p) && s.holdsClu r (s.cluster p (b.1 % 16 / 4)))),
                    boot := { s.boot with fetched := s.boot.fetched.filter (fun g => !clus.contains g) } }
  let s := s.clearRegs (s.resetReg r)
  let s := clus.foldl (fun s g => s.setFld (R.CLU_RTR_FENCE g) F.CLU_RTR_FENCE_FENCE (s.retiredFence g)) s
  let w := s.time.count + 1
  let s := cells.foldl (fun s L => s.advanceEpoch L w) s
  clus.foldl (fun s g => s.advanceEpoch (4096 + g) w) s

/-- A partition reset dissolves the partition's team (R488): bivouacked requests end, every member is a team of its own. -/
def State.dissolve (s : State) (r : PReset) : State :=
  let t := s.teamId r.target
  let ps := s.members t
  let gen := (s.team t).gen
  let s := (s.reqsWhere (fun q => decide (q.team = t))).foldl (fun s n =>
    if r.cmd then s.endReq n stExpired stReset
    else (s.updReq n (fun q => { q with hwSeq := r.event, hwCode := r.code })).endReq n stFault stHwFault r.code) s
  let s := ps.foldl (fun s p => ({ s with regs := SMap.del (R.SECT_TEAM p) s.regs }).setTeam p { gen := gen && decide (p ≠ r.target) }) s
  { s with partEvt := SMap.del r.target s.partEvt }

/-- May the reset at the front end: every team it drained is empty? -/
def State.resetReady (s : State) (r : PReset) : Bool :=
  let t := s.teamId (s.scopePart r)
  (t :: s.traverseMates t).all (fun t => decide ((s.team t).run = .empty) && (s.team t).load.isNone)

/-- The oldest partial reset that may end does so (R487); a section that has started since in a scope is drained. -/
def State.resetDone (s : State) : State :=
  match s.boot.resets.find? s.resetReady with
  | none => s.boot.resets.foldl (fun s r => s.resetDrain (s.teamId (s.scopePart r)) r) s
  | some r =>
    let s := if r.level = 3 then s.dissolve r else s
    let s := s.resetScope r
    let ab := if s.boot.resets.any (fun x => decide (x ≠ r) && (match s.boot.absorbed with
        | some (l, t, _) => s.scopeHolds x { level := l, target := t, cmd := true }
        | none => false)) then s.boot.absorbed else none
    let st := match s.boot.absorbed, ab with
      | some (_, _, v), none => some v
      | _, _ => if r.cmd then some 0 else none
    let s := { s with boot := { s.boot with resets := s.boot.resets.erase r, absorbed := ab } }
    let s := match st with
      | some v => s.setFld R.RESET_CMD F.RESET_CMD_STATUS v
      | none => s
    s.raise { code := 0x6503, detail := r.level + 256 * r.target }

/-- RESET_DONE (R487). -/
def execResetDone (s : State) : Host.Outcome State Fault Refusal := .next s.resetDone

end Sys2Proof.Machine
end

