-- ==== Sys2Proof/Machine/Ledger.lean ====
section
/-! DEFINITION. The ledger (R294 to R296), the search of R299 with its retry waymarks (R301, R306, R318), rebooking (R305, R311, R313, R320), and the lane positions
and budgets of a pitch (R292, R296). -/

namespace Sys2Proof.Machine

/-! ### Cards and shares -/

/-- Profile that serves a batch. -/
def Card.profile (k : Card) (batch : Nat) : Option Profile := k.profiles.find? (fun p => decide (p.batch = batch))

/-- Phases of a profile, in order. -/
def Card.phasesOf (k : Card) (p : Profile) : List Phase := (k.phases.drop p.first).take p.phases

/-- The largest figures of some phases (R294), as a phase of a given duration. -/
def peakOf (l : List Phase) (dur : Nat) : Phase :=
  l.foldl (fun m p => { m with lanes := max m.lanes p.lanes, slots := max m.slots p.slots, nt := maxV m.nt p.nt, rd := maxV m.rd p.rd, wr := maxV m.wr p.wr })
    { dur := dur, lanes := 0, input := false, commit := false, output := false, slots := 0, cellFc := 0, nt := mulV 0 [], rd := mulV 0 [], wr := mulV 0 [] }

/-- The section of a team with a SECTION_ID, and whether it is the staged one (R306). -/
def State.sectNamed (s : State) (t id : Nat) : Option (Sect × Bool) :=
  let x := s.team t
  match x.running.filter (fun y => decide (y.id = id)) with
  | some y => some (y, false)
  | none => (x.staged.filter (fun y => decide (y.id = id))).map (fun y => (y, true))

/-- Card and profile a request was admitted on. -/
def State.profileOf (s : State) (q : Request) : Option (Card × Profile) :=
  match s.sectNamed q.team q.sect with
  | some (y, _) => y.card.bind (fun k => (k.profile q.batch).map (fun p => (k, p)))
  | none => none

/-- An engine's part of a stack or port (R295): ENGINE_A's is rounded down, ENGINE_B has the rest. -/
def State.sharePart (s : State) (a e total : Nat) : Nat :=
  let cut := total * s.fld a F.ADM_NT_SHARE_SPLIT_A / 256
  (if s.fld a F.ADM_NT_SHARE_ENGINE_A = e then cut else 0) + (if s.fld a F.ADM_NT_SHARE_ENGINE_B = e then total - cut else 0)

/-- Reservable rate of a far-tier port per direction (R225). -/
def State.farRate (s : State) (p : Nat) : Nat :=
  let a := R.CXL_PORT_STATUS p
  let r := s.fld a F.CXL_PORT_STATUS_RATE
  let w := s.fld a F.CXL_PORT_STATUS_WIDTH
  if r = 0 ∨ w = 0 then 0 else 40000 / (if r = 1 then 2 else 1) / (if w = 1 then 2 else 1)

/-! ### The search (R299) -/

/-- A phase to place: its index, duration, whether it needs input, and the figures it holds. -/
structure Wanted where
  idx : Nat
  dur : Nat
  input : Bool
  fig : Phase
  fixed : Bool := false              -- it stands at the end of the phase before it: the reserve

/-- What a search runs on: the capacities and the columns booked, per pitch from the present one. -/
structure Room where
  time : TimeBase
  cur : Nat                          -- the present pitch
  cap : Cols                         -- capacities; `jobs` 6
  used : List (Cols × Cols)          -- columns of the team, columns of its engine
  own : Cols := {}                   -- jobs, lanes and slots that the request's released bookings hold in the present pitch, which count once

/-- First waymark after the horizon (R294). -/
def Room.horizon (m : Room) : Nat := (m.cur + 256) * m.time.pitchLen + m.time.pitchPhase

/-- Does every column of pitch k hold a contribution more (R294)? -/
def Room.holds (m : Room) (k : Nat) (c : Cols) : Bool :=
  match (if m.cur ≤ k then m.used[k - m.cur]? else none) with
  | none => false
  | some (u, e) =>
    let c := if k = m.cur ∧ c.jobs ≠ 0 then { c with lanes := c.lanes - m.own.lanes, jobs := c.jobs - m.own.jobs, slots := c.slots - m.own.slots } else c
    let le (x y z : List Nat) : Bool := (List.range 8).all (fun i => decide (nthD x i 0 + nthD y i 0 ≤ nthD z i 0))
    decide (u.lanes + c.lanes ≤ m.cap.lanes) && decide (u.jobs + c.jobs ≤ m.cap.jobs) && decide (u.slots + c.slots ≤ m.cap.slots) &&
      le e.nt c.nt m.cap.nt && le e.rd c.rd m.cap.rd && le e.wr c.wr m.cap.wr

/-- The interval a phase takes from s. -/
def Wanted.at' (w : Wanted) (s : Nat) : Interval := ⟨s, s + w.dur, w.fig.lanes, w.fig.slots, w.fig.nt, w.fig.rd, w.fig.wr, w.idx⟩

/-- Pitches that [a, b) touches. -/
def pitchesOf (t : TimeBase) (a b : Nat) : List Nat :=
  if b ≤ a then [] else (List.range ((t.pitchOf (b - 1)).1 - (t.pitchOf a).1 + 1)).map (· + (t.pitchOf a).1)

/-- Does a phase fit at s beside the phases placed before it? -/
def Room.fits (m : Room) (placed : List Interval) (w : Wanted) (s : Nat) : Bool :=
  let l := placed ++ [w.at' s]
  (pitchesOf m.time s (s + w.dur)).all (fun k => m.holds k (contribution m.time l k))

/-- Least start at or after t; the reserve starts at t itself (R299). -/
def Room.place (m : Room) (placed : List Interval) (w : Wanted) (t : Nat) : Option Nat :=
  let n := m.horizon + 1 - w.dur - t
  ((List.range (if w.fixed then min 1 n else n)).find? (fun i => m.fits placed w (t + i))).map (t + ·)

/-- Place the phases in order from t: the end of the last and the intervals; none: past the horizon. -/
def Room.search (m : Room) (r0 : Nat) : List Wanted → Nat → List Interval → Option (Nat × List Interval)
  | [], t, l => some (t, l)
  | w :: ws, t, l =>
    let t := if w.input then max t (r0 + 1) else t
    match m.place l w t with
    | none => none
    | some s => m.search r0 ws (s + w.dur) (l ++ [w.at' s])

/-- What is booked: the phases, the replay reserve a G1 request adds, the earliest start. -/
structure Booking where
  ws : List Wanted
  floor : Nat := 0                   -- R306

/-- The phases of a profile from index i, with the reserve of a G1 request (R294, R299); `pre`: a phase that stands before them (its duration). -/
def bookingOf (k : Card) (p : Profile) (cls i : Nat) (pre : Option Nat) : List Wanted :=
  let ps := k.phasesOf p
  let pk := peakOf ps 0
  let fig (x : Phase) : Phase := if cls = 2 then pk else x
  let l := ((List.range ps.length).zip ps).drop i
  (match pre with
    | some d => [⟨ps.length + 1, d, false, pk, false⟩]
    | none => []) ++
  l.map (fun x => ⟨x.1, x.2.dur, x.2.input, fig x.2, false⟩) ++
  (if cls = 2 ∧ p.replayWm ≠ 0 then [⟨ps.length, p.replayWm, false, pk, true⟩] else [])

/-- The room of a team whose section has a SLOT_CAP. -/
def State.room (s : State) (t slotCap : Nat) : Room :=
  let e := t / 8
  let P := s.time.pitchLen
  let k := s.pitch
  { time := s.time, cur := k,
    cap := ⟨16, 6, slotCap, (List.range 8).map (fun i => s.sharePart (R.ADM_NT_SHARE i) e (1638400 * P)),
            (List.range 8).map (fun i => s.sharePart (R.ADM_CXL_SHARE i) e (s.farRate i * P)),
            (List.range 8).map (fun i => s.sharePart (R.ADM_CXL_SHARE i) e (s.farRate i * P))⟩,
    used := (List.range 256).map (fun i => (s.ledger (fun x => decide (x = t)) (k + i), s.ledger (fun x => decide (x / 8 = e)) (k + i))) }

/-- A search from t0: completion c (R41 adds 1 in HOLDOVER) and intervals. -/
def State.searchFrom (s : State) (m : Room) (b : Booking) (t0 r0 : Nat) : Option (Nat × List Interval) :=
  (m.search r0 b.ws (max t0 b.floor) []).map (fun x => (if s.time.st = .holdover then x.1 + 1 else x.1, x.2))

/-- Booked start of the first phase. -/
def firstStart (l : List Interval) : Nat := match l with
  | i :: _ => i.a
  | [] => 0

/-- Why a search books nothing: the reason of Table 173 and its retry waymark. -/
structure Denial where
  reason : Nat
  retry : Option Nat
  deriving DecidableEq, Repr

/-- The retry waymark of a booking that misses its deadline (R301). -/
def State.retryOf (s : State) (m : Room) (b : Booking) (wd r0 deadline c s0 : Nat) : Denial :=
  if c - s0 ≤ deadline then ⟨0x01, some (max (wd + 1) (c - deadline))⟩
  else
    let ok (i : Nat) : Option Nat :=
      let w := s.time.boundaryAfter wd + i * s.time.pitchLen
      if m.horizon ≤ w then none
      else match s.searchFrom m b w r0 with
        | some (c, _) => if c ≤ w + deadline then some w else none
        | none => none
    match (List.range 256).findSome? ok with
    | some w => ⟨0x01, some w⟩
    | none => if deadline < b.ws.foldl (fun n w => n + w.dur) 0 then ⟨0x09, none⟩ else ⟨0x0A, some m.horizon⟩

/-- A booking judged (R299, R301, R306, R318): c and the intervals, or why not. `limit`: the cutover waymark a running section's booking must keep. -/
def State.judge (s : State) (t slotCap : Nat) (b : Booking) (limit : Option Nat) (wd t0 r0 deadline : Nat) : Except Denial (Nat × List Interval) :=
  let m := s.room t slotCap
  match s.searchFrom m b t0 r0 with
  | none => .error ⟨0x0A, some m.horizon⟩
  | some (c, l) =>
    if (match limit with
        | some w => decide (w < c)
        | none => false) then .error ⟨0x0B, none⟩
    else match (s.team t).change.filter (fun x => decide (x.w < c)) with
      | some x => .error ⟨0x0D, some x.w⟩
      | none => if r0 + deadline < c then .error (s.retryOf m b wd r0 deadline c (firstStart l)) else .ok (c, l)

/-! ### Rebooking -/

/-- Absolute deadline of a request (R287). -/
def Request.due (q : Request) : Nat := q.ready.getD (max q.wd q.inputWm) + q.deadline

/-- Does a completion keep what bounds every booking of a team's running section: the cutover waymark (R306) and a pending change's W (R318)? -/
def State.boundKept (s : State) (t c : Nat) : Bool :=
  let x := s.team t
  (decide (x.cutover = 0) || decide (c ≤ x.cutover)) && (match x.change with
    | some y => decide (c ≤ y.w)
    | none => true)

/-- Book a request's phases from i anew, from t0 against its own absolute deadline (R305, R311, R320, R395). Its old bookings are free for it from the next
pitch on (R314); in the present one they stay held, and its jobs, lanes and slots count once (R294). -/
def State.replan (s : State) (r t i : Nat) (pre : Option Nat) (t0 : Nat) : Option (Nat × List Interval) :=
  match s.req r with
  | none => none
  | some q =>
    match s.profileOf q with
    | none => none
    | some (k, p) =>
      let s := s.unbook r
      let own := if q.team = t then s.ghostOf r s.pitch else {}
      match s.searchFrom { s.room t k.slotCap with own := own } { ws := bookingOf k p q.cls i pre } t0
          (max (t0 - 1) (q.ready.getD (max q.wd q.inputWm))) with
      | some (c, l) => if c ≤ q.due && s.boundKept t c then some (c, l) else none
      | none => none

/-! ### Lanes and budgets of a pitch (R292, R296) -/

/-- Give a request the n lowest free lane positions. -/
def giveLanes (r : Nat) : Nat → List (Option Nat) → List (Option Nat)
  | 0, l => l
  | _ + 1, [] => []
  | n + 1, none :: l => some r :: giveLanes r n l
  | n + 1, some x :: l => some x :: giveLanes r (n + 1) l

/-- The card in force for a team's lanes and budgets. -/
def Team.card (x : Team) : Option Card := match x.activeCard with
  | some k => some k
  | none => x.running.bind (·.card)

/-- A job's part of the team's budget in the present pitch (R296). -/
def State.budgetOf (s : State) (t : Nat) (q : Request) (j : Nat) : Option Budget :=
  let k := s.pitch
  let own := contribution s.time q.booked k
  let all := s.ledger (fun x => decide (x = t)) k
  let P := s.time.pitchLen
  match (s.team t).card with
  | none => none
  | some c =>
    let part (ceil tot mine : List Nat) : List Nat := (List.range 8).map (fun i =>
      let n := nthD tot i 0
      if n = 0 then 0 else min n (nthD ceil i 0 * P) * nthD mine i 0 / n)
    if own.jobs = 0 then none else some ⟨j, part c.ntCeil all.nt own.nt, part c.rdCeil all.rd own.rd, part c.wrCeil all.wr own.wr⟩

/-- The lane positions and budgets of a team for the pitch that begins (R292, R296). -/
def State.newPitch (s : State) (t : Nat) : State :=
  let k := s.pitch
  let mine := s.adm.reqs.filter (fun (x : Nat × Request) => decide (x.2.team = t) && decide ((contribution s.time x.2.booked k).jobs ≠ 0))
  let lanes := mine.foldl (fun l x => giveLanes x.1 (contribution s.time x.2.booked k).lanes l) (List.replicate 16 none)
  let buds := mine.filterMap (fun x => x.2.job.bind (fun j => s.budgetOf t x.2 j))
  s.setTeam t { s.team t with lanes := lanes, budgets := buds, resvLogged := [] }

/-- A job that starts inside a pitch that its booking touches holds its lanes and its budget from then on (R300, R303). -/
def State.joinPitch (s : State) (r j : Nat) : State :=
  match s.req r with
  | none => s
  | some q =>
    let t := q.team
    let x := s.team t
    let n := (contribution s.time q.booked s.pitch).lanes
    let ls := if x.lanes.isEmpty then List.replicate 16 none else x.lanes
    let lanes := if ls.contains (some r) then ls else giveLanes r n ls
    let buds := match s.budgetOf t q j with
      | some b => x.budgets.filter (fun y => decide (y.job ≠ j)) ++ [b]
      | none => x.budgets
    s.setTeam t { x with lanes := lanes, budgets := buds }

/-- A new booking takes the place of a request's old ones (R305, R311, R395): these are released, and a started job has the lanes and the budget of the new one
in the present pitch too (R300). δ of R382 is 0 from then on. -/
def State.rebook (s : State) (r c : Nat) (l : List Interval) : State :=
  let s := (s.unbook r).updReq r (fun q => { q with booked := l, c := c, delta := 0 })
  match (s.req r).bind (·.job) with
  | some j => s.joinPitch r j
  | none => s

end Sys2Proof.Machine
end

