-- ==== Sys2Proof/Machine/Time.lean ====
section
/-! DEFINITION. The time family (file 02): edges, ticks, time-code frames, time states, steps, the pitch configuration and the floor windows. A command that
comes when its step is not due changes nothing (assumption 5). -/

namespace Sys2Proof.Machine

/-- Do the windows and the steering follow p (R31): LOCKED, or ACQUIRE within a series of windows? -/
def TimeBase.judged (t : TimeBase) : Bool := decide (t.st = .locked) || (decide (t.st = .acquire) && decide (t.windows < 8))

/-- Leave the judged mode: the flywheel runs on from its own prediction (R525, R526). -/
def TimeBase.release (t : TimeBase) : TimeBase :=
  { t with pred := if t.ticked then t.pred + t.slew + t.interval else t.pred + t.slew, slew := 0, ticked := false }

/-- Add one to a counter of TIME_ERR (Table 29). -/
def State.timeErr (s : State) (f : Fld) : State := s.bump R.TIME_ERR f 1

/-- Log a time event without a source unit (Table 31). -/
def State.timeEvt (s : State) (code : Nat) : State := s.raise { code := code }

/-- Every accepted request carries the time-degraded flag (R42). -/
def State.flagDegraded (s : State) : State :=
  { s with adm := { s.adm with reqs := s.adm.reqs.map (fun x => (x.1, { x.2 with degraded := true })) } }

/-- Enter a time state, with its event (R40, R42, Table 31) and the interrupt of source 6 (R347). -/
def State.enter (s : State) (n : TState) : State :=
  if s.time.st = n then s else
  let t := if s.time.judged && n != .locked then s.time.release else s.time
  let s := { s with time := { t with st := n } }
  (match n with
  | .locked => { s with time := { s.time with missRun := 0, validRun := 0, validFrames := 0, disagree := 0 } }.timeEvt 0x6005
  | .holdover =>
    { s with time := { s.time with windows := s.time.missRun, validRun := 0, validFrames := 0 } }.timeEvt 0x6003
  | .degraded => s.flagDegraded.timeEvt 0x6004
  | _ => s).coreMsi 6

/-- Take one time-code sample (R34). -/
def TimeBase.sample (t : TimeBase) (b : Option Bool) (tick : Nat) : TimeBase :=
  { t with samples := (b :: t.samples).take 128, sinceTest := t.sinceTest + 1, tested := false, lastTick := tick }

/-- The 128 sampled bits as a number, first sample most significant, if none is missing. -/
def frameBits (l : List (Option Bool)) : Option Nat :=
  if l.length = 128 ∧ l.all Option.isSome then some (l.reverse.foldl (fun n b => 2 * n + b2n (b.getD false)) 0) else none

/-- Do the 16 bits from the frame's first position on equal SYNC? -/
def syncMatch (l : List (Option Bool)) : Bool :=
  decide (l.length = 128) && (l.drop 112).all Option.isSome &&
    decide ((l.drop 112).reverse.foldl (fun n b => 2 * n + b2n (b.getD false)) 0 = 0xF0F6)

/-- Is a frame test due at the position sampled last (R34)? -/
def TimeBase.testDue (t : TimeBase) : Bool := !t.tested && (if t.aligned then decide (t.sinceTest = 128) else syncMatch t.samples)

/-- A frame's 12 covered bytes, most significant first. -/
def frameBytes (f : Nat) : List Byte := (leBytes 12 (f >>> 32)).reverse

/-- Is a frame valid (R35)? -/
def frameOk (f : Nat) : Bool :=
  decide (bitsOf f 127 112 = 0xF0F6) && decide (bitsOf f 111 108 = 1) && decide (bitsOf f 106 104 = 0) && decide (bitsOf f 46 40 = 0) &&
    decide (crc32c (frameBytes f) = bitsOf f 31 0)

/-- The local count of the waymark of a tick number. -/
def TimeBase.countOf (t : TimeBase) (k : Nat) : Int := (t.count : Int) + k - t.ticks

/-- Does the ledger hold a guaranteed booking (R47)? -/
def State.guarBooked (s : State) : Bool := s.adm.reqs.any (fun x => x.2.guar && (!x.2.booked.isEmpty || x.2.moved.isSome))

/-- Does the ledger hold a guaranteed booking, or is an accepted guaranteed request in flight (R44)? -/
def State.guarHeld (s : State) : Bool := s.adm.reqs.any (fun x => x.2.guar)

/-- R36: the second of two frames in a row sets the count. -/
def State.acquireFrame (s : State) (wm : Nat) (prev : Option Nat) : State :=
  if prev = some (wm - 128) ∧ 128 ≤ wm then
    let t := s.time
    let c : Int := (wm : Int) + 127 + t.ticks - t.lastTick
    { s with time := { t with count := c.toNat, ext := some (wm + 127) } }.enter .locked
  else s

/-- R37: compare a valid frame with the local count. A frame that straddles a step of R44 is compared with the count after the step (assumption 115). -/
def State.compareFrame (s : State) (wm : Nat) : State :=
  let t := s.time
  let d : Int := (wm : Int) + 127 - t.countOf t.lastTick
  if d = 0 then { s with time := { t with disagree := 0 } }
  else
    let s := s.timeErr F.TIME_ERR_TCODE_MISMATCH
    let run : Int := if 0 < d then (if 0 < t.disagree then t.disagree + 1 else 1) else (if t.disagree < 0 then t.disagree - 1 else -1)
    let s := { s with time := { s.time with disagree := run } }
    if run.natAbs < 3 then s else { s with time := { s.time with stepPending := true } }.enter .degraded

/-- R43: the second valid frame after 256 valid waymarks decides between the slew and the step. Consecutive valid frames have WM_COUNTs that differ by exactly 128
(assumption 115). -/
def State.returnFrame (s : State) (wm : Nat) (prev : Option Nat) : State :=
  let t := s.time
  if t.validRun < 384 then { s with time := { t with validFrames := 0 } }
  else
    let n := if 0 < t.validFrames ∧ prev = some (wm - 128) then t.validFrames + 1 else 1
    let s := { s with time := { t with validFrames := n } }
    if n < 2 then s
    else if (wm : Int) + 127 = t.countOf t.lastTick ∧ t.phaseErr.abs ≤ 100 then
      let wait := t.tickWait.isNone && decide (t.ticks < t.lastTick)
      { s with time := { s.time with tickWait := if wait then some t.pred else t.tickWait,
                                     pred := (if wait then t.pred + t.interval else t.pred) + t.phaseErr,
                                     ticked := false, slew := -t.phaseErr } }.enter .locked
    else { s with time := { s.time with stepPending := true } }.enter .degraded

/-- A tested frame fails R35: it is counted, and the second in a row ends the alignment (R34). -/
def State.badFrame (s : State) : State :=
  let s := s.timeErr F.TIME_ERR_TCODE_BAD
  let t := s.time
  if !t.aligned then s
  else if t.failRun + 1 < 2 then { s with time := { t with failRun := t.failRun + 1 } }
  else { s with time := { t with failRun := 0, aligned := false } }

/-- The bit positions of m waymarks of a gap (R34): each is missing, and a frame that ends in the gap fails. At most two such frames are tested. -/
def State.passGap : Nat → Nat → State → State
  | f + 1, m, s =>
    let t := s.time
    if t.aligned && decide (128 ≤ t.sinceTest + m) then passGap f (t.sinceTest + m - 128) ({ s with time := { t with sinceTest := 0 } }.badFrame)
    else { s with time := { t with sinceTest := t.sinceTest + m } }
  | 0, _, s => s

/-- The waymarks of a gap behind the eighth empty window, m of them by the flywheel's count (assumption 115). -/
def State.gap (s : State) (m : Nat) : State :=
  let t := s.time
  if m = 0 then s else { s with time := { t with samples := (List.replicate (min m 128) none ++ t.samples).take 128 } }.passGap 3 m

/-- Test the frame whose last bit is the sample taken last (R34 to R37, R43). -/
def State.testFrame (s : State) : State :=
  if !s.time.testDue then s else
  let t := s.time
  let s := { s with time := { t with tested := true, sinceTest := 0 } }
  match frameBits t.samples with
  | none => s.badFrame
  | some f =>
    if !frameOk f then s.badFrame else
    let wm := bitsOf f 103 40
    let prev := t.lastFrame
    let s := { s with time := { s.time with aligned := true, failRun := 0, anyFrame := true, lastFrame := some wm, traceable := bitOf f 107,
                                            sourceId := bitsOf f 39 32, ext := some (wm + 127) } }
    match t.st with
    | .acquire => s.acquireFrame wm prev
    | .locked => s.compareFrame wm
    | _ => (s.compareFrame wm).returnFrame wm prev

/-- R526, the law: the interval and the next prediction after a steering edge with error e. -/
def steerLaw (i p e : Rat) : Rat × Rat :=
  let i' := i + e / 1024
  let c := if e / 8 < -2 then -2 else if 2 < e / 8 then 2 else e / 8
  (i', p + i' + c)

/-- The slew one waymark further: 0.1 ns nearer to zero (R43, assumption 6). -/
def slewStep (x : Rat) : Rat := if (1 : Rat) / 10 < x then x - 1 / 10 else if x < -(1 : Rat) / 10 then x + 1 / 10 else 0

/-- A stray edge (R31). -/
def State.strayEdge (s : State) (t : Rat) : State := { s with time := { s.time with now := t } }.timeErr F.TIME_ERR_STRAY

/-- The prediction of a judged waymark passes on to its tick if that is not out yet. -/
def TimeBase.hand (t : TimeBase) : TimeBase :=
  if t.ticked then { t with ticked := false } else { t with tickWait := some (t.pred + t.slew) }

/-- Tick number of the waymark whose prediction is pred: the tick out last, or the next. -/
def TimeBase.predTick (t : TimeBase) : Nat := if t.ticked then t.ticks else t.ticks + 1 + b2n t.tickWait.isSome

/-- A valid edge in LOCKED (R31, R526). -/
def State.lockedEdge (s : State) (t : Rat) (b : Bool) : State :=
  let u := s.time
  let k := u.predTick
  let (i, p) := steerLaw u.interval u.pred (t - u.pred)
  let v := u.hand.sample (some b) k
  { s with time := { v with now := t, interval := i, pred := p, slew := slewStep u.slew, missRun := 0, lastEdge := t, windows := 0,
                            phaseErr := t - u.pred, ext := u.ext.map (· + 1) } }

/-- A valid edge in ACQUIRE, n windows after the edge before it, 0 for the first of a series (R526). The tick of a prediction that is pending when such a first
edge sets p is not issued (assumption 115). -/
def State.acquireEdge (s : State) (t : Rat) (b : Bool) (n : Nat) : State :=
  let u := s.time
  if n = 0 ∨ u.acq = .none then
    let k := u.ticks + b2n u.tickWait.isSome
    let s := if u.edgeSeen then s.gap (k - u.lastTick - 1) else s
    let u := s.time
    let v := u.sample (some b) k
    { s with time := { v with now := t, pred := t + u.interval, ticked := false, acq := .first, lastEdge := t, windows := 0, edgeSeen := true,
                              ext := none } }
  else
    let k := u.predTick
    let (i, p) := if u.acq = .first ∧ n = 1 then (t - u.lastEdge, t + (t - u.lastEdge)) else steerLaw u.interval u.pred (t - u.pred)
    let v := u.hand.sample (some b) k
    { s with time := { v with now := t, interval := i, pred := p, acq := .steering, lastEdge := t, windows := 0, ext := u.ext.map (· + 1) } }

/-- A valid edge in HOLDOVER, DEGRADED or FREE: its phase error is measured (R31, R43). -/
def State.freeEdge (s : State) (t : Rat) (b : Bool) (n : Nat) : State :=
  let u := s.time
  let k : Int := ((t - u.pred) / u.interval + 1 / 2).floor
  let num : Int := (u.ticks : Int) + 1 + b2n u.tickWait.isSome + k
  let s := if n = 0 ∧ u.edgeSeen then s.gap (num.toNat - u.lastTick - 1) else s
  let u := s.time
  let v := u.sample (some b) num.toNat
  { s with time := { v with now := t, lastEdge := t, windows := 0, edgeSeen := true, validRun := if n = 1 then u.validRun + 1 else 1,
                            validFrames := if n = 1 then u.validFrames else 0, phaseErr := t - (u.pred + k * u.interval),
                            ext := if n = 0 then none else u.ext.map (· + 1) } }

/-- R31: judge a rising edge at instant t, with the level of the time code. -/
def waymarkEdge (t : Rat) (b : Bool) (s0 : State) : State :=
  if t < s0.time.now then s0 else
  let s := s0.testFrame
  let u := s.time
  if u.st = .locked then
    if t < u.pred - 50 then s.strayEdge t
    else if t ≤ u.pred + 50 then s.lockedEdge t b
    else s0
  else
    let n := u.windows + 1
    let c : Rat := u.lastEdge + n * 1000
    if !u.edgeSeen || decide (8 ≤ u.windows) then
      if u.st = .acquire then s.acquireEdge t b 0 else s.freeEdge t b 0
    else if t < c - 50 then s.strayEdge t
    else if t ≤ c + 50 then (if u.st = .acquire then s.acquireEdge t b n else s.freeEdge t b n)
    else s0

/-- WAYMARK_EDGE (R31, R526). -/
def execWaymarkEdge (t : Rat) (tcode : Bool) (s : State) : Host.Outcome State Fault Refusal :=
  .next (if s.pwr.aux then waymarkEdge t tcode s else s)

/-- R31, R40: the window that is open next passes without a valid edge. -/
def waymarkMissed (s0 : State) : State :=
  let s := s0.testFrame
  let u := s.time
  if u.st = .locked then
    if u.tickWait.isSome then s0 else
    let k := u.predTick
    let cnt := u.countOf k
    let v := u.hand.sample none k
    let m := u.missRun + 1
    let s := { s with time := { v with now := max u.now (u.pred + 50), pred := u.pred + u.interval, slew := slewStep u.slew, missRun := m,
                                       ext := u.ext.map (· + 1) } }
    let s := (s.timeErr F.TIME_ERR_MISSED).timeEvt 0x6001
    if m < 4 then s else { s with time := { s.time with holdEnd := cnt.toNat + 10000000 } }.enter .holdover
  else if !u.edgeSeen || decide (8 ≤ u.windows) then s0
  else
    let e := u.lastEdge + (u.windows + 1 : Nat) * 1000 + 50
    let acq := decide (u.st = .acquire)
    if acq && u.tickWait.isSome then s0 else
    let v := if acq then { u.hand with pred := u.pred + u.interval } else u
    let k := if acq then u.predTick else u.lastTick + 1
    let v := v.sample none k
    { s with time := { v with now := max u.now e, windows := u.windows + 1, validRun := 0, validFrames := 0,
                              ext := if u.windows + 1 = 8 then none else u.ext.map (· + 1) } }.timeErr F.TIME_ERR_MISSED

/-- WMK_MISSED (R31, R40). -/
def execWmkMissed (s : State) : Host.Outcome State Fault Refusal := .next (if s.pwr.aux then waymarkMissed s else s)

/-- TIME_CODE_FRAME (R34 to R37, R43): the frame test due at the last sample. -/
def execTimeCodeFrame (s : State) : Host.Outcome State Fault Refusal := .next s.testFrame

/-- The least and the greatest offset of a tick, with one more offset. -/
def TimeBase.offsets (u : TimeBase) (o : Rat) : Rat × Rat := match u.tickOff with
  | some (a, b) => (min a o, max b o)
  | none => (o, o)

/-- May a tick come at instant t for the predicted edge e (R32): 44 to 52 ns after it, every offset within 0.1 ns of one value? -/
def TimeBase.tickOk (u : TimeBase) (t e : Rat) : Bool :=
  decide (u.now ≤ t) && decide (44 ≤ t - e) && decide (t - e ≤ 52) && decide ((u.offsets (t - e)).2 - (u.offsets (t - e)).1 ≤ 1 / 5)

/-- R32, R525: the internal tick at instant t. -/
def internalTick (t : Rat) (s : State) : State :=
  let u := s.time
  let e := match u.tickWait with
    | some p => p
    | none => u.pred + u.slew
  if (u.tickWait.isNone && u.ticked) || !u.tickOk t e then s else
  let v := { u with now := t, ticks := u.ticks + 1, base := e, tickOff := some (u.offsets (t - e)), tickWait := none,
                    count := if u.st = .acquire then u.count else u.count + 1 }
  { s with time := if u.tickWait.isSome then v else if u.judged then { v with ticked := true } else { v with pred := u.pred + u.interval } }

/-- INTERNAL_TICK (R32); Camley ports in hello send HELLO once per waymark (R436). -/
def execInternalTick (t : Rat) (s : State) : Host.Outcome State Fault Refusal :=
  .next (
    if s.pwr.aux then
      let u := internalTick t s
      if u.time.ticks = s.time.ticks then u else u.sendHellos
    else s)

/-- Waymarks left in HOLDOVER (Table 23). -/
def TimeBase.holdLeft (u : TimeBase) : Nat := if u.st = .holdover then u.holdEnd - u.count else 0

/-- TIME_DEGRADED (R40, R42): HOLD_LEFT has reached 0. -/
def execTimeDegraded (s : State) : Host.Outcome State Fault Refusal :=
  .next (if s.time.st = .holdover ∧ s.time.holdEnd ≤ s.time.count then s.enter .degraded else s)

/-- FREE_RUN_ENTRY (R40, R525): 10,000,000 ticks without a valid frame. -/
def execFreeRunEntry (s : State) : Host.Outcome State Fault Refusal :=
  let u := s.time
  .next (if u.st = .acquire ∧ u.anyFrame = false ∧ 10000000 ≤ u.ticks then
    let s := s.enter .free
    { s with time := { s.time with count := u.ticks - 10000000, interval := 1000, pred := if u.tickWait.isSome then s.time.pred else u.base + 1000 } }
  else s)

/-- R44: the step at the external edge E that was the last one. The pitch in progress ends: the boundary N is due even where the local count had passed it. -/
def timeStep (s : State) : State :=
  let u := s.time
  match u.ext with
  | none => s
  | some n =>
    if u.st ≠ .acquire ∧ u.stepPending ∧ !s.guarHeld ∧ u.isBoundary n ∧ u.edgeSeen ∧ u.windows = 0 ∧ u.now = u.lastEdge then
      let s := { s with time := { u with count := n - 1, tickWait := some u.lastEdge, pred := u.lastEdge + u.interval, ticked := false, slew := 0,
                                         stepPending := false, stepTick := some (u.ticks + 1), lastTick := u.ticks + 1, missRun := 0,
                                         lastBoundary := none } }
      (s.timeEvt 0x6006).enter .locked
    else s

/-- TIME_STEP (R44). -/
def execTimeStep (s : State) : Host.Outcome State Fault Refusal := .next (timeStep s)

/-- A write of TIME_CTRL (Table 26). -/
def State.writeTimeCtrl (s : State) (v : Word) : State :=
  if s.time.st ≠ .acquire ∧ getF v F.TIME_CTRL_FORCE_STEP = 1 then { s with time := { s.time with stepPending := true } } else s

/-- FORCE_STEP (R44). -/
def execForceStep (v : Word) (s : State) : Host.Outcome State Fault Refusal := .next (s.writeTimeCtrl v)

/-- A write of PITCH_CFG (R47, Table 27). -/
def State.writePitchCfg (s : State) (v : Word) : State :=
  let s := if getF v F.PITCH_CFG_REJECTED = 1 then s.setFld R.PITCH_CFG F.PITCH_CFG_REJECTED 0 else s
  let len := getF v F.PITCH_CFG_LEN
  let ph := getF v F.PITCH_CFG_PHASE
  if 16 ≤ len ∧ len ≤ 4096 ∧ ph < len ∧ !s.guarBooked then
    if s.time.st = .acquire then { s with time := { s.time with pitchLen := len, pitchPhase := ph, pendingCfg := none } }
    else { s with time := { s.time with pendingCfg := some (len, ph, s.time.ticks) } }
  else s.setFld R.PITCH_CFG F.PITCH_CFG_REJECTED 1

/-- PITCH_CFG_WRITE (R47). -/
def execPitchCfgWrite (v : Word) (s : State) : Host.Outcome State Fault Refusal := .next (s.writePitchCfg v)

/-- PITCH_CFG_APPLY (R47): the pending schedule starts at a waymark after the write that is a boundary under it. -/
def execPitchCfgApply (s : State) : Host.Outcome State Fault Refusal :=
  .next (match s.time.pendingCfg with
    | some (len, ph, k) =>
      let u := { s.time with pitchLen := len, pitchPhase := ph, pendingCfg := none }
      if k < s.time.ticks ∧ s.time.st ≠ .acquire ∧ u.isBoundary s.time.count then { s with time := u } else s
    | none => s)

/-- Does a team include die d? -/
def State.teamOnDie (s : State) (t d : Nat) : Bool := (s.members t).any (fun p => decide (p / 8 = d))

/-- Did a request run on die d in window k, which lasts from tick 16 k + 1 to tick 16 k + 17 (R48, R49)? -/
def State.ranIn (s : State) (q : Request) (d k : Nat) : Bool :=
  (q.job.isSome && decide (q.jobTick ≤ 16 * k + 16) && s.teamOnDie q.team d) || (match q.left with
    | some (x, ds) => decide (16 * k + 1 ≤ x) && ds.contains d
    | none => false)

/-- R49: window k of die d was below floor. In ACQUIRE there is no pitch: CLK_FLOOR is logged once until the first boundary (assumption 115). -/
def State.floorBreach (s : State) (d k : Nat) : State :=
  let s := if nthD s.time.floorLogged d false then s else
    { s with time := { s.time with floorLogged := s.time.floorLogged.set d true } }.raise { code := 0x6008, kind := 3, src := d }
  let hit := s.reqsWhere (fun q => q.guar && s.ranIn q d k)
  let s := hit.foldl (fun s r => (s.raiseReq r 0x3020 0).releaseReq r) s
  let u := s.time
  if u.st = .acquire then s
  else { s with time := { u with holdUntil := u.holdUntil.set d (some (u.boundaryFrom u.count + u.pitchLen)) } }

/-- R48: the window of die d that ended last counted fc cycles. -/
def floorWindow (d fc : Nat) (s : State) : State :=
  let u := s.time
  let k := nthD u.floorDone d 0
  if u.ticks < 16 * (k + 1) + 1 then s else
  let stepped := match u.stepTick with
    | some x => decide (16 * k + 1 ≤ x ∧ x ≤ 16 * k + 16)
    | none => false
  let low := !stepped && decide (fc < 22396)
  let a := R.FLOOR_MON d
  let c := R.PWR_CLK d
  let s := if nthD s.pwr.stretched d false then s.bump c F.PWR_CLK_STRETCH 1 else s
  let s := { s with time := { u with floorDone := u.floorDone.set d (k + 1) },
                    pwr := { s.pwr with stretched := s.pwr.stretched.set d (nthD s.pwr.stretching d false) } }
  let s := (s.setFld a F.FLOOR_MON_LAST (min fc 65535)).setFld a F.FLOOR_MON_NOW_BELOW (b2n low)
  let s := if stepped then s else s.setFld a F.FLOOR_MON_MIN (min fc (s.fld a F.FLOOR_MON_MIN))
  if low then (s.bump a F.FLOOR_MON_BELOW 1).floorBreach d k else s

/-- FLOOR_WINDOW_END (R48, R49). -/
def execFloorWindowEnd (d : Fin 8) (fc : Nat) (s : State) : Host.Outcome State Fault Refusal := .next (floorWindow d.val fc s)

/-- FLOOR_HOLD_RELEASE (R49). -/
def execFloorHoldRelease (d : Fin 8) (s : State) : Host.Outcome State Fault Refusal :=
  .next (match nthD s.time.holdUntil d.val none with
    | some w => if w ≤ s.time.count then { s with time := { s.time with holdUntil := s.time.holdUntil.set d.val none } } else s
    | none => s)

end Sys2Proof.Machine
end

