-- ==== Sys2Proof/Machine/Admit.lean ====
section
/-! DEFINITION. Admission (R286 to R298, R302, R303, R310 to R315, R426, R428 to R431): submissions, queries, the start of a request, input, holds, bivouac
expiry, cancellation, tenants and shares. -/

namespace Sys2Proof.Machine

/-! ### Bivouac space (R298) -/


/-- First byte and length of a team's bivouac area (Table 51). -/
def State.bivArea (s : State) (t : Nat) : Nat × Nat :=
  (s.fld (R.SECT_BIV_AREA t) F.SECT_BIV_AREA_BASE_64K * 65536, s.fld (R.SECT_BIV_AREA t) F.SECT_BIV_AREA_LEN_64K * 65536)

/-- The lowest free place for a record of n bytes in a team's bivouac area, the place of request `own` counting as free. -/
def State.bivPlace (s : State) (t n : Nat) (own : Option Nat) : Option Nat :=
  let (b, l) := s.bivArea t
  let held := (s.adm.reqs.filter (fun (x : Nat × Request) => decide (some x.1 ≠ own) && decide (x.2.bivLen ≠ 0))).map (fun x => (x.2.bivAddr, x.2.bivAddr + x.2.bivLen))
  if n = 0 then some b else
  (sortBy (fun x y => decide (x ≤ y)) (b :: held.map (·.2))).find? (fun a =>
    decide (b ≤ a) && decide (a + n ≤ b + l) && held.all (fun h => decide (a + n ≤ h.1) || decide (h.2 ≤ a)))

/-! ### The tests of Table 163 (R298) -/

/-- What a submission asks for. -/
structure Ask where
  tenant : Nat
  field : Nat                        -- TENANT as the entry holds it
  fn : Nat
  sect : Nat
  batch : Nat
  cls : Nat
  deadline : Nat
  inputWm : Nat
  wd : Nat
  intake : Option Nat := none        -- entry that the read of the submission took (R297)
  deriving DecidableEq, Repr

/-- What the tests leave: the team, the section, whether it is staged, its profile and the intake entry and bivouac place to take. -/
structure Grantee where
  team : Nat
  sect : Sect
  staged : Bool
  prof : Option (Card × Profile)
  intake : Nat
  biv : Nat
  deriving DecidableEq, Repr

/-- Is guaranteed admission of a team held under R49? -/
def State.floorHeld (s : State) (t : Nat) : Bool :=
  (List.range 8).any (fun d => s.teamOnDie t d && (match nthD s.time.holdUntil d none with
    | some w => decide (s.time.count < w)
    | none => false))

/-- Does a Camley stream join a team to a module that is time-unlocked (R51)? -/
def State.peerUnlocked (s : State) (t : Nat) : Bool :=
  s.link.streams.any (fun (x : Nat × CamStream) => x.2.enabled && decide (s.teamId x.2.part = t) && (s.port x.2.port).unlocked)

/-- Is a time state one that refuses a request of a class (R40, R41, R51)? -/
def State.timeRefuses (s : State) (t : Nat) (a : Ask) : Bool :=
  let u := s.time
  decide (u.st = .acquire) || (decide (a.cls ≠ 0) &&
    ((decide (u.st ≠ .locked) && decide (u.st ≠ .holdover)) || (decide (u.st = .holdover) && decide (u.holdEnd < max a.wd a.inputWm + a.deadline)) ||
      s.peerUnlocked t))

/-- Does a profile use a stack or port that has failed? -/
def State.tierDown (s : State) (k : Card) (p : Profile) : Bool :=
  (k.phasesOf p).any (fun x => (List.range 8).any (fun i =>
    (decide (nthD x.nt i 0 ≠ 0) && decide (s.fld (R.NT_STACK_STATUS i) F.NT_STACK_STATUS_STATE = 2)) ||
      ((decide (nthD x.rd i 0 ≠ 0) || decide (nthD x.wr i 0 ≠ 0)) && decide (s.fld (R.CXL_PORT_STATUS i) F.CXL_PORT_STATUS_STATE = 4))))

/-- Is a team degraded (R317): has its running or staged section cells above an unserved index of a member? -/
def State.teamDegraded (s : State) (t : Nat) : Bool :=
  let x := s.team t
  let ovr (y : Option Sect) : Bool := match y with
    | some y => (s.members t).any (fun p => decide (s.lowUnserved p < y.reqCells))
    | none => false
  ovr x.running || ovr x.staged

/-- Earliest booked completion in a team, or the next pitch boundary (Table 173). -/
def State.earliestEnd (s : State) (t wd : Nat) : Nat :=
  let l := ((s.adm.reqs.filter (fun (x : Nat × Request) => decide (x.2.team = t) && !x.2.booked.isEmpty)).map (fun x => x.2.c))
  (l.foldl (fun (m : Option Nat) c => match m with
    | some x => some (min x c)
    | none => some c) none).getD (s.time.boundaryAfter wd)

/-- The tests of Table 163, in order. `own`: the request whose bivouac space counts as free (R313). -/
def State.admitTest (s : State) (a : Ask) (own : Option Nat) : Except Denial Grantee :=
  let no (r : Nat) : Except Denial Grantee := .error ⟨r, none⟩
  let reg := R.ADM_TENANT a.tenant
  let p := s.partOfTenant a.tenant
  let t := s.teamId p
  let g := decide (a.cls ≠ 0)
  if s.fld reg F.ADM_TENANT_VALID = 0 ∨ a.field ≠ a.tenant ∨ (a.fn ≠ 64 ∧ a.fn ≠ p) then no 0x08
  else if s.fld R.ADM_CTRL F.ADM_CTRL_ENABLE = 0 then no 0x0F
  else if s.timeRefuses t a then no 0x02
  else if s.fld reg F.ADM_TENANT_MAX_CLASS < a.cls ∨ 3 ≤ a.cls then no 0x07
  else match s.sectNamed t a.sect with
    | none => no 0x04
    | some (y, staged) =>
      if g && y.card.isNone then no 0x05
      else
        let prof := y.card.bind (fun k => (k.profile a.batch).map (fun q => (k, q)))
        let guar := match prof with
          | some (_, q) => q.guar
          | none => false
        if (y.card.isSome && prof.isNone) || (g && !guar) then no 0x06
        else if g && s.floorHeld t then no 0x03
        else if g && s.teamDegraded t then no 0x0C
        else if g && (match prof with
            | some (k, q) => s.tierDown k q
            | none => false) then no 0x10
        else match a.intake.or (s.freeIntake t p) with
          | none => .error ⟨0x21, some (s.earliestEnd t a.wd)⟩
          | some e =>
            let n := match prof with
              | some (_, q) => q.bivBytes
              | none => 0
            match (match own with
              | some _ => some 0
              | none => s.bivPlace t n own) with
            | none => .error ⟨0x0E, some (s.earliestEnd t a.wd)⟩
            | some b => .ok ⟨t, y, staged, prof, e, b⟩

/-- Earliest start of a booking for a staged section (R306). -/
def State.stagedFloor (s : State) (t : Nat) : Nat :=
  let x := s.team t
  if x.cutover = 0 then 0 else s.time.boundaryFrom (x.cutover + x.endWm + x.switchWm)

/-- Tests and booking of a submission (R298 to R302, R306): the grantee with its completion and intervals, or why not. -/
def State.decision (s : State) (a : Ask) : Except Denial (Grantee × Option (Nat × List Interval)) :=
  match s.admitTest a none with
  | .error d => .error d
  | .ok g =>
    match g.prof with
    | some (k, p) =>
      if a.cls = 0 then .ok (g, none)
      else
        let b : Booking := { ws := bookingOf k p a.cls 0 none, floor := if g.staged then s.stagedFloor g.team else 0 }
        let x := s.team g.team
        let limit := if !g.staged ∧ x.cutover ≠ 0 then some x.cutover else none
        match s.judge g.team k.slotCap b limit a.wd (max a.wd s.time.count + 1) (max a.wd a.inputWm) a.deadline with
        | .error d => .error d
        | .ok r => .ok (g, some r)
    | none => .ok (g, none)

/-! ### SUBMIT and QUERY_ADMIT -/

/-- The fields of a SUBMIT or QUERY_ADMIT (Table 234). -/
def askOf (c : HostCmd) : Ask :=
  { tenant := c.cmd.tenant, field := numAt c.bytes 2 2, fn := c.cmd.fn, sect := numAt c.bytes 0x10 8, batch := numAt c.bytes 0x18 2, cls := numAt c.bytes 0x1A 1,
    deadline := numAt c.bytes 0x1C 4, inputWm := numAt c.bytes 0x20 8, wd := c.wm, intake := c.intake }

/-- The live request of a tenant with a tag. -/
def State.reqOf (s : State) (tenant tag : Nat) : Option Nat :=
  (s.adm.reqs.find? (fun (x : Nat × Request) => decide (x.2.tenant = tenant) && decide (x.2.tag = tag))).map (·.1)

/-- Refuse a submission or a query: REFUSED, or BUSY for a full intake. -/
def State.deny (s : State) (c : CmdRef) (d : Denial) : State :=
  if d.reason = 0x21 then s.answerBusy c 0x21 d.retry
  else
    let s := s.answer c stRefused d.reason d.retry
    if c.opcode = 1 then s.unreserve c.tenant else s

/-- Take a request in (R286, R287, R297): its intake entry, its bivouac space and its booking. -/
def State.accept (s : State) (c : HostCmd) (a : Ask) (g : Grantee) (b : Option (Nat × List Interval)) : State :=
  let q : Request :=
    { tenant := a.tenant, tag := c.cmd.reqTag, sect := a.sect, batch := a.batch, cls := a.cls, deadline := a.deadline, inputWm := a.inputWm,
      argVa := numAt c.bytes 0x28 8, wd := a.wd, ready := if a.inputWm = 0 then some a.wd else none, team := g.team, intake := g.intake,
      booked := match b with
        | some x => x.2
        | none => [],
      c := match b with
        | some x => x.1
        | none => 0,
      guar := b.isSome, staged := g.staged, degraded := decide (s.time.st = .degraded), bivAddr := g.biv,
      bivLen := match g.prof with
        | some (_, p) => p.bivBytes
        | none => 0,
      spill := !g.staged && (s.team g.team).secEnd && decide (a.cls = 0), cmd := c.cmd,
      delta := match g.prof with
        | some (_, p) => if a.cls = 2 then p.replayWm else 0
        | none => 0 }
  let n := s.adm.nextReq
  let s := { s with adm := { s.adm with reqs := SMap.ins n q s.adm.reqs, nextReq := n + 1,
                                        expired := s.adm.expired.filter (fun x => decide (x ≠ (a.tenant, c.cmd.reqTag))) } }
  s.answer c.cmd stAccepted 0 (b.map (·.1))

/-- The hub store an upset names. -/
def Upset.hubStore? (u : Upset) : Option Nat := match u with
  | .hubStore k => some k
  | _ => none

/-- A SUBMIT (R298, R428): a tag in use completes BAD_COMMAND; a store of the ledger or intake with an upset fails the module. -/
def State.submit (s : State) (c : HostCmd) : State :=
  match s.upsets.findSome? Upset.hubStore? with
  | some k => { s with upsets := s.upsets.erase (.hubStore k) }.fatal { code := 0x5201, detail := k }
  | none =>
  if (s.reqOf c.cmd.tenant c.cmd.reqTag).isSome then (s.answer c.cmd stFault 0x4D).unreserve c.cmd.tenant
  else match s.decision (askOf c) with
    | .error d => s.deny c.cmd d
    | .ok (g, b) => s.accept c (askOf c) g b

/-- SUBMIT (R299). -/
def execSubmit (t : Fin 4096) (s : State) : Host.Outcome State Fault Refusal := .next (s.onCmd t.val 1 State.submit)

/-- QUERY_ADMIT (R429): DONE with WOULD_ACCEPT and c, or what a SUBMIT would be told. -/
def State.query (s : State) (c : HostCmd) : State :=
  match s.decision (askOf c) with
  | .error d => s.deny c.cmd d
  | .ok (_, b) => s.answer c.cmd stDone 0 (b.map (·.1)) 4

/-- QUERY_ADMIT. -/
def execQueryAdmit (t : Fin 4096) (s : State) : Host.Outcome State Fault Refusal := .next (s.onCmd t.val 5 State.query)

/-! ### The start of a request (R227, R303, R377, R428) -/

/-- Anchor of the hub's phase protocol for a job (R377): `off` 0x0C PHASE_ANCHOR, 0x0E REPLAY_ANCHOR. -/
def State.hubAnchor (s : State) (t off job : Nat) : Option Nat :=
  match (s.team t).running with
  | none => none
  | some x =>
    let pl := (s.clu (s.teamCluster x 0)).plaus
    let v := if pl.isEmpty then 0xFFFF else numAt pl off 2
    s.teamAnchor x ((if v = 0xFFFF then (if off = 0x0C then 112 else 120) else v) + job)

/-- The hub sets an anchor as S.SET does. -/
def State.hubSet (s : State) (a : Option Nat) (v : Nat) : State := match a with
  | some a => (s.ancApply 0x62 a (BitVec.ofNat 64 v) 0 true false).1
  | none => s

/-- Is a job tag free in every cluster of a team (R303)? -/
def State.tagFree (s : State) (t j : Nat) : Bool :=
  (s.partClus (s.members t)).all (fun g => decide (s.fld (R.CLU_JOB_TENANT g j) F.CLU_JOB_TENANT_VALID = 0)) && (s.jobNum t j).isNone

/-- Is a cell free for a DYNAMIC task (R303)? -/
def Cell.free (c : Cell) : Bool := decide (c.st = .blockWait) && c.mbox.isEmpty && c.inFlight.isEmpty

/-- The 32-byte job record (R428). -/
def Request.jobRecord (q : Request) : List Byte :=
  leBytes 4 q.tag ++ leBytes 2 q.batch ++ leBytes 1 q.cls ++ [0] ++ leBytes 2 q.tenant ++ List.replicate 6 0 ++ leBytes 8 q.argVa ++ List.replicate 8 0

/-- Bind a job tag to a request (R227): in every cluster of the team, or, for a DYNAMIC request, in its cell's; the job record goes to every controller. A
request without its guarantee is bound as best-effort. -/
def State.bindJob (s : State) (q : Request) (j : Nat) : State :=
  let w := setF (setF (setF 0 F.CLU_JOB_TENANT_TENANT q.tenant) F.CLU_JOB_TENANT_CLASS (if q.guar then q.cls else 0)) F.CLU_JOB_TENANT_VALID 1
  let gs := s.partClus (s.members q.team)
  let s := gs.foldl (fun s g => if (match q.dyn with
    | some L => decide (s.clusterOf L = g)
    | none => true) then s.setReg (R.CLU_JOB_TENANT g j) w else s) s
  gs.foldl (fun s g => s.updCtl g (fun c =>
    { c with ram := ((List.range 32).zip q.jobRecord).foldl (fun m (x : Nat × Byte) => SMap.ins (0x4FF00 + 32 * j + x.1) x.2 m) c.ram })) s

/-- May a waiting request start: its section runs, its booked start comes within `lead` waymarks, and no best-effort request stands before it (R303)? -/
def State.startDue (s : State) (r : Nat) (q : Request) (lead : Nat) : Bool :=
  let x := s.team q.team
  decide (q.st = .waiting) && !q.staged && !q.spill && q.job.isNone && decide (x.run = .running) && decide (s.sectId q.team = q.sect) &&
    (match q.booked with
      | i :: _ => decide (i.a ≤ s.time.count + lead)
      | [] => !s.adm.reqs.any (fun (y : Nat × Request) =>
          decide (y.1 < r) && decide (y.2.team = q.team) && !y.2.guar && decide (y.2.st = .waiting) && !y.2.staged && y.2.job.isNone))

/-- Does phase i of a request need input (R288)? A request of a section without a card has one phase, which does. -/
def State.needsInput (s : State) (q : Request) (i : Nat) : Bool :=
  match s.profileOf q with
  | some (k, p) => match (k.phasesOf p)[i]? with
    | some x => x.input
    | none => false
  | none => decide (i = 0)

/-- Tag and, for a DYNAMIC profile, cell that a request takes (R303). -/
def State.jobFor (s : State) (q : Request) : Option (Nat × Option Nat) :=
  match ((if q.guar then [0, 1, 2, 3, 4, 5] else [6, 7]) : List Nat).find? (s.tagFree q.team) with
  | none => none
  | some j =>
    let dyn := match s.profileOf q with
      | some (_, p) => p.dynamic
      | none => false
    if dyn then
      match ((s.team q.team).running.map s.sectCells).getD [] |>.find? (fun L => (s.cell L).free) with
      | some L => some (j, some L)
      | none => none
    else some (j, none)

/-- A phase starts: a request whose input it lacks is stalled from the booked start of the phase on (R300, R310). -/
def State.enterPhase (s : State) (r i : Nat) : State :=
  s.updReq r (fun q =>
    let wait := q.ready.isNone && s.needsInput q i
    let a := match q.booked.find? (fun x => decide (x.phase = i)) with
      | some x => max x.a s.time.count
      | none => s.time.count
    { q with phase := i, st := if wait then .stalled else .running, holdStart := if wait then some a else none })

/-- REQUEST_START (R303): the job is bound, and its first groups may be loaded, from the waymark before its booked start on; the arbiters post them from the
booked start on. -/
def State.startReq (s : State) (r : Nat) : State :=
  match s.req r with
  | none => s
  | some q =>
    if !s.startDue r q 1 || q.record then s
    else match s.jobFor q with
      | none => s
      | some (j, dyn) =>
        let s := s.setReq r { q with job := some j, jobTick := s.time.ticks, dyn := dyn, opens := firstStart q.booked }
        let s := s.bindJob { q with dyn := dyn } j
        let s := s.hubSet (s.hubAnchor q.team 0x0C j) 0
        (s.enterPhase r 0).joinPitch r j

/-- REQUEST_START. -/
def execRequestStart (r : Nat) (s : State) : Host.Outcome State Fault Refusal := .next (s.startReq r)

/-! ### Holds and bivouac expiry (R310, R312, R313) -/

/-- HOLD_WM of a tenant (R310). -/
def State.holdWm (s : State) (tenant : Nat) : Nat :=
  let h := s.fld (R.ADM_TENANT tenant) F.ADM_TENANT_HOLD_WM
  if h = 0 then s.fld R.ADM_CTRL F.ADM_CTRL_HOLD_DEFAULT else h

/-- BIV_LIFE of a tenant. -/
def State.bivLife (s : State) (tenant : Nat) : Nat := s.fld (R.ADM_TENANT tenant) F.ADM_TENANT_BIV_LIFE

/-- A request expires (R312, R313): EXPIRED is posted, and its tag is remembered. -/
def State.expire (s : State) (r : Nat) : State :=
  match s.req r with
  | none => s
  | some q =>
    let s := s.endReq r stExpired 0
    { s with adm := { s.adm with expired := (q.tenant, q.tag) :: s.adm.expired.filter (fun x => decide (x ≠ (q.tenant, q.tag))) } }

/-- A request must leave its cells (R309, R312): it is to be written out, or expires where its tenant keeps no bivouac. -/
def State.spillReq (s : State) (r : Nat) : State :=
  match s.req r with
  | none => s
  | some q => if s.bivLife q.tenant = 0 then s.expire r else s.updReq r (fun q => { q with spill := true })

/-- HOLD_EXPIRY (R312). -/
def execHoldExpiry (r : Nat) (s : State) : Host.Outcome State Fault Refusal :=
  .next (match s.req r with
    | some q => (match q.st, q.holdStart with
      | .stalled, some w => if !q.spill ∧ w + s.holdWm q.tenant ≤ s.time.count then s.spillReq r else s
      | _, _ => s)
    | none => s)

/-- BIVOUAC_EXPIRED (R313). -/
def execBivouacExpired (r : Nat) (s : State) : Host.Outcome State Fault Refusal :=
  .next (match s.req r with
    | some q => if q.st = .bivouacked ∧ q.moved.isNone ∧ q.spillWm + s.bivLife q.tenant ≤ s.time.count then (s.raiseReq r 0x6183 0).expire r else s
    | none => s)

/-! ### Restores (R313) -/

/-- A restore is asked for a bivouacked request: its answer, as status, reason and waymark, and the state with what it books. -/
def State.restore (s : State) (r : Nat) (q : Request) (ready : Nat) : State × Nat × Nat × Option Nat :=
  let t := s.teamId (s.partOfTenant q.tenant)
  let no (d : Denial) : State × Nat × Nat × Option Nat := (s, if d.reason = 0x21 then stBusy else stRefused, d.reason, d.retry)
  if (s.team t).running.all (fun y => decide (y.id ≠ q.sect)) then no ⟨0x04, none⟩
  else
    let a : Ask := { tenant := q.tenant, field := q.tenant, fn := 64, sect := q.sect, batch := q.batch, cls := if q.guar then q.cls else 0, deadline := q.deadline,
                     inputWm := 0, wd := ready }
    match s.admitTest a (some r) with
    | .error d => no d
    | .ok g =>
      let put (b : List Interval) (c d : Nat) : State :=
        s.setReq r { q with st := .waiting, team := t, intake := g.intake, booked := b, c := c, delta := d, staged := false }
      match g.prof, q.guar with
      | some (k, p), true =>
        let x := s.team t
        match s.judge t k.slotCap { ws := bookingOf k p q.cls q.phase (some p.restoreWm) } (if x.cutover = 0 then none else some x.cutover) s.time.count
            (s.time.count + 1) (max s.time.count ready) q.deadline with
        | .error d => no d
        | .ok (c, l) => (put l c (if q.cls = 2 then p.replayWm else 0), stAccepted, 0, some c)
      | _, _ => (put [] 0 0, stAccepted, 0, none)

/-- Answer a RESUME or STREAM_DATA with what a restore says. -/
def State.answerRestore (s : State) (c : CmdRef) (x : State × Nat × Nat × Option Nat) : State :=
  let s' := x.1
  if x.2.1 = stBusy then s.answerBusy c x.2.2.1 x.2.2.2 else s'.answer c x.2.1 x.2.2.1 x.2.2.2

/-- RESUME (R313): the new input-ready waymark is that of its reading. -/
def State.resume (s : State) (c : HostCmd) : State :=
  match s.reqOf c.cmd.tenant c.cmd.reqTag with
  | none => if s.adm.expired.contains (c.cmd.tenant, c.cmd.reqTag) then s.answer c.cmd stExpired 0 else s.answer c.cmd stFault 0x4C
  | some r => match s.req r with
    | some q => if q.st = .bivouacked then s.answerRestore c.cmd (s.restore r q c.wm) else s.answer c.cmd stFault 0x4C
    | none => s

/-- RESUME. -/
def execResume (t : Fin 4096) (s : State) : Host.Outcome State Fault Refusal := .next (s.onCmd t.val 6 State.resume)

/-! ### Input (R287, R311, R430) -/

/-- Is a STREAM_DATA an untagged copy, which concerns no request (R430)? -/
def State.untagged (s : State) (c : CmdRef) : Bool := decide (c.reqTag = 0xFFFFFFFF) && decide (0x12 ≤ s.agreed c.fn)

/-- What a STREAM_DATA finds under its REQ_TAG: none where it may go on, else the status and reason that answer it. -/
def State.streamRefusal (s : State) (c : CmdRef) : Option (Nat × Nat) :=
  if s.untagged c then none
  else match (s.reqOf c.tenant c.reqTag).bind s.req with
    | some q => if q.ready.isNone then none else some (stFault, 0x4C)
    | none => if s.adm.expired.contains (c.tenant, c.reqTag) then some (stExpired, 0) else some (stFault, 0x4C)

/-- STREAM_DATA (R430): the copy starts. -/
def State.streamData (s : State) (c : HostCmd) : State :=
  match s.streamRefusal c.cmd with
  | some (st, rs) => s.answer c.cmd st rs
  | none =>
    let x : StreamCopy := { cmd := c.cmd, hostAddr := numAt c.bytes 0x10 8, devVa := numAt c.bytes 0x18 8, len := numAt c.bytes 0x20 4,
                            last := (numAt c.bytes 0x24 1).testBit 0 }
    { s with host := { s.host with copies := s.host.copies ++ [x] } }

/-- STREAM_DATA. -/
def execStreamData (t : Fin 4096) (s : State) : Host.Outcome State Fault Refusal := .next (s.onCmd t.val 3 State.streamData)

/-- Translation of a tenant's address by the hub (R226, R228, R229): the page, or the code of its fault. -/
def State.hubPage (s : State) (tenant va : Nat) : State × Except Nat Nat :=
  if s.fld R.NT_PT_BASE F.NT_PT_BASE_VALID = 0 then (s, .error 0x3160)
  else
    let (s', x) := s.walk 256 tenant va
    let s := { s' with clus := s.clus }
    match x with
    | none => (s, .error 0x3160)
    | some x => if x.wr then (s, .ok (x.pa + (va - x.va))) else (s, .error 0x3160)

/-- Write a tenant's bytes page by page (R430); the code of the fault that ended it, if any. -/
def State.hubWrite (s : State) (tenant : Nat) : Nat → Nat → List Byte → State × Option Nat
  | 0, _, _ => (s, none)
  | f + 1, va, b =>
    if b.isEmpty then (s, none)
    else
      let n := min b.length (65536 - va % 65536)
      match s.hubPage tenant va with
      | (s, .error c) => (s, some c)
      | (s, .ok pa) =>
        if !s.backedRaw pa || s.isSealed pa n then (s, some 0x3010)
        else if !s.granted (s.teamId (s.partOfTenant tenant)) pa n true || decide (0x040000000000 < pa + n) then (s, some 0x3161)
        else (s.tierPut pa (b.take n)).hubWrite tenant f (va + n) (b.drop n)

/-- The input of a request is complete (R287, R311, R313). The command's own answer follows: a restore's, or DONE. -/
def State.inputDone (s : State) (c : CmdRef) : State :=
  match s.reqOf c.tenant c.reqTag with
  | none => s.answer c stDone 0
  | some r => match s.req r with
    | none => s
    | some q =>
      let now := s.time.count
      let ready := max (max q.wd q.inputWm) now
      let q := { q with ready := some ready }
      let s := s.setReq r q
      match q.st with
      | .bivouacked => s.answerRestore c (s.restore r q ready)
      | .stalled =>
        let late := match q.holdStart with
          | some w => decide (w ≤ now)
          | none => false
        let s := s.updReq r (fun q => { q with st := .running, holdStart := none, spill := false })
        let s :=
          if late && q.guar then
            match s.replan r q.team q.phase none (now + 1) with
            | some (c, l) => s.rebook r c l
            | none => ((s.loseGuar r).updReq r (fun q => { q with late := true })).raiseReq r 0x6181 0
          else s
        s.answer c stDone 0
      | _ => s.answer c stDone 0

/-- A copy ends (R430): d is what the host's memory returned, none for an error completion. -/
def State.copyDone (s : State) (x : StreamCopy) (d : Option (List Byte)) : State :=
  match (if x.len = 0 then some [] else d) with
  | none => s.answer x.cmd stFault 0x49
  | some b =>
    let (s, e) := s.hubWrite x.cmd.tenant 258 x.devVa (sliceB b 0 x.len)
    match e with
    | some code =>
      let s := s.raise { code := code, kind := 7, part := some (s.partOfTenant x.cmd.tenant), tenant := some x.cmd.tenant,
                         req := if x.cmd.reqTag = 0xFFFFFFFF then none else some (x.cmd.reqTag, 0), addr := some x.devVa }
      s.answer x.cmd stFault 0x4E
    | none => if x.last && !s.untagged x.cmd then s.inputDone x.cmd else s.answer x.cmd stDone 0

/-- STREAM_DATA_COMPLETE (R430): the n-th copy in progress ends. -/
def execStreamDataComplete (n : Nat) (d : Option (List Byte)) (s : State) : Host.Outcome State Fault Refusal :=
  .next (match s.host.copies[n]? with
    | some x => ({ s with host := { s.host with copies := s.host.copies.eraseIdx n } }).copyDone x d
    | none => s)

/-! ### Cancellation (R314, R431) -/

/-- Cancel a request: one that has not started ends at once, a started one when its hub cancel and its groups are through. -/
def State.cancelReq (s : State) (r : Nat) : State :=
  match s.req r with
  | none => s
  | some q =>
    match q.job with
    | none => s.endReq r stFault 0x40
    | some j =>
      if q.cancelling.isSome then s
      else
        let s := ((s.dropGroups q.team j).hubCancel q.team (some j)).updReq r (fun q => { q with cancelling := some (stFault, 0x40, 0), spill := false })
        s.settleCancel r

/-- CANCEL: the request's tag, or NO_REQUEST. -/
def State.cancel (s : State) (c : HostCmd) : State :=
  match s.reqOf c.cmd.tenant c.cmd.reqTag with
  | none => s.answer c.cmd stFault 0x4C
  | some r => (s.updReq r (fun q => { q with cancelCmds := q.cancelCmds ++ [c.cmd] })).cancelReq r

/-- CANCEL (R314). -/
def execCancel (t : Fin 4096) (s : State) : Host.Outcome State Fault Refusal := .next (s.onCmd t.val 2 State.cancel)

/-! ### Tenants, shares and function-level resets (R295, R315, R426) -/

/-- The writable bits of a table's register that a write leaves (R14): RW fields take the value, others keep theirs. -/
def State.writeRw (s : State) (a : Nat) (v : Word) : State :=
  match regDescAt a with
  | none => s
  | some (d, _) => d.fields.foldl (fun s f => if f.acc = .rw then s.setFld a f.f (getF v f.f) else s) s

/-- May a tenant's map change (R315, R420)? -/
def State.tenantIdle (s : State) (t : Nat) : Bool :=
  !s.adm.reqs.any (fun (x : Nat × Request) => decide (x.2.tenant = t)) && (s.page t).vis.isEmpty && decide ((s.page t).reserved = 0)

/-- A write of ADM_TENANT[t] (R315). -/
def State.writeTenant (s : State) (t : Nat) (v : Word) : State :=
  let a := R.ADM_TENANT t
  let moves := decide (s.fld a F.ADM_TENANT_PARTITION ≠ getF v F.ADM_TENANT_PARTITION) ||
    (decide (s.fld a F.ADM_TENANT_VALID = 1) && decide (getF v F.ADM_TENANT_VALID = 0))
  if moves && !s.tenantIdle t then s.setFld R.ADM_CTRL F.ADM_CTRL_MAP_REJECTED 1 else s.writeRw a v

/-- ADM_TENANT_WRITE (R315). -/
def execAdmTenantWrite (t : Fin 4096) (v : Word) (s : State) : Host.Outcome State Fault Refusal := .next (s.writeTenant t.val v)

/-- An engine's part in 256ths under a share's value. -/
def shareFrac (v : Word) (e : Nat) : Nat :=
  let k := getF v F.ADM_NT_SHARE_SPLIT_A
  (if getF v F.ADM_NT_SHARE_ENGINE_A = e then k else 0) + (if getF v F.ADM_NT_SHARE_ENGINE_B = e then 256 - k else 0)

/-- Does an engine hold a booking on a stack (i below 8) or port (8 + p), in the present pitch or later? -/
def State.engineHolds (s : State) (e i : Nat) : Bool :=
  let uses (x : Interval) : Bool := decide (s.pitch ≤ (s.time.pitchOf (x.b - 1)).1) && decide (x.a < x.b) &&
    (if i < 8 then decide (nthD x.nt i 0 ≠ 0) else decide (nthD x.rd (i - 8) 0 ≠ 0) || decide (nthD x.wr (i - 8) 0 ≠ 0))
  s.adm.reqs.any (fun (x : Nat × Request) => (decide (x.2.team / 8 = e) && x.2.booked.any uses) || (match x.2.moved with
    | some (t, l, _) => decide (t / 8 = e) && l.any uses
    | none => false))

/-- A write of ADM_NT_SHARE or ADM_CXL_SHARE (R295, Table 169). -/
def State.writeShare (s : State) (k : Nat) (v : Word) : State :=
  let lo := R.ADM_NT_SHARE 0
  if k < lo ∨ lo + 0x80 ≤ k ∨ k % 8 ≠ 0 then s
  else
    let i := (k - lo) / 8
    let old := s.reg k
    let s := if getF v F.ADM_NT_SHARE_REJECTED = 1 then s.setFld k F.ADM_NT_SHARE_REJECTED 0 else s
    if 256 < getF v F.ADM_NT_SHARE_SPLIT_A then s
    else if (List.range 8).any (fun e => decide (shareFrac old e ≠ shareFrac v e) && s.engineHolds e i) then s.setFld k F.ADM_NT_SHARE_REJECTED 1
    else s.writeRw k v

/-- ADM_SHARE_WRITE (R295). -/
def execAdmShareWrite (a : BitVec 48) (v : Word) (s : State) : Host.Outcome State Fault Refusal := .next (s.writeShare a.toNat v)

/-- What a function-level reset does to one tenant (R426). -/
def State.resetTenant (s : State) (t : Nat) : State :=
  let dead (c : CmdRef) : CmdRef := if c.tenant = t then { c with dead := true } else c
  let kill (x : Nat × Request) : Nat × Request := (x.1, { x.2 with cmd := dead x.2.cmd, cancelCmds := x.2.cancelCmds.map dead })
  let killL (x : Nat × Team) : Nat × Team := (x.1, { x.2 with load := x.2.load.map (fun l => { l with cmd := dead l.cmd }) })
  let s : State := { s with
    host := { s.host with copies := s.host.copies.filter (fun c => decide (c.cmd.tenant ≠ t)) },
    teams := s.teams.map killL,
    adm := { s.adm with reqs := s.adm.reqs.map kill } }
  let s := (s.reqsWhere (fun q => decide (q.tenant = t))).foldl (fun (s : State) r =>
    match s.req r with
    | some q => if q.st = .bivouacked then (s.raiseReq r 0x6183 0).expire r else s.cancelReq r
    | none => s) s
  { s with host := { s.host with pages := SMap.del t s.host.pages } }

/-- A function-level reset of a virtual function. -/
def State.resetVf (s : State) (p : Nat) : State :=
  let ts := (List.range 4096).filter (fun t => decide (s.fld (R.ADM_TENANT t) F.ADM_TENANT_VALID = 1) && decide (s.partOfTenant t = p))
  (ts.foldl (fun s t => s.resetTenant t) s).clearRegs (fun a => decide (a = R.PART_FOCIA_VER p))

/-- FUNCTION_LEVEL_RESET (R426): function 64 is the physical function, which resets every virtual function and the ring pages that are its own, those of
unmapped tenants, and clears ENABLE. -/
def execFunctionLevelReset (f : Fin 65) (s : State) : Host.Outcome State Fault Refusal :=
  .next (
    if !s.linkUp then s
    else if f.val < 64 then (if f.val < s.host.numVFs then s.resetVf f.val else s)
    else
      let s := (List.range 64).foldl (fun s p => s.resetVf p) s
      let s := s.host.pages.foldl (fun (s : State) (x : Nat × RingPage) => s.resetTenant x.1) s
      (s.clearRegs (fun a => decide (a = R.HOST_FOCIA_VER))).setFld R.ADM_CTRL F.ADM_CTRL_ENABLE 0)

end Sys2Proof.Machine
end

