-- ==== Sys2Proof/Machine/Rv.lean ====
section
/-! DEFINITION. The instructions of RV64IMAC with Zicsr, Zifencei and Zicbom (R325), which the spec names by reference (assumption 90), with the custom-0 words of
extension Xscg (R329): decoding of 32-bit and compressed words, and the arithmetic. -/

namespace Sys2Proof.Machine

/-- Conditions of a branch. -/
inductive RvCond where
  | eq | ne | lt | ge | ltu | geu
  deriving DecidableEq, Repr

/-- Integer operations of OP, OP-IMM and their 32-bit forms. -/
inductive RvAlu where
  | add | sub | sll | slt | sltu | xor | srl | sra | or | and | mul | mulh | mulhsu | mulhu | div | divu | rem | remu
  deriving DecidableEq, Repr

/-- Atomic operations of extension A. -/
inductive RvAmo where
  | swap | add | xor | and | or | min | max | minu | maxu
  deriving DecidableEq, Repr

/-- Cache-block operations of Zicbom. -/
inductive RvCbo where
  | inval | clean | flush
  deriving DecidableEq, Repr

/-- How a CSR instruction changes its CSR. -/
inductive RvCsr where
  | write | set | clear
  deriving DecidableEq, Repr

/-- A decoded instruction. `log2` is the width of an access, `w` marks a 32-bit operation. -/
inductive RvOp where
  | lui (rd : Nat) (v : Word)
  | auipc (rd : Nat) (v : Word)
  | jal (rd : Nat) (off : Int)
  | jalr (rd rs1 : Nat) (off : Int)
  | branch (c : RvCond) (rs1 rs2 : Nat) (off : Int)
  | load (log2 : Nat) (signed : Bool) (rd rs1 : Nat) (off : Int)
  | store (log2 rs1 rs2 : Nat) (off : Int)
  | imm (op : RvAlu) (w : Bool) (rd rs1 : Nat) (v : Word)
  | alu (op : RvAlu) (w : Bool) (rd rs1 rs2 : Nat)
  | fence (pred succ : Nat)            -- sets I, O, R, W in bits 3 to 0
  | fenceI
  | ecall
  | ebreak
  | mret
  | wfi
  | csr (op : RvCsr) (rd n : Nat) (src : Nat) (isImm : Bool)
  | lr (log2 rd rs1 : Nat)
  | sc (log2 rd rs1 rs2 : Nat)
  | amo (op : RvAmo) (log2 rd rs1 rs2 : Nat)
  | cbo (op : RvCbo) (rs1 : Nat)
  | xscg (funct3 funct7 rd rs1 rs2 : Nat)
  | illegal
  deriving DecidableEq, Repr

/-! ### Decoding of 32-bit words -/

def rvRd (w : Nat) : Nat := bitsOf w 11 7
def rvRs1 (w : Nat) : Nat := bitsOf w 19 15
def rvRs2 (w : Nat) : Nat := bitsOf w 24 20
def rvF3 (w : Nat) : Nat := bitsOf w 14 12
def rvF7 (w : Nat) : Nat := bitsOf w 31 25
def rvImmI (w : Nat) : Int := sxt 12 (bitsOf w 31 20)
def rvImmS (w : Nat) : Int := sxt 12 (32 * rvF7 w + rvRd w)
def rvImmB (w : Nat) : Int := sxt 13 (4096 * bitsOf w 31 31 + 2048 * bitsOf w 7 7 + 32 * bitsOf w 30 25 + 2 * bitsOf w 11 8)
def rvImmJ (w : Nat) : Int := sxt 21 (2 ^ 20 * bitsOf w 31 31 + 4096 * bitsOf w 19 12 + 2048 * bitsOf w 20 20 + 2 * bitsOf w 30 21)
def rvImmU (w : Nat) : Word := BitVec.ofInt 64 (sxt 32 (4096 * bitsOf w 31 12))

/-- The branch condition of a funct3. -/
def rvCond (f3 : Nat) : Option RvCond := match f3 with
  | 0 => some .eq
  | 1 => some .ne
  | 4 => some .lt
  | 5 => some .ge
  | 6 => some .ltu
  | 7 => some .geu
  | _ => none

/-- The register-register operation of funct7 and funct3; only some have a 32-bit form. -/
def rvAlu (f7 f3 : Nat) (w : Bool) : Option RvAlu :=
  let x : Option RvAlu := match f7, f3 with
    | 0, 0 => some .add
    | 0x20, 0 => some .sub
    | 0, 1 => some .sll
    | 0, 2 => some .slt
    | 0, 3 => some .sltu
    | 0, 4 => some .xor
    | 0, 5 => some .srl
    | 0x20, 5 => some .sra
    | 0, 6 => some .or
    | 0, 7 => some .and
    | 1, 0 => some .mul
    | 1, 1 => some .mulh
    | 1, 2 => some .mulhsu
    | 1, 3 => some .mulhu
    | 1, 4 => some .div
    | 1, 5 => some .divu
    | 1, 6 => some .rem
    | 1, 7 => some .remu
    | _, _ => none
  x.filter (fun o => !w || [.add, .sub, .sll, .srl, .sra, .mul, .div, .divu, .rem, .remu].contains o)

/-- The operation of OP-IMM (`w`: OP-IMM-32) and its operand. -/
def rvImmOp (x : Nat) (w : Bool) : Option (RvAlu × Word) :=
  let i := BitVec.ofInt 64 (rvImmI x)
  let sh := if w then bitsOf x 24 20 else bitsOf x 25 20
  let top := if w then bitsOf x 31 25 else bitsOf x 31 26 * 2
  match rvF3 x with
  | 0 => some (.add, i)
  | 1 => if top = 0 then some (.sll, BitVec.ofNat 64 sh) else none
  | 5 => if top = 0 then some (.srl, BitVec.ofNat 64 sh) else if top = 0x20 then some (.sra, BitVec.ofNat 64 sh) else none
  | 2 => if w then none else some (.slt, i)
  | 3 => if w then none else some (.sltu, i)
  | 4 => if w then none else some (.xor, i)
  | 6 => if w then none else some (.or, i)
  | _ => if w then none else some (.and, i)

/-- The atomic operation of a funct5. -/
def rvAmo (f5 : Nat) : Option RvAmo := match f5 with
  | 0x01 => some .swap
  | 0x00 => some .add
  | 0x04 => some .xor
  | 0x0C => some .and
  | 0x08 => some .or
  | 0x10 => some .min
  | 0x14 => some .max
  | 0x18 => some .minu
  | 0x1C => some .maxu
  | _ => none

/-- The instruction of major opcode SYSTEM. -/
def rvSystem (x : Nat) : RvOp :=
  let n := bitsOf x 31 20
  match rvF3 x with
  | 0 => if x = 0x73 then .ecall else if x = 0x100073 then .ebreak else if x = 0x30200073 then .mret else if x = 0x10500073 then .wfi else .illegal
  | 1 => .csr .write (rvRd x) n (rvRs1 x) false
  | 2 => .csr .set (rvRd x) n (rvRs1 x) false
  | 3 => .csr .clear (rvRd x) n (rvRs1 x) false
  | 5 => .csr .write (rvRd x) n (rvRs1 x) true
  | 6 => .csr .set (rvRd x) n (rvRs1 x) true
  | 7 => .csr .clear (rvRd x) n (rvRs1 x) true
  | _ => .illegal

/-- The instruction of major opcode AMO; the aq and rl bits order accesses that the model makes one after another. -/
def rvAtomic (x : Nat) : RvOp :=
  let k := rvF3 x
  if k ≠ 2 ∧ k ≠ 3 then .illegal
  else if bitsOf x 31 27 = 2 then (if rvRs2 x = 0 then .lr k (rvRd x) (rvRs1 x) else .illegal)
  else if bitsOf x 31 27 = 3 then .sc k (rvRd x) (rvRs1 x) (rvRs2 x)
  else match rvAmo (bitsOf x 31 27) with
    | some o => .amo o k (rvRd x) (rvRs1 x) (rvRs2 x)
    | none => .illegal

/-- The instruction of major opcode MISC-MEM: FENCE, FENCE.I and the cache-block operations. -/
def rvMisc (x : Nat) : RvOp := match rvF3 x with
  | 0 => .fence (bitsOf x 27 24) (bitsOf x 23 20)
  | 1 => .fenceI
  | 2 => if rvRd x ≠ 0 then .illegal else match bitsOf x 31 20 with
    | 0 => .cbo .inval (rvRs1 x)
    | 1 => .cbo .clean (rvRs1 x)
    | 2 => .cbo .flush (rvRs1 x)
    | _ => .illegal
  | _ => .illegal

/-- The instruction that a 32-bit word spells. -/
def rvDecode (x : Nat) : RvOp :=
  let rd := rvRd x
  let rs1 := rvRs1 x
  let rs2 := rvRs2 x
  match x % 128 with
  | 0x37 => .lui rd (rvImmU x)
  | 0x17 => .auipc rd (rvImmU x)
  | 0x6F => .jal rd (rvImmJ x)
  | 0x67 => if rvF3 x = 0 then .jalr rd rs1 (rvImmI x) else .illegal
  | 0x63 => (match rvCond (rvF3 x) with
    | some c => .branch c rs1 rs2 (rvImmB x)
    | none => .illegal)
  | 0x03 => if rvF3 x = 7 then .illegal else .load (rvF3 x % 4) (decide (rvF3 x < 4)) rd rs1 (rvImmI x)
  | 0x23 => if 3 < rvF3 x then .illegal else .store (rvF3 x) rs1 rs2 (rvImmS x)
  | 0x13 => (match rvImmOp x false with
    | some (o, v) => .imm o false rd rs1 v
    | none => .illegal)
  | 0x1B => (match rvImmOp x true with
    | some (o, v) => .imm o true rd rs1 v
    | none => .illegal)
  | 0x33 => (match rvAlu (rvF7 x) (rvF3 x) false with
    | some o => .alu o false rd rs1 rs2
    | none => .illegal)
  | 0x3B => (match rvAlu (rvF7 x) (rvF3 x) true with
    | some o => .alu o true rd rs1 rs2
    | none => .illegal)
  | 0x0F => rvMisc x
  | 0x73 => rvSystem x
  | 0x2F => rvAtomic x
  | 0x0B => .xscg (rvF3 x) (rvF7 x) rd rs1 rs2
  | _ => .illegal

/-! ### Compressed words (extension C) -/

/-- One of registers x8 to x15 in a 3-bit field. -/
def rvcReg (x lo : Nat) : Nat := 8 + bitsOf x (lo + 2) lo

/-- The instruction that a 16-bit word of quadrant 0 spells. -/
def rvc0 (x : Nat) : RvOp :=
  let uw := 64 * bitsOf x 5 5 + 8 * bitsOf x 12 10 + 4 * bitsOf x 6 6
  let ud := 64 * bitsOf x 6 5 + 8 * bitsOf x 12 10
  match bitsOf x 15 13 with
  | 0 =>
    let n := 64 * bitsOf x 10 7 + 16 * bitsOf x 12 11 + 8 * bitsOf x 5 5 + 4 * bitsOf x 6 6
    if n = 0 then .illegal else .imm .add false (rvcReg x 2) 2 (BitVec.ofNat 64 n)
  | 2 => .load 2 true (rvcReg x 2) (rvcReg x 7) uw
  | 3 => .load 3 true (rvcReg x 2) (rvcReg x 7) ud
  | 6 => .store 2 (rvcReg x 7) (rvcReg x 2) uw
  | 7 => .store 3 (rvcReg x 7) (rvcReg x 2) ud
  | _ => .illegal

/-- The instruction that a 16-bit word of quadrant 1 spells. -/
def rvc1 (x : Nat) : RvOp :=
  let rd := bitsOf x 11 7
  let i6 : Word := BitVec.ofInt 64 (sxt 6 (32 * bitsOf x 12 12 + bitsOf x 6 2))
  let sh := 32 * bitsOf x 12 12 + bitsOf x 6 2
  let r := rvcReg x 7
  let br : Int := sxt 9 (256 * bitsOf x 12 12 + 64 * bitsOf x 6 5 + 32 * bitsOf x 2 2 + 8 * bitsOf x 11 10 + 2 * bitsOf x 4 3)
  match bitsOf x 15 13 with
  | 0 => .imm .add false rd rd i6
  | 1 => if rd = 0 then .illegal else .imm .add true rd rd i6
  | 2 => .imm .add false rd 0 i6
  | 3 =>
    if rd = 2 then
      let n := 512 * bitsOf x 12 12 + 128 * bitsOf x 4 3 + 64 * bitsOf x 5 5 + 32 * bitsOf x 2 2 + 16 * bitsOf x 6 6
      if n = 0 then .illegal else .imm .add false 2 2 (BitVec.ofInt 64 (sxt 10 n))
    else if sh = 0 then .illegal else .lui rd (BitVec.ofInt 64 (sxt 18 (4096 * sh)))
  | 4 => (match bitsOf x 11 10 with
    | 0 => .imm .srl false r r (BitVec.ofNat 64 sh)
    | 1 => .imm .sra false r r (BitVec.ofNat 64 sh)
    | 2 => .imm .and false r r i6
    | _ => match bitsOf x 12 12, bitsOf x 6 5 with
      | 0, 0 => .alu .sub false r r (rvcReg x 2)
      | 0, 1 => .alu .xor false r r (rvcReg x 2)
      | 0, 2 => .alu .or false r r (rvcReg x 2)
      | 0, _ => .alu .and false r r (rvcReg x 2)
      | _, 0 => .alu .sub true r r (rvcReg x 2)
      | _, 1 => .alu .add true r r (rvcReg x 2)
      | _, _ => .illegal)
  | 5 => .jal 0 (sxt 12 (2048 * bitsOf x 12 12 + 1024 * bitsOf x 8 8 + 256 * bitsOf x 10 9 + 128 * bitsOf x 6 6 + 64 * bitsOf x 7 7 + 32 * bitsOf x 2 2 +
      16 * bitsOf x 11 11 + 2 * bitsOf x 5 3))
  | 6 => .branch .eq r 0 br
  | _ => .branch .ne r 0 br

/-- The instruction that a 16-bit word of quadrant 2 spells. -/
def rvc2 (x : Nat) : RvOp :=
  let rd := bitsOf x 11 7
  let rs2 := bitsOf x 6 2
  match bitsOf x 15 13 with
  | 0 => .imm .sll false rd rd (BitVec.ofNat 64 (32 * bitsOf x 12 12 + rs2))
  | 2 => if rd = 0 then .illegal else .load 2 true rd 2 (64 * bitsOf x 3 2 + 32 * bitsOf x 12 12 + 4 * bitsOf x 6 4)
  | 3 => if rd = 0 then .illegal else .load 3 true rd 2 (64 * bitsOf x 4 2 + 32 * bitsOf x 12 12 + 8 * bitsOf x 6 5)
  | 4 =>
    if bitsOf x 12 12 = 0 then
      (if rs2 ≠ 0 then .alu .add false rd 0 rs2 else if rd = 0 then .illegal else .jalr 0 rd 0)
    else if rs2 ≠ 0 then .alu .add false rd rd rs2
    else if rd = 0 then .ebreak else .jalr 1 rd 0
  | 6 => .store 2 2 rs2 (64 * bitsOf x 8 7 + 4 * bitsOf x 12 9)
  | 7 => .store 3 2 rs2 (64 * bitsOf x 9 7 + 8 * bitsOf x 12 10)
  | _ => .illegal

/-- The instruction that a 16-bit word spells. -/
def rvcDecode (x : Nat) : RvOp := match x % 4 with
  | 0 => rvc0 x
  | 1 => rvc1 x
  | _ => rvc2 x

/-! ### Arithmetic -/

/-- The low 32 bits of a word, sign-extended. -/
def sext32 (v : Word) : Word := BitVec.ofInt 64 (sxt 32 v.toNat)

/-- An integer operation on n-bit operands, as integers. -/
def rvIntOp (n : Nat) (op : RvAlu) (a b : Word) : Int :=
  let sa := sxt n a.toNat
  let sb := sxt n b.toNat
  let ua : Nat := a.toNat % 2 ^ n
  let ub : Nat := b.toNat % 2 ^ n
  let k := b.toNat % n
  match op with
  | .add => sa + sb
  | .sub => sa - sb
  | .sll => ua * 2 ^ k
  | .slt => if sa < sb then 1 else 0
  | .sltu => if ua < ub then 1 else 0
  | .xor => (ua ^^^ ub : Nat)
  | .srl => ua / 2 ^ k
  | .sra => sa / 2 ^ k
  | .or => (ua ||| ub : Nat)
  | .and => (ua &&& ub : Nat)
  | .mul => sa * sb
  | .mulh => sa * sb / 2 ^ n
  | .mulhsu => sa * ub / 2 ^ n
  | .mulhu => (ua : Int) * ub / 2 ^ n
  | .div => if sb = 0 then -1 else sa.tdiv sb
  | .divu => if ub = 0 then -1 else ua / ub
  | .rem => if sb = 0 then sa else sa.tmod sb
  | .remu => if ub = 0 then ua else ua % ub

/-- An integer operation: `w` works on the low 32 bits and sign-extends its result. -/
def rvEval (op : RvAlu) (w : Bool) (a b : Word) : Word :=
  if w then sext32 (BitVec.ofInt 64 (rvIntOp 32 op a b)) else BitVec.ofInt 64 (rvIntOp 64 op a b)

/-- Does a branch go? -/
def rvTaken (c : RvCond) (a b : Word) : Bool := match c with
  | .eq => decide (a = b)
  | .ne => decide (a ≠ b)
  | .lt => decide (a.toInt < b.toInt)
  | .ge => decide (b.toInt ≤ a.toInt)
  | .ltu => decide (a.toNat < b.toNat)
  | .geu => decide (b.toNat ≤ a.toNat)

/-- The word an atomic operation of n bits writes. -/
def rvAmoEval (op : RvAmo) (n : Nat) (m v : Word) : Word :=
  let sm := sxt n m.toNat
  let sv := sxt n v.toNat
  let um := m.toNat % 2 ^ n
  let uv := v.toNat % 2 ^ n
  match op with
  | .swap => v
  | .add => m + v
  | .xor => m ^^^ v
  | .and => m &&& v
  | .or => m ||| v
  | .min => if sv < sm then v else m
  | .max => if sm < sv then v else m
  | .minu => if uv < um then v else m
  | .maxu => if um < uv then v else m

end Sys2Proof.Machine
end

