-- ==== Sys2Proof/Machine/Aprv.lean ====
section
/-! DEFINITION. The instructions of an application core (R338) beyond those of Rv: supervisor and hypervisor instructions, floating point and vectors, which the
spec names by reference (assumption 122). -/

namespace Sys2Proof.Machine

/-- How a vector memory instruction forms its element addresses. -/
inductive VAddr where
  | unit
  | strided (rs2 : Nat)
  | indexed (vs2 log2 : Nat)           -- an index register and the log2 of its element width in bytes
  deriving DecidableEq, Repr

/-- A vector memory instruction: fields per segment, log2 of the element width in bytes, data register, base register, whether masked. `whole` counts registers
of a whole-register access; `byte` marks a mask load or store. -/
structure VMem where
  store : Bool
  addr : VAddr
  nf : Nat
  log2 : Nat
  vd : Nat
  rs1 : Nat
  masked : Bool
  whole : Option Nat := none
  byte : Bool := false
  first : Bool := false                -- fault-only-first
  deriving DecidableEq, Repr

/-- Where a computational instruction of extensions F, D or V puts its result. -/
inductive FpDest where
  | x (rd : Nat)
  | f (rd : Nat)
  | v (vd : Nat)
  deriving DecidableEq, Repr

/-- A decoded instruction of an application core. -/
inductive ApOp where
  | base (i : RvOp)
  | sret
  | tlbFence (hyper gstage : Bool)     -- SFENCE.VMA, and HFENCE.VVMA or HFENCE.GVMA
  | hlv (log2 : Nat) (signed exec : Bool) (rd rs1 : Nat)
  | hsv (log2 rs1 rs2 : Nat)
  | fload (log2 rd rs1 : Nat) (off : Int)
  | fstore (log2 rs1 rs2 : Nat) (off : Int)
  | fmvX (dbl : Bool) (rd rs1 : Nat)   -- FMV.X.W and FMV.X.D
  | fmvF (dbl : Bool) (rd rs1 : Nat)   -- FMV.W.X and FMV.D.X
  | fp (d : FpDest)                    -- a computation of F or D
  | vset (rd rs1 : Nat) (avlImm : Option Nat) (vtype : Option Nat) (rs2 : Nat)
  | vmem (m : VMem)
  | vop (d : FpDest)                   -- a computation of V
  deriving DecidableEq, Repr

/-- Width codes of vector memory instructions: log2 of the element width in bytes. -/
def vWidth (f3 : Nat) : Option Nat := match f3 with
  | 0 => some 0
  | 5 => some 1
  | 6 => some 2
  | 7 => some 3
  | _ => none

/-- A load or store of major opcodes LOAD-FP and STORE-FP. -/
def apFpMem (x : Nat) (store : Bool) : ApOp :=
  let f3 := rvF3 x
  if f3 = 2 ∨ f3 = 3 then
    (if store then .fstore f3 (rvRs1 x) (rvRs2 x) (rvImmS x) else .fload f3 (rvRd x) (rvRs1 x) (rvImmI x))
  else match vWidth f3 with
    | none => .base .illegal
    | some k =>
      let nf := bitsOf x 31 29 + 1
      let m : VMem := { store := store, addr := .unit, nf := nf, log2 := k, vd := rvRd x, rs1 := rvRs1 x, masked := decide (bitsOf x 25 25 = 0) }
      if bitsOf x 28 28 = 1 then .base .illegal
      else match bitsOf x 27 26, rvRs2 x with
        | 0, 0 => .vmem m
        | 0, 8 => if m.masked || !([1, 2, 4, 8] : List Nat).contains nf then .base .illegal else .vmem { m with whole := some nf, nf := 1 }
        | 0, 11 => if m.masked || decide (nf ≠ 1 ∨ k ≠ 0) then .base .illegal else .vmem { m with byte := true }
        | 0, 16 => if store then .base .illegal else .vmem { m with first := true }
        | 0, _ => .base .illegal
        | 2, r => .vmem { m with addr := .strided r }
        | _, r => .vmem { m with addr := .indexed r k }

/-- A computation of major opcode OP-FP, by its destination. -/
def apFp (x : Nat) : ApOp :=
  let f7 := rvF7 x
  let dbl := decide (f7 % 4 = 1)
  if 1 < f7 % 4 then .base .illegal
  else match f7 / 4 with
    | 0x1C => if rvF3 x = 0 ∧ rvRs2 x = 0 then .fmvX dbl (rvRd x) (rvRs1 x) else if rvF3 x = 1 ∧ rvRs2 x = 0 then .fp (.x (rvRd x)) else .base .illegal
    | 0x1E => if rvF3 x = 0 ∧ rvRs2 x = 0 then .fmvF dbl (rvRd x) (rvRs1 x) else .base .illegal
    | 0x14 | 0x18 => .fp (.x (rvRd x))
    | 0 | 1 | 2 | 3 | 4 | 5 | 8 | 0x0B | 0x1A => .fp (.f (rvRd x))
    | _ => .base .illegal

/-- An instruction of major opcode OP-V. -/
def apVec (x : Nat) : ApOp :=
  let f3 := rvF3 x
  if f3 = 7 then
    (if bitsOf x 31 31 = 0 then .vset (rvRd x) (rvRs1 x) none (some (bitsOf x 30 20)) 0
    else if bitsOf x 30 30 = 1 then .vset (rvRd x) 0 (some (rvRs1 x)) (some (bitsOf x 29 20)) 0
    else if bitsOf x 30 25 = 0 then .vset (rvRd x) (rvRs1 x) none none (rvRs2 x)
    else .base .illegal)
  else if bitsOf x 31 26 = 0x10 ∧ f3 = 2 then .vop (.x (rvRd x))
  else if bitsOf x 31 26 = 0x10 ∧ f3 = 1 then .vop (.f (rvRd x))
  else .vop (.v (rvRd x))

/-- Supervisor and hypervisor instructions of major opcode SYSTEM. -/
def apSystem (x : Nat) : ApOp :=
  let f7 := rvF7 x
  if x = 0x10200073 then .sret
  else if rvF3 x = 0 ∧ rvRd x = 0 ∧ f7 = 0x09 then .tlbFence false false
  else if rvF3 x = 0 ∧ rvRd x = 0 ∧ f7 = 0x11 then .tlbFence true false
  else if rvF3 x = 0 ∧ rvRd x = 0 ∧ f7 = 0x31 then .tlbFence true true
  else if rvF3 x = 4 then
    (let k := f7 / 2 % 4
    if f7 / 8 ≠ 6 then .base .illegal
    else if f7 % 2 = 1 then (if rvRd x = 0 then .hsv k (rvRs1 x) (rvRs2 x) else .base .illegal)
    else match rvRs2 x with
      | 0 => .hlv k true false (rvRd x) (rvRs1 x)
      | 1 => if k = 3 then .base .illegal else .hlv k false false (rvRd x) (rvRs1 x)
      | 3 => if k = 1 ∨ k = 2 then .hlv k false true (rvRd x) (rvRs1 x) else .base .illegal
      | _ => .base .illegal)
  else .base (rvSystem x)

/-- The instruction that a 32-bit word spells to an application core; custom-0 is the controllers' alone. -/
def apDecode (x : Nat) : ApOp := match x % 128 with
  | 0x07 => apFpMem x false
  | 0x27 => apFpMem x true
  | 0x43 | 0x47 | 0x4B | 0x4F => if 1 < bitsOf x 26 25 then .base .illegal else .fp (.f (rvRd x))
  | 0x53 => apFp x
  | 0x57 => apVec x
  | 0x73 => apSystem x
  | 0x0B => .base .illegal
  | _ => .base (rvDecode x)

/-- The instruction that a 16-bit word spells: the compressed loads and stores of doubles, and those of Rv. -/
def apcDecode (x : Nat) : ApOp :=
  match x % 4, bitsOf x 15 13 with
  | 0, 1 => .fload 3 (rvcReg x 2) (rvcReg x 7) (64 * bitsOf x 6 5 + 8 * bitsOf x 12 10)
  | 0, 5 => .fstore 3 (rvcReg x 7) (rvcReg x 2) (64 * bitsOf x 6 5 + 8 * bitsOf x 12 10)
  | 2, 1 => .fload 3 (bitsOf x 11 7) 2 (64 * bitsOf x 4 2 + 32 * bitsOf x 12 12 + 8 * bitsOf x 6 5)
  | 2, 5 => .fstore 3 2 (bitsOf x 6 2) (64 * bitsOf x 9 7 + 8 * bitsOf x 12 10)
  | _, _ => .base (rvcDecode x)

end Sys2Proof.Machine
end

