-- ==== Sys2Proof/Machine/Apcsr.lean ====
section
/-! DEFINITION. Control and status registers, interrupt files, traps and physical memory protection of an application core (R338, R346): RV64 with the hypervisor
extension and the advanced interrupt architecture, which the spec names by reference (assumption 122). -/

namespace Sys2Proof.Machine

def State.core (s : State) (h : Nat) : AppCore := SMap.get {} s.cores h
def State.setCore (s : State) (h : Nat) (c : AppCore) : State := { s with cores := SMap.ins h c s.cores }
def State.updCore (s : State) (h : Nat) (f : AppCore → AppCore) : State := s.setCore h (f (s.core h))

/-! ### Modes -/

/-- Does a mode run under the hypervisor? -/
def CoreMode.virt : CoreMode → Bool
  | .vs | .vu => true
  | _ => false

/-- Nominal privilege: 3 machine, 1 supervisor, 0 user. -/
def CoreMode.priv : CoreMode → Nat
  | .m => 3
  | .hs | .vs => 1
  | .u | .vu => 0

/-- The mode of a privilege under, or not under, the hypervisor. -/
def modeOf (priv : Nat) (virt : Bool) : CoreMode :=
  if priv = 3 then .m else if priv = 1 then (if virt then .vs else .hs) else if virt then .vu else .u

/-- A CSR as stored. -/
def AppCore.csr (c : AppCore) (n : Nat) : Nat := (SMap.get 0 c.csrs n).toNat
def AppCore.bit (c : AppCore) (n i : Nat) : Bool := (c.csr n).testBit i
def AppCore.putCsr (c : AppCore) (n v : Nat) : AppCore := { c with csrs := SMap.ins n (BitVec.ofNat 64 v) c.csrs }

/-- A field of a CSR replaced. -/
def putBits (w hi lo v : Nat) : Nat := w - bitsOf w hi lo * 2 ^ lo + v % 2 ^ (hi + 1 - lo) * 2 ^ lo
def AppCore.putBits (c : AppCore) (n hi lo v : Nat) : AppCore := c.putCsr n (Machine.putBits (c.csr n) hi lo v)

/-- A word with the bits of a mask taken from another. -/
def maskIn (mask old new : Nat) : Nat := (old &&& (2 ^ 64 - 1 - mask)) ||| (new &&& mask)

/-! ### Interrupt files (R346) -/

/-- Identities that a file may signal: pending and enabled, below its threshold when that is not 0; the lowest is the most urgent. -/
def IrqFile.top (f : IrqFile) : Option Nat :=
  (List.range 256).find? (fun i => decide (i ≠ 0) && f.pend.testBit i && f.en.testBit i && (decide (f.threshold = 0) || decide (i < f.threshold)))

/-- Does a file signal its hart? -/
def IrqFile.signals (f : IrqFile) : Bool := f.delivery && f.top.isSome

/-- Interrupt file f of a core: 0 machine, 1 supervisor, 2 to 7 guest files 1 to 6. -/
def State.coreFile (s : State) (h f : Nat) : IrqFile := SMap.get {} s.imsic (8 * h + f)
def State.setCoreFile (s : State) (h f : Nat) (x : IrqFile) : State := { s with imsic := SMap.ins (8 * h + f) x s.imsic }

/-- The guest file that VGEIN selects, as a file number. -/
def AppCore.guestFile (c : AppCore) : Option Nat :=
  let g := bitsOf (c.csr 0x600) 17 12
  if 1 ≤ g ∧ g ≤ 6 then some (g + 1) else none

/-- Words of a mask of 256 bits, 64 at a time. -/
def putWord (m k v : Nat) : Nat := putBits m (64 * k + 63) (64 * k) v

/-- A register of a file behind miselect, siselect or vsiselect: delivery, threshold, pending and enable words; none for another number. -/
def IrqFile.reg (f : IrqFile) (sel : Nat) : Option Nat :=
  if sel = 0x70 then some (b2n f.delivery)
  else if sel = 0x72 then some f.threshold
  else if 0x80 ≤ sel ∧ sel < 0xC0 ∧ sel % 2 = 0 then some (bitsOf f.pend (64 * ((sel - 0x80) / 2) + 63) (64 * ((sel - 0x80) / 2)))
  else if 0xC0 ≤ sel ∧ sel < 0x100 ∧ sel % 2 = 0 then some (bitsOf f.en (64 * ((sel - 0xC0) / 2) + 63) (64 * ((sel - 0xC0) / 2)))
  else none

/-- A write of such a register; identity 0 and those above 255 do not exist. -/
def IrqFile.setReg (f : IrqFile) (sel v : Nat) : IrqFile :=
  let ids (m : Nat) : Nat := m % 2 ^ 256 / 2 * 2
  if sel = 0x70 then { f with delivery := v.testBit 0 }
  else if sel = 0x72 then { f with threshold := v % 256 }
  else if sel < 0xC0 then { f with pend := ids (putWord f.pend ((sel - 0x80) / 2) v) }
  else { f with en := ids (putWord f.en ((sel - 0xC0) / 2) v) }

/-! ### Interrupts -/

/-- The guest external interrupts that wait: bit g for guest file g. -/
def State.hgeip (s : State) (h : Nat) : Nat := 2 * maskOf 6 (fun g => (s.coreFile h (g + 2)).signals)

/-- mip: the software bits, and the external interrupts that the files signal. No unit of the part raises a machine timer or software interrupt here. -/
def State.coreMip (s : State) (h : Nat) : Nat :=
  let c := s.core h
  let vse := match c.guestFile with
    | some f => (s.coreFile h f).signals
    | none => false
  (c.csr 0x344 &&& 0x222) ||| (c.csr 0x645 &&& 0x444) ||| 2048 * b2n (s.coreFile h 0).signals ||| 512 * b2n (s.coreFile h 1).signals ||| 1024 * b2n vse |||
    4096 * b2n (decide (s.hgeip h &&& c.csr 0x607 ≠ 0))

/-- mideleg: the hypervisor's interrupts are delegated always. -/
def AppCore.mideleg (c : AppCore) : Nat := (c.csr 0x303 &&& 0x222) ||| 0x1444

/-- Interrupts in the order of their default priority. -/
def irqOrder : List Nat := [11, 3, 7, 9, 1, 5, 12, 10, 2, 6]

/-- The interrupt a core takes now, if any: of those pending and enabled, machine level first, then supervisor, then virtual supervisor. -/
def State.coreIrq (s : State) (h : Nat) : Option Nat :=
  let c := s.core h
  let on := s.coreMip h &&& c.csr 0x304
  let hd := c.csr 0x603 &&& 0x444
  let m := on &&& (2 ^ 64 - 1 - c.mideleg)
  let hs := on &&& c.mideleg &&& (2 ^ 64 - 1 - hd)
  let vs := on &&& c.mideleg &&& hd
  let mOn := decide (c.mode ≠ .m) || c.bit 0x300 3
  let hsOn := (c.mode.virt || decide (c.mode = .u)) || (decide (c.mode = .hs) && c.bit 0x300 1)
  let vsOn := decide (c.mode = .vu) || (decide (c.mode = .vs) && c.bit 0x200 1)
  let pick (m : Nat) : Option Nat := irqOrder.find? (fun i => m.testBit i)
  if mOn ∧ m ≠ 0 then pick m else if hsOn ∧ hs ≠ 0 then pick hs else if vsOn ∧ vs ≠ 0 then pick vs else none

/-! ### Traps and returns -/

/-- Address of a trap vector. -/
def trapVector (tvec cause : Nat) (irq : Bool) : Nat := tvec / 4 * 4 + (if irq ∧ tvec % 2 = 1 then 4 * cause else 0)

/-- A trap: the cause, the value of the trap-value CSR, whether that is a guest's virtual address, and the guest physical address of a guest page fault. -/
structure Trap where
  cause : Nat
  tval : Nat := 0
  gva : Bool := false
  gpa : Nat := 0
  tinst : Nat := 0
  irq : Bool := false
  deriving DecidableEq, Repr

/-- The mode that takes a trap, by the delegation CSRs. -/
def AppCore.trapMode (c : AppCore) (t : Trap) : CoreMode :=
  let md := if t.irq then c.mideleg else c.csr 0x302
  let hd := if t.irq then c.csr 0x603 &&& 0x444 else c.csr 0x602
  if c.mode = .m ∨ !md.testBit t.cause then .m else if c.mode.virt ∧ hd.testBit t.cause then .vs else .hs

/-- Trap entry. -/
def AppCore.trap (c : AppCore) (t : Trap) : AppCore :=
  let p := c.mode.priv
  let v := b2n c.mode.virt
  let code (n : Nat) : Nat := n + (if t.irq then 2 ^ 63 else 0)
  let c := { c with resv := none, want := if c.sb.isEmpty then none else c.want }
  match c.trapMode t with
  | .m =>
    let c := ((((c.putBits 0x300 7 7 (b2n (c.bit 0x300 3))).putBits 0x300 3 3 0).putBits 0x300 12 11 p).putBits 0x300 39 39 v).putBits 0x300 38 38 (b2n t.gva)
    { ((((c.putCsr 0x341 c.pc).putCsr 0x342 (code t.cause)).putCsr 0x343 t.tval).putCsr 0x34B (t.gpa / 4)).putCsr 0x34A t.tinst with
      mode := .m, pc := trapVector (c.csr 0x305) t.cause t.irq }
  | .vs =>
    let n := if t.irq then t.cause - 1 else t.cause
    let c := ((c.putBits 0x200 5 5 (b2n (c.bit 0x200 1))).putBits 0x200 1 1 0).putBits 0x200 8 8 p
    { ((c.putCsr 0x241 c.pc).putCsr 0x242 (code n)).putCsr 0x243 t.tval with mode := .vs, pc := trapVector (c.csr 0x205) n t.irq }
  | _ =>
    let c := ((c.putBits 0x300 5 5 (b2n (c.bit 0x300 1))).putBits 0x300 1 1 0).putBits 0x300 8 8 p
    let c := (c.putBits 0x600 7 7 v).putBits 0x600 6 6 (b2n t.gva)
    let c := if v = 1 then c.putBits 0x600 8 8 p else c
    { ((((c.putCsr 0x141 c.pc).putCsr 0x142 (code t.cause)).putCsr 0x143 t.tval).putCsr 0x643 (t.gpa / 4)).putCsr 0x64A t.tinst with
      mode := .hs, pc := trapVector (c.csr 0x105) t.cause t.irq }

/-- A core takes a trap. -/
def State.coreTrap (s : State) (h : Nat) (t : Trap) : State := s.updCore h (·.trap t)

/-- MRET. -/
def AppCore.mret (c : AppCore) : AppCore :=
  let p := bitsOf (c.csr 0x300) 12 11
  let next := modeOf p (c.bit 0x300 39)
  let c' := (((c.putBits 0x300 3 3 (b2n (c.bit 0x300 7))).putBits 0x300 7 7 1).putBits 0x300 12 11 0).putBits 0x300 39 39 0
  { (if p = 3 then c' else c'.putBits 0x300 17 17 0) with mode := next, pc := c.csr 0x341 }

/-- SRET, in its own mode or M. -/
def AppCore.sret (c : AppCore) : AppCore :=
  if c.mode.virt then
    { (((c.putBits 0x200 1 1 (b2n (c.bit 0x200 5))).putBits 0x200 5 5 1).putBits 0x200 8 8 0) with
      mode := modeOf (b2n (c.bit 0x200 8)) true, pc := c.csr 0x241 }
  else
    { (((((c.putBits 0x300 1 1 (b2n (c.bit 0x300 5))).putBits 0x300 5 5 1).putBits 0x300 8 8 0).putBits 0x300 17 17 0).putBits 0x600 7 7 0) with
      mode := modeOf (b2n (c.bit 0x300 8)) (c.bit 0x600 7), pc := c.csr 0x141 }

/-! ### Reading and writing CSRs -/

/-- Bits of mstatus that software writes, and those that sstatus shows. -/
def mstatusMask : Nat := 0xC0007E7FAA
def sstatusMask : Nat := 0xC6722

/-- The fixed fields of a status register, and SD. -/
def statusRead (w : Nat) (sxl : Bool) : Nat :=
  w ||| 2 * 2 ^ 32 ||| (if sxl then 2 * 2 ^ 34 else 0) ||| (if bitsOf w 14 13 = 3 ∨ bitsOf w 10 9 = 3 then 2 ^ 63 else 0)

/-- CSRs held as written, with the bits that software may write. -/
def csrPlain : List (Nat × Nat) :=
  let all := 2 ^ 64 - 1
  [(0x001, 0x1F), (0x002, 7), (0x003, 0xFF), (0x008, 511), (0x009, 1), (0x00A, 3), (0x00F, 7), (0x105, all - 2), (0x106, 7), (0x10A, 0x71), (0x140, all), (0x141, all - 1),
   (0x142, all), (0x143, all), (0x150, 0xFFF), (0x205, all - 2), (0x240, all), (0x241, all - 1), (0x242, all), (0x243, all), (0x250, 0xFFF),
   (0x302, 0xF0B5FF), (0x303, 0x222), (0x304, 0x1EEE), (0x305, all - 2), (0x306, 7), (0x30A, 0x71), (0x340, all), (0x341, all - 1), (0x342, all), (0x343, all),
   (0x34A, all), (0x34B, all), (0x350, 0xFFF), (0x602, 0xB1FF), (0x603, 0x444), (0x605, all), (0x606, 7), (0x607, 0x7E), (0x60A, 0x71), (0x643, all), (0x645, 0x444), (0x64A, all)]

/-- CSRs that read zero: the identification registers and controls of the interrupt architecture that the part need not have, and unimplemented counters. -/
def csrZero (n : Nat) : Bool :=
  [0xF11, 0xF12, 0xF13, 0xF15, 0x308, 0x309, 0x608, 0x609, 0x646, 0x647, 0x320].contains n || decide (0xB03 ≤ n ∧ n ≤ 0xB1F) || decide (0x323 ≤ n ∧ n ≤ 0x33F) ||
    decide (0xC03 ≤ n ∧ n ≤ 0xC1F)

/-- The interrupt file that a CSR group reaches: M, S, or VS by VGEIN. -/
def AppCore.fileOf (c : AppCore) (n : Nat) : Option Nat :=
  if n / 256 % 4 = 3 then some 0 else if n / 256 % 4 = 1 then some 1 else c.guestFile

/-- mtopi, stopi and vstopi: the interrupt that a level would take first, with priority 1. -/
def topi (m : Nat) : Nat := match irqOrder.find? (fun i => m.testBit i) with
  | some i => 65536 * i + 1
  | none => 0

/-- The CSR that a number names in a mode: under the hypervisor a supervisor CSR is the guest's own. -/
def csrHere (mode : CoreMode) (n : Nat) : Nat := if mode.virt ∧ n / 256 = 1 ∧ n ≠ 0x106 ∧ n ≠ 0x10A then n + 0x100 else if mode.virt ∧ n = 0xDB0 then 0xEB0 else n

/-- The value of a CSR: none where the core has no such CSR. -/
def State.apCsr (s : State) (h n : Nat) : Option Nat :=
  let c := s.core h
  let mip := s.coreMip h
  match n with
  | 0x001 => some (c.csr 0x003 % 32)
  | 0x002 => some (c.csr 0x003 / 32 % 8)
  | 0x00F => some (c.csr 0x009 % 2 + 2 * c.csr 0x00A)
  | 0xC20 => some (c.csr 0xC20)
  | 0xC21 => some (c.csr 0xC21)
  | 0xC22 => some 64
  | 0xB00 | 0xC00 => some (c.csr 0xB00)
  | 0xC01 => some ((s.time.count + (if c.mode.virt then c.csr 0x605 else 0)) % 2 ^ 64)
  | 0xB02 | 0xC02 => some (c.csr 0xB02)
  | 0x100 => some (statusRead (c.csr 0x300 &&& sstatusMask) false)
  | 0x104 => some (c.csr 0x304 &&& c.mideleg &&& 0x222)
  | 0x144 => some (mip &&& c.mideleg &&& 0x222)
  | 0x180 | 0x280 | 0x680 => some (c.csr n)
  | 0x200 => some (statusRead (c.csr 0x200) false)
  | 0x204 => some ((c.csr 0x304 &&& c.csr 0x603 &&& 0x444) / 2)
  | 0x244 => some ((mip &&& c.csr 0x603 &&& 0x444) / 2)
  | 0x300 => some (statusRead (c.csr 0x300) true)
  | 0x301 => some (2 ^ 63 + 0x3411AD)
  | 0x303 => some c.mideleg
  | 0x344 => some mip
  | 0x600 => some (c.csr 0x600 + 2 * 2 ^ 32)
  | 0x604 => some (c.csr 0x304 &&& 0x1444)
  | 0x644 => some (mip &&& 0x1444)
  | 0xE12 => some (s.hgeip h)
  | 0xF14 => some h
  | 0xFB0 => some (topi (mip &&& c.csr 0x304 &&& (2 ^ 64 - 1 - c.mideleg)))
  | 0xDB0 => some (topi (mip &&& c.csr 0x304 &&& c.mideleg &&& (2 ^ 64 - 1 - (c.csr 0x603 &&& 0x444))))
  | 0xEB0 => some (topi ((mip &&& c.csr 0x304 &&& c.csr 0x603 &&& 0x444) / 2))
  | 0x351 | 0x151 | 0x251 => (c.fileOf n).bind (fun f => (s.coreFile h f).reg (c.csr (n - 1)))
  | 0x35C | 0x15C | 0x25C => (c.fileOf n).map (fun f => match (s.coreFile h f).top with
    | some i => 65537 * i
    | none => 0)
  | 0x3A0 | 0x3A2 => some (c.csr n)
  | _ =>
    if 0x3B0 ≤ n ∧ n < 0x3C0 then some (c.csr n)
    else if csrZero n then some 0
    else if csrPlain.any (fun x => decide (x.1 = n)) then some (c.csr n)
    else none

/-- PMP entry i: its configuration byte and address register. -/
def AppCore.pmpCfg (c : AppCore) (i : Nat) : Nat := c.csr (0x3A0 + i / 8 * 2) / 256 ^ (i % 8) % 256
def AppCore.pmpAddr (c : AppCore) (i : Nat) : Nat := c.csr (0x3B0 + i) % 2 ^ 54

/-- A write of pmpcfg: a locked byte stays; reserved bits are zero; W without R is not written. -/
def AppCore.putPmp (c : AppCore) (n v : Nat) : AppCore :=
  let b (i : Nat) : Nat :=
    let old := c.csr n / 256 ^ i % 256
    let new := v / 256 ^ i % 256 &&& 0x9F
    if old.testBit 7 ∨ new % 4 = 2 then old else new
  c.putCsr n ((List.range 8).foldl (fun m i => m + b i * 256 ^ i) 0)

/-- An address-translation CSR takes a mode that the core has: none, Sv39 or Sv48. -/
def AppCore.putAtp (c : AppCore) (n v : Nat) : AppCore :=
  let m := bitsOf v 63 60
  if m ≠ 0 ∧ m ≠ 8 ∧ m ≠ 9 then c
  else c.putCsr n (if n = 0x680 then m * 2 ^ 60 + bitsOf v 57 44 * 2 ^ 44 + bitsOf v 43 2 * 4 else v)

/-- Write a CSR. A write of an external-interrupt claim register takes the identity that its file shows. -/
def State.putApCsr (s : State) (h n v : Nat) : State :=
  let c := s.core h
  let set (m : Nat) (w : Nat) : State := s.setCore h (c.putCsr m w)
  match n with
  | 0x001 => set 0x003 (putBits (c.csr 0x003) 4 0 v)
  | 0x002 => set 0x003 (putBits (c.csr 0x003) 7 5 v)
  | 0x00F => s.setCore h ((c.putCsr 0x009 (v % 2)).putCsr 0x00A (v / 2 % 4))
  | 0x100 => set 0x300 (maskIn sstatusMask (c.csr 0x300) v)
  | 0x104 => set 0x304 (maskIn (c.mideleg &&& 0x222) (c.csr 0x304) v)
  | 0x144 => set 0x344 (maskIn (c.mideleg &&& 0x2) (c.csr 0x344) v)
  | 0x180 | 0x280 | 0x680 => s.setCore h (c.putAtp n v)
  | 0x200 => set 0x200 (v &&& sstatusMask)
  | 0x204 => set 0x304 (maskIn (c.csr 0x603 &&& 0x444) (c.csr 0x304) (2 * v))
  | 0x244 => set 0x645 (maskIn (c.csr 0x603 &&& 0x4) (c.csr 0x645) (2 * v))
  | 0x300 =>
    let w := maskIn mstatusMask (c.csr 0x300) v
    set 0x300 (if bitsOf w 12 11 = 2 then putBits w 12 11 (bitsOf (c.csr 0x300) 12 11) else w)
  | 0x344 => set 0x344 (v &&& 0x222)
  | 0x600 =>
    let w := v &&& 0x73F3C0
    set 0x600 (if bitsOf w 17 12 ≤ 6 then w else putBits w 17 12 (bitsOf (c.csr 0x600) 17 12))
  | 0x604 => set 0x304 (maskIn 0x1444 (c.csr 0x304) v)
  | 0x644 => set 0x645 (maskIn 0x4 (c.csr 0x645) v)
  | 0xB00 | 0xB02 => set n v
  | 0x351 | 0x151 | 0x251 => match c.fileOf n with
    | some f => s.setCoreFile h f ((s.coreFile h f).setReg (c.csr (n - 1)) v)
    | none => s
  | 0x35C | 0x15C | 0x25C => match c.fileOf n with
    | some f => (match (s.coreFile h f).top with
      | some i => s.setCoreFile h f { s.coreFile h f with pend := putBits (s.coreFile h f).pend i i 0 }
      | none => s)
    | none => s
  | 0x3A0 | 0x3A2 => s.setCore h (c.putPmp n v)
  | _ =>
    if 0x3B0 ≤ n ∧ n < 0x3C0 then
      let i := n - 0x3B0
      if (c.pmpCfg i).testBit 7 ∨ (i < 15 ∧ (c.pmpCfg (i + 1)).testBit 7 ∧ bitsOf (c.pmpCfg (i + 1)) 4 3 = 1) then s else set n (v % 2 ^ 54)
    else match csrPlain.find? (fun x => decide (x.1 = n)) with
      | some x => set n (maskIn x.2 (c.csr n) v)
      | none => s

/-- The exception of a CSR access, if any: 2 illegal, 22 a virtual instruction. `n` is the number in the instruction. -/
def AppCore.csrDenied (c : AppCore) (n : Nat) (write : Bool) : Option Nat :=
  let lvl := n / 256 % 4
  let ctr := decide (0xC00 ≤ n ∧ n < 0xC20)
  let k := n - 0xC00
  if write ∧ n / 1024 = 3 then some 2
  else if c.mode ≠ .m ∧ lvl = 3 then some 2
  else if c.mode.virt ∧ (lvl = 2 ∨ (c.mode = .vu ∧ lvl = 1)) then some 22
  else if c.mode = .u ∧ 1 ≤ lvl then some 2
  else if n = 0x180 ∧ c.mode = .hs ∧ c.bit 0x300 20 then some 2
  else if n = 0x180 ∧ c.mode = .vs ∧ c.bit 0x600 20 then some 22
  else if ctr ∧ c.mode ≠ .m ∧ !c.bit 0x306 k then some 2
  else if ctr ∧ c.mode.virt ∧ !c.bit 0x606 k then some 22
  else if ctr ∧ (c.mode = .u ∨ c.mode = .vu) ∧ !c.bit 0x106 k then some (if c.mode = .vu then 22 else 2)
  else none

/-- Is a unit of a core off: floating point or vectors, by FS and VS of the status registers in force? -/
def AppCore.fsOff (c : AppCore) : Bool := decide (bitsOf (c.csr 0x300) 14 13 = 0) || (c.mode.virt && decide (bitsOf (c.csr 0x200) 14 13 = 0))
def AppCore.vsOff (c : AppCore) : Bool := decide (bitsOf (c.csr 0x300) 10 9 = 0) || (c.mode.virt && decide (bitsOf (c.csr 0x200) 10 9 = 0))

/-- Their state becomes dirty. -/
def AppCore.fsDirty (c : AppCore) : AppCore :=
  let c := c.putBits 0x300 14 13 3
  if c.mode.virt then c.putBits 0x200 14 13 3 else c
def AppCore.vsDirty (c : AppCore) : AppCore :=
  let c := c.putBits 0x300 10 9 3
  if c.mode.virt then c.putBits 0x200 10 9 3 else c

/-! ### Physical memory protection -/

/-- The range of a PMP entry, none where it is off. -/
def AppCore.pmpRange (c : AppCore) (i : Nat) : Option (Nat × Nat) :=
  let a := c.pmpAddr i
  match bitsOf (c.pmpCfg i) 4 3 with
  | 0 => none
  | 1 => some (if i = 0 then 0 else 4 * c.pmpAddr (i - 1), 4 * a)
  | 2 => some (4 * a, 4 * a + 4)
  | _ =>
    let k := ((List.range 54).find? (fun j => !a.testBit j)).getD 54
    some (4 * (a / 2 ^ k * 2 ^ k), 4 * (a / 2 ^ k * 2 ^ k) + 2 ^ (k + 3))

/-- An access by kind. -/
inductive MemAcc where
  | r | w | x
  deriving DecidableEq, Repr

/-- Does the protection permit an access of n bytes in a mode: the first entry that touches it decides, and must hold it whole? -/
def AppCore.pmpOk (c : AppCore) (mode : CoreMode) (acc : MemAcc) (a n : Nat) : Bool :=
  match (List.range 16).find? (fun i => match c.pmpRange i with
    | some (lo, hi) => decide (lo < a + n) && decide (a < hi)
    | none => false) with
  | none => decide (mode = .m)
  | some i =>
    let whole := match c.pmpRange i with
      | some (lo, hi) => decide (lo ≤ a) && decide (a + n ≤ hi)
      | none => false
    let cfg := c.pmpCfg i
    whole && ((decide (mode = .m) && !cfg.testBit 7) || cfg.testBit (match acc with
      | .r => 0
      | .w => 1
      | .x => 2))

/-- Causes of an access fault and of a page fault. -/
def MemAcc.fault : MemAcc → Nat
  | .x => 1
  | .r => 5
  | .w => 7
def MemAcc.page : MemAcc → Nat
  | .x => 12
  | .r => 13
  | .w => 15
def MemAcc.guest : MemAcc → Nat
  | .x => 20
  | .r => 21
  | .w => 23

end Sys2Proof.Machine
end

