-- ==== Sys2Proof/Machine/Boot.lean ====
section
/-! DEFINITION. Bring-up (R9, R461, R475 to R482, R495, R496, R514): the steps of a cold and a warm boot and the auxiliary supply. A test that fails does so by an
upset that stands for the defect; a defect stays, so every cold boot meets it again. -/

namespace Sys2Proof.Machine

/-- Set the boot stage. -/
def State.setStage (s : State) (n : Nat) : State := s.setFld R.BOOT_STATUS F.BOOT_STATUS_STAGE n

/-! ### Step 1 and 2: ROM and fuses -/

/-- Did a slot pass at grading? Bit 17 g + slot of GRADE marks one that failed (assumption 60). -/
def State.graded (s : State) (g slot : Nat) : Bool := !(SMap.get 0 s.sec.voted 0x03).testBit (17 * g + slot)

/-- CAP_UNITS and CAP_COUNTS from the voted fuses (R9, Table 4). -/
def State.loadCaps (s : State) : State :=
  let (u, cells, per, upd) := match s.part with
    | .au => (0xFFFFFF3F, 4096, 64, 256)
    | .a => (0xFFFFFF2F, 4096, 64, 0)
    | .b => (0x5555000F, 3584, 56, 0)
  let spares := ((List.range 256).filter (fun g => s.graded g 16)).length
  let w := setF (setF (setF (setF (setF 0 F.CAP_COUNTS_ACTIVE_CELLS cells) F.CAP_COUNTS_CELLS_PER_PART per) F.CAP_COUNTS_PARTITIONS 64)
    F.CAP_COUNTS_UPDATE_UNIT_COUNT upd) F.CAP_COUNTS_GOOD_SPARES spares
  (s.setReg R.CAP_UNITS (BitVec.ofNat 64 u)).setReg R.CAP_COUNTS w

/-- CLU_SLOT_MAP of a cluster as graded (Table 12). -/
def State.loadSlotMap (s : State) (g : Nat) : State :=
  let pop := if s.part = .b ∧ (s.partOf g).2 = 3 then 0x00FF else 0xFFFF
  let bad := (List.range 16).filter (fun j => !s.graded g j)
  let spare := s.graded g 16
  let pos := if spare then (bad.find? (fun j => pop.testBit j)).getD 0x1F else 0x1F
  let w := setF (setF (setF (setF 0 F.CLU_SLOT_MAP_SPARE_POS pos) F.CLU_SLOT_MAP_SPARE_GOOD (b2n spare)) F.CLU_SLOT_MAP_RETIRED
    (bad.foldl (fun n j => n + 2 ^ j) 0)) F.CLU_SLOT_MAP_POPULATED pop
  let s := s.setReg (R.CLU_SLOT_MAP g) w
  s.setFld (R.CLU_RTR_FENCE g) F.CLU_RTR_FENCE_FENCE (s.retiredFence g)

/-- The fuse vote of base-camp firmware and what it loads (R9, R444, R448, R466). -/
def State.loadFuses (s : State) : State :=
  match s.voteFields (fuseFields.filter (fun f => !romFields.contains f)) with
  | (s, false) => s
  | (s, true) =>
    let n := s.sec.activeSlot
    let s := { s with layout := SMap.get 0 s.sec.voted (0x40 + n), sec := { s.sec with grants := s.sec.openGrants } }
    let s := (s.setFld R.FUSE_STATUS F.FUSE_STATUS_VOTED 1).setFld R.FUSE_STATUS F.FUSE_STATUS_ACTIVE_SLOT n
    ((List.range 256).foldl (fun s g => s.loadSlotMap g) s.loadCaps).setStage 2

/-- COLD_BOOT (R461 Table 249, R475 steps 1 and 2). -/
def State.coldBoot (s : State) : State :=
  if !s.pwr.aux ∨ s.supply = 3 ∨ s.stage ≠ 0 ∨ s.boot.testMode then s
  else
    match ({ s with sec := s.sec.draw }).voteFields romFields with
    | (s, false) => s
    | (s, true) =>
      match ({ s with sec := { s.sec with identity := true } }).verifyBoot 0 with
      | (s, false) => s
      | (s, true) => (s.setStage 1).loadFuses

def execColdBoot (s : State) : Host.Outcome State Fault Refusal := .next s.coldBoot

/-! ### Step 3: self-test (R477, R478) -/

/-- Failed physical slots and clusters of a test. -/
def bistSlots (l : List Upset) : List Nat := l.filterMap (fun u => match u with
  | .bistSlot k => some k
  | _ => none)
def bistClus (l : List Upset) : List Nat := l.filterMap (fun u => match u with
  | .bistClu g => some g
  | _ => none)
def kaSlots (l : List Upset) : List Nat := l.filterMap (fun u => match u with
  | .kaSlot k => some k
  | _ => none)
def kaClus (l : List Upset) : List Nat := l.filterMap (fun u => match u with
  | .kaClu g => some g
  | _ => none)
def bistDies (l : List Upset) : List (Nat × Nat) := l.filterMap (fun u => match u with
  | .bistDie d m => some (d, m)
  | _ => none)

/-- BIST_FAIL of a die: 8 the hub (Table 267). -/
def State.dieFails (s : State) (d dom : Nat) : State :=
  (s.setFld (R.BOOT_DIE d) F.BOOT_DIE_LOGIC_FAIL 1).fatal { code := 0x5500, kind := if d = 8 then 0 else 3, src := d % 8, detail := d + 256 * dom } 3

/-- Memory BIST leaves every SRAM zero with every poison bit clear (R477). -/
def State.clearSram (s : State) : State :=
  { s with mem := s.mem.filter (fun c => memKept false c.1), poison := s.poison.filter (fun k => memKept false (64 * k)) }

/-- SELF_TEST_DONE (R477, R478): a hub domain decides at once; the compute dies hold their results until their links are trained. -/
def execSelfTestDone (s : State) : Host.Outcome State Fault Refusal :=
  .next (
    if s.stage ≠ 2 then s
    else match (bistDies s.upsets).find? (fun x => decide (x.1 = 8)) with
      | some x => s.dieFails 8 x.2
      | none => s.clearSram.setStage 3)

/-! ### Step 4: training (R222, R223, R477, R479) -/

/-- Code of an accepted CXL link: RATE and CXL_REV (R222). -/
def CxlDev.accepted (d : CxlDev) : Option (Nat × Nat) :=
  if d.width ≠ 8 ∧ d.width ≠ 4 then none
  else if d.rev = 31 ∧ d.rate = 64 then some (2, 3)
  else if d.rev = 20 ∧ d.rate = 32 then some (1, 2)
  else if d.rev = 11 ∧ d.rate = 32 then some (1, 1)
  else none

/-- Is the device one that the block supports (R222)? -/
def CxlDev.supported (d : CxlDev) : Bool := d.direct && d.single && d.mem && !d.cache && !d.dynCap && !d.backInv

/-- Largest power of two not above n, 0 for 0. -/
def pow2Below (n : Nat) : Nat := if n = 0 then 0 else 2 ^ n.log2

/-- Train the far-tier ports and map the window (R222, R223, R224). -/
def State.mapFar (s : State) : State :=
  if s.part = .b then s else
  let port (p : Nat) : Option (CxlDev × Nat × Nat) :=
    if s.upsets.contains (.trainCxl p) then none
    else match nthD s.cxl p none with
      | some d => d.accepted.map (fun x => (d, x.1, x.2))
      | none => none
  let mp (p : Nat) : Nat := match port p with
    | some (d, _) => if d.supported then min 256 (pow2Below d.gib) else 0
    | none => 0
  let usable := (List.range 8).filter (fun p => decide (16 ≤ mp p))
  let w := pow2Below usable.length
  let set := usable.take w
  let c := set.foldl (fun m p => min m (mp p)) 256
  let s := (List.range 8).foldl (fun s p =>
    match port p with
    | none => s.setReg (R.CXL_PORT_STATUS p) (setF 0 F.CXL_PORT_STATUS_STATE 1)
    | some (d, rate, rv) =>
      let v := setF (setF (setF (setF (setF 0 F.CXL_PORT_STATUS_STATE (if set.contains p then 3 else 2)) F.CXL_PORT_STATUS_RATE rate)
        F.CXL_PORT_STATUS_WIDTH (if d.width = 8 then 2 else 1)) F.CXL_PORT_STATUS_CXL_REV rv) F.CXL_PORT_STATUS_CAP_GIB (min 4095 d.gib)
      s.setReg (R.CXL_PORT_STATUS p) (setF v F.CXL_PORT_STATUS_WAY (if set.contains p then set.idxOf p else 0))) s
  if w = 0 then s
  else s.setReg R.CXL_MAP (setF (setF (setF (setF 0 F.CXL_MAP_WAYS w) F.CXL_MAP_PORTS (set.foldl (fun n p => n + 2 ^ p) 0)) F.CXL_MAP_C_GIB c)
    F.CXL_MAP_MAPPED_GIB (w * c))

/-- The HBM4 stacks train (R221, R479). -/
def State.trainHbm (s : State) : State :=
  (List.range 8).foldl (fun s d => s.setFld (R.NT_STACK_STATUS d) F.NT_STACK_STATUS_STATE (if s.upsets.contains (.trainHbm d) then 2 else 1)) s


/-- The self-test results that the hub collects once the dies' links are trained (R477, R478). -/
def State.collectBist (s : State) : State :=
  match (bistDies s.upsets).find? (fun x => decide (x.1 < 8)) with
  | some x => s.dieFails x.1 x.2
  | none =>
    let s := (bistSlots s.upsets).foldl (fun s k => s.slotFails k 0) s
    (bistClus s.upsets).foldl (fun s g => s.cluFails g 0) s

/-- Controllers of clusters in service start to fetch their firmware (R480). -/
def State.startFetch (s : State) : State :=
  (List.range 256).foldl (fun s g => s.updCtl g (fun c => { c with st := if s.cluOut g then .reset else .fetch })) { s with boot := { s.boot with fetched := [] } }

/-- Near-tier bytes and poison zeroed (R475 step 5). -/
def State.zeroNear (s : State) : State :=
  { s with mem := s.mem.filter (fun c => decide (0x8000000000 ≤ c.1)), poison := s.poison.filter (fun k => decide (0x8000000000 ≤ 64 * k)) }

/-- TRAINING_DONE (R475 step 4, R477 to R479; R484 step 2): on a cold boot the self-test results follow, then the near tier is zeroed. -/
def State.trainingDone (s : State) : State :=
  if s.stage ≠ 3 then s
  else
    match (List.range 8).find? (fun d => s.upsets.contains (.trainDie d)) with
    | some d =>
      (s.setFld (R.BOOT_DIE d) F.BOOT_DIE_D2D_FAIL 1).fatal { code := 0x5202, kind := 3, src := d, detail := d } 4
    | none =>
      let cold := decide (s.fld R.BOOT_STATUS F.BOOT_STATUS_PATH = 0)
      let s := if cold then s.collectBist else s
      let s := s.trainHost
      if s.stage = 8 then s
      else
        let s := s.trainHbm.mapFar
        ((if cold then s.zeroNear else s).startFetch).setStage 4

def execTrainingDone (s : State) : Host.Outcome State Fault Refusal := .next s.trainingDone

/-! ### Step 5: cluster firmware (R480) -/

/-- Address and bytes of a die's copy, if its stack is active. -/
def State.cfwCopy (s : State) (d : Nat) : Option (Nat × Nat) :=
  if s.fld (R.NT_STACK_STATUS d) F.NT_STACK_STATUS_STATE = 1 then
    some (s.fld (R.BOOT_CFW d) F.BOOT_CFW_ADDR * 4096, s.fld (R.BOOT_CFW d) F.BOOT_CFW_LEN_4K * 4096)
  else none

/-- The firmware of a die as a controller fetches it: each sector from its own copy, else from the other's. -/
def State.fetchBytes (s : State) (d : Nat) : Option (List Byte) :=
  let len := s.fld (R.BOOT_CFW d) F.BOOT_CFW_LEN_4K * 4096
  let srcs := ([d, d ^^^ 4] : List Nat).filterMap s.cfwCopy
  (List.range (len / 64)).foldl (fun (acc : Option (List Byte)) i =>
    match acc with
    | none => none
    | some l => match srcs.find? (fun x => !s.poisoned (x.1 + 64 * i) 64) with
      | some x => some (l ++ s.rd (x.1 + 64 * i) 64)
      | none => none) (if srcs.isEmpty then none else some [])

/-- A byte list as a sparse table of its bytes that are not 0. -/
def sparse (l : List Byte) : SMap Byte := ((List.range l.length).zip l).filter (fun x => x.2 != 0)

/-- FIRMWARE_FETCH_DONE (R463, R480): the controller enters M mode at offset 0, or its cluster goes out of service. -/
def State.fetchDone (s : State) (g : Nat) : State :=
  if (s.clu g).ctl.st ≠ .fetch ∨ s.boot.fetched.contains g ∨ s.cluOut g ∨ s.stage < 4 ∨ s.stage = 8 then s
  else
    match s.fetchBytes (g / 32) with
    | none => s.cluFails g 1
    | some b =>
      let s := s.updCtl g (fun c => { c with st := .firmware, umode := false, pc := 0, fw := sparse b })
      { s with boot := { s.boot with fetched := insNat g s.boot.fetched },
               sec := { s.sec with measure := SMap.ins 3 (sha384 b) s.sec.measure } }

def execFirmwareFetchDone (g : Fin 256) (s : State) : Host.Outcome State Fault Refusal := .next (s.fetchDone g.val)

/-- Has every controller in service its firmware? -/
def State.allFetched (s : State) : Bool := (List.range 256).all (fun g => s.cluOut g || s.boot.fetched.contains g)

/-! ### Steps 6 and 7 (R481, R482) -/

/-- Is a slot of a cluster retired already? -/
def State.isRetired (s : State) (k : Nat) : Bool :=
  let a := R.CLU_SLOT_MAP (k / 17)
  if k % 17 = 16 then decide (s.fld a F.CLU_SLOT_MAP_SPARE_GOOD = 0) else (s.fld a F.CLU_SLOT_MAP_RETIRED).testBit (k % 17)

/-- KNOWN_ANSWER_DONE (R481): failed slots and clusters, then the retirement list. -/
def execKnownAnswerDone (s : State) : Host.Outcome State Fault Refusal :=
  .next (
    if s.stage ≠ 4 ∨ s.fld R.BOOT_STATUS F.BOOT_STATUS_PATH = 1 ∨ !s.allFetched then s
    else
      let s := (kaSlots s.upsets).foldl (fun s k => if s.isRetired k then s else s.slotFails k 1) s
      let s := (kaClus s.upsets).foldl (fun s g => s.cluFails g 2) s
      let s := s.flash.retired.foldl (fun s k => if s.isRetired k then s else s.retireSlot (k / 17) (k % 17)) s
      s.setStage 6)

/-- BOOT_READY (R482). LAST_MS is a measured time: a free value. -/
def State.bootReady (s : State) : State :=
  let warm := s.fld R.BOOT_STATUS F.BOOT_STATUS_PATH
  if (warm = 0 ∧ s.stage = 6) ∨ (warm = 1 ∧ s.stage = 4 ∧ s.allFetched) then
    let ms := (Config.freeWord s.draws).toNat % 65536
    let s := { s with draws := s.draws + 1, boot := { s.boot with ready := true } }
    ((s.setStage 7).setFld R.BOOT_STATUS F.BOOT_STATUS_LAST_MS ms).raise { code := 0x6502, detail := ms + 65536 * warm }
  else s

def execBootReady (s : State) : Host.Outcome State Fault Refusal := .next s.bootReady

/-! ### The supplies (R45, R456, R495, R496, R514) -/

/-- MAIN_INPUT_GOOD (R495): a cold reset starts. -/
def State.mainGood (s : State) : State :=
  if s.pwr.aux ∧ s.supply = 3 ∧ supplyClass s.pwr.mainMv = 0 then
    let s := s.setFld R.PWR_STATE F.PWR_STATE_SUPPLY 0
    if s.boot.testMode then s else s.enterReset true
  else s

def execMainInputGood (s : State) : Host.Outcome State Fault Refusal := .next s.mainGood

/-- The always-on domain in reset (R45, R496): what stands on the board, in fuses, flash and on VBATT stays. -/
def State.auxReset (s : State) (on : Bool) : State :=
  { State.reset with
    pending := s.pending, part := s.part, draws := s.draws, readVal := s.readVal, readData := s.readData,
    mem := s.mem.filter (fun c => memKept true c.1), poison := s.poison.filter (fun k => memKept true (64 * k)),
    upsets := s.upsets, host := { posted := s.host.posted, msix := s.host.msix, linkSpeed := s.host.linkSpeed, linkWidth := s.host.linkWidth },
    layout := s.layout,
    sec := { fuses := s.sec.fuses, nonce := s.sec.nonce, keys := s.sec.keys }, flash := s.flash,
    pwr := { aux := on, pldm := s.pwr.pldm, spdmOut := s.pwr.spdmOut }, boot := { perst := s.boot.perst }, cxl := s.cxl }

/-- AUX_POWER_LOSS (R496). -/
def execAuxPowerLoss (s : State) : Host.Outcome State Fault Refusal := .next (if s.pwr.aux then s.auxReset false else s)

/-- AUX_POWER_ON (R45, R456, R496, R514): the straps are sampled; a loss of VBATT shows; TEST_MODE high holds the safe state. -/
def State.auxOn (s : State) (tm : Bool) (ma : Nat) : State :=
  if s.pwr.aux then s
  else
    let s := s.auxReset true
    let s := { s with boot := { s.boot with testMode := tm, mgmtAddr := ma } }
    let s := if s.upsets.contains .vbatt then
        { s with upsets := s.upsets.erase .vbatt, sec := { s.sec with keys := [] } }.raise { code := 0x6403, detail := 0xFF } else s
    if tm then s.enterSafe 3 else s

def execAuxPowerOn (tm : Bool) (ma : Fin 8) (s : State) : Host.Outcome State Fault Refusal := .next (s.auxOn tm ma.val)

end Sys2Proof.Machine
end

