-- ==== Sys2Proof/Machine/Secure.lean ====
section
/-! DEFINITION. The root of trust's commands (R445 to R447, R452 to R459, R466 to R469, R471): directives, debug tokens, zeroisation and the scan enable. -/

namespace Sys2Proof.Machine

/-! ### Checks of Table 248 -/

/-- Are bytes [a, a + n) of a message zero? -/
def zeroAt (b : List Byte) (a n : Nat) : Bool := decide (numAt b a n = 0)

/-- Step 1 for a directive. -/
def dirForm (b : List Byte) : Bool :=
  let op := numAt b 4 1
  let field := numAt b 6 2
  let len := numAt b 0x28 2
  let enc := numAt b 0x2A 1
  decide (b.take 4 = [0x44, 0x49, 0x52, 0x31]) && decide (op = 1 ∨ op = 2) && decide (enc ≤ 1) && zeroAt b 0x2B 5 && zeroAt b 0x3C 4 && zeroAt b 0xB1 15 &&
    zeroAt b 0x221 7 && (decide (enc = 1) || (zeroAt b 0x30 12 && zeroAt b 0x40 16 && zeroAt b 0x50 97)) && decide (1 ≤ len ∧ len ≤ 256) &&
    zeroAt b (0xC0 + len) (256 - len) &&
    (if op = 2 then decide (len = 32) else decide (fuseBits field = 0) || decide (len = fuseBytes field))

/-- Steps 2 to 4, shared with debug tokens: SERIAL and NONCE at an offset, the signer's hash, the signature over the bytes before it. -/
def Sec.signed (x : Sec) (b : List Byte) (serial key sig : Nat) (hash : Nat) (revoked : Bool) : Nat :=
  if sliceB b serial 16 ≠ leBytes 16 (x.fuse 0x01) ∨ sliceB b (serial + 16) 16 ≠ x.nonceBytes then 2
  else if !hashIs hash (sha384 (sliceB b key 97)) ∨ revoked then 3
  else if !ecdsaVerify (sliceB b key 97) (b.take sig) (sliceB b sig 48) (sliceB b (sig + 48) 48) then 4
  else 0

/-- The value of a directive (R454): plain, or opened under the identity key; none when it does not open. -/
def Sec.dirValue (x : Sec) (b : List Byte) : Option (List Byte) :=
  let n := numAt b 0x28 2
  if numAt b 0x2A 1 = 0 then some (sliceB b 0xC0 n)
  else match x.identityKey with
    | none => none
    | some d => match ecdhX d (sliceB b 0x50 97) with
      | none => none
      | some z => gcmOpen (hkdf384 (leBytes 16 (x.fuse 0x01)) z (sliceB b 0x18 16) 32) (sliceB b 0x30 12) (b.take 0x30) (sliceB b 0xC0 n) (sliceB b 0x40 16)

/-- Must a target be sealed (Table 248 step 5)? -/
def mustSeal (op field : Nat) : Bool := decide (op = 2) || decide (0x30 ≤ field ∧ field ≤ 0x33)

/-- Is a field unwritten in the array (R444)? -/
def Sec.unwritten (x : Sec) (f : Nat) : Bool := match vote3 (x.copies f) with
  | some (v, _) => decide (v = 0)
  | none => false

/-- May a directive write a value to a field (Table 248 step 6; R445, R448)? -/
def Sec.writable (x : Sec) (f v : Nat) : Bool :=
  if f = 0x01 ∨ f = 0x02 ∨ f = 0x03 ∨ fuseBits f = 0 then false
  else if f = 0x14 then
    (List.range 4).any (fun n => decide (x.array (0x10 + n) ≠ 0) && !((x.array 0x14) ||| v).testBit n)
  else if setOnly f then true
  else x.unwritten f &&
    (if 0x40 ≤ f then
      (List.range 4).all (fun n => decide (n ≤ f - 0x40) || decide (x.array (0x40 + n) % 256 ≠ 0x5A)) &&
        (List.range 8).all (fun d => decide (bitsOf v (9 + 2 * d) (8 + 2 * d) ≠ 3))
    else true)

/-- Is a key-memory slot in use by a load (R458)? -/
def State.keyInUse (s : State) (slot : Nat) : Bool := s.teams.any (fun (x : Nat × Team) => match x.2.load with
  | some l => decide (l.keySrc = some (2, slot))
  | none => false)

/-- The checks of a directive in order (R453): its work and STATUS. -/
def State.checkDirective (s : State) (b : List Byte) : State × SecRun :=
  let x := s.sec
  let op := numAt b 4 1
  let field := numAt b 6 2
  let slot := numAt b 5 1
  let bad (s : State) (n : Nat) : State × SecRun := (s, ⟨.none, n⟩)
  if !dirForm b then bad s 1
  else
    let st := x.signed b 0x08 0x1C0 0x228 (if slot < 4 then x.fuse (0x10 + slot) else 0) ((x.fuse 0x14).testBit slot)
    if st ≠ 0 then bad s st
    else
      let val := x.dirValue b
      if (mustSeal op field ∧ numAt b 0x2A 1 = 0) ∨ (val.isNone ∧ !x.zeroised) then bad s 5
      else
        let v := val.getD []
        let n := leNat v % 2 ^ (max 1 (fuseBits field))
        if (op = 1 ∧ !x.writable field n) ∨ (op = 2 ∧ 256 ≤ field) then bad s 6
        else
          let (s, ok) := s.storesAhead.holdUp (if op = 1 then 6000 else 200)
          if !ok then bad s 7
          else if x.zeroised then bad s 8
          else if op = 2 ∧ s.keyInUse field then bad s 9
          else (s, ⟨if op = 1 then .fuse field n else .key field v, 0⟩)

/-- Step 1 for a debug token (Table 252). -/
def tokenForm (b : List Byte) : Bool :=
  decide (b.take 4 = [0x44, 0x54, 0x4B, 0x31]) && decide (numAt b 4 4 < 16) && zeroAt b 0x28 24 && zeroAt b 0xA1 7

/-- The checks of a debug token (R466, R467). -/
def Sec.checkToken (x : Sec) (b : List Byte) : SecRun :=
  if !tokenForm b then ⟨.none, 1⟩
  else
    let st := x.signed b 0x08 0x40 0xA8 (x.fuse 0x28) false
    if st ≠ 0 then ⟨.none, st⟩
    else if 2 ≤ x.fuse 0x29 % 4 then ⟨.none, 6⟩
    else ⟨.token (numAt b 4 4), 0⟩

/-! ### SEC_CMD (R471) -/

/-- Does the root of trust take a command: its domain runs, the ROM has started base-camp firmware or the module is safe, and none is in progress? -/
def State.secFree (s : State) : Bool := s.pwr.aux && decide (1 ≤ s.stage) && s.sec.run.isNone && s.boot.wait.isNone

/-- Bytes of a directive or token at SEC_CMD_ADDR; none outside the near tier. -/
def State.secBytes (s : State) (n : Nat) : List Byte :=
  let a := s.fld R.SEC_CMD_ADDR F.SEC_CMD_ADDR_ADDR * 64
  if a + n ≤ 0x8000000000 then s.rd a n else []

def State.setRun' (s : State) (r : SecRun) : State := { s with sec := { s.sec with run := some r } }

/-- The end of a command (R455, R471): STATUS, a new nonce, the event of a refusal. -/
def State.secEnd (s : State) (status : Nat) : State :=
  let s := { s with sec := s.sec.draw }.setFld R.SEC_CMD F.SEC_CMD_STATUS status
  if status = 0 then s else s.raise { code := 0x6404 }

/-- GO of SEC_CMD with an operation. -/
def State.secGo (s : State) (op slot : Nat) : State :=
  if !s.secFree then s
  else if op = 0 then s.secEnd 1
  else if op = 1 then
    let (s, r) := s.checkDirective (s.secBytes 648)
    s.setRun' r
  else if op = 2 then s.setRun' (s.sec.checkToken (s.secBytes 264))
  else { s with sec := { s.sec with keys := SMap.del slot s.sec.keys } }.setRun' ⟨.zero slot, 0⟩

/-- A write of SEC_CMD (Table 258). -/
def State.writeSecCmd (s : State) (v : Word) : State :=
  let s := (s.setFld R.SEC_CMD F.SEC_CMD_OP (getF v F.SEC_CMD_OP)).setFld R.SEC_CMD F.SEC_CMD_SLOT (getF v F.SEC_CMD_SLOT)
  if getF v F.SEC_CMD_GO = 1 then s.secGo (getF v F.SEC_CMD_OP) (getF v F.SEC_CMD_SLOT) else s

/-- DIRECTIVE_FUSE_PROGRAM (R452, R453): GO with OP 1 while SEC_CMD_ADDR names a directive that is no key write. -/
def execDirectiveFuseProgram (s : State) : Host.Outcome State Fault Refusal :=
  .next (if numAt (s.secBytes 648) 4 1 = 2 then s else s.secGo 1 0)

/-- DIRECTIVE_KEY_WRITE (R453, R458). -/
def execDirectiveKeyWrite (s : State) : Host.Outcome State Fault Refusal :=
  .next (if numAt (s.secBytes 648) 4 1 = 2 then s.secGo 1 0 else s)

/-- DEBUG_TOKEN (R467). -/
def execDebugToken (s : State) : Host.Outcome State Fault Refusal := .next (s.secGo 2 0)

/-- ZEROISE_KEY_SLOT (R458): of the slot in SEC_CMD.SLOT; the key is gone at once. -/
def execZeroiseKeySlot (s : State) : Host.Outcome State Fault Refusal := .next (s.secGo 3 (s.fld R.SEC_CMD F.SEC_CMD_SLOT))

/-- SEC_CMD_NO_OP (R471). -/
def execSecCmdNoOp (s : State) : Host.Outcome State Fault Refusal := .next (s.secGo 0 0)

/-- Copy of the fuse array whose read-back fails, if any (R445). -/
def badCopy (l : List Upset) : Option Nat := l.findSome? (fun u => match u with
  | .fuseCopy c => some c
  | _ => none)

/-- Program the copies of a field in order, with read-back (R445): the array, the draws taken, and STATUS. A stream revocation takes effect once the program has
completed (R447). -/
def State.program (s : State) (f v : Nat) : State × Nat :=
  let old := s.sec.copies f
  let new := old.map (fun c => if setOnly f then c ||| v else v)
  match badCopy s.upsets with
  | some c =>
    let bad := (Config.freeWord s.draws).toNat % 2 ^ fuseBits f
    let l := (List.range 3).map (fun i => if i < c then nthD new i 0 else if i = c then bad else nthD old i 0)
    ({ s with draws := s.draws + 1, upsets := s.upsets.erase (.fuseCopy c), sec := { s.sec with fuses := SMap.ins f l s.sec.fuses, pending := true } }, 10)
  | none =>
    let x := { s.sec with fuses := SMap.ins f new s.sec.fuses }
    let rev := decide (f = 0x24 ∨ f = 0x34)
    ({ s with sec := { x with pending := x.pending || !rev, voted := if rev then SMap.ins f (x.array f) x.voted else x.voted } }, 0)

/-- The work of a command that passed its checks: the state and STATUS. -/
def State.secApply (s : State) : SecWork → State × Nat
  | .none => (s, 0)
  | .fuse f v => (match s.program f v with
    | (s, 0) => (s.raise { code := 0x6401 }, 0)
    | (s, n) => (s, n))
  | .key k v =>
    let keys := if v.all (· == 0) then SMap.del k s.sec.keys else SMap.ins k v s.sec.keys
    ({ s with sec := { s.sec with keys := keys } }.raise { code := 0x6402, detail := k }, 0)
  | .token g => ({ s with sec := { s.sec with grants := s.sec.grants ||| g } }.raise { code := 0x6400 }, 0)
  | .zero k => (s.raise { code := 0x6403, detail := k }, 0)

/-- SEC_CMD_COMPLETE (R455, R471): a module reset that waited starts (R489). -/
def State.secComplete (s : State) : State :=
  match s.sec.run with
  | none => s
  | some r =>
    let s := { s with sec := { s.sec with run := none } }
    let (s, st) := if r.status = 0 then s.secApply r.work else (s, r.status)
    let s := s.secEnd st
    match s.boot.wait with
    | none => s
    | some cold => if cold then s.enterReset true else (s.enterReset false).warmVerify

def execSecCmdComplete (s : State) : Host.Outcome State Fault Refusal := .next s.secComplete

/-! ### Scan (R469) -/

/-- SCAN_ENABLE: with grant SCAN, loads that use a key end, the keys of the engine go, the key memory answers no request. -/
def execScanEnable (s : State) : Host.Outcome State Fault Refusal :=
  .next (
    if !s.pwr.aux ∨ !s.sec.grants.testBit 2 ∨ s.sec.scan then s
    else
      let keyed := s.teams.filterMap (fun (x : Nat × Team) => match x.2.load with
        | some l => if l.keySrc.isSome then some x.1 else none
        | none => none)
      let s := keyed.foldl (fun s t => s.failLoad t 0x3108 0xFFFFFFFF) s
      { s with sec := { s.sec with identity := false, isolated := true, zeroised := true, scan := true } })

end Sys2Proof.Machine
end

