-- ==== Sys2Proof/Machine/Load.lean ====
section
/-! DEFINITION. The load of a section (R11, R23, R53 to R77, R202, R203, R255, R263, R281, R288 to R290, R374, R432, R527, R528): LOAD_SECTION runs steps 1 to 9 of
Table 39, each LOAD_FRAME one frame. -/

namespace Sys2Proof.Machine

def whole : Nat := 0xFFFFFFFF

/-! ### Reading the image (R527) -/

/-- What reading image bytes [a, a + n) meets first, sector by sector: unbacked or poisoned. -/
def State.imageBad (s : State) (a n : Nat) : Option Nat :=
  (sectorsOf a n).findSome? (fun k =>
    let lo := max a (64 * k)
    if !(s.backed lo && decide (lo < 0x8000000000)) then some 0x311A else if s.poison.contains k then some 0x311B else none)

/-- Read n image bytes: the bytes, or the code that ends the load. -/
def State.imageRead (s : State) (a n : Nat) : State × Except Nat (List Byte) :=
  let s := s.tierMeet a n
  match s.imageBad a n with
  | some c => (s.countPoison a (s.badIn a n).length, .error c)
  | none => (s, .ok (s.rd a n))

/-! ### Header and trailer (R54 to R58) -/

/-- Is a stream version accepted (Table 34)? -/
def verOk (major minor : Nat) : Bool := decide (major = 1) && decide (minor ≤ 2)

/-- Step 3 for the header (R55). DESIGN CHOICE: a KEY_SOURCE above 2, which Table 32 does not list, is refused here (assumption 111). -/
def headerZero (h : List Byte) : Bool :=
  let flags := numAt h 0x0C 4
  let enc := flags % 2
  let src := numAt h 0x1B 1
  decide (flags < 8) && decide (src ≤ 2) && decide (enc = 1 ↔ src ≠ 0) && (decide (src ≠ 0) || zeroAt h 0x1C 1) && zeroAt h 0x1D 3 && zeroAt h 0x24 4 &&
    (decide (enc = 1) || zeroAt h 0x30 12) && zeroAt h 0x3C 4 && zeroAt h 0x70 16

/-- Step 3 for the trailer. -/
def trailerZero (t : List Byte) : Bool := zeroAt t 0x61 7 && zeroAt t 0xC8 56

/-- Step 7: the signing key (R57). -/
def Sec.signKeyOk (x : Sec) (slot : Nat) (t : List Byte) : Bool :=
  if slot = 0xFF then zeroAt t 0 256 && x.grants.testBit 0
  else decide (slot < 4) && hashIs (x.fuse (0x20 + slot)) (sha384 (sliceB t 0 97)) && !(x.fuse 0x24).testBit slot

/-- Step 8: the signature over the header. -/
def signOk (slot : Nat) (h t : List Byte) : Bool := decide (slot = 0xFF) || ecdsaVerify (sliceB t 0 97) h (sliceB t 0x68 48) (sliceB t 0x98 48)

/-- Step 9: the key, granted to every partition of the team (R71, R457). -/
def State.loadKey (s : State) (ps : List Nat) (src slot : Nat) : Option (List Byte) :=
  let n := if src = 1 then 256 + slot else slot
  let g := s.fld (R.SEC_KEY_GRANT n) F.SEC_KEY_GRANT_PARTS
  if ps.all (fun p => g.testBit p) then s.sec.streamKey src slot else none

/-! ### Refusing a load (R73, R76, R77) -/

/-- Write ERROR and FRAME, log the refusal and answer the command; `hold`: the load holds the slot. -/
def State.refuseLoad (s : State) (t : Nat) (cmd : CmdRef) (hold : Bool) (sid code frame : Nat) : State :=
  let ps := s.members t
  let s := s.raise { code := code, kind := 8, src := t, part := some t, sect := sid, detail := frame }
  let s := if hold then s.setMembers ps R.WV_LOAD_STATUS F.WV_LOAD_STATUS_STATE 4 else s
  let s := s.setMembers ps R.WV_LOAD_STATUS F.WV_LOAD_STATUS_ERROR code
  let s := s.setMembers ps R.WV_LOAD_STATUS F.WV_LOAD_STATUS_FRAME frame
  s.answer cmd stFault 0x4B none 0 code frame

/-- What steps 1 to 9 need of a header. -/
def headerSect (h : List Byte) (image : Nat) (binding : List Nat) : Sect :=
  { id := numAt h 0x10 8, image := image, partitions := numAt h 0x18 1, reqCells := numAt h 0x19 1, strict := bitOf (numAt h 0x0C 4) 1,
    sat := bitOf (numAt h 0x0C 4) 2, binding := binding }

/-- The barrier descriptors of the staged generation start unconfigured (R281). -/
def State.clearStagedBars (s : State) (t : Nat) : State :=
  let g := !(s.team t).gen
  (s.members t).foldl (fun s p => (List.range 16).foldl (fun s n => s.setBar p n ((s.bar p n).setGen g {})) s) s

/-- Steps 1 to 9 (Table 39, R527). -/
def State.beginLoad (s : State) (t : Nat) (cmd : CmdRef) (image cutover : Nat) : State :=
  let x := s.team t
  let ps := s.members t
  let hold := x.load.isNone && x.staged.isNone
  let no (s : State) (sid code : Nat) : State := s.refuseLoad t cmd hold sid code whole
  if image % 8 ≠ 0 ∨ 0x8000000000 ≤ image then s.refuseLoad t cmd false 0 0x311A whole
  else
    let s := if hold then s.setMembers ps R.WV_LOAD_STATUS F.WV_LOAD_STATUS_STATE 1 else s
    match s.imageRead image 128 with
    | (s, .error c) => no s 0 c
    | (s, .ok h) =>
      let sid := numAt h 0x10 8
      if h.take 4 ≠ [0x57, 0x4F, 0x45, 0x56] ∨ numAt h 6 2 ≠ 128 then no s 0 0x3101
      else if !verOk (numAt h 5 1) (numAt h 4 1) then no s 0 0x3102
      else
        let len := numAt h 0x28 8
        let s := if hold then ps.foldl (fun s p => s.setFld (R.WV_LOAD_ID p) F.WV_LOAD_ID_SECTION_ID sid) s else s
        match s.imageRead (image + 128 + len) 256 with
        | (s, .error c) => no s sid c
        | (s, .ok tr) =>
          let slot := numAt h 0x1A 1
          let src := numAt h 0x1B 1
          let ks := numAt h 0x1C 1
          let caps := (s.reg R.CAP_UNITS).toNat % 2 ^ 32
          let rc := numAt h 0x19 1
          if !headerZero h ∨ !trailerZero tr then no s sid 0x3105
          else if (numAt h 0x08 4) &&& (2 ^ 32 - 1 - caps) ≠ 0 then no s sid 0x3103
          else if numAt h 0x18 1 ≠ ps.length ∨ (rc ≠ 56 ∧ rc ≠ 64) ∨ s.fld R.CAP_COUNTS F.CAP_COUNTS_CELLS_PER_PART < rc then no s sid 0x3104
          else if x.load.isSome then no s sid 0x3117
          else if x.staged.isSome then no s sid 0x3118
          else if !s.sec.signKeyOk slot tr then no s sid 0x3106
          else if !signOk slot h tr then no s sid 0x3107
          else
            let key := if src = 0 then some [] else s.loadKey ps src ks
            match key with
            | none => no s sid 0x3108
            | some k =>
              let l : Load := { cmd := cmd, cutover := cutover, sect := headerSect h image ps, verMinor := numAt h 4 1, encrypted := decide (src ≠ 0), key := k,
                                iv := sliceB h 0x30 12, keySrc := if src = 0 then none else some (src, ks), frameCount := numAt h 0x20 4, bodyLen := len,
                                digest := sliceB h 0x40 48 }
              let s := s.setMembers ps R.WV_LOAD_STATUS F.WV_LOAD_STATUS_STATE 2
              (s.setTeam t { s.team t with load := some l }).clearStagedBars t

/-- LOAD_SECTION (R432). -/
def execLoadSection (t : Fin 4096) (s : State) : Host.Outcome State Fault Refusal :=
  .next (s.onCmd t.val 4 (fun s c =>
    let team := numAt c.bytes 0x18 1
    if c.cmd.fn ≠ 64 then s.answer c.cmd stFault 0x4A
    else if 64 ≤ team ∨ s.teamId team ≠ team then s.answer c.cmd stFault 0x4D
    else s.beginLoad team c.cmd (numAt c.bytes 0x10 8) (numAt c.bytes 0x20 8)))

/-! ### Frame headers: steps 10 and 11 (R59 to R62) -/

/-- A frame header (Table 35). -/
structure FrameHdr where
  type : Nat
  flags : Nat
  target : Nat
  offset : Nat
  stored : Nat
  plain : Nat
  crc : Nat
  tail : Nat
  deriving DecidableEq, Repr

def frameHdr (b : List Byte) : FrameHdr :=
  ⟨numAt b 0 1, numAt b 1 1, numAt b 2 2, numAt b 4 4, numAt b 8 4, numAt b 12 4, numAt b 16 4, numAt b 20 4⟩

/-- Minor version that introduced a type; none for a type that Table 36 does not list. -/
def typeSince (ty : Nat) : Option Nat :=
  if ([0x01, 0x02, 0x03, 0x04, 0x05, 0x06, 0x07, 0x10, 0x11, 0x20, 0x7F] : List Nat).contains ty then some 0
  else if ty = 0x12 then some 1
  else if ty = 0x08 then some 2
  else none

/-- Does a frame target a team cell, a team cluster or the hub? -/
def cellType (ty : Nat) : Bool := decide (0x02 ≤ ty ∧ ty ≤ 0x08)
def cluType (ty : Nat) : Bool := decide (0x10 ≤ ty ∧ ty ≤ 0x12)

/-- Alignment of OFFSET, 0 where it must be 0 (Table 36). -/
def offAlign (ty : Nat) : Nat :=
  match ty with
  | 0x02 | 0x05 | 0x10 => 8
  | 0x06 => 4
  | 0x07 | 0x08 => 32
  | 0x01 => 1
  | _ => 0

/-- Destination size in bytes (Table 36). -/
def destSize (ty : Nat) : Nat :=
  match ty with
  | 0x02 | 0x05 | 0x20 => 65536
  | 0x03 | 0x04 => 256
  | 0x06 => 16384
  | 0x07 | 0x08 => 4194304
  | 0x10 => 262144
  | 0x11 | 0x12 => 4096
  | _ => 0

/-- Bytes of a frame in the body. -/
def FrameHdr.size (f : FrameHdr) (enc : Bool) : Nat := (24 + f.stored + (if enc then 16 else 0) + 7) / 8 * 8

/-- FRAME_TYPE tests of step 10. -/
def FrameHdr.typeBad (f : FrameHdr) (minor : Nat) : Bool :=
  (match typeSince f.type with
  | some m => decide (minor < m)
  | none => true) || decide (2 ≤ f.flags) || decide (f.tail ≠ 0) || decide (f.type = 0x01 ∧ f.flags ≠ 0)

/-- Is a team cell or cluster index in range (R60)? -/
def Sect.hasCell (x : Sect) (c : Nat) : Bool := decide (c / 64 < x.partitions) && decide (c % 64 < x.reqCells)
def Sect.hasClu (x : Sect) (u : Nat) : Bool := decide (u / 4 < x.partitions)

/-- FRAME_BOUNDS tests of step 10. -/
def FrameHdr.boundsBad (f : FrameHdr) (x : Sect) (left : Nat) (enc : Bool) : Bool :=
  let al := offAlign f.type
  decide (left < f.size enc) ||
    (if cellType f.type then !x.hasCell f.target else if cluType f.type then !x.hasClu f.target else decide (f.target ≠ 0xFFFF)) ||
    (if al = 0 then decide (f.offset ≠ 0) else decide (f.offset % al ≠ 0)) ||
    (decide (f.type ≠ 0x01 ∧ f.type ≠ 0x08) && decide (destSize f.type < f.offset + f.plain)) ||
    (decide (f.type = 0x02 ∨ f.type = 0x05) && decide (f.plain % 8 ≠ 0))

/-- What a frame writes, for rule 2 of R62: kind of destination, first byte, end. Programs and chains share a bank; a single structure counts whole. -/
def FrameHdr.writes (f : FrameHdr) : Option (Nat × Nat × Nat) :=
  match f.type with
  | 0x02 | 0x05 => some (0x02, f.offset, f.offset + f.plain)
  | 0x06 | 0x07 | 0x10 => some (f.type, f.offset, f.offset + f.plain)
  | 0x03 | 0x04 | 0x11 | 0x12 | 0x20 => some (f.type, 0, destSize f.type)
  | _ => none

/-- Do the ranges of bytes [a, b) and [x, y) share a byte? -/
def shareByte (a b x y : Nat) : Bool := decide (max a x < min b y)

/-- Does a range of a destination meet what earlier frames wrote? Weight references at the switch (kind 8) and scratchpad bytes share the scratchpad. An
empty range writes no byte. -/
def Load.overlaps (l : Load) (kind target a b : Nat) : Bool :=
  let dest (k : Nat) : Nat := if k = 8 then 7 else k
  l.written.any (fun w => decide (dest w.1 = dest kind) && decide (w.2.1 = target) && shareByte a b w.2.2.1 w.2.2.2)

/-- FRAME_ORDER tests of step 11. -/
def Load.orderBad (l : Load) (f : FrameHdr) : Bool :=
  (decide (f.type = 0x01) && (l.nonDict || decide (f.offset ≠ l.dict.length))) ||
    (match f.writes with
    | some (k, a, b) => l.overlaps k f.target a b
    | none => false) ||
    (decide (f.type = 0x04) && l.written.any (fun w => decide (w.1 = 7) && decide (w.2.1 = f.target)))

/-! ### Expansion: step 14 (R66 to R68) -/

/-- The entries of a DICT payload; none for DICT_BAD. -/
def dictEntries : Nat → List Byte → Option (List (List Byte))
  | 0, l => if l.isEmpty then some [] else none
  | f + 1, l => match l with
    | [] => some []
    | b :: r =>
      let two := decide (128 ≤ b.toNat)
      let n := if two then (b.toNat - 128) * 256 + numAt r 0 1 + 1 else b.toNat
      let r := if two then r.drop 1 else r
      if (two ∧ l.length < 2) ∨ n = 0 ∨ 4096 < n ∨ r.length < n then none
      else (dictEntries f (r.drop n)).map (fun es => r.take n :: es)

/-- Are the dictionary's limits kept? -/
def dictFits (d : List (List Byte)) : Bool := decide (d.length ≤ 16384) && decide (d.foldl (fun n e => n + e.length) 0 ≤ 1048576)

/-- Expand coded bytes onto `out`, never past `lim` bytes: error 0x310E or 0x310F. -/
def expand (dict : List (List Byte)) (minor lim : Nat) : Nat → List Byte → List Byte → Except Nat (List Byte)
  | 0, l, out => if l.isEmpty then .ok out else .error 0x310E
  | f + 1, l, out => match l with
    | [] => .ok out
    | h :: r =>
      let x := h.toNat
      let b1 := numAt r 0 1
      let entry (i : Nat) (times : Nat) (rest : List Byte) : Except Nat (List Byte) :=
        match dict[i]? with
        | none => .error 0x310E
        | some e =>
          let o := out ++ (List.replicate times e).flatten
          if lim < o.length then .error 0x310F else expand dict minor lim f rest o
      if x < 0x80 then entry x 1 r
      else if x < 0xC0 then (if r.length < 1 then .error 0x310E else entry (x % 64 * 256 + b1) 1 (r.drop 1))
      else if x < 0xE0 then
        let n := x % 32 * 256 + b1 + 1
        if r.length < 1 + n then .error 0x310E
        else
          let o := out ++ (r.drop 1).take n
          if lim < o.length then .error 0x310F else expand dict minor lim f (r.drop (1 + n)) o
      else if x < 0xF0 then
        (if minor < 2 ∨ r.length < 2 then .error 0x310E else entry (x % 16 * 256 + b1) (numAt r 1 1 + 1) (r.drop 2))
      else .error 0x310E

/-! ### Step 15, part (a) -/

/-- Elements of n bytes of a destination. -/
def elems (n count : Nat) (b : List Byte) : List (List Byte) := (List.range count).map (fun i => sliceB b (n * i) n)

/-- A region descriptor (Table 103), if it is valid. -/
def regionOf (d : List Byte) : Option Region :=
  if numAt d 8 2 % 2 = 1 then some ⟨numAt d 0 4, numAt d 4 4, numAt d 8 2, numAt d 10 1, numAt d 11 1⟩ else none

/-- One descriptor of R202. -/
def regionBad (d : List Byte) : Bool :=
  match regionOf d with
  | none => !zeroAt d 0 16
  | some r =>
    let top := if r.tile then 67108864 else 4194304
    !zeroAt d 12 4 || decide (256 ≤ r.perm) || decide (r.base % 32 ≠ 0) || decide (r.len = 0) || decide (r.len % 32 ≠ 0) || decide (top < r.base + r.len) ||
      (r.tile && (r.nbr || r.haul || r.priv || r.consume || decide (0x3FC0000 < r.base + r.len))) ||
      (r.nbr && (!r.rd || r.wr || r.haul || decide (r.base % 256 ≠ 0) || decide (r.len % 256 ≠ 0) || decide (16384 < r.len) || decide (r.dir = 0 ∨ 4 < r.dir))) ||
      (r.consume && !r.nbr) || (!r.nbr && decide (r.dir ≠ 0)) || (!r.priv && decide (r.job ≠ 0)) || decide (8 ≤ r.job)

/-- Relations between the descriptors of R202. -/
def boundsClash (l : List Region) : Bool :=
  let pairs := (List.range l.length).flatMap (fun i => (l.drop (i + 1)).map (fun b => (l[i]?, b)))
  let meets (a b : Region) : Bool := decide (a.base < b.base + b.len) && decide (b.base < a.base + a.len)
  let bad (a b : Region) : Bool := (a.nbr && b.nbr && decide (a.dir = b.dir)) || (a.nbr && !b.tile && (b.wr || b.haul) && meets a b)
  pairs.any (fun p => match p.1 with
    | some a => bad a p.2 || bad p.2 a
    | none => false)

def cellBoundsBad (b : List Byte) : Bool :=
  let ds := elems 16 16 b
  ds.any regionBad || boundsClash (ds.filterMap regionOf)

/-- Channel entries (R263). -/
def chanBad (x : Sect) (b : List Byte) : Bool :=
  (elems 16 16 b).any (fun e => decide (4 ≤ numAt e 0 1) || !zeroAt e 1 1 || decide (8 ≤ numAt e 4 1) || !zeroAt e 5 11 ||
    (decide (numAt e 0 1 % 2 = 1) && !x.hasCell (numAt e 2 2)))

/-- Input code of output o in a slot entry. -/
def slotIn (e o : Nat) : Nat := e >>> (3 * o) % 8

/-- One slot entry (R255): outputs 0 north to 3 west, 4 local. -/
def slotBad (e : Nat) : Bool :=
  let codes := (List.range 5).map (slotIn e)
  decide (32768 ≤ e) || codes.any (fun c => decide (6 ≤ c)) || (List.range 5).any (fun o => decide (slotIn e o = o + 1)) ||
    (List.range 5).any (fun c => decide (2 ≤ (codes.filter (· = c + 1)).length))

/-- A barrier descriptor (R281). `m` cuts the mask to the populated cells. -/
def barBad (m : Nat → Nat) (u : Nat) (tp : Nat) (d : List Byte) : Bool :=
  let fl := numAt d 8 1
  let par := bitOf fl 2
  if fl % 2 = 0 then !zeroAt d 0 32
  else
    decide (8 ≤ fl) || decide (16 ≤ numAt d 9 1) || decide (64 ≤ numAt d 10 1) || !zeroAt d 11 21 || (bitOf fl 1 && par) ||
      decide ((if bitOf fl 1 then numAt d 0 8 else m (numAt d 0 8)) = 0) || (!par && (!zeroAt d 9 1 || !zeroAt d 10 1)) ||
      (par && decide (numAt d 9 1 = u) && decide (numAt d 10 1 = tp))

/-- Bits of a partition cell mask that count (R7). -/
def State.cellMask (s : State) (m : Nat) : Nat := if s.part = .b then m % 2 ^ 56 else m

/-- A ROUTER_SLOTS payload for team cluster u (R255, R281). -/
def State.slotsBad (s : State) (u : Nat) (b : List Byte) : Bool :=
  let len := numAt b 0 2
  let fr := numAt b 2 1
  let map := (List.range 256).map (fun w => numAt b (0x40 + w) 1)
  !zeroAt b 3 61 || decide (len = 0) || decide (256 < len) || decide (fr = 0) || decide (8 < fr) ||
    (map.take len).any (fun v => decide (fr ≤ v) && decide (v ≠ 0xFF)) || (map.drop len).any (fun v => decide (v ≠ 0)) ||
    (List.range (174 * fr)).any (fun i => slotBad (numAt b (0x140 + 2 * i) 2)) || !zeroAt b (0x140 + 348 * fr) (348 * (8 - fr)) || !zeroAt b 0xC20 864 ||
    (List.range 4).any (fun m => barBad s.cellMask (4 * (u % 4) + m) (u / 4) (sliceB b (0xF80 + 32 * m) 32))

/-- Populated grid positions of cluster k of a partition (R7). -/
def State.posCount (s : State) (k : Nat) : Nat := if s.part = .b ∧ k = 3 then 8 else 16

/-- A PLAUS payload for team cluster u (R374). -/
def State.plausBad (s : State) (x : Sect) (u plain : Nat) (b : List Byte) : Bool :=
  let n := numAt b 6 2
  let sh := numAt b 8 2
  let al := numAt b 10 2
  let anchor (v : Nat) : Bool := decide (v = 0xFFFF) || (decide (u = 0) && decide (v + 7 < 512 * x.partitions))
  let entry (e : Nat) : Bool :=
    let d := sliceB b (0x40 + 32 * e) 32
    let k := numAt d 2 1 / 4
    decide (k = 0 ∨ 7 ≤ k) || !zeroAt d 3 1 || decide (8192 ≤ numAt d 4 2) || !zeroAt d 6 2 || !zeroAt d 16 16
  decide (plain < 64) || decide (b.take 4 ≠ [0x50, 0x4C, 0x41, 0x55]) || decide (numAt b 4 1 ≠ 1) || !zeroAt b 16 48 ||
    decide (numAt b 5 1 < 2 ∨ 16 < numAt b 5 1) || decide (126 < n) || decide (plain < 64 + 32 * n) || (List.range n).any entry ||
    decide (sh = u ∨ al = u ∨ sh = al) || !x.hasClu sh || !x.hasClu al ||
    decide (s.posCount (sh % 4) < s.posCount (u % 4)) || decide (s.posCount (al % 4) < s.posCount (u % 4)) || !anchor (numAt b 12 2) || !anchor (numAt b 14 2)

/-- Eight 4-byte values. -/
def vec8 (b : List Byte) (a : Nat) : List Nat := (List.range 8).map (fun i => numAt b (a + 4 * i) 4)

/-- A profile and a phase record of a route card (Tables 161 and 162). -/
def cardProfile (b : List Byte) (i : Nat) : Profile :=
  let a := 0x80 + 32 * i
  ⟨numAt b a 2, numAt b (a + 2) 1, bitOf (numAt b (a + 3) 1) 0, bitOf (numAt b (a + 3) 1) 1, numAt b (a + 4) 2, numAt b (a + 8) 8, numAt b (a + 16) 4,
   numAt b (a + 20) 4⟩
def phaseOf (b : List Byte) (i : Nat) : Phase :=
  let a := 0x280 + 128 * i
  let f := numAt b (a + 5) 1
  ⟨numAt b a 4, numAt b (a + 4) 1, bitOf f 0, bitOf f 1, bitOf f 2, numAt b (a + 6) 2, numAt b (a + 8) 8, vec8 b (a + 0x18), vec8 b (a + 0x38),
   vec8 b (a + 0x58)⟩

/-- The route card of a payload (R288, R289). -/
def cardOf (b : List Byte) : Card :=
  let w := numAt b 10 1
  let off := numAt b 0x1C 4
  let p := numAt b 7 1
  { partitions := p, switchWm := numAt b 0x0C 4, traverseWm := numAt b 0x10 4, slotCap := numAt b 0x14 4, maxGroupFc := numAt b 0x18 4,
    ntCeil := vec8 b 0x20, rdCeil := vec8 b 0x40, wrCeil := vec8 b 0x60, profiles := (List.range (numAt b 6 1)).map (cardProfile b),
    phases := (List.range (numAt b 8 2)).map (phaseOf b),
    wheels := (List.range w).map (fun i => (List.range 64).map (fun m => numAt b (off + 64 * i + m) 1)),
    cmap := if w = 0 then [] else (List.range (16 * p)).map (fun i => numAt b (off + 64 * w + i) 1) }

/-- Are two lists of eight pointwise at most? -/
def leV (a b : List Nat) : Bool := (List.range 8).all (fun i => decide (nthD a i 0 ≤ nthD b i 0))

/-- Is a number some value more than once in a list? -/
def hasDup : List Nat → Bool
  | [] => false
  | a :: l => l.contains a || hasDup l

/-- A route card (R290): its counts first, so that its records can be read. -/
def State.cardBad (s : State) (x : Sect) (plain : Nat) (b : List Byte) : Bool :=
  let np := numAt b 6 1
  let nph := numAt b 8 2
  let w := numAt b 10 1
  let off := numAt b 0x1C 4
  if plain < 0x80 ∨ b.take 4 ≠ [0x52, 0x43, 0x52, 0x44] ∨ numAt b 4 2 ≠ 1 ∨ !zeroAt b 11 1 ∨ numAt b 7 1 ≠ x.partitions ∨ np = 0 ∨ 16 < np ∨ nph = 0 ∨ 256 < nph ∨
      64 < w ∨ numAt b 0x0C 4 = 0 ∨ numAt b 0x10 4 = 0 ∨ numAt b 0x18 4 = 0 ∨ 11200 < numAt b 0x18 4 ∨ plain < 0x80 + 32 * np ∨ plain < 0x280 + 128 * nph ∨
      (w = 0 ∧ off ≠ 0) ∨ (w ≠ 0 ∧ (off % 64 ≠ 0 ∨ off = 0 ∨ plain < off + 64 * w + 16 * x.partitions)) then true
  else
    let k := cardOf b
    let active (i : Nat) : Bool := decide (s.fld (R.NT_STACK_STATUS i) F.NT_STACK_STATUS_STATE = 1)
    let mapped (i : Nat) : Bool := decide (s.fld (R.CXL_PORT_STATUS i) F.CXL_PORT_STATUS_STATE = 3)
    let profBad (i : Nat) : Bool :=
      let a := 0x80 + 32 * i
      let p := cardProfile b i
      decide (p.batch = 0 ∨ 4096 < p.batch) || decide (p.phases = 0 ∨ 32 < p.phases) || decide (4 ≤ numAt b (a + 3) 1) || !zeroAt b (a + 6) 2 ||
        !zeroAt b (a + 24) 8 || decide (nph < p.first + p.phases) || decide (p.bivBytes % 65536 ≠ 0) || (p.dynamic && (p.guar || decide (1 < p.phases)))
    let phaseBad (i : Nat) : Bool :=
      let a := 0x280 + 128 * i
      let p := phaseOf b i
      decide (p.dur = 0) || decide (p.lanes = 0 ∨ 16 < p.lanes) || decide (8 ≤ numAt b (a + 5) 1) || !zeroAt b (a + 16) 8 || !zeroAt b (a + 0x78) 8 ||
        decide (p.dur * 1399 * p.lanes < 16 * p.cellFc) || !leV p.nt k.ntCeil || !leV p.rd k.rdCeil || !leV p.wr k.wrCeil || decide (k.slotCap < p.slots) ||
        (List.range 8).any (fun j => (decide (nthD p.nt j 0 ≠ 0) && !active j) || (decide (nthD p.rd j 0 ≠ 0 ∨ nthD p.wr j 0 ≠ 0) && !mapped j))
    let codeOk (c : Nat) : Bool := decide (c ≤ 21) || decide (c = 31)
    (List.range np).any profBad || hasDup (k.profiles.map (·.batch)) || (List.range nph).any phaseBad || k.ntCeil.any (fun v => decide (1638400 < v)) ||
      k.rdCeil.any (fun v => decide (40000 < v)) || k.wrCeil.any (fun v => decide (40000 < v)) || k.wheels.any (fun l => l.any (fun c => !codeOk c)) ||
      k.cmap.any (fun v => decide (w ≤ v) && decide (v ≠ 0xFF))

/-- A weight reference (R64). -/
def weightBad (off plain : Nat) (b : List Byte) : Bool :=
  decide (plain ≠ 80) || decide (numAt b 8 4 = 0) || decide (numAt b 8 4 % 32 ≠ 0) || decide (numAt b 0 8 % 64 ≠ 0) || decide (2 ≤ numAt b 12 4) ||
    decide (4194304 < off + numAt b 8 4)

/-- Part (a): every FRAME_BOUNDS check that needs no binding. `b` is the destination's content, zero beyond the payload. -/
def State.partA (s : State) (x : Sect) (f : FrameHdr) (b : List Byte) : Bool :=
  match f.type with
  | 0x03 => chanBad x b
  | 0x04 => cellBoundsBad b
  | 0x08 => weightBad f.offset f.plain b
  | 0x11 => s.slotsBad f.target b
  | 0x12 => s.plausBad x f.target f.plain b
  | 0x20 => s.cardBad x f.plain b
  | _ => false

/-! ### Step 15, part (c) -/


/-- May a neighbour write of a cell go in a direction (R23)? -/
def State.nbrOk (s : State) (x : Sect) (L dir : Nat) : Bool := match s.neighbour L dir with
  | some n => x.binding.contains (n / 64) && decide (n % 64 < x.reqCells)
  | none => false

/-- The checks of one instruction word: SPLIT_LEAF (R114), then NEIGHBOUR. -/
def State.wordBad (s : State) (x : Sect) (L : Nat) (w : Word) : Option Nat :=
  match CellInstr.fields w with
  | some (.aMma _ _ sb sa _ _ _ k _ fin) => if (k.toNat + 1) % leafLen sa.toNat sb.toNat ≠ 0 ∧ fin = 0 then some 0x3114 else none
  | some (.mMv _ _ sb sa _ _ k _ fin _ _ _) => if (k.toNat + 1) % leafLen sa.toNat sb.toNat ≠ 0 ∧ fin = 0 then some 0x3114 else none
  | some (.tSt _ _ _ _ dir _ _ _ _) => if 1 ≤ dir.toNat ∧ dir.toNat ≤ 4 ∧ !s.nbrOk x L dir.toNat then some 0x3115 else none
  | _ => none

/-- Does the mesh link of a direction exist at a router: 0 north to 3 west? -/
def linkExists (g dir : Nat) : Bool :=
  let (x, y) := meshXY g
  match dir with
  | 0 => decide (0 < y)
  | 1 => decide (x < 31)
  | 2 => decide (y < 7)
  | 3 => decide (0 < x)
  | _ => true

/-- A slot entry reserves a link that does not exist at a router (R255). -/
def slotLinkBad (g e : Nat) : Bool :=
  (List.range 5).any (fun o => decide (slotIn e o ≠ 0) && (!linkExists g o || !linkExists g (slotIn e o - 1)))

/-- BARRIER_MASK (R281). -/
def State.barMaskBad (s : State) (x : Sect) (d : List Byte) : Bool :=
  let fl := numAt d 8 1
  decide (fl % 2 = 1) &&
    ((if bitOf fl 1 then decide (2 ^ x.partitions ≤ numAt d 0 8) else decide (2 ^ x.reqCells ≤ s.cellMask (numAt d 0 8))) ||
      (bitOf fl 2 && decide (x.partitions ≤ numAt d 10 1)))

/-- Part (c): the checks on resolved values, elements in ascending offset (R528). -/
def State.partC (s : State) (x : Sect) (f : FrameHdr) (plain b : List Byte) : Option Nat :=
  match f.type with
  | 0x02 => (words64 plain).findSome? (s.wordBad x (x.logical f.target))
  | 0x04 => ((elems 16 16 b).filterMap regionOf).findSome? (fun r => if r.nbr ∧ !s.nbrOk x (x.logical f.target) r.dir then some 0x3115 else none)
  | 0x11 =>
    let g := s.teamCluster x f.target
    if (List.range (174 * numAt b 2 1)).any (fun i => slotLinkBad g (numAt b (0x140 + 2 * i) 2)) then some 0x310D
    else if (List.range 4).any (fun m => s.barMaskBad x (sliceB b (0xF80 + 32 * m) 32)) then some 0x3116 else none
  | _ => none

/-! ### Step 15, part (d) (R65, R74) -/

/-- Is every byte of [a, b) in some region? -/
def covered (l : List Region) : Nat → Nat → Nat → Bool
  | 0, a, b => decide (b ≤ a)
  | f + 1, a, b =>
    if b ≤ a then true
    else match l.find? (fun r => decide (r.base ≤ a) && decide (a < r.base + r.len)) with
      | some r => covered l f (r.base + r.len) b
      | none => false

/-- Scratchpad regions of a bounds table. -/
def scratchRegions (l : List (Option Region)) : List Region := (l.filterMap id).filter (fun r => !r.tile)

/-- Bounds of the section being loaded for a cell: its CELL_BOUNDS frame, else the whole scratchpad (R63). -/
def State.newBounds (s : State) (l : Load) (tc L : Nat) : List (Option Region) :=
  if l.written.any (fun w => decide (w.1 = 4) && decide (w.2.1 = tc)) then (s.cell L).shadow.bounds else wholeScratch

/-- SCRATCH_OVERLAP (R74). -/
def State.scratchClash (s : State) (t : Nat) (l : Load) (tc a n : Nat) : Bool :=
  let L := l.sect.logical tc
  let run := match (s.team t).running with
    | some x => if (s.sectCells x).contains L then scratchRegions (s.cell L).store.bounds else []
    | none => []
  !covered (scratchRegions (s.newBounds l tc L)) 17 a (a + n) || run.any (fun r => decide (a < r.base + r.len) && decide (r.base < a + n))

/-- Does a blob lie wholly inside near-tier memory granted to the team (R65)? Grants count in 2 MiB blocks. -/
def State.blobGranted (s : State) (t a n : Nat) : Bool :=
  decide (a + n ≤ 0x8000000000) && (List.range ((a + n - 1) / 0x200000 - a / 0x200000 + 1)).all (fun i =>
    let k := (a / 0x200000 + i) * 0x200000
    s.granted t k 0x200000 false && s.backed (max a k))

/-- Does a suspect replica group hold any byte of a range (R387)? -/
def State.replSuspect (s : State) (a n : Nat) : Bool :=
  (List.range 64).any (fun g =>
    let c := R.INTEG_REPL_CFG g
    let len := 32 * s.fld c F.INTEG_REPL_CFG_LEN_32
    decide (s.fld (R.INTEG_REPL_STAT g) F.INTEG_REPL_STAT_STATE = 3) && (List.range (s.fld c F.INTEG_REPL_CFG_COUNT)).any (fun r =>
      let b := 64 * s.fld (R.INTEG_REPL_ADDR g r) F.INTEG_REPL_ADDR_ADDR
      decide (a < b + len) && decide (b < a + n)))

/-- Part (d), in the order of R65: the code, with the blob of a weight reference that passed. -/
def State.partD (s : State) (t : Nat) (l : Load) (f : FrameHdr) (b : List Byte) : State × Option Nat × List Byte :=
  match f.type with
  | 0x07 => (s, if f.plain ≠ 0 ∧ s.scratchClash t l f.target f.offset f.plain then some 0x3113 else none, [])
  | 0x08 =>
    let a := numAt b 0 8
    let n := numAt b 8 4
    if !s.blobGranted t a n then (s, some 0x3112, [])
    else if numAt b 12 4 = 0 ∧ s.scratchClash t l f.target f.offset n then (s, some 0x3113, [])
    else if s.replSuspect a n then (s, some 0x3111, [])
    else
      let (s, bs, bad) := s.tierRead a n
      if bad.isEmpty ∧ sha384 bs = sliceB b 16 48 then (s, none, bs) else (s, some 0x3111, [])
  | _ => (s, none, [])

/-! ### Step 16: delivery -/

def State.updShadow (s : State) (L : Nat) (f : CellStore → CellStore) : State :=
  let c := s.cell L
  s.setCell L { c with shadow := f c.shadow }

/-- List the words of a payload in a bank. -/
def putWords (m : SMap Word) (first : Nat) (ws : List Word) : SMap Word :=
  ((List.range ws.length).zip ws).foldl (fun m x => SMap.ins (first + x.1) x.2 m) m

/-- The binding of a channel entry (R79, R263). -/
def chanBind (x : Sect) (e : List Byte) : Option ChanBind :=
  if numAt e 0 1 % 2 = 1 then some ⟨bitOf (numAt e 0 1) 1, x.logical (numAt e 2 2), numAt e 4 1⟩ else none

/-- A resolved barrier descriptor (R281). -/
def State.barDesc (s : State) (x : Sect) (d : List Byte) : Option BarDesc :=
  let fl := numAt d 8 1
  if fl % 2 = 0 then none
  else some { mask := if bitOf fl 1 then numAt d 0 8 else s.cellMask (numAt d 0 8), units := bitOf fl 1,
              parent := if bitOf fl 2 then some (nthD x.binding (numAt d 10 1) 0, numAt d 9 1) else none }

/-- Deliver a frame (Table 44). `blob`: the bytes of a weight reference. -/
def State.deliverFrame (s : State) (t : Nat) (l : Load) (f : FrameHdr) (plain b blob : List Byte) : State :=
  let x := l.sect
  let L := x.logical f.target
  let g := s.teamCluster x f.target
  match f.type with
  | 0x02 => s.updShadow L (fun c => { c with bank := putWords c.bank (f.offset / 8) (words64 plain), prog := c.prog ++ [(f.offset / 8, f.plain / 8)] })
  | 0x05 => s.updShadow L (fun c => { c with bank := putWords c.bank (f.offset / 8) (words64 plain) })
  | 0x03 => s.updShadow L (fun c => { c with chanOut := (elems 16 8 b).map (chanBind x), chanIn := (elems 16 8 (b.drop 128)).map (chanBind x) })
  | 0x04 => s.updShadow L (fun c => { c with bounds := (elems 16 16 b).map regionOf })
  | 0x06 =>
    let a := tileAddr (s.clusterOf L) (0x3FC0000 + 0x4000 * (L % 16))
    let s := if (s.cell L).shadow.hasConst then s else s.tileWr a (List.replicate 16384 0) []
    (s.tileWr (a + f.offset) plain []).updShadow L (fun c => { c with hasConst := true })
  | 0x07 => s.wr (scratchAddr L f.offset) plain []
  | 0x08 =>
    let root : Word × Word := (BitVec.ofNat 64 (numAt b 0x40 8), BitVec.ofNat 64 (numAt b 0x48 8))
    if numAt b 12 4 = 0 then s.wr (scratchAddr L f.offset) blob []
    else s.updShadow L (fun c => { c with copies := c.copies ++ [⟨numAt b 0 8, f.offset, numAt b 8 4, root⟩] })
  | 0x10 =>
    let c := s.clu g
    let m := ((List.range plain.length).zip plain).foldl (fun m x => SMap.ins (f.offset + x.1) x.2 m) c.ctl.progShadow
    s.setClu g { c with ctl := { c.ctl with progShadow := m } }
  | 0x11 =>
    let c := s.clu g
    let s := s.setClu g { c with router := { c.router with shadow := some b } }
    let p := nthD x.binding (f.target / 4) 0
    let gen := !(s.team t).gen
    (List.range 4).foldl (fun s m =>
      let n := 4 * (f.target % 4) + m
      s.setBar p n ((s.bar p n).setGen gen { desc := s.barDesc x (sliceB b (0xF80 + 32 * m) 32) })) s
  | 0x12 =>
    let c := s.clu g
    s.setClu g { c with plausShadow := b }
  | _ => s

/-- What the hub remembers of a frame that passed. -/
def Load.note (l : Load) (f : FrameHdr) (b : List Byte) (entries : List (List Byte)) : Load :=
  let x := l.sect
  let root : Word × Word := (BitVec.ofNat 64 (numAt b 0x40 8), BitVec.ofNat 64 (numAt b 0x48 8))
  let x := match f.type with
    | 0x02 => { x with progCells := insNat f.target x.progCells }
    | 0x12 => { x with plaus := insNat f.target x.plaus }
    | 0x08 => { x with weights := x.weights ++ [⟨f.target, f.offset, numAt b 0 8, numAt b 8 4, decide (numAt b 12 4 = 1), root⟩] }
    | 0x20 => { x with card := some (cardOf b) }
    | _ => x
  let w := if f.type = 0x08 then [(if numAt b 12 4 = 0 then 7 else 8, f.target, f.offset, f.offset + numAt b 8 4)]
    else match f.writes with
      | some (k, a, e) => [(k, f.target, a, e)]
      | none => []
  { l with sect := x, written := l.written ++ w, dict := l.dict ++ entries, nonDict := l.nonDict || decide (f.type ≠ 0x01),
           frame := l.frame + 1, pos := l.pos + f.size l.encrypted }

/-! ### Steps 17 and 18 (R307) -/

/-- C of R307. -/
def State.cutoverWm (s : State) (t cutover : Nat) : Nat :=
  let last := if (s.team t).running.isNone then 0 else
    (s.reqsWhere (fun q => decide (q.team = t) && !q.staged)).foldl (fun m r => match s.req r with
      | some q => q.booked.foldl (fun m i => max m i.b) m
      | none => m) 0
  s.time.boundaryFrom (max s.time.count (max cutover last))

/-- The section becomes staged (step 18): its cells take part in the next switch; an empty team starts switching. -/
def State.stage' (s : State) (t : Nat) (l : Load) : State :=
  let ps := s.members t
  let c := s.cutoverWm t l.cutover
  let s := (s.sectCells l.sect).foldl (fun s L =>
    let k := s.cell L
    let tc := teamCellOf l.sect L
    s.setCell L { k with staged := true, switched := false, shadow := { k.shadow with bounds := s.newBounds l tc L } }) s
  let s := s.setTeam t { s.team t with load := none, staged := some l.sect, cutover := c }
  let s := s.setMembers ps R.WV_LOAD_STATUS F.WV_LOAD_STATUS_STATE 3
  let s := s.setMembers ps R.PART_ADM_CUTOVER F.PART_ADM_CUTOVER_CUTOVER c
  let s := s.answer l.cmd stDone 0 (some c)
  match (s.team t).run with
  | .empty | .traverse => s.enterSwitching t
  | .switching => s.armSwitch t
  | _ => s

/-- Step 17 (R59, Table 39): the frame count, BODY_LEN and the digest, as soon as END has passed; bytes that the body holds after END make BODY_LEN wrong. -/
def State.endLoad (s : State) (t : Nat) (l : Load) : State :=
  if l.frame ≠ l.frameCount ∨ l.pos ≠ l.bodyLen ∨ sha384 l.body ≠ l.digest then s.failLoad t 0x3110 whole else s.stage' t l

/-! ### One frame -/

/-- Steps 12 to 16 for a frame whose header has passed. `raw`: its bytes after the header. -/
def State.frameBody (s : State) (t : Nat) (l : Load) (f : FrameHdr) (hdr raw : List Byte) : State :=
  let no (s : State) (c : Nat) : State := s.failLoad t c l.frame
  let ct := raw.take f.stored
  let iv := l.iv.take 8 ++ beBytes 4 (beNat (l.iv.drop 8) ^^^ l.frame)
  match (if l.encrypted then gcmOpen l.key iv hdr ct ((raw.drop f.stored).take 16) else some ct) with
  | none => no s 0x3109
  | some p =>
    if (if p.isEmpty then 0 else crc32c p) ≠ f.crc then no s 0x310A
    else
      let entries := if f.type = 0x01 then dictEntries (p.length + 1) p else some []
      match entries with
      | none => no s 0x310E
      | some es =>
        if !dictFits (l.dict ++ es) then no s 0x310E
        else match (if f.flags = 1 then expand l.dict l.verMinor f.plain (p.length + 1) p [] else .ok p) with
          | .error c => no s c
          | .ok plain =>
            if plain.length ≠ f.plain then no s 0x310F
            else
              let b := if (f.type = 0x03 ∨ f.type = 0x04 ∨ f.type = 0x11 ∨ f.type = 0x12 ∨ f.type = 0x20) then sliceB plain 0 (destSize f.type) else plain
              if s.partA l.sect f b then no s 0x310D
              else if f.type = 0x08 ∧ l.overlaps 7 f.target f.offset (f.offset + numAt b 8 4) then no s 0x310C
              else match s.partC l.sect f plain b with
                | some c => no s c
                | none =>
                  match s.partD t l f b with
                  | (s, some c, _) => no s c
                  | (s, none, blob) =>
                    let s := s.deliverFrame t l f plain b blob
                    let l := ({ l with body := l.body ++ hdr ++ raw }).note f b es
                    if f.type = 0x7F then s.endLoad t l else s.setTeam t { s.team t with load := some l }

/-- Steps 10 to 18 for the next frame of a team's load. -/
def State.loadFrame (s : State) (t : Nat) : State :=
  match (s.team t).load with
  | none => s
  | some l =>
    let no (s : State) (c : Nat) : State := s.failLoad t c l.frame
    let gone := match l.keySrc with
      | some (2, k) => (s.sec.streamKey 2 k).isNone
      | _ => false
    let left := l.bodyLen - l.pos
    let a := l.sect.image + 128 + l.pos
    if gone then no s 0x3108
    else if left = 0 then s.failLoad t 0x310C whole
    else if left < 24 then no s 0x310D
    else match s.imageRead a 24 with
      | (s, .error c) => no s c
      | (s, .ok hdr) =>
        let f := frameHdr hdr
        if f.typeBad l.verMinor then no s 0x310B
        else if f.boundsBad l.sect left l.encrypted then no s 0x310D
        else if l.orderBad f then no s 0x310C
        else match s.imageRead (a + 24) (f.size l.encrypted - 24) with
          | (s, .error c) => no s c
          | (s, .ok raw) => s.frameBody t l f hdr raw

/-- LOAD_FRAME (R72). -/
def execLoadFrame (p : Fin 64) (s : State) : Host.Outcome State Fault Refusal := .next (s.loadFrame p.val)

end Sys2Proof.Machine
end

