-- ==== Sys2Proof/Machine/Change.lean ====
section
/-! DEFINITION. Capacity changes (R80, R95, R96, R318 to R320, R450): joins, leaves and traverses. -/

namespace Sys2Proof.Machine

/-! ### Conditions -/

/-- Does a partition hold an intake entry, a booking or a bivouac record? -/
def State.partHolds (s : State) (p : Nat) : Bool :=
  s.intakeHeld.any (fun e => decide (e / 64 = p)) || s.adm.reqs.any (fun (x : Nat × Request) => decide (x.2.team = p) || (match x.2.moved with
    | some (t, _, _) => decide (t = p)
    | none => false))

/-- Is a team free of sections and loads? -/
def Team.bare (x : Team) : Bool := decide (x.run = .empty) && x.running.isNone && x.staged.isNone && x.load.isNone

/-- Is a partition a team of its own with nothing on it (R319)? -/
def State.joinable (s : State) (p : Nat) : Bool := decide (s.members p = [p]) && (s.team p).bare && (s.team p).change.isNone && !s.partHolds p

/-- Where a binding puts the cell that another binding puts at L. -/
def moveCell (b b' : List Nat) (L : Nat) : Nat := 64 * nthD b' (b.idxOf (L / 64)) 0 + L % 64

/-- Is binding b' congruent with a section's (R95)? -/
def State.congruent (s : State) (x : Sect) (b' : List Nat) : Bool :=
  let cells := s.sectCells x
  cells.all (fun L => s.populated (moveCell x.binding b' L)) &&
  cells.all (fun L => ((s.cell L).store.bounds.filterMap id).all (fun r =>
    !r.nbr || r.tile || !decide (1 ≤ r.dir ∧ r.dir ≤ 4) || (match s.neighbour L r.dir with
      | some n => !cells.contains n || decide (s.neighbour (moveCell x.binding b' L) r.dir = some (moveCell x.binding b' n))
      | none => true)))

/-- New binding of a leave with a substitute. -/
def substitute (b : List Nat) (p q : Nat) : List Nat := b.map (fun x => if x = p then q else x)

/-- Is a team running a section with nothing staged or loading, as a move needs? -/
def Team.movable (x : Team) : Bool := decide (x.run = .running) && x.staged.isNone && x.load.isNone

/-- Why a change cannot be made, 0 when it can: its conditions (R96, R319, R320, R450). -/
def State.changeFault (s : State) (t : Nat) (c : Change) : Nat :=
  let ps := s.members t
  let x := s.team t
  if c.op = 1 then
    if ps.contains c.part ∨ !s.joinable c.part then crNotEmpty else if !s.permitted (ps ++ [c.part]) then crDoor else crNone
  else if c.op = 2 then
    if !ps.contains c.part ∨ ps.length < 2 then crNotEmpty
    else if x.bare then crNone
    else match x.running with
      | none => crNotEmpty
      | some r =>
        if !x.movable && !c.started then crNotEmpty
        else if !c.subValid ∨ ps.contains c.target ∨ !s.joinable c.target then crNotEmpty
        else if !s.permitted (substitute ps c.part c.target) then crDoor
        else if !s.congruent r (substitute r.binding c.part c.target) then crIncongruent
        else crNone
  else
    let us := s.members c.target
    match x.running with
    | none => crNotEmpty
    | some r =>
      if !x.movable && !c.started then crNotEmpty
      else if !c.subValid ∨ c.target = t ∨ us.isEmpty ∨ !(s.team c.target).bare then crNotEmpty
      else if us.length ≠ ps.length then crIncongruent
      else if !s.permitted us then crDoor
      else if !s.congruent r us then crIncongruent
      else crNone

/-! ### Requesting a change -/

/-- The change waymark: the second pitch boundary after the write (R318). -/
def State.changeWm (s : State) : Nat := s.time.boundaryAfter s.time.count + s.time.pitchLen

/-- Rebook the requests a move carries (R320), in acceptance order; none: one does not fit. -/
def State.planMove (s : State) (t u w traverseWm : Nat) : Option State :=
  let rs := s.reqsWhere (fun q => decide (q.team = t) && q.guar && decide (q.st ≠ .bivouacked) && decide (w < q.c))
  let t0 := s.time.boundaryFrom (w + traverseWm)
  let cut (q : Request) : Request := { q with booked := q.booked.filter (fun i => decide (i.a < w)) }
  let base := rs.foldl (fun s r => s.updReq r cut) s
  let step (acc : Option (State × State)) (r : Nat) : Option (State × State) :=
    match acc, acc.bind (fun x => x.1.req r) with
    | some (b, s), some q =>
      match b.profileOf q with
      | some (_, p) => (match b.replan r u q.phase (some p.restoreWm) t0 with
        | some (c, l) => some (b.updReq r (fun q => { q with moved := some (u, l, c) }), s.updReq r (fun q => { q with moved := some (u, l, c) }))
        | none => none)
      | none => none
    | _, _ => none
  (rs.foldl step (some (base, s))).map (·.2)

/-- A write of ADM_TEAM_CHANGE (R318 to R320). -/
def State.askChange (s : State) (op : Nat) (v : Word) : State :=
  let t := getF v F.ADM_TEAM_CHANGE_TEAM_ID
  let w := s.changeWm
  let c : Change := { op := op, part := getF v F.ADM_TEAM_CHANGE_PARTITION, target := getF v F.ADM_TEAM_CHANGE_SUBSTITUTE,
                      subValid := decide (getF v F.ADM_TEAM_CHANGE_SUB_VALID = 1), w := w }
  if s.teamId t ≠ t then s.refuseChange t op crNotEmpty w
  else if (s.team t).change.isSome then s.refuseChange t op crBusy w
  else
    let f := s.changeFault t c
    if f ≠ 0 then s.refuseChange t op f w
    else
      let pend (s : State) : State := (s.setTeam t { s.team t with change := some c }).changeStatus 1 0 w
      match (s.team t).running with
      | some r =>
        if op = 1 then pend s
        else
          let u := if op = 3 then c.target else t
          let tw := match r.card with
            | some k => k.traverseWm
            | none => 0
          match s.planMove t u w tw with
          | some s => pend s
          | none => s.refuseChange t op crBound w
      | none => pend s

/-- TEAM_JOIN (R319). -/
def execTeamJoin (v : Word) (s : State) : Host.Outcome State Fault Refusal :=
  .next (if s.ready ∧ getF v F.ADM_TEAM_CHANGE_OP = 1 then s.askChange 1 v else s)

/-- TEAM_LEAVE (R320). -/
def execTeamLeave (v : Word) (s : State) : Host.Outcome State Fault Refusal :=
  .next (if s.ready ∧ getF v F.ADM_TEAM_CHANGE_OP = 2 then s.askChange 2 v else s)

/-- TEAM_TRAVERSE (R320). -/
def execTeamTraverse (v : Word) (s : State) : Host.Outcome State Fault Refusal :=
  .next (if s.ready ∧ getF v F.ADM_TEAM_CHANGE_OP = 3 then s.askChange 3 v else s)

/-! ### A change takes effect -/

/-- Registers that every member of a team holds alike (R99, R322, R77). -/
def teamRegs (p : Nat) : List Nat :=
  [R.SECT_STATUS p, R.SECT_RUN_ID p, R.SECT_FAULT p, R.SECT_BIV_AREA p, R.PART_ADM_CUTOVER p, R.WV_LOAD_STATUS p, R.WV_LOAD_ID p]

/-- Give a list of partitions, in team order, the team that partition `old` names: SECT_TEAM, the member registers, the TEAM_ID of its records (R99, R319). -/
def State.reteam (s : State) (ps : List Nat) (old : Nat) : State :=
  let id := ps.foldl min 63
  let vals := (teamRegs old).map s.reg
  let s := ((List.range ps.length).zip ps).foldl (fun s (x : Nat × Nat) =>
    let w := setF (setF (setF 0 F.SECT_TEAM_TEAM_INDEX x.1) F.SECT_TEAM_TEAM_SIZE ps.length) F.SECT_TEAM_TEAM_ID id
    let s := s.setReg (R.SECT_TEAM x.2) w
    ((teamRegs x.2).zip vals).foldl (fun s y => s.setReg y.1 y.2) s) s
  if id = old then s
  else
    let mv (n : Nat) : Nat := if n = old then id else n
    { s with
      teams := SMap.ins id (s.team old) (SMap.del old (SMap.del id s.teams)),
      adm := { s.adm with
        reqs := s.adm.reqs.map (fun (x : Nat × Request) => (x.1, { x.2 with team := mv x.2.team, moved := x.2.moved.map (fun m => (mv m.1, m.2)) })),
        ghosts := s.adm.ghosts.map (fun g => { g with team := mv g.team }) } }

/-- A partition becomes a team of its own with nothing on it. -/
def State.loneTeam (s : State) (p : Nat) (gen : Bool) : State :=
  { s with regs := (R.SECT_TEAM p :: teamRegs p).foldl (fun m a => SMap.del a m) s.regs }.setTeam p { gen := gen }

/-- The cells of a partition take a team's section generation; their anchors and bounds stand as they are. -/
def State.takeGen (s : State) (p : Nat) (gen : Bool) : State :=
  (s.partCells [p]).foldl (fun s L => s.setCell L { s.cell L with gen := gen }) s

/-- A partition joins a team (R80, R319). -/
def State.joinTeam (s : State) (t p : Nat) : State :=
  let ps := s.members t ++ [p]
  ((s.setTeam p {}).takeGen p (s.team t).gen).reteam ps t

/-- A partition leaves a team; a substitute takes its place (R320). -/
def State.leaveTeam (s : State) (t p : Nat) (sub : Option Nat) : State :=
  let gen := (s.team t).gen
  let ps := match sub with
    | some q => substitute (s.members t) p q
    | none => (s.members t).filter (fun x => decide (x ≠ p))
  let s := match sub with
    | some q => (s.setTeam q {}).takeGen q gen
    | none => s
  let x := s.team t
  let s := s.reteam ps t
  let s := s.loneTeam p gen
  if p = t then s.setTeam (ps.foldl min 63) x else s

/-- The requests that a move of team t carries are through: they wait for their restore on the new binding (R98, R320). -/
def State.landMoved (s : State) (t u : Nat) : State :=
  (s.reqsWhere (fun q => decide (q.team = t) && q.moved.isSome && decide (q.st = .bivouacked))).foldl (fun s r => s.updReq r (fun q => match q.moved with
    | some (_, l, c) => { q with st := .waiting, team := u, booked := l, c := c, moved := none, job := none,
                                 intake := (s.freeIntake u (s.partOfTenant q.tenant)).getD q.intake }
    | none => q)) s

/-- What a move planned for the requests of a team is off. -/
def State.dropMoves (s : State) (t : Nat) : State :=
  (s.reqsWhere (fun q => decide (q.team = t) && q.moved.isSome)).foldl (fun s r => s.updReq r (fun q => { q with moved := none })) s

/-- TRAVERSE_START (R96): at W the team enters TRAVERSE, dispatch stops, the requests that move are to be written out and the cells to come to rest. -/
def State.startMove (s : State) (t : Nat) (c : Change) : State :=
  let f := s.changeFault t c
  if f ≠ 0 then
    let s := s.dropMoves t
    (s.setTeam t { s.team t with change := none }).refuseChange t c.op f c.w
  else
    let u := if c.op = 3 then c.target else t
    let s := s.setRun t .traverse
    let s := s.setTeam t { s.team t with change := some { c with started := true } }
    let s := (s.reqsWhere (fun q => decide (q.team = t) && decide (q.st ≠ .bivouacked))).foldl (fun s r => s.updReq r (fun q =>
      let q := { q with moved := some (q.moved.getD (u, [], 0)) }
      if q.job.isSome then { q with spill := true } else { q with st := .bivouacked })) s
    let s := (s.partClus (s.members t)).foldl (fun s g =>
      let k := s.clu g
      s.setClu g { k with openG := List.replicate 8 [], ready := List.replicate 8 [], lbase := [] }) s
    (s.partCells (s.members t)).foldl (fun s L => s.setCell L { s.cell L with stopReq := true }) s

/-- Does a guaranteed request of a team finish in place (R320): one that no move carries? -/
def State.finishing (s : State) (t : Nat) : Bool :=
  s.adm.reqs.any (fun (y : Nat × Request) => decide (y.2.team = t) && y.2.guar && y.2.moved.isNone && decide (y.2.st ≠ .bivouacked))

/-- TRAVERSE_START: at W, once the requests that finish in place have ended. -/
def execTraverseStart (p : Fin 64) (s : State) : Host.Outcome State Fault Refusal :=
  let x := s.team p.val
  .next (match x.change with
    | some c => if (c.op = 3 ∨ (c.op = 2 ∧ !x.bare)) ∧ !c.started ∧ c.w ≤ s.time.count ∧ !s.finishing p.val then s.startMove p.val c else s
    | none => s)

/-- The requests are written out and the cells at rest. A leave drains the team and reloads the section in place, on the new binding (R320); a traverse loads it
on the target team, and the source keeps TRAVERSE until the records are restored there (R96, Table 43). -/
def State.finishMove (s : State) (t : Nat) (c : Change) : State :=
  let x := s.team t
  let image := match x.running with
    | some r => r.image
    | none => 0
  if c.op = 3 then
    let s := (s.setTeam t { x with change := some { c with landed := true } }).landMoved t c.target
    s.beginLoad c.target { dead := true } image 0
  else
    let s := ((s.setTeam t { x with change := none }).beginDrain t 0 0).drainEnd t
    let u := (substitute (s.members t) c.part c.target).foldl min 63
    let s := s.leaveTeam t c.part (some c.target)
    (((s.landMoved t u).landMoved u u).beginLoad u { dead := true } image 0).changeStatus 2 0 c.w

/-- The source of a traverse drains to EMPTY (R96 step 4). -/
def State.leaveSource (s : State) (t : Nat) (c : Change) : State :=
  (((s.setTeam t { s.team t with change := none }).beginDrain t 0 0).drainEnd t).changeStatus 2 0 c.w

/-- A traverse after its section was handed to the target: the source drains once every record is restored there, or once the target has lost the section, whose
records then stay bivouacked (assumption 72). -/
def State.endTraverse (s : State) (t : Nat) (c : Change) : State :=
  let y := s.team c.target
  let carried := s.reqsWhere (fun q => decide (q.team = c.target) && q.record && decide (q.st = .waiting))
  if y.run = .running ∧ carried.isEmpty then s.leaveSource t c
  else if y.run = .empty ∧ y.load.isNone ∧ y.staged.isNone then
    (carried.foldl (fun s r => (s.unbook r).updReq r (fun q => { q with st := .bivouacked })) s).leaveSource t c
  else s

/-- TEAM_CHANGE_APPLY (R319, R320). -/
def execTeamChangeApply (p : Fin 64) (s : State) : Host.Outcome State Fault Refusal :=
  let t := p.val
  let x := s.team t
  .next (match x.change with
    | none => s
    | some c =>
      if s.time.count < c.w then s
      else if c.started ∧ x.run ≠ .traverse then ((s.dropMoves t).setTeam t { x with change := none }).refuseChange t c.op crNotEmpty c.w
      else if c.landed then s.endTraverse t c
      else if c.started then
        let out := !s.adm.reqs.any (fun (y : Nat × Request) => decide (y.2.team = t) && decide (y.2.st ≠ .bivouacked))
        if out ∧ (s.partCells (s.members t)).all (fun L => (s.cell L).atRest) then s.finishMove t c else s
      else if c.op = 3 ∨ (c.op = 2 ∧ !x.bare) then s
      else
        let f := s.changeFault t c
        let s := s.setTeam t { x with change := none }
        if f ≠ 0 then s.refuseChange t c.op f c.w
        else (if c.op = 1 then s.joinTeam t c.part else s.leaveTeam t c.part none).changeStatus 2 0 c.w)

end Sys2Proof.Machine
end

