-- ==== Sys2Proof/Machine/Array.lean ====
section
/-! DEFINITION. The array and its accumulators (R112 to R123, R145 to R156): A.ZERO, A.MMA, A.DRAIN, A.MERGE, M.MV and F.PAIR. -/

namespace Sys2Proof.Machine

def evFpairGroup : Nat := 0x3147
def evChainBad : Nat := 0x3151
def evConstRange : Nat := 0x3152

/-- Accumulator a of a cell. -/
def Cell.acc (c : Cell) (a : Nat) : Acc := nthD c.accs a {}
def Cell.setAcc (c : Cell) (a : Nat) (x : Acc) : Cell := { c with accs := c.accs.set a x }
def State.setAcc (s : State) (L a : Nat) (x : Acc) : State := s.setCell L ((s.cell L).setAcc a x)

/-- OR flags into an accumulator (Table 79). -/
def Acc.or (a : Acc) (f : Nat) : Acc := { a with flags := a.flags ||| f }

/-- A node addition that disagrees twice sets POISON in the accumulators that depend on it and is logged against the physical slot with the first (R366). -/
def State.treeUpset (s : State) (L : Nat) (as : List Nat) : State :=
  if s.upsets.contains (.adder L) then
    let s := as.foldl (fun s a => s.setAcc L a (((s.cell L).acc a).or flPoison)) { s with upsets := s.upsets.erase (.adder L) }
    let g := s.clusterOf L
    let slot := s.slotOf L
    let s := s.raise { code := 0x2203, kind := 9, src := 17 * g + slot, detail := as.headD 0 }
    s.slotErr (17 * g + slot) 3
  else s

/-- Does a drain of an accumulator to roots add nodes (R145): a float row with two entries or more? -/
def Acc.drainAdds (a : Acc) : Bool :=
  decide (a.cls = 1) && (List.range 32).any (fun r => decide (2 ≤ (a.entries.filter (fun e => decide (e.row = r))).length))

/-- A_ZERO (R115). -/
def execAZero (c : Fin 4096) (s : State) : Host.Outcome State Fault Refusal :=
  .next (s.atHead c.val .array (fun q => match q.i with
    | .aZero acc base => ((s.startHead c.val q).setAcc c.val acc.toNat (Acc.zero base.toNat)).finish c.val .array
    | _ => s))

/-- A.MMA (R112 to R115). -/
def State.aMma (s : State) (L : Nat) (q : QInstr) (fb fa : Fmt) (sb sa a ta tb k m : Nat) (fin : Bool) : State :=
  let s := s.meetStores (tregStores L [ta, tb] ++ accStores L [a])
  let buf := s.opndBad L
  let s := s.meetStores [.opnd (cellNum L)]
  let c := s.cell L
  let strict := s.strict L
  let ra := nthD c.tregs ta {}
  let rb := nthD c.tregs tb {}
  if !s.mayCheck L q.job (tileBytes fa sa + tileBytes fb sb) then s
  else if !ra.full || !rb.full then s.headFault L .array q evTregEmpty
  else
    let rows := mmaLeaves strict fa fb sa sb k m ra.bytes rb.bytes
    match (c.acc a).pushAll strict fa.isInt fin rows with
    | .inl ev => s.headFault L .array q ev
    | .inr x =>
      let pois := ra.poison || rb.poison || buf
      let s := (s.startHead L q).setAcc L a (if pois then x.or flPoison else x)
      let s := (s.count L 2 (k * rateFactor strict fa fb)).count L 3 (m * k * 32)
      let s := if fa.isInt then s else s.treeUpset L [a]
      (s.unitDone L q.job q.i.encode k m rows (sliceB ra.bytes 0 (tileBytes fa sa)) (sliceB rb.bytes 0 (tileBytes fb sb)) pois).finish L .array

/-- A_MMA (R112). -/
def execAMma (c : Fin 4096) (s : State) : Host.Outcome State Fault Refusal :=
  .next (s.atHead c.val .array (fun q => match q.i with
    | .aMma fb fa sb sa acc ta tb k m fin =>
      s.aMma c.val q (fmtOf fb) (fmtOf fa) sb.toNat sa.toNat acc.toNat ta.toNat tb.toNat (k.toNat + 1) (m.toNat + 1) (fin = 1#1)
    | _ => s))

/-- A root-mode A.DRAIN (R117, R150, R154, R155, R163). NORM outside the active group raises FPAIR_GROUP (assumption 13). -/
def State.drainRoot (s : State) (L : Nat) (q : QInstr) (f : Fmt) (a ta : Nat) (sr clr norm : Bool) (key : Nat) : State :=
  let c := s.cell L
  let inGroup := match c.fp with
    | some (g, d) => decide (g ≤ a) && decide (a < g + d)
    | none => false
  if norm && !inGroup then s.headFault L .array q evFpairGroup
  else
    let s := s.meetStores (accStores L [a])
    let s := if ((s.cell L).acc a).drainAdds then s.treeUpset L [a] else s
    let x := (s.cell L).acc a
    let (codes, fl) := rootDrain (s.strict L) (s.e4sat L) f (if norm then some c.rowSum else none) (if sr then some (s.sectIdAt L, key) else none) x
    let x := x.or fl
    let pois := x.flags.testBit 5
    let s := (s.startHead L q).setTreg L ta { full := true, bytes := packCodes f codes, flags := x.flags, poison := pois }
    (s.setAcc L a (if clr then Acc.zero 0 else x)).finish L .array

/-- A frame-mode A.DRAIN (R117, R147, R156). -/
def State.drainFrame (s : State) (L : Nat) (q : QInstr) (a : Nat) (clr : Bool) (addr : Nat) : State :=
  let s := s.meetStores (accStores L [a])
  let c := s.cell L
  let x := c.acc a
  let b := x.frame (s.strict L)
  if !c.inRegion addr b.length Region.wr then s.headOverflow L .array q addr true
  else
    let s := (s.startHead L q).ownWrite L addr b (x.flags.testBit 5)
    let s := s.setAcc L a (if clr then Acc.zero 0 else x)
    (s.countBanks L q (unitsOfRange addr b.length)).finish L .array

/-- A_DRAIN (R117). -/
def execADrain (c : Fin 4096) (s : State) : Host.Outcome State Fault Refusal :=
  .next (s.atHead c.val .array (fun q => match q.i with
    | .aDrain fb acc ta frame sr clr norm xb off =>
      if frame = 1#1 then s.drainFrame c.val q acc.toNat (clr = 1#1) (offAddr q.xs xb off.toNat)
      else s.drainRoot c.val q (fmtOf fb) acc.toNat ta.toNat (sr = 1#1) (clr = 1#1) (norm = 1#1) ((xval q.xs xb + off.toNat) % 2 ^ 32)
    | _ => s))

/-- Start of frame f of a merge that starts at an address (R148). -/
def State.frameAt (s : State) (L : Nat) : Nat → Nat → Nat
  | 0, a => a
  | f + 1, a => s.frameAt L f (a + 256 + 4096 * (memRead s.mem (scratchAddr L (a + 6))).toNat)

/-- One step of a merge: slot `slot` of the frame at `addr`, its header first when slot is 0. The answer is the state, a fault, and whether the frame is
finished. -/
def State.mergeStep (s : State) (L a addr slot : Nat) : State × Option (Nat ⊕ Nat) × Bool :=
  let s := s.meetStores (accStores L [a])
  let c := s.cell L
  let strict := s.strict L
  if !c.inRegion addr 256 Region.rd then (s, some (.inr addr), false) else
  let (s, h, hbad) := s.ownRead L addr 256
  if slot = 0 && !frameHeadOk strict h then (s, some (.inl evFrameBad), false) else
  let cls := numAt h 5 1
  let x := (s.cell L).acc a
  if slot = 0 && cls ≠ 0 && x.cls ≠ 0 && cls ≠ x.cls then (s, some (.inl evFmtMismatch), false) else
  let x := if slot = 0 then (if hbad.isEmpty then x.takeHead h else (x.takeHead h).or flPoison) else x
  let s := if slot = 0 then s.setAcc L a x else s
  let n := numAt h 6 1
  if n ≤ slot then (s, none, true) else
  let sa := addr + 256 + 4096 * slot
  if !c.inRegion sa 4096 Region.rd then (s, some (.inr sa), false) else
  let (s, b, bad) := s.ownRead L sa 4096
  let tag := numAt h (0xA0 + 8 * slot) 8
  let r := if cls = 2 then .inr (x.mergeSums slot b) else x.mergeSlot strict (bitsOf tag 25 21) (bitsOf tag 20 0) (bitsOf tag 63 32) b
  match r with
  | .inl ev => (s, some (.inl ev), false)
  | .inr x =>
    let s := s.setAcc L a (if bad.isEmpty then x else x.or flPoison)
    (if cls = 1 then s.treeUpset L [a] else s, none, decide (n ≤ slot + 1))

/-- Where the merge at the head of the array queue stands: on its way, or at the cursor it resumes from (R350). -/
def Cell.mergeFrom (c : Cell) (q : QInstr) : Option MergeCursor :=
  match c.merge, q.cur with
  | some m, _ => some m
  | none, .merge m => some m
  | none, _ => none

/-- Run at most `fuel` steps of the merge at the head of the array queue (R148, R349). -/
def State.mergeRun (L : Nat) (q : QInstr) (a nframes base : Nat) : Nat → Nat → Nat → State → State
  | 0, frame, slot, s => s.setCell L { s.cell L with merge := some ⟨q.iaddr, q.job, frame, slot, base⟩ }
  | fuel + 1, frame, slot, s =>
    match s.mergeStep L a (s.frameAt L frame base) slot with
    | (s, some (.inl ev), _) => (s.setCell L { s.cell L with merge := none }).headFault L .array q ev
    | (s, some (.inr off), _) => (s.setCell L { s.cell L with merge := none }).headOverflow L .array q off false
    | (s, none, true) =>
      if nframes ≤ frame + 1 then
        let s := s.setCell L { s.cell L with merge := none }
        let n := s.frameAt L nframes base - base
        ((s.consumeRead L base n).countBanks L q (unitsOfRange base n)).finish L .array
      else mergeRun L q a nframes base fuel (frame + 1) 0 s
    | (s, none, false) => mergeRun L q a nframes base fuel frame (slot + 1) s

/-- A_MERGE (R148): at most n slots, then it waits at its cursor. -/
def execAMerge (c : Fin 4096) (n : Nat) (s : State) : Host.Outcome State Fault Refusal :=
  .next (s.atHead c.val .array (fun q => match q.i with
    | .aMerge acc n1 xb off =>
      let s := s.startHead c.val q
      match (s.cell c.val).mergeFrom q with
      | some m => State.mergeRun c.val q acc.toNat (n1.toNat + 1) m.xstart n m.frame m.slot s
      | none => State.mergeRun c.val q acc.toNat (n1.toNat + 1) (offAddr q.xs xb off.toNat) n 0 0 s
    | _ => s))

/-- The leaves of chunk ch of an M.MV (R119, R134): 32 columns of the MV image against one activation chunk. -/
def mvChunk (strict : Bool) (fa fb : Fmt) (sa sb k : Nat) (act wt : List Byte) : List (List (LeafVal × Nat)) :=
  let a := codesOf fa (sliceB act 0 (fa.bytes 32))
  let as := (sliceB act (fa.bytes 32) (sclBytes sa)).map (·.toNat)
  rowLeaves strict fa fb sa sb k a as (tileRows fb wt) (tileScales fb sb wt)

/-- fc for which an M.MV occupies the MV path (R120), with the extra cycles of its weight bytes (R196). -/
def mvFc (strict : Bool) (base n k : Nat) : Nat :=
  (if strict then (32 * k + 63) / 64 else (n + 255) / 256) + extraCycles (unitsOfRange base n)

/-- M.MV (R119 to R121). -/
def State.mMv (s : State) (L : Nat) (q : QInstr) (fb fa : Fmt) (sb sa a ta klen row : Nat) (fin : Bool) (kc base : Nat) : State :=
  let s := s.meetStores (tregStores L [ta] ++ accStores L [a])
  let buf := s.opndBad L
  let s := s.meetStores [.opnd (cellNum L)]
  let c := s.cell L
  let strict := s.strict L
  let ra := nthD c.tregs ta {}
  let cb := tileBytes fb sb
  let ab := fa.bytes 32 + sclBytes sa
  if !s.mayCheck L q.job (ab + cb) then s
  else if !ra.full then s.headFault L .array q evTregEmpty
  else if !c.inRegion base (kc * cb) Region.rd then s.headOverflow L .array q base false
  else
    let (s1, w, bad) := s.ownRead L base (kc * cb)
    let chunks := (List.range kc).map (fun i =>
      (sliceB ra.bytes (i * ab) ab, sliceB w (i * cb) cb, if i + 1 = kc then klen else 32))
    let lv := chunks.map (fun x => mvChunk strict fa fb sa sb x.2.2 x.1 x.2.1)
    match (c.acc a).pushAll strict fa.isInt fin [(row, lv.flatten)] with
    | .inl ev => s1.headFault L .array q ev
    | .inr x =>
      let pois := ra.poison || !bad.isEmpty || buf
      let s := (s1.startHead L q).setAcc L a (if pois then x.or flPoison else x)
      let s := (s.count L 4 (mvFc strict base (kc * cb) (32 * (kc - 1) + klen))).count L 5 (32 * (32 * (kc - 1) + klen))
      let s := if fa.isInt then s else s.treeUpset L [a]
      let s := (chunks.zip lv).foldl (fun s x => s.unitDone L q.job q.i.encode x.1.2.2 1 [(row, x.2)] x.1.1 x.1.2.1 pois) s
      ((s.consumeRead L base (kc * cb)).countBanks L q (unitsOfRange base (kc * cb))).finish L .array

/-- M_MV (R119). -/
def execMMv (c : Fin 4096) (s : State) : Host.Outcome State Fault Refusal :=
  .next (s.atHead c.val .array (fun q => match q.i with
    | .mMv fb fa sb sa acc ta klen1 row fin kc1 xb _ =>
      s.mMv c.val q (fmtOf fb) (fmtOf fa) sb.toNat sa.toNat acc.toNat ta.toNat (klen1.toNat + 1) row.toNat (fin = 1#1) (kc1.toNat + 1) (xval q.xs xb)
    | _ => s))

/-! ### F.PAIR -/

/-- Ceiling of m × 2^e with a sign. -/
def ceilDy (neg : Bool) (m : Nat) (e : Int) : Int :=
  if 0 ≤ e then sgn neg (m * 2 ^ e.toNat)
  else if neg then -((m / 2 ^ (-e).toNat : Nat) : Int) else (((m + 2 ^ (-e).toNat - 1) / 2 ^ (-e).toNat : Nat) : Int)

/-- exp2 of y − m, correctly rounded from the exact argument (assumption 14). -/
def pairExp (strict : Bool) (y : BitVec 32) (m : Int) : BitVec 32 × Nat :=
  match dec32 y with
  | .inf true => (0, 0)
  | .fin n a e =>
    let d := Dy.add (sgn n a, e) (-m, 0)
    if d.1 = 0 then (BitVec.ofNat 32 0x3F800000, 0) else (fnExp2 (decide (d.1 < 0)) d.1.natAbs d.2).round strict
  | _ => (cnan, flInv)

/-- Row maximum after a block (R122): the ceiling of the largest finite y, clamped, or the old value. -/
def pairMax (m : Int) (ys : List (BitVec 32)) : Int :=
  ys.foldl (fun acc y => match dec32 y with
    | .fin n a e => max acc (max (-32768) (min 32767 (ceilDy n a e)))
    | _ => acc) m

/-- An integer row sum scaled by 2^(−d): exact where it divides, else a value the spec does not state (assumption 116). -/
def scaleSum (v : Word) (d : Nat) : Word := if v.toInt % 2 ^ d = 0 then BitVec.ofInt 64 (v.toInt / 2 ^ d) else Config.scaledSum v d

/-- Scale a row of an accumulator by 2^k, k at most 0 (R122): every stack level, or the integer sums. -/
def Acc.scaleRow (a : Acc) (r : Nat) (k : Int) : Acc :=
  { a with entries := a.entries.map (fun e => if e.row = r then { e with vals := e.vals.map (fun x => scale32 x k) } else e),
           sums := if a.cls = 2 then (List.range 32).foldl (fun m n => SMap.upd 0 (32 * r + n) (fun v => scaleSum v (-k).toNat) m) a.sums else a.sums }

/-- An integer as binary32, nearest even (R150). -/
def intTo32 (strict : Bool) (i : Int) : BitVec 32 × Nat :=
  let (c, f) := convSum strict false none .fp32 i
  (BitVec.ofNat 32 c, f)

/-- The root of a score row as binary32 (R122, R123): an integer root takes the conversion of R150 (assumption 116). -/
def scoreRoot (strict : Bool) (a : Acc) : List (BitVec 32) × Nat :=
  if a.cls = 2 then
    let l := (List.range 32).map (fun n => intTo32 strict (SMap.get 0 a.sums n).toInt)
    (l.map (·.1), l.foldl (fun f x => f ||| x.2) 0)
  else rowRoot strict a 0

/-- The code of 1 in a format. -/
def oneCode (f : Fmt) : Nat := (conv32 false true none f (BitVec.ofNat 32 0x3F800000)).1

/-- The scores of query row r against 32 keys (R122): roots over the images of Q and K, and the flags raised. Keys at klen and above count as zero. -/
def pairScores (strict : Bool) (fa fb : Fmt) (sa sb klen r : Nat) (qs ks : List (List Byte)) : List (BitVec 32) × Nat :=
  let ords := (qs.zip ks).flatMap (fun p =>
    let cols := (List.range 32).map (fun j => if j < klen then nthD (tileRows fb p.2) j [] else List.replicate 32 0)
    let scs := (List.range 32).map (fun j => if j < klen then nthD (tileScales fb sb p.2) j [] else List.replicate 2 127)
    rowLeaves strict fa fb sa sb 32 (nthD (tileRows fa p.1) r []) (nthD (tileScales fa sa p.1) r []) cols scs)
  match (Acc.zero 0).pushAll strict fa.isInt false [(0, ords)] with
  | .inl _ => ([], 0)
  | .inr a =>
    let (v, f) := scoreRoot strict a
    (v, a.flags ||| f)

/-- What one query row of an F.PAIR yields: P codes, new maximum, rescale, addend of the row sum, flags. -/
structure PairRow where
  p : List Nat
  m : Int
  sum : BitVec 32
  flags : Nat
  deriving DecidableEq, Repr

/-- Row r of an F.PAIR up to P (R122, R185). -/
def pairRow (strict sat : Bool) (d : Desc) (k : List (BitVec 32)) (fa fb : Fmt) (sa sb klen r : Nat) (m0 : Int) (qs ks : List (List Byte)) : PairRow :=
  let (sv, f1) := pairScores strict fa fb sa sb klen r qs ks
  let ys := ((List.range klen).zip sv).map (fun x => pairChain strict d k r x.1 x.2)
  let m := pairMax m0 (ys.map (·.1))
  let ps := ys.map (fun y =>
    let (x, fx) := pairExp strict y.1 m
    let (c, fc) := conv32 strict sat none fa x
    (c, y.2 ||| fx ||| fc))
  let codes := ps.map (·.1) ++ List.replicate (32 - klen) 0
  let lf : Leaf := { fa := fa, fb := fa, sa := 127, sb := 127, scaledA := false, scaledB := false, els := codes.map (fun c => (c, oneCode fa)) }
  let (v, fl) := lf.eval strict
  let sum := match v with
    | .flt x => x
    | .int i => (intTo32 strict i).1
  ⟨codes, m, sum, ps.foldl (fun f p => f ||| p.2) (f1 ||| fl)⟩

/-- Does the chain of a query row read a constant-cache word that holds an uncorrectable error (R362)? -/
def pairRowBad (strict : Bool) (d : Desc) (k : List (BitVec 32)) (bad : List Nat) (fa fb : Fmt) (sa sb klen r : Nat) (qs ks : List (List Byte)) : Bool :=
  ((List.range klen).zip (pairScores strict fa fb sa sb klen r qs ks).1).any (fun x => (pairWords strict d k r x.1 x.2).any bad.contains)

/-- F.PAIR (R122 to R124, R185). -/
def State.fPair (s : State) (L : Nat) (q : QInstr) (fb fa : Fmt) (sb sa a tq klen rows kAddr vAddr dch : Nat) (first : Bool) (chain : Nat) : State :=
  let s := s.meetStores (tregStores L (regRun tq dch) ++ accStores L ((List.range dch).map (a + ·)))
  let buf := s.opndBad L
  let s := s.meetStores [.opnd (cellNum L)]
  let c := s.cell L
  let strict := s.strict L
  let sat := s.e4sat L
  let qr := (regRun tq dch).map (fun r => nthD c.tregs r {})
  let nb := tileBytes fb sb
  if !s.mayCheck L q.job (fa.bytes 1024 + nb) then s
  else if qr.any (fun r => !r.full) then s.headFault L .array q evTregEmpty
  else if !first && decide (c.fp ≠ some (a, dch)) then s.headFault L .array q evFpairGroup
  else
    match Desc.read c.store.num chain 1024 with
    | none => s.headFault L .array q evChainBad
    | some d =>
      if !d.pairOk c.store.num chain then s.headFault L .array q evChainBad
      else if d.pairConstBad then s.headFault L .array q evConstRange
      else if !c.inRegion kAddr (dch * nb) Region.rd then s.headOverflow L .array q kAddr false
      else if !c.inRegion vAddr (dch * nb) Region.rd then s.headOverflow L .array q vAddr false
      else
        let (s1, kb, bad1) := s.ownRead L kAddr (dch * nb)
        let (s1, vb, bad2) := s1.ownRead L vAddr (dch * nb)
        let ks := (List.range dch).map (fun h => sliceB kb (h * nb) nb)
        let vs := (List.range dch).map (fun h => sliceB vb (h * nb) nb)
        let kc := if d.usesK then (List.range 4096).map (fun i => SMap.get 0 c.const i) else []
        let m0 := if first then List.replicate 32 (-32768) else c.rowMax
        let l0 := if first then List.replicate 32 0 else c.rowSum
        let prs := (List.range rows).map (fun r => pairRow strict sat d kc fa fb sa sb klen r (nthD m0 r (-32768)) (qr.map (·.bytes)) ks)
        let sums := (List.range rows).map (fun r =>
          let p := nthD prs r ⟨[], 0, 0, 0⟩
          addMode strict (scale32 (nthD l0 r 0) (nthD m0 r 0 - p.m)) p.sum)
        let fl := sums.foldl (fun f x => f ||| x.2) (prs.foldl (fun f p => f ||| p.flags) 0)
        let img := packCodes fa ((prs.flatMap (·.p)) ++ List.replicate (32 * (32 - rows)) 0)
        let leaves := vs.map (fun v => mmaLeaves strict fa fb 0 sb 32 rows img v)
        let accs0 := (List.range dch).map (fun h =>
          let x := if first then Acc.zero 0 else c.acc (a + h)
          (List.range rows).foldl (fun x r =>
            let p := nthD prs r ⟨[], 0, 0, 0⟩
            if p.m = nthD m0 r 0 then x else x.scaleRow r (nthD m0 r 0 - p.m)) x)
        let outs : List (Nat ⊕ Acc) := (accs0.zip leaves).map (fun x => x.1.pushAll strict fa.isInt false x.2)
        match outs.find? (fun o => match o with
            | .inl _ => true
            | .inr _ => false) with
        | some (.inl ev) => s1.headFault L .array q ev
        | _ =>
          let kbad := !c.constBad.isEmpty && (List.range rows).any (fun r => pairRowBad strict d kc c.constBad fa fb sa sb klen r (qr.map (·.bytes)) ks)
          let pois := qr.any (·.poison) || !bad1.isEmpty || !bad2.isEmpty || buf || kbad
          let fl := if pois then fl ||| flPoison else fl
          let s := s1.startHead L q
          let c := s.cell L
          let c := ((List.range dch).zip outs).foldl (fun c o => match o.2 with
            | .inr x => c.setAcc (a + o.1) (x.or fl)
            | .inl _ => c) c
          let c := { c with fp := some (a, dch),
                            rowMax := (List.range 32).map (fun r => if r < rows then (nthD prs r ⟨[], 0, 0, 0⟩).m else nthD m0 r (-32768)),
                            rowSum := (List.range 32).map (fun r => if r < rows then (nthD sums r (0, 0)).1 else nthD l0 r 0) }
          let s := s.setCell L c
          let s := (s.count L 2 (dch * 32 * (rateFactor strict fa fb + rateFactor strict fa fb))).count L 3 (2 * rows * klen * 32 * dch)
          let s := if fa.isInt then s else s.treeUpset L ((List.range dch).map (a + ·))
          let s := (leaves.zip vs).foldl (fun s x => s.unitDone L q.job q.i.encode 32 rows x.1 img x.2 pois) s
          let s := (s.consumeRead L kAddr (dch * nb)).consumeRead L vAddr (dch * nb)
          (s.countAccs L q [unitsOfRange kAddr (dch * nb), unitsOfRange vAddr (dch * nb)]).finish L .array

/-- F_PAIR (R122). -/
def execFPair (c : Fin 4096) (s : State) : Host.Outcome State Fault Refusal :=
  .next (s.atHead c.val .array (fun q => match q.i with
    | .fPair fb fa sb sa acc tq xk klen1 rows1 xv dch1 first _ chain =>
      s.fPair c.val q (fmtOf fb) (fmtOf fa) sb.toNat sa.toNat acc.toNat tq.toNat (klen1.toNat + 1) (rows1.toNat + 1) (xval q.xs xk) (xval q.xs xv)
        (dch1.toNat + 1) (first = 1#1) chain.toNat
    | _ => s))

end Sys2Proof.Machine
end

