-- ==== Sys2Proof/Machine/Check.lean ====
section
/-! DEFINITION. Sampled shadow execution at the checker and the collector (R371 to R373), retire windows and the slot commands (R393, R397). -/

namespace Sys2Proof.Machine

/-! ### The check store and the check (R371) -/

/-- Has a check store room for a tap that arrives: beside what it holds, and for an unchecked unit beside what is reserved for checked ones (R372, R373)? -/
def State.tapFits (s : State) (g pos : Nat) (u : TapUnit) : Bool :=
  decide ((if u.checked then s.checkHeld g pos else s.checkLoad g pos) + tapEntries u ≤ 8)

/-- A tap lands in the check store of the checking cell's cluster, or is dropped at a full store (R371, R372). -/
def State.tapLands (s : State) (g pos : Nat) (u : TapUnit) : State :=
  let c := s.clu g
  if s.tapFits g pos u then s.setClu g { c with taps := c.taps ++ [⟨pos, u⟩] }
  else
    let s := s.bump (R.CELL_SHADOW_CNT u.primary) F.CELL_SHADOW_CNT_SKIPPED 1
    if c.skipLogged then s
    else (s.setClu g { c with skipLogged := true }).raise { code := 0x6201, kind := 2, src := g }

/-- Does a tap of a checked job wait for an entry (R373): its unit starts no earlier? -/
def State.tapWaits (s : State) (p : Packet) : Bool := match p.pkt with
  | .tap u _ last => last && u.checked && !s.tapFits p.dest.cluster p.dest.code u
  | _ => false

/-- CH_TAP (R371): the last packet of a tap completes it. -/
def execChTap (n : Nat) (s : State) : Host.Outcome State Fault Refusal :=
  .next (s.onPkt (fun p => decide (p.pkt.type = 0x04) && !s.tapWaits p) n (fun s p => match p.pkt with
    | .tap u _ true => s.tapLands p.dest.cluster p.dest.code u
    | _ => s))

/-- The leaf results of a tapped unit, computed from its operand images (R370, R371). -/
def TapUnit.leaves (u : TapUnit) (strict : Bool) : List RowLeaves :=
  match CellInstr.fields u.word with
  | some (.aMma fb fa sb sa ..) => mmaLeaves strict (fmtOf fa) (fmtOf fb) sa.toNat sb.toNat u.klen u.rows u.a u.b
  | some (.mMv fb fa sb sa _ _ _ row ..) => [(row.toNat, mvChunk strict (fmtOf fa) (fmtOf fb) sa.toNat sb.toNat u.klen u.a u.b)]
  | some (.fPair fb fa sb ..) => mmaLeaves strict (fmtOf fa) (fmtOf fb) 0 sb.toNat 32 u.rows u.a u.b
  | _ => []

/-- The oldest tap of a cluster's check store is checked, and its digest goes to the collector of the primary's cluster. -/
def State.checkRun (s : State) (g : Nat) : State :=
  let c := s.clu g
  match c.taps with
  | [] => s
  | e :: rest =>
    let L := s.cellAt g e.pos
    let s := s.meetStores [.check (cellNum L)]
    let u := match (s.clu g).taps with
      | e :: _ => e.tap
      | [] => e.tap
    let s := s.setClu g { s.clu g with taps := rest }
    let bad := !u.pois && s.upsets.contains (.mac L)
    let s := if bad then { s with upsets := s.upsets.erase (.mac L), draws := s.draws + 2 } else s
    let d := if u.pois then (0, 0) else if bad then (Config.freeWord (s.draws - 2), Config.freeWord (s.draws - 1)) else unitDigest (u.leaves (s.strict L))
    let s := if u.pois then s else s.bump (R.CELL_SHADOW_CNT L) F.CELL_SHADOW_CNT_CHECKED 1
    s.send { pkt := .tapDigest d u.unit u.primary u.job u.alt u.pois u.checked u.digest, gs := true, gen := (s.cell L).gen, job := u.job,
             dest := ⟨s.clusterOf u.primary, 18⟩, src := s.cellEp L, sender := .cell L, tenant := s.jobTenant g u.job }

/-- SHADOW_CHECK_RUN (R371). -/
def execShadowCheckRun (g : Fin 256) (s : State) : Host.Outcome State Fault Refusal := .next (s.checkRun g.val)

/-! ### The collector (R372, R373) -/

/-- A unit's digests differ: SHADOW, with POS of the first primary unless all three differ, and SHADOW_MISMATCH. -/
def State.shadowDiffers (s : State) (primary checker unit job : Nat) (pos : Bool) : State :=
  let g := s.clusterOf primary
  let a := R.CLU_JOB_SUSPECT g job
  let s := s.setFld a F.CLU_JOB_SUSPECT_SHADOW 1
  let s := if pos && decide (s.fld a F.CLU_JOB_SUSPECT_POS_VALID = 0) then
      (s.setFld a F.CLU_JOB_SUSPECT_POS (primary % 16)).setFld a F.CLU_JOB_SUSPECT_POS_VALID 1 else s
  let s := s.bump (R.CELL_SHADOW_CNT primary) F.CELL_SHADOW_CNT_MISMATCH 1
  s.raise { code := 0x3200, kind := 1, src := primary, part := some (primary / 64), sect := s.sectIdAt primary,
            detail := primary + 2 ^ 16 * checker + 2 ^ 32 * unit }

/-- A vote against the slot that serves a cell: it is condemned (R373, R393). -/
def State.voteAgainst (s : State) (L job : Nat) : State :=
  let k := 17 * s.clusterOf L + s.slotOf L
  let s := s.condemn k 0
  match s.adm.reqs.find? (fun (x : Nat × Request) => decide (x.2.team = s.teamOfCell L) && decide (x.2.job = some job)) with
  | some (r, _) => s.updReq r (fun q => { q with condemnVote := true })
  | none => s

/-- The checking cells of a unit in checked mode, and its three digests: who is named, and who is voted against (R373). -/
def State.decideUnit (s : State) (primary sh al unit job : Nat) (dp ds da : Word × Word) : State :=
  if dp = ds ∧ dp = da then s
  else if ds = da then (s.shadowDiffers primary sh unit job true).voteAgainst primary job
  else if dp = da then s.voteAgainst sh job
  else if dp = ds then s.voteAgainst al job
  else s.shadowDiffers primary sh unit job false

/-- A digest reaches the collector (R372, R373). -/
def State.digestArrives (s : State) (g checker : Nat) (d : Word × Word) (unit primary job : Nat) (alt pois checked : Bool) (dp : Word × Word) : State :=
  if !checked then (if pois || decide (d = dp) then s else s.shadowDiffers primary checker unit job true)
  else
    let c := s.clu g
    let same (e : Collect) : Bool := decide (e.primary = primary) && decide (e.unit = unit)
    match c.collect.find? same with
    | none => s.setClu g { c with collect := c.collect ++ [⟨primary, unit, job, alt, d, pois⟩] }
    | some e =>
      let s := s.setClu g { c with collect := c.collect.filter (fun e => !same e) }
      if pois || e.pois then s
      else
        let (ds, da) := if alt then (e.digest, d) else (d, e.digest)
        let (sh, al) := (s.checkers primary).getD (checker, checker)
        s.decideUnit primary sh al unit job dp ds da

/-- CH_TAP_DIGEST (R372, R373). -/
def execChTapDigest (n : Nat) (s : State) : Host.Outcome State Fault Refusal :=
  .next (s.onPkt (fun p => decide (p.pkt.type = 0x05)) n (fun s p => match p.pkt, p.sender with
    | .tapDigest d unit primary job alt pois checked dp, .cell l => s.digestArrives p.dest.cluster l d unit primary job alt pois checked dp
    | _, _ => s))

/-! ### Retire windows and slot commands (R393, R397) -/

/-- RETIRE_WINDOW_END (R393): the counts of every slot restart. -/
def execRetireWindowEnd (s : State) : Host.Outcome State Fault Refusal :=
  let n := s.fld R.INTEG_CTRL F.INTEG_CTRL_RETIRE_WINDOW
  let isErr (a : Nat) : Bool := match blockOf a with
    | some (.cluster, _, o) => decide (0x900 ≤ o) && decide (o < 0x900 + 8 * 17)
    | _ => false
  .next (if s.integ.window + n ≤ s.time.pitches then { s.clearRegs isErr with integ := { s.integ with window := s.integ.window + n } } else s)

/-- Slot number of an INTEG_SLOT_CMD value. -/
def slotOfCmd (v : Word) : Option Nat :=
  let n := getF v F.INTEG_SLOT_CMD_SLOT
  if n ≤ 16 then some (17 * getF v F.INTEG_SLOT_CMD_CLUSTER + n) else none

/-- A write of INTEG_SLOT_CMD stores its RW fields; GO starts its OP unless BUSY. -/
def State.slotCmd (s : State) (v : Word) (op : Nat) (f : State → Nat → State) : State :=
  let a := R.INTEG_SLOT_CMD
  let go := decide (getF v F.INTEG_SLOT_CMD_GO = 1) && decide (getF v F.INTEG_SLOT_CMD_OP = op) && decide (s.fld a F.INTEG_SLOT_CMD_BUSY = 0)
  let s := ((s.setFld a F.INTEG_SLOT_CMD_CLUSTER (getF v F.INTEG_SLOT_CMD_CLUSTER)).setFld a F.INTEG_SLOT_CMD_SLOT (getF v F.INTEG_SLOT_CMD_SLOT)).setFld a
    F.INTEG_SLOT_CMD_OP (getF v F.INTEG_SLOT_CMD_OP)
  match slotOfCmd v with
  | some k => if go then f s k else s
  | none => s

/-- SLOT_RETIRE_CMD (R393). -/
def execSlotRetireCmd (v : Word) (s : State) : Host.Outcome State Fault Refusal := .next (s.slotCmd v 1 (fun s k => s.condemn k 4))

/-- Is a slot condemned or retired, so that a test may return it (R397)? -/
def State.slotDown (s : State) (k : Nat) : Bool :=
  let a := R.CLU_SLOT_MAP (k / 17)
  (s.isCondemned k || (if k % 17 = 16 then decide (s.fld a F.CLU_SLOT_MAP_SPARE_GOOD = 0) else (s.fld a F.CLU_SLOT_MAP_RETIRED).testBit (k % 17))) &&
    (s.servesPos (k / 17) (k % 17)).isNone

/-- A condemned slot that serves no position is tested (R397). -/
def State.slotTest (s : State) (k : Nat) : State :=
  if s.slotDown k then ({ s with integ := { s.integ with testing := some k } }).setFld R.INTEG_SLOT_CMD F.INTEG_SLOT_CMD_BUSY 1 else s

/-- A write of INTEG_SLOT_CMD, whatever its OP. -/
def State.writeSlotCmd (s : State) (v : Word) : State :=
  s.slotCmd v (getF v F.INTEG_SLOT_CMD_OP) (fun s k =>
    if getF v F.INTEG_SLOT_CMD_OP = 1 then s.condemn k 4 else if getF v F.INTEG_SLOT_CMD_OP = 2 then s.slotTest k else s)

/-- SLOT_TEST_CMD (R397). -/
def execSlotTestCmd (v : Word) (s : State) : Host.Outcome State Fault Refusal := .next (s.slotCmd v 2 State.slotTest)

/-- SLOT_TEST_DONE (R397): a slot that passed waits for the next pitch boundary. -/
def execSlotTestDone (pass : Bool) (s : State) : Host.Outcome State Fault Refusal :=
  .next (match s.integ.testing with
    | none => s
    | some k =>
      let s := { s with integ := { s.integ with testing := none, returned := if pass then s.integ.returned ++ [k] else s.integ.returned } }
      (s.setFld R.INTEG_SLOT_CMD F.INTEG_SLOT_CMD_BUSY 0).setFld R.INTEG_SLOT_CMD F.INTEG_SLOT_CMD_PASS (b2n pass))

end Sys2Proof.Machine
end

