-- ==== Sys2Proof/Machine/Dma.lean ====
section
/-! DEFINITION. The cluster DMA (R237, R336, R337), and what its tier side shares with the update unit: pieces of 4 KiB, tags with epochs, the request packet. -/

namespace Sys2Proof.Machine

/-! ### Shared by the DMA and the update unit -/

/-- Section generation of a cluster's own traffic: the staged one's once its controller has switched (R88). -/
def State.cluGen (s : State) (g : Nat) : Bool := (s.team (s.teamOfClu g)).gen != (s.clu g).switched

/-- The section that a cluster's controller runs. -/
def State.sectClu (s : State) (g : Nat) : Option Sect :=
  let x := s.team (s.teamOfClu g)
  if (s.clu g).switched then x.staged else x.running

/-- Is [a, a + n) inside the memory tiles of a cluster? -/
def inOwnTiles (g a n : Nat) : Bool := decide (tileAddr g 0 ≤ a) && decide (a + n ≤ tileAddr g 0 + 0x4000000)

/-- Lowest tag number below a bound that a list of tags leaves free. -/
def freeUTag (bound : Nat) (l : List UTag) : Option Nat := (List.range bound).find? (fun n => !l.any (fun t => decide (t.num = n)))

/-- The tag an answer names (R242). -/
def utagOf (l : List UTag) (r : MemReq) : Option UTag := l.find? (fun t => decide (t.num = r.tag) && decide (t.ep = r.tepoch))

/-- Tags without one number. -/
def utagFree (l : List UTag) (num : Nat) : List UTag := l.filter (fun t => !decide (t.num = num))

/-- Change a cluster's record. -/
def State.updClu (s : State) (g : Nat) (f : Clu → Clu) : State := s.setClu g (f (s.clu g))

/-- Send the tier request of a unit's piece (R237). -/
def State.unitSend (s : State) (g code job : Nat) (gs : Bool) (r : MemReq) (data : Option (List Byte × List Nat)) : State :=
  s.tierSend ⟨g, code⟩ (.cluster g) (s.cluGen g) job gs r data

/-- Bytes of the next piece of a run of n bytes at a virtual address: cut at 4 KiB. -/
def pieceLen (va n : Nat) : Nat := min n (4096 - va % 4096)

/-! ### Descriptors -/

/-- A write of CLU_DMA_SUBMIT (R336). -/
def State.dmaQueue (s : State) (g : Nat) (v : Word) : State :=
  let c := s.clu g
  if c.dmaQ.length + c.dma.length < 16 then s.setClu g { c with dmaQ := c.dmaQ ++ [getF v F.CLU_DMA_SUBMIT_DESC_ADDR * 64] }
  else s.setFld (R.CLU_DMA_STATUS g) F.CLU_DMA_STATUS_DROPPED 1

/-- DMA_SUBMIT (R336). -/
def execDmaSubmit (g : Fin 256) (v : Word) (s : State) : Host.Outcome State Fault Refusal := .next (s.dmaQueue g.val v)

/-- Is a local range inside the cluster's memory tiles or its cells' scratchpads (Table 177)? -/
def State.localOk (s : State) (g a n : Nat) : Bool :=
  let b := scratchAddr (s.cellAt g 0) 0
  inOwnTiles g a n ||
    (decide (b ≤ a) && decide (a + n ≤ b + 16 * 0x400000) && s.populated (s.cellAt g ((a - b) / 0x400000)) &&
      s.populated (s.cellAt g ((a + n - 1 - b) / 0x400000)))

/-- Does a range meet the cluster staging area, which only the hub writes (R84)? -/
def inStaging (g a n : Nat) : Bool := decide (tileAddr g 0x3FC0000 < a + n) && decide (a < tileAddr g 0x4000000)

/-- May a unit of the cluster write a local range? DESIGN CHOICE (assumption 112): a range that meets the staging area is one the descriptor may not name. -/
def State.localWrOk (s : State) (g a n : Nat) : Bool := s.localOk g a n && !inStaging g a n

/-- A DMA descriptor read from its 64 bytes (Table 177), if its fields are good. -/
def State.dmaRead (s : State) (g : Nat) (b : List Byte) (id : Nat) : Option DmaRun :=
  let n (o k : Nat) := numAt b o k
  let op := n 0 1
  let len := n 4 4
  let va := n 8 8
  let loc := n 16 8
  if op < 2 ∧ n 1 1 < 8 ∧ n 2 2 = 0 ∧ (b.drop 28).all (· = 0) ∧ 32 ≤ len ∧ len ≤ 67108864 ∧ len % 32 = 0 ∧ va % 32 = 0 ∧ loc % 32 = 0 ∧
      (if op = 1 then s.localOk g loc len else s.localWrOk g loc len) then
    some { id := id, tier := decide (op = 1), job := n 1 1, len := len, va := va, loc := loc, anchor := n 24 4 }
  else none

/-! ### Issue -/

/-- Source of local bytes at an address: the memory tiles, or a cell's scratchpad. -/
def State.localRead (s : State) (g ep a n : Nat) : State × List Byte × List Nat :=
  if inOwnTiles g a n then s.deliver 2 g 1 ep a n else s.deliver 1 ((a - scratchAddr 0 0) / 0x400000) 0 ep a n

/-- Change a started descriptor. -/
def Clu.updDma (c : Clu) (id : Nat) (f : DmaRun → DmaRun) : Clu := { c with dma := c.dma.map (fun d => if d.id = id then f d else d) }

/-- Issue one piece at its physical address: a FAILED port answers at once (R225), else a tag and a request go out. -/
def State.dmaPiece (s : State) (g num : Nat) (d : DmaRun) (va pa len : Nat) : State :=
  let loc := d.loc + d.next
  let ep := (SMap.get 0 (s.clu g).dmaEp num + 1) % 4
  let s := s.updClu g (fun c => { c.updDma d.id (fun d => { d with next := d.next + len }) with dmaEp := SMap.ins num ep c.dmaEp })
  let (s, data) := if d.tier then
      let (s, b, bad) := s.localRead g 19 loc len
      (s.suspect g d.job F.CLU_JOB_SUSPECT_POISON (!bad.isEmpty), some (b, mapBad bad loc pa len))
    else (s, none)
  if s.farFailed pa then
    let secs := sectorsOf pa len
    let s := s.countPoison pa secs.length
    if d.tier then s
    else ({ s with draws := s.draws + 1 }.tileWr loc ((List.range len).map (Config.freeByte s.draws)) (sectorsOf loc len)).suspect g d.job
      F.CLU_JOB_SUSPECT_POISON
  else
    let (s, gs) := s.takeBudget g d.job pa len d.tier
    let t : UTag := { num := num, ep := ep, job := d.job, put := d.tier, va := va, addr := pa, loc := loc, len := len, tenant := s.jobTenant g d.job, run := d.id }
    (s.updClu g (fun c => { c with dmaTags := c.dmaTags ++ [t] })).unitSend g 19 d.job gs ⟨pa, len, num, ep⟩ data

/-- Issue the next piece of the DMA; none when it issues nothing now. -/
def State.dmaIssue (s : State) (g : Nat) : Option State :=
  let c := s.clu g
  match c.dma.find? (fun d => !d.stopped && decide (d.next < d.len)) with
  | none => none
  | some d =>
    if d.walk then none else
    match freeUTag 256 c.dmaTags with
    | none => none
    | some num =>
      let va := (d.va + d.next) % 2 ^ 48
      let len := pieceLen va (d.len - d.next)
      match s.access g d.job (fun tn => d.page.filter (fun x => x.holds tn va)) va len d.tier with
      | .walk => some (s.updClu g (fun c => c.updDma d.id (fun d => { d with walk := true })))
      | .fault code => some (s.accessFault 2 g g d.job code va)
      | .ok pa => some (s.dmaPiece g num d va pa len)

/-- Issue pieces while a tag is free; fuel bounds what one step issues. -/
def State.dmaPump : Nat → Nat → State → State
  | 0, _, s => s
  | f + 1, g, s => match s.dmaIssue g with
    | some s => dmaPump f g s
    | none => s

/-- Most pieces of a descriptor, and its walk. -/
def dmaFuel : Nat := 16400

/-- The next queued descriptor starts (R337): its checks, then its first pieces. -/
def State.dmaStart (s : State) (g : Nat) : State :=
  let c := s.clu g
  match c.dmaQ with
  | [] => s
  | a :: q =>
    if c.dma.any (fun d => !d.stopped && decide (d.next < d.len)) then s else
    let s := s.setClu g { c with dmaQ := q, dmaNext := c.dmaNext + 1 }
    if !inOwnTiles g a 64 then s.faultAgent (s.teamOfClu g) (s.partOf g).1 2 g 0x3191 0 (some a)
    else
      let (s, b, _) := s.deliver 2 g 1 19 a 64
      match s.dmaRead g b c.dmaNext with
      | none => s.faultAgent (s.teamOfClu g) (s.partOf g).1 2 g 0x3191 0 (some a)
      | some d => s.updClu g (fun c => { c with dma := c.dma ++ [d] }) |>.dmaPump dmaFuel g

/-- DMA_DESCRIPTOR_START (R337). -/
def execDmaDescriptorStart (g : Fin 256) (s : State) : Host.Outcome State Fault Refusal := .next (s.dmaStart g.val)

/-- Has every piece of a descriptor landed? -/
def Clu.dmaLanded (c : Clu) (d : DmaRun) : Bool := !d.stopped && decide (d.len ≤ d.next) && !c.dmaTags.any (fun t => decide (t.run = d.id))

/-- The first landed descriptor completes (R337): its anchor and DMA_DONE. -/
def State.dmaDone (s : State) (g : Nat) : State :=
  let c := s.clu g
  match c.dma.find? c.dmaLanded with
  | none => s
  | some d =>
    let s := s.setClu g { c with dma := c.dma.filter (fun x => !decide (x.id = d.id)) }
    (s.ancDone g d.anchor).setFld (R.CLU_CTL_IRQ g) F.CLU_CTL_IRQ_DMA_DONE 1

/-- DMA_DESCRIPTOR_DONE (R337). -/
def execDmaDescriptorDone (g : Fin 256) (s : State) : Host.Outcome State Fault Refusal := .next (s.dmaDone g.val)

/-! ### Answers, timeouts, walks and cancellations -/

/-- Bytes for a fetched piece reach the local side. -/
def State.dmaLand (s : State) (g : Nat) (t : UTag) (bs : List Byte) (bad : List Nat) : State :=
  (s.tileWr t.loc bs bad).suspect g t.job F.CLU_JOB_SUSPECT_POISON (!bad.isEmpty)

/-- TIER_DATA at the DMA. -/
def State.dmaData (s : State) (g : Nat) (r : MemReq) (bs : List Byte) (bad : List Nat) : State :=
  match utagOf (s.clu g).dmaTags r with
  | none => s
  | some t =>
    if t.put then s else
    let s := s.updClu g (fun c => { c with dmaTags := utagFree c.dmaTags t.num })
    let s := if t.void then s else s.dmaLand g t (sliceB bs 0 t.len) (mapBad bad t.addr t.loc t.len)
    s.dmaPump dmaFuel g

/-- TIER_ACK at the DMA. -/
def State.dmaAck (s : State) (g : Nat) (r : MemReq) : State :=
  match utagOf (s.clu g).dmaTags r with
  | none => s
  | some t => if t.put then (s.updClu g (fun c => { c with dmaTags := utagFree c.dmaTags t.num })).dmaPump dmaFuel g else s

/-- LEAD_TIMEOUT of a DMA tag (R242). -/
def State.dmaTimeout (s : State) (g num : Nat) : State :=
  match (s.clu g).dmaTags.find? (fun t => decide (t.num = num)) with
  | none => s
  | some t =>
    let s := s.updClu g (fun c => { c with dmaTags := utagFree c.dmaTags num })
    if t.void then s.dmaPump dmaFuel g
    else
      let s := (s.timeoutRec 2 g g t.job t.tenant t.va).bump (R.CLU_DMA_STATUS g) F.CLU_DMA_STATUS_TIMEOUTS 1
      let s := if t.put then { s with draws := s.draws + 1 }.wr t.addr ((List.range t.len).map (Config.freeByte s.draws)) []
        else s.dmaLand g t (List.replicate t.len 0) (sectorsOf t.loc t.len)
      s.dmaPump dmaFuel g

/-- PAGE_WALK_DONE at the DMA (R230). -/
def State.dmaWalk (s : State) (g : Nat) : State :=
  match (s.clu g).dma.find? (fun d => d.walk && !d.stopped) with
  | none => s
  | some d =>
    let va := (d.va + d.next) % 2 ^ 48
    let s := s.updClu g (fun c => c.updDma d.id (fun d => { d with walk := false }))
    match s.walk g (s.jobTenant g d.job) va with
    | (s, some x) => (s.updClu g (fun c => c.updDma d.id (fun d => { d with page := some x }))).dmaPump dmaFuel g
    | (s, none) => s.accessFault 2 g g d.job 0x3160 va

/-- Does a cancellation for a job, or every job, cover a job? -/
def jobHit (c : Option Nat) (j : Nat) : Bool := match c with
  | some k => decide (j = k)
  | none => true

/-- CANCEL_COMPLETE at the DMA (R244): the cancelled descriptors count as landed. -/
def State.dmaCancel (s : State) (g : Nat) : State :=
  let c := s.clu g
  match c.dmaCancels.find? (fun x => !c.dmaTags.any (fun t => jobHit x t.job && (t.void || t.put))) with
  | none => s
  | some x =>
    let s := s.setClu g { c with dmaCancels := c.dmaCancels.erase x, dma := c.dma.filter (fun d => !(d.stopped && jobHit x d.job)) }
    (s.dmaPump dmaFuel g).settleTeam (s.teamOfClu g)

end Sys2Proof.Machine
end

