-- ==== Sys2Proof/Machine/F64.lean ====
section
/-! DEFINITION. binary64 arithmetic and the internal formats UW48 and UM16 of the update unit (R404, R405, R407, Tables 214 and 215). -/

namespace Sys2Proof.Machine

/-- The binary64 parameters. -/
def spec64 : FSpec := ⟨11, 52, 1023, 0x7FEFFFFFFFFFFFFF⟩

/-- UW48 and UM16 (Table 215). -/
def specUw48 : FSpec := ⟨8, 39, 127, 254 * 2 ^ 39 + (2 ^ 39 - 1)⟩
def specUm16 : FSpec := ⟨7, 8, 63, 126 * 2 ^ 8 + (2 ^ 8 - 1)⟩

/-- A format of a stream: one of Table 57, or an internal one (Table 213). -/
inductive UFmt where
  | std (f : Fmt)
  | uw48
  | um16
  deriving DecidableEq, Repr

/-- The format a code names. -/
def UFmt.ofCode (c : Nat) : Option UFmt := if c = 0x1C then some .uw48 else if c = 0x1D then some .um16 else (Fmt.ofCode c).map .std

/-- Is a format internal? -/
def UFmt.internal : UFmt → Bool
  | .std _ => false
  | _ => true

/-- Bits of an element. -/
def UFmt.bits : UFmt → Nat
  | .std f => f.bits
  | .uw48 => 48
  | .um16 => 16

/-- The parameters of an internal format. -/
def UFmt.ispec : UFmt → FSpec
  | .um16 => specUm16
  | _ => specUw48

/-- The canonical NaN as a value. -/
def fvNan : FV := .nan false 0x400000 false

/-- A code of a float layout with infinities and NaNs above its largest finite code. -/
def FSpec.read (s : FSpec) (code : Nat) : FV :=
  let mag := code % 2 ^ (s.eb + s.mb)
  let neg := code.testBit (s.eb + s.mb)
  if mag = s.maxCode + 1 then .inf neg else if s.maxCode < mag then fvNan else s.dec neg mag

/-- An exact number rounded to binary64 (R405), with OVF beyond the range. -/
def fin64 (neg : Bool) (m : Nat) (e : Int) : FV × Nat :=
  let r := spec64.round m e
  if spec64.maxCode < r.code then (.inf neg, flOvf) else (spec64.dec neg r.code, 0)

/-- A zero. -/
def fvZero (neg : Bool) : FV := .fin neg 0 0

/-- Is a value a zero? -/
def FV.isZero : FV → Bool
  | .fin _ m _ => decide (m = 0)
  | _ => false

/-- A quotient with 80 bits and a sticky bit. -/
def quot64 (ma : Nat) (ea : Int) (mb : Nat) (eb : Int) : Nat × Int :=
  let k := 80 + mb.log2 + 1 - ma.log2
  let n := ma * 2 ^ k / mb
  (2 * n + (if ma * 2 ^ k % mb = 0 then 0 else 1), ea - eb - k - 1)

/-- The result for a NaN operand (Table 90). -/
def nan64 (l : List FV) : Option (FV × Nat) := if l.any FV.isNan then some (fvNan, flNanIn) else none

/-- a × b + c rounded once (Table 90). -/
def fma64 (a b c : FV) : FV × Nat :=
  match FV.mul a b, c with
  | .nan, _ | .bad, _ => (fvNan, flInv)
  | .inf n, .inf n' => if n = n' then (.inf n, 0) else (fvNan, flInv)
  | .inf n, _ => (.inf n, 0)
  | .fin .., .inf n => (.inf n, 0)
  | .fin np mp ep, .fin nc mc ec =>
    let s := Dy.add (sgn np mp, ep) (sgn nc mc, ec)
    if s.1 = 0 then (fvZero (np && nc && decide (mp = 0) && decide (mc = 0)), 0) else fin64 (decide (s.1 < 0)) s.1.natAbs s.2
  | .fin .., .nan .. => (fvNan, flInv)

/-- A product (Table 90). -/
def mul64 (a b : FV) : FV × Nat :=
  match FV.mul a b with
  | .fin n m e => if m = 0 then (fvZero n, 0) else fin64 n m e
  | .inf n => (.inf n, 0)
  | _ => (fvNan, flInv)

/-- A quotient (Table 90 read for division). -/
def div64 (a b : FV) : FV × Nat :=
  match a, b with
  | .inf _, .inf _ => (fvNan, flInv)
  | .inf na, .fin nb _ _ => (.inf (na != nb), 0)
  | .fin na _ _, .inf nb => (fvZero (na != nb), 0)
  | .fin na ma ea, .fin nb mb eb =>
    let n := na != nb
    if mb = 0 then (if ma = 0 then (fvNan, flInv) else (.inf n, flOvf))
    else if ma = 0 then (fvZero n, 0)
    else
      let (q, e) := quot64 ma ea mb eb
      fin64 n q e
  | _, _ => (fvNan, flNanIn)

/-- A square root (Table 90). -/
def sqrt64 (a : FV) : FV × Nat :=
  match a with
  | .inf n => if n then (fvNan, flInv) else (.inf false, 0)
  | .fin n m e =>
    if m = 0 then (fvZero n, 0)
    else if n then (fvNan, flInv)
    else
      let k : Nat := 160 + (if (e - 160) % 2 = 0 then 0 else 1)
      let v := m * 2 ^ k
      let r := isqrt v
      fin64 false (2 * r + (if r * r = v then 0 else 1)) ((e - (k : Int)) / 2 - 1)
  | .nan .. => (fvNan, flNanIn)

/-- One arithmetic operation of Table 214 on its sources. -/
def updOp (op : Nat) (a b c : FV) : FV × Nat :=
  match op with
  | 0x03 => (nan64 [a, b]).getD (fma64 a fvOne b)
  | 0x04 => (nan64 [a, b]).getD (fma64 a fvOne b.flip)
  | 0x05 => (nan64 [a, b]).getD (mul64 a b)
  | 0x06 => (nan64 [a, b, c]).getD (fma64 a b c)
  | 0x07 => (nan64 [a, b]).getD (div64 a b)
  | 0x08 => (nan64 [a]).getD (sqrt64 a)
  | 0x09 => (nan64 [a, b]).getD (if fvLt true a b then (b, 0) else (a, 0))
  | 0x0A => (nan64 [a, b]).getD (if fvLt true b a then (b, 0) else (a, 0))
  | 0x0B => (nan64 [a]).getD (match a with
      | .inf _ => .inf false
      | .fin _ m e => .fin false m e
      | v => v, 0)
  | 0x0C => (if a.isZero then c else b, 0)
  | _ => (if !a.isNan && !b.isNan && fvLt false a b then fvOne else fvZero false, 0)

/-! ### Streams -/

/-- Sources that an operation reads, and whether it writes D: A, B, C (Table 214). -/
def updReads (op : Nat) : Option (Bool × Bool × Bool) :=
  if op = 0x01 then some (false, false, false)
  else if op = 0x02 ∨ op = 0x08 ∨ op = 0x0B then some (true, false, false)
  else if op = 0x06 ∨ op = 0x0C then some (true, true, true)
  else if op = 0x03 ∨ op = 0x04 ∨ op = 0x05 ∨ op = 0x07 ∨ op = 0x09 ∨ op = 0x0A ∨ op = 0x0D then some (true, true, false)
  else none

/-- Bytes of a stream of n elements: the internal formats packed, the others under R173. -/
def ustreamLen (f : UFmt) (scl : Nat) (layout : Bool) (n : Nat) : Nat := match f with
  | .std f => streamLen f scl layout n
  | _ => n * f.bits / 8

/-- Byte position and bytes of element e and, when it is scaled, of its scale. -/
def uelemSpan (f : UFmt) (scl : Nat) (layout : Bool) (e : Nat) : List (Nat × Nat) := match f with
  | .std f => (elemBit f scl layout e / 8, (f.bits + 7) / 8) :: (if scl = 0 then [] else [(scaleByte f scl layout e, 1)])
  | _ => [(e * (f.bits / 8), f.bits / 8)]

/-- Element e of a stream as a binary64 value (LD). -/
def uload (f : UFmt) (scl : Nat) (layout : Bool) (l : List Byte) (e : Nat) : FV :=
  match f with
  | .std f =>
    (match f.dec (elemCode f scl layout l e) with
    | .nan .. => fvNan
    | .inf n => if scl ≠ 0 ∧ numAt l (scaleByte f scl layout e) 1 = 255 then fvNan else .inf n
    | .fin n m x =>
      if scl = 0 then .fin n m x
      else
        let s := numAt l (scaleByte f scl layout e) 1
        if s = 255 then fvNan else .fin n m (x + s - 127))
  | _ => f.ispec.read (numAt l (e * (f.bits / 8)) (f.bits / 8))

/-- A binary64 value converted to an unscaled stream's code (R407, Table 77 fast mode), with an optional draw. -/
def ustore (sat : Bool) (u : Option Nat) (f : UFmt) (x : FV) : Nat × Nat :=
  match f with
  | .std f =>
    (match x with
    | .nan n fr sn => convNan false f n fr sn
    | .inf n => (match f.spec with
      | none => (wrapN f.bits (sgn n (if n then 2 ^ (f.bits - 1) else 2 ^ (f.bits - 1) - 1)), flSat)
      | some s => convInf false sat f s n)
    | .fin n m e => convFin false sat u f n m e)
  | _ =>
    let s := f.ispec
    (match x with
    | .nan .. => (s.maxCode + 1 + 2 ^ (s.mb - 1), 0)
    | .inf n => (s.signed n (s.maxCode + 1), 0)
    | .fin n m e =>
      let r := s.round m e
      if s.maxCode < r.code then (s.signed n (s.maxCode + 1), flOvf)
      else (s.signed n (match u with
        | some u => (s.roundSR u m e).code
        | none => r.code), 0))

/-- Quantise one block of a scaled stream (R174 steps 1 to 5): codes, scale code, flags. The values come with their draws. -/
def uquant (sat : Bool) (f : Fmt) (l : List (FV × Option Nat)) : List Nat × Nat × Nat :=
  let isInf (v : FV) : Bool := match v with
    | .inf _ => true
    | _ => false
  let nan := l.any (fun o => o.1.isNan)
  let inf := l.any (fun o => isInf o.1)
  if nan || inf then (l.map (fun _ => 0), 0xFF, (if nan then flNanIn else 0) ||| (if inf then flOvf else 0))
  else
    let top : Option Int := l.foldl (fun acc o => match o.1 with
      | .fin _ m e => if m = 0 then acc else
          let x := (m.log2 : Int) + e
          (match acc with
          | some y => some (max x y)
          | none => some x)
      | _ => acc) none
    let s : Nat := match top with
      | some t => (max 0 (min 254 (t - emaxOf f + 127))).toNat
      | none => 127
    let (lm, le) := largest f
    let rs := l.map (fun o => match o.1 with
      | .fin n m e =>
        let e' := e - ((s : Int) - 127)
        if decide ((Dy.add ((m : Int), e') (-(lm : Int), le)).1 > 0) then
          (match f.spec with
            | some sp => sp.signed n sp.maxCode
            | none => wrapN f.bits (sgn n lm), 0)
        else convFin false sat o.2 f n m e'
      | _ => (0, 0))
    (rs.map (·.1), s, rs.foldl (fun f r => f ||| r.2) 0)

/-- The byte image of a scaled stream and the flags of its conversion: each block's elements and its scale byte. -/
def uimageScaled (sat : Bool) (f : Fmt) (scl : Nat) (layout : Bool) (l : List (FV × Option Nat)) : List Byte × Nat :=
  let bl := if scl = 1 then 32 else 16
  let qs := (blocksOf (l.length / bl + 1) bl l).map (uquant sat f)
  let codes := qs.flatMap (·.1)
  let scales := qs.map (fun q => BitVec.ofNat 8 q.2.1)
  let k := if layout then 1024 else 32
  let per := k / bl
  let bytes := ((blocksOf (codes.length / k + 1) k codes).zip (blocksOf (scales.length / per + 1) per scales)).flatMap (fun x => packCodes f x.1 ++ x.2)
  (bytes, qs.foldl (fun a q => a ||| q.2.2) 0)

/-- The byte image of a stream and the flags of its conversion. -/
def uimage (sat : Bool) (f : UFmt) (scl : Nat) (layout : Bool) (l : List (FV × Option Nat)) : List Byte × Nat :=
  match f with
  | .std g =>
    if scl = 0 then
      let cs := l.map (fun x => ustore sat x.2 f x.1)
      (packCodes g (cs.map (·.1)), cs.foldl (fun a c => a ||| c.2) 0)
    else uimageScaled sat g scl layout l
  | _ =>
    let cs := l.map (fun x => ustore sat x.2 f x.1)
    (cs.flatMap (fun c => leBytes (f.bits / 8) c.1), cs.foldl (fun a c => a ||| c.2) 0)

end Sys2Proof.Machine
end

