-- ==== Sys2Proof/Machine/Upd.lean ====
section
/-! DEFINITION. The update unit (R400 to R410), its seals (R406) and shard export and import (R412, R413). -/

namespace Sys2Proof.Machine

/-- Does this part have update units (R400)? -/
def State.hasUpd (s : State) : Bool := decide (s.part = .au)

/-- A write of CLU_UPD_SUBMIT (R401). -/
def State.updQueue (s : State) (g : Nat) (v : Word) : State :=
  let c := s.clu g
  if !s.hasUpd then s
  else if c.updQ.length + c.upd.toList.length < 8 then s.setClu g { c with updQ := c.updQ ++ [getF v F.CLU_UPD_SUBMIT_DESC_ADDR * 256] }
  else s.setFld (R.CLU_UPD_STATUS g) F.CLU_UPD_STATUS_DROPPED 1

/-- UPD_SUBMIT (R401). -/
def execUpdSubmit (g : Fin 256) (v : Word) (s : State) : Host.Outcome State Fault Refusal := .next (s.updQueue g.val v)

/-! ### The descriptor (Tables 212 and 213) -/

/-- A stream entry. -/
structure UStream where
  va : Nat
  fmt : UFmt
  scl : Nat
  layout : Bool
  write : Bool
  sr : Bool
  deriving DecidableEq, Repr

/-- Stream s of a descriptor, if it is VALID and its format and scale mode are known. -/
def uStream (b : List Byte) (s : Nat) : Option UStream :=
  let o := 64 + 16 * s
  let m := numAt b (o + 9) 1
  match UFmt.ofCode (numAt b (o + 8) 1) with
  | some f => if m.testBit 5 ∧ m % 4 < 3 then some ⟨numAt b o 8, f, m % 4, m.testBit 2, m.testBit 3, m.testBit 4⟩ else none
  | none => none

/-- The eight streams. -/
def uStreams (b : List Byte) : List (Option UStream) := (List.range 8).map (uStream b)

def uN (b : List Byte) : Nat := numAt b 4 4
def uDigest (b : List Byte) : Bool := (numAt b 2 1).testBit 0
def uDstream (b : List Byte) : Nat := bitsOf (numAt b 2 1) 3 1

/-- Bytes of a stream. -/
def UStream.len (x : UStream) (n : Nat) : Nat := ustreamLen x.fmt x.scl x.layout n

/-- Are the fields marked zero zero, and is every VALID stream's entry well formed? -/
def uFieldsOk (b : List Byte) : Bool :=
  let z (o n : Nat) : Bool := decide (numAt b o n = 0)
  decide (numAt b 1 1 < 8) && decide (numAt b 2 1 < 16) && z 3 1 && z 0x20 32 && (uDigest b || z 0x18 8) &&
  (List.range 8).all (fun s =>
    let m := numAt b (64 + 16 * s + 9) 1
    z (64 + 16 * s + 10) 6 && decide (m < 64) && (!m.testBit 5 || ((uStream b s).isSome && decide (numAt b (64 + 16 * s) 8 % 32 = 0))))

/-- Scale mode and block rule of a stream (R402, R174). -/
def UStream.scaleOk (x : UStream) (n : Nat) : Bool :=
  x.scl = 0 || (match x.fmt with
    | .std f => decide (f.bits ≤ 8) && decide (n % (if x.layout then 1024 else if x.scl = 1 then 32 else 16) = 0)
    | _ => false)

/-- Does a write stream overlap another VALID stream (R402)? -/
def uOverlap (l : List (Option UStream)) (n : Nat) : Bool :=
  (List.range 8).any (fun i => (List.range 8).any (fun j =>
    match nthD l i none, nthD l j none with
    | some x, some y => decide (i ≠ j) && x.write && decide (x.va < y.va + y.len n) && decide (y.va < x.va + x.len n)
    | _, _ => false))

/-! ### The program (R404) -/

/-- A program word's fields. -/
def uOp (w : Nat) : Nat := bitsOf w 31 26
def uD (w : Nat) : Nat := bitsOf w 25 22
def uA (w : Nat) : Nat := bitsOf w 21 17
def uB (w : Nat) : Nat := bitsOf w 16 12
def uC (w : Nat) : Nat := bitsOf w 11 7
def uS (w : Nat) : Nat := bitsOf w 6 4

/-- Source codes that a word reads. -/
def uSources (w : Nat) : List Nat := match updReads (uOp w) with
  | some (a, b, c) => (if a then [uA w] else []) ++ (if b then [uB w] else []) ++ (if c then [uC w] else [])
  | none => []

/-- Is one word good, given the registers written before it (R402)? -/
def uWordOk (l : List (Option UStream)) (written : List Nat) (w : Nat) : Bool :=
  match updReads (uOp w) with
  | none => false
  | some (a, b, c) =>
    decide (w % 16 = 0) && (a || decide (uA w = 0)) && (b || decide (uB w = 0)) && (c || decide (uC w = 0)) &&
    (uSources w).all (fun x => decide (x < 26) && (decide (16 ≤ x) || written.contains x)) &&
    (match nthD l (uS w) none with
      | some x => if uOp w = 0x01 then !x.write else if uOp w = 0x02 then x.write && decide (uD w = 0) else true
      | none => decide (uOp w ≠ 0x01) && decide (uOp w ≠ 0x02))

/-- Are the words good in order? -/
def uProgOk (l : List (Option UStream)) : List Nat → List Nat → Bool
  | [], _ => true
  | w :: ws, written => uWordOk l written w && uProgOk l ws (if uOp w = 0x02 then written else uD w :: written)

/-- The checks of R402 that need no translation, on the descriptor's bytes and the program's words. -/
def uCheck (g : Nat) (b : List Byte) (prog : List Nat) : Bool :=
  let l := uStreams b
  let n := uN b
  uFieldsOk b && decide (1 ≤ n) && decide (n ≤ 65536) &&
  (!uDigest b || (inOwnTiles g (numAt b 24 8) 16 && !inStaging g (numAt b 24 8) 16 && decide (numAt b 24 8 % 16 = 0) &&
    (match nthD l (uDstream b) none with
      | some x => x.write
      | none => false))) &&
  l.all (fun x => match x with
    | some x => x.scaleOk n
    | none => true) &&
  uProgOk l prog [] &&
  (List.range 8).all (fun s => match nthD l s none with
    | some x => !x.write || decide ((prog.filter (fun w => decide (uOp w = 0x02) && decide (uS w = s))).length = 1)
    | none => true) &&
  !uOverlap l n

/-! ### Running the program (R405, R407) -/

/-- A value of the program and whether poison reached it. -/
structure UVal where
  v : FV := fvZero false
  p : Bool := false
  deriving DecidableEq, Repr

/-- One element's registers, its stores and its flags so far. -/
structure UElem where
  regs : List UVal := List.replicate 16 {}
  stores : List (Nat × UVal) := []
  flags : Nat := 0
  deriving DecidableEq, Repr

/-- Value of a source code. -/
def UElem.src (e : UElem) (ks : List FV) (c : Nat) : UVal :=
  if c < 16 then nthD e.regs c {}
  else if c < 24 then ⟨nthD ks (c - 16) (fvZero false), false⟩
  else if c = 25 then ⟨fvOne, false⟩
  else {}

/-- One word on an element. -/
def UElem.step (ld : Nat → UVal) (ks : List FV) (e : UElem) (w : Nat) : UElem :=
  let a := e.src ks (uA w)
  if uOp w = 0x01 then { e with regs := e.regs.set (uD w) (ld (uS w)) }
  else if uOp w = 0x02 then { e with stores := e.stores ++ [(uS w, a)] }
  else
    let (v, f) := updOp (uOp w) a.v (e.src ks (uB w)).v (e.src ks (uC w)).v
    { e with regs := e.regs.set (uD w) ⟨v, (uSources w).any (fun c => (e.src ks c).p)⟩, flags := e.flags ||| f }

/-- Do bytes of a stream lie in one of its poisoned sectors? -/
def uTouches (va : Nat) (bad : List Nat) (spans : List (Nat × Nat)) : Bool :=
  spans.any (fun x => (sectorsOf (va + x.1) x.2).any (fun k => bad.contains k))

/-- What the program gives for every element. -/
def UpdRun.elems (u : UpdRun) : List UElem :=
  let l := uStreams u.desc
  let ks := (List.range 8).map (fun k => spec64.read (numAt u.desc (192 + 8 * k) 8))
  (List.range (uN u.desc)).map (fun i =>
    let ld (s : Nat) : UVal := match nthD l s none with
      | some x => ⟨uload x.fmt x.scl x.layout (nthD u.bufs s []) i, uTouches x.va (nthD u.bad s []) (uelemSpan x.fmt x.scl x.layout i)⟩
      | none => {}
    u.prog.foldl (fun (e : UElem) w => e.step ld ks w) {})

/-- Image of a write stream, its poisoned sectors and flags. -/
def UpdRun.image (u : UpdRun) (sat : Bool) (sect : Nat) (s : Nat) (x : UStream) (es : List UElem) : List Byte × List Nat × Nat :=
  let key := numAt u.desc 16 4
  let vals := es.map (fun e => match e.stores.find? (fun y => decide (y.1 = s)) with
    | some y => y.2
    | none => ({} : UVal))
  let (b, f) := uimage sat x.fmt x.scl x.layout
    (vals.zipIdx.map (fun (y : UVal × Nat) => (y.1.v, if x.sr then some (draw sect ((key + y.2 / 1024) % 2 ^ 32) (y.2 % 1024)) else none)))
  let bad := (vals.zipIdx.filter (fun (y : UVal × Nat) => y.1.p)).foldl (fun (l : List Nat) (y : UVal × Nat) =>
    (uelemSpan x.fmt x.scl x.layout y.2).foldl (fun l p => (sectorsOf (x.va + p.1) p.2).foldl (fun l k => insNat k l) l) l) []
  (b, bad, f)

/-! ### Issue -/

/-- Pieces of a stream, cut at 4 KiB. -/
def uPieces (s va n : Nat) : List UPiece :=
  (List.range (pieceCount 4096 va n)).map (fun k =>
    let p := pieceAt 4096 va 0 n k
    ⟨s, p.va, p.off, p.len⟩)

/-- Pieces of every stream of one direction. -/
def uAllPieces (b : List Byte) (write : Bool) : List UPiece :=
  (List.range 8).flatMap (fun s => match nthD (uStreams b) s none with
    | some x => if x.write = write then uPieces s x.va (x.len (uN b)) else []
    | none => [])

/-- Put bytes into a list at an offset. -/
def putB (l : List Byte) (o : Nat) (b : List Byte) : List Byte := l.take o ++ b ++ l.drop (o + b.length)

/-- Change the running descriptor. -/
def State.updUpd (s : State) (g : Nat) (f : UpdRun → UpdRun) : State := s.updClu g (fun c => { c with upd := c.upd.map f })

/-- A read piece arrives with the sectors of its virtual address that are poisoned. -/
def UpdRun.land (u : UpdRun) (st off : Nat) (b : List Byte) (bad : List Nat) : UpdRun :=
  { u with bufs := u.bufs.set st (putB (nthD u.bufs st []) off b),
           bad := u.bad.set st (bad.foldl (fun l k => insNat k l) (nthD u.bad st [])) }

/-- When every read has landed, the program runs on every element and its writes become due. -/
def State.updCompute (s : State) (g : Nat) : State :=
  let c := s.clu g
  match c.upd with
  | none => s
  | some u =>
    if u.writing || !u.todo.isEmpty || !c.updTags.all (fun t => t.void || decide (t.job ≠ u.job)) then s else
    let (id, sat) := match s.sectClu g with
      | some x => (x.id, x.sat)
      | none => (0, false)
    let es := u.elems
    let fl := es.foldl (fun f e => f ||| e.flags) 0
    let outs := (List.range 8).map (fun k => match nthD (uStreams u.desc) k none with
      | some x => if x.write then u.image sat id k x es else ([], [], 0)
      | none => ([], [], 0))
    let fl := outs.foldl (fun f o => f ||| o.2.2) fl
    let a := R.CLU_UPD_STATUS g
    let s := s.setFld a F.CLU_UPD_STATUS_FLAGS (s.fld a F.CLU_UPD_STATUS_FLAGS ||| fl)
    s.setClu g { c with upd := some { u with writing := true, todo := uAllPieces u.desc true, bufs := outs.map (·.1), bad := outs.map (·.2.1) } }

/-- Issue one piece at its physical address. -/
def State.updPiece (s : State) (g num : Nat) (u : UpdRun) (p : UPiece) (pa : Nat) : State :=
  let ep := (SMap.get 0 (s.clu g).updEp num + 1) % 4
  let s := (s.updClu g (fun c => { c with updEp := SMap.ins num ep c.updEp })).updUpd g (fun u => { u with todo := u.todo.drop 1 })
  let bad := (sectorsOf pa p.len).filter (fun k => (nthD u.bad p.stream []).contains (k - pa / 64 + p.va / 64))
  let s := s.suspect g u.job F.CLU_JOB_SUSPECT_POISON (u.writing && !bad.isEmpty)
  if s.farFailed pa then
    let secs := sectorsOf pa p.len
    let s := s.countPoison pa secs.length
    if u.writing then s
    else { s with draws := s.draws + 1 }.updUpd g (fun u =>
      u.land p.stream p.off ((List.range p.len).map (Config.freeByte s.draws)) (sectorsOf p.va p.len))
  else
    let (s, gs) := s.takeBudget g u.job pa p.len u.writing
    let t : UTag := { num := num, ep := ep, job := u.job, put := u.writing, va := p.va, addr := pa, loc := p.off, len := p.len,
                      tenant := s.jobTenant g u.job, run := p.stream }
    (s.updClu g (fun c => { c with updTags := c.updTags ++ [t] })).unitSend g 20 u.job gs ⟨pa, p.len, num, ep⟩
      (if u.writing then some (sliceB (nthD u.bufs p.stream []) p.off p.len, bad) else none)

/-- Issue the next piece of the unit; none when it issues nothing now. -/
def State.updIssue (s : State) (g : Nat) : Option State :=
  let c := s.clu g
  match c.upd with
  | none => none
  | some u =>
    match u.todo with
    | [] => none
    | p :: _ =>
      if u.walk then none else
      match freeUTag 64 c.updTags with
      | none => none
      | some num =>
        match s.access g u.job (fun tn => u.page.filter (fun x => x.holds tn p.va)) p.va p.len u.writing true with
        | .walk => some (s.updUpd g (fun u => { u with walk := true }))
        | .fault code => some (s.accessFault 2 g g u.job code p.va)
        | .ok pa => some (s.updPiece g num u p pa)

/-- Issue pieces while a tag is free, and run the program between the reads and the writes. -/
def State.updPump : Nat → Nat → State → State
  | 0, _, s => s
  | f + 1, g, s => match s.updIssue g with
    | some s => updPump f g s
    | none => s

/-- Most pieces of a descriptor's streams. -/
def updFuel : Nat := 2048

/-- Keep going after a tag was freed or a walk ended. -/
def State.updGo (s : State) (g : Nat) : State := ((s.updPump updFuel g).updCompute g).updPump updFuel g

/-- Physical addresses of the pages that a byte range translates to, those that a walk finds (R406). -/
def State.uPages (s : State) (g tenant va n : Nat) : State × List (Nat × Nat) :=
  (List.range ((va % 65536 + n + 65535) / 65536)).foldl (fun (acc : State × List (Nat × Nat)) k =>
    let a := max va ((va / 65536 + k) * 65536)
    let e := min (va + n) ((va / 65536 + k + 1) * 65536)
    match acc.1.walk g tenant a with
    | (s, some x) => (s, acc.2 ++ [(x.pa + (a - x.va), e - a)])
    | (s, none) => (s, acc.2)) (s, [])

/-- Does one sealed range hold every one of a list of ranges? -/
def State.oneSeal (s : State) (l : List (Nat × Nat)) : Bool :=
  l.isEmpty || (List.range 8).any (fun i =>
    let r := R.UPD_SEAL i
    let b := s.fld r F.UPD_SEAL_BASE_2M * 0x200000
    decide (s.fld r F.UPD_SEAL_VALID = 1) &&
      l.all (fun x => decide (b ≤ x.1) && decide (x.1 + x.2 ≤ b + s.fld r F.UPD_SEAL_LEN_2M * 0x200000)))

/-- Do the internal-format streams of a descriptor lie in seals (R406)? -/
def State.uSealed (s : State) (g job : Nat) (b : List Byte) : State × Bool :=
  (uStreams b).foldl (fun (acc : State × Bool) x => match x with
    | some x =>
      if x.fmt.internal && decide (s.fld R.NT_PT_BASE F.NT_PT_BASE_VALID = 1) && decide (s.fld (R.CLU_JOB_TENANT g job) F.CLU_JOB_TENANT_VALID = 1) then
        let (s, l) := acc.1.uPages g (s.jobTenant g job) x.va (x.len (uN b))
        (s, acc.2 && s.oneSeal l)
      else acc
    | none => acc) (s, true)

/-- Physical ranges of a descriptor's write streams that a grant lets the unit write. -/
def State.uOuts (s : State) (g job : Nat) (b : List Byte) : List (Nat × Nat) :=
  ((uStreams b).flatMap (fun x => match x with
    | some x => if x.write then (s.uPages g (s.jobTenant g job) x.va (x.len (uN b))).2 else []
    | none => [])).filter (fun r => s.backedRaw r.1 && s.granted (s.teamOfClu g) r.1 r.2 true)

/-- The next descriptor of the unit starts (R402, R403). -/
def State.updStart (s : State) (g : Nat) : State :=
  let c := s.clu g
  match c.updQ, c.upd with
  | a :: q, none =>
    let s := s.setClu g { c with updQ := q }
    let bad (s : State) : State := s.faultAgent (s.teamOfClu g) (s.partOf g).1 2 g 0x3210 0 (some a)
    if !inOwnTiles g a 256 then bad s
    else
      let (s, b, _) := s.deliver 2 g 1 20 a 256
      let len := numAt b 0 1
      let pa := numAt b 8 8
      if len < 1 ∨ 32 < len ∨ pa % 128 ≠ 0 ∨ !inOwnTiles g pa (4 * len) then bad s
      else
        let (s, pb, _) := s.deliver 2 g 1 20 pa (4 * len)
        let prog := chunkWords len 4 pb
        let job := numAt b 1 1
        if !uCheck g b prog then bad s
        else
          let (s, ok) := s.uSealed g job b
          if !ok then bad s
          else
            let bufs := (uStreams b).map (fun x => match x with
              | some x => List.replicate (x.len (uN b)) (0 : Byte)
              | none => [])
            (s.updClu g (fun c => { c with upd := some { addr := a, desc := b, prog := prog, job := job, todo := uAllPieces b false, bufs := bufs,
                                                           bad := List.replicate 8 [], outs := s.uOuts g job b } })).updGo g
  | _, _ => s

/-- UPD_DESCRIPTOR_START (R402 to R407). -/
def execUpdDescriptorStart (g : Fin 256) (s : State) : Host.Outcome State Fault Refusal := .next (if s.hasUpd then s.updStart g.val else s)

/-- The running descriptor completes when its last write has been acknowledged (R409): the digest, then the anchor. -/
def State.updDone (s : State) (g : Nat) : State :=
  let c := s.clu g
  match c.upd with
  | none => s
  | some u =>
    if !u.writing || !u.todo.isEmpty || c.updTags.any (fun t => t.put && decide (t.job = u.job)) then s else
    let s := s.setClu g { c with upd := none }
    let s := if uDigest u.desc then
        let (lo, hi) := cairnRoot (nthD u.bufs (uDstream u.desc) [])
        s.tileWr (numAt u.desc 24 8) (leBytes 8 lo.toNat ++ leBytes 8 hi.toNat) []
      else s
    s.ancDone g (numAt u.desc 20 4)

/-- UPD_DESCRIPTOR_DONE (R409). -/
def execUpdDescriptorDone (g : Fin 256) (s : State) : Host.Outcome State Fault Refusal := .next (s.updDone g.val)

/-! ### Answers, timeouts, walks and cancellations -/

/-- TIER_DATA at the update unit. -/
def State.updData (s : State) (g : Nat) (r : MemReq) (bs : List Byte) (bad : List Nat) : State :=
  match utagOf (s.clu g).updTags r with
  | none => s
  | some t =>
    if t.put then s else
    let s := s.updClu g (fun c => { c with updTags := utagFree c.updTags t.num })
    let s := if t.void then s
      else s.updUpd g (fun u => u.land t.run t.loc (sliceB bs 0 t.len) (bad.map (fun k => k - t.addr / 64 + t.va / 64)))
    s.updGo g

/-- TIER_ACK at the update unit. -/
def State.updAck (s : State) (g : Nat) (r : MemReq) : State :=
  match utagOf (s.clu g).updTags r with
  | none => s
  | some t => if t.put then (s.updClu g (fun c => { c with updTags := utagFree c.updTags t.num })).updGo g else s

/-- LEAD_TIMEOUT of a tag of the update unit (R242, R403). -/
def State.updTimeout (s : State) (g num : Nat) : State :=
  match (s.clu g).updTags.find? (fun t => decide (t.num = num)) with
  | none => s
  | some t =>
    let s := s.updClu g (fun c => { c with updTags := utagFree c.updTags num })
    if t.void then s.updGo g
    else
      let s := s.timeoutRec 2 g g t.job t.tenant t.va
      let s := if t.put then { s with draws := s.draws + 1 }.wr t.addr ((List.range t.len).map (Config.freeByte s.draws)) []
        else s.updUpd g (fun u => u.land t.run t.loc (List.replicate t.len 0) (sectorsOf t.va t.len))
      s.updGo g

/-- PAGE_WALK_DONE at the update unit (R230). -/
def State.updWalk (s : State) (g : Nat) : State :=
  match (s.clu g).upd with
  | none => s
  | some u =>
    match u.todo with
    | [] => s
    | p :: _ =>
      if !u.walk then s else
      let s := s.updUpd g (fun u => { u with walk := false })
      match s.walk g (s.jobTenant g u.job) p.va with
      | (s, some x) => (s.updUpd g (fun u => { u with page := some x })).updGo g
      | (s, none) => s.accessFault 2 g g u.job 0x3160 p.va

/-- CANCEL_COMPLETE at the update unit (R410). -/
def State.updCancel (s : State) (g : Nat) : State :=
  let c := s.clu g
  match c.updCancels.find? (fun x => !c.updTags.any (fun t => jobHit x t.job && (t.void || t.put))) with
  | none => s
  | some x => (s.setClu g { c with updCancels := c.updCancels.erase x }).settleTeam (s.teamOfClu g)

/-! ### Seals (R406) -/

/-- A write of UPD_SEAL[i] (R406, Table 216): REJECTED is W1C; a change is ignored while any unit has work. -/
def State.writeSeal (s : State) (i : Nat) (v : Word) : State :=
  let a := R.UPD_SEAL i
  let old := s.reg a
  let w := setF (setF (setF 0 F.UPD_SEAL_VALID (getF v F.UPD_SEAL_VALID)) F.UPD_SEAL_BASE_2M (getF v F.UPD_SEAL_BASE_2M)) F.UPD_SEAL_LEN_2M
    (getF v F.UPD_SEAL_LEN_2M)
  let rej := if getF v F.UPD_SEAL_REJECTED = 1 then 0 else getF old F.UPD_SEAL_REJECTED
  if setF old F.UPD_SEAL_REJECTED 0 ≠ w && s.clus.any (fun x => !x.2.updQ.isEmpty || x.2.upd.isSome) then s.setFld a F.UPD_SEAL_REJECTED 1
  else s.setReg a (setF w F.UPD_SEAL_REJECTED rej)

/-- UPD_SEAL_WRITE (R406). -/
def execUpdSealWrite (i : Fin 8) (v : Word) (s : State) : Host.Outcome State Fault Refusal := .next (s.writeSeal i.val v)

/-! ### Shard export (R412, R413) -/

/-- Product of the shard's extents (Table 217). -/
def shardElems (h : List Byte) : Nat := (List.range 4).foldl (fun p d => p * numAt h (0x38 + 4 * d) 4) 1

/-- A byte list zero-padded to a multiple of 32 bytes. -/
def pad32 (l : List Byte) : List Byte := l ++ List.replicate ((32 - l.length % 32) % 32) 0

/-- Bytes of n elements of a format, packed. -/
def packedLen (f : UFmt) (n : Nat) : Nat := match f with
  | .std f => (n * f.bits + 7) / 8
  | f => n * f.bits / 8

/-- Internal elements as FP32, nearest even. -/
def shardOut (f : UFmt) (n : Nat) (l : List Byte) : List Byte :=
  if f.internal then
    (List.range n).flatMap (fun e => leBytes 4 (ustore false none (.std .fp32) (uload f 0 false l e)).1)
  else l

/-- FP32 elements as an internal format under R407 without SR. -/
def shardIn (f : UFmt) (n : Nat) (l : List Byte) : List Byte :=
  if f.internal then (List.range n).flatMap (fun e => leBytes (f.bits / 8) (ustore false none f (uload (.std .fp32) 0 false l e)).1) else l

/-- Are all bytes of a range backed? -/
def State.rangeBacked (s : State) (a n : Nat) : Bool := (granules a n).all (fun r => s.backedRaw r.1 && s.backedRaw (r.1 + r.2 - 1))

/-- The export engine reads a range: none where it is unbacked or returns a poisoned sector, as a FAILED port does (R221, R225, R413). -/
def State.engineRead (s : State) (a n : Nat) : State × Option (List Byte) :=
  if !s.rangeBacked a n then (s, none)
  else
    let dead := (granules a n).filter (fun r => s.farFailed r.1)
    if !dead.isEmpty then (dead.foldl (fun s r => s.countPoison r.1 (sectorsOf r.1 r.2).length) s, none)
    else
      let (s, b, bad) := s.tierRead a n
      (s, if bad.isEmpty then some b else none)

/-- An export (OP 0): the record's bytes, or a STATUS. The 128-byte header stands at the destination, as firmware wrote it. -/
def State.shardExport (s : State) (src dst : Nat) (perm : Bool) : State × Nat :=
  match s.engineRead dst 128 with
  | (s, none) => (s, 5)
  | (s, some h) =>
  match UFmt.ofCode (numAt h 0x60 1) with
  | none => (s, 1)
  | some f =>
    let n := shardElems h
    let len := packedLen f n
    let bytes := if f.internal then 4 * n else len
    let total := 128 + (bytes + 31) / 32 * 32
    if f.internal && !perm then (s, 3)
    else if (f.internal && !s.inSeal src len) || (!f.internal && s.isSealed src len) || s.isSealed dst total then (s, 4)
    else
      if !s.rangeBacked dst total then (s, 5)
      else match s.engineRead src len with
      | (s, none) => (s, 5)
      | (s, some b) =>
        let data := pad32 (shardOut f n b)
        let (lo, hi) := cairnRoot data
        let h := putB (putB (putB h 6 (leBytes 1 (if f.internal then 0x18 else numAt h 0x60 1))) 0x48 (leBytes 8 bytes)) 0x50
          (leBytes 8 lo.toNat ++ leBytes 8 hi.toNat)
        (s.tierPut dst (h ++ data), 0)

/-- Are the fields of a shard header that import checks good (R413): MAGIC, VERSION and the zero fields? -/
def shardHeadOk (h : List Byte) : Bool :=
  decide (numAt h 0 4 = 0x44524853) && decide (numAt h 4 2 = 1) && decide (numAt h 0x14 4 = 0) && (h.drop 0x61).all (fun b => b = 0)

/-- An import (OP 1): a STATUS. -/
def State.shardImport (s : State) (src dst : Nat) (perm : Bool) : State × Nat :=
  if s.isSealed src 128 then (s, 4)
  else
    match s.engineRead src 128 with
    | (s, none) => (s, 5)
    | (s, some h) =>
    match shardHeadOk h, UFmt.ofCode (numAt h 0x60 1) with
    | true, some f =>
      let n := shardElems h
      let bytes := if f.internal then 4 * n else packedLen f n
      let total := (bytes + 31) / 32 * 32
      let out := packedLen f n
      if f.internal && !perm then (s, 3)
      else if s.isSealed src (128 + total) || (f.internal && !s.inSeal dst out) || (!f.internal && s.isSealed dst out) then (s, 4)
      else
        if !s.rangeBacked dst out then (s, 5)
        else match s.engineRead (src + 128) total with
        | (s, none) => (s, 5)
        | (s, some data) =>
          let (lo, hi) := cairnRoot data
          if leBytes 8 lo.toNat ++ leBytes 8 hi.toNat ≠ sliceB h 0x50 16 then (s, 2)
          else (s.tierPut dst (shardIn f n (data.take bytes)), 0)
    | _, _ => (s, 1)

/-- Is the export permission in force (R466, R468)? -/
def State.mayExport (s : State) : Bool :=
  let p := SMap.get 0 s.sec.voted 0x29 / 4 % 4
  p = 0 || (p = 1 && s.sec.grants.testBit 3)

/-- A write of UPD_EXPORT_CTRL (Table 220): OP is kept, GO starts the engine unless it is busy. -/
def State.writeExport (s : State) (v : Word) : State :=
  let op := getF v F.UPD_EXPORT_CTRL_OP
  let s := s.setFld R.UPD_EXPORT_CTRL F.UPD_EXPORT_CTRL_OP op
  if getF v F.UPD_EXPORT_CTRL_GO = 0 ∨ s.exporting.isSome then s
  else { s with exporting := some (decide (op = 1), s.fld R.UPD_EXPORT_SRC F.UPD_EXPORT_SRC_ADDR * 32, s.fld R.UPD_EXPORT_DST F.UPD_EXPORT_DST_ADDR * 32) }

/-- SHARD_EXPORT (R413): GO with OP 0. -/
def execShardExport (v : Word) (s : State) : Host.Outcome State Fault Refusal :=
  .next (if getF v F.UPD_EXPORT_CTRL_GO = 1 ∧ getF v F.UPD_EXPORT_CTRL_OP = 0 then s.writeExport v else s)

/-- SHARD_IMPORT (R413): GO with OP 1. -/
def execShardImport (v : Word) (s : State) : Host.Outcome State Fault Refusal :=
  .next (if getF v F.UPD_EXPORT_CTRL_GO = 1 ∧ getF v F.UPD_EXPORT_CTRL_OP = 1 then s.writeExport v else s)

/-- EXPORT_ENGINE_DONE (R413): the operation takes place and ends with its STATUS. -/
def execExportEngineDone (s : State) : Host.Outcome State Fault Refusal :=
  .next (match s.exporting with
    | none => s
    | some (imp, src, dst) =>
      let (s, st) := if imp then s.shardImport src dst s.mayExport else s.shardExport src dst s.mayExport
      { s with exporting := none }.setFld R.UPD_EXPORT_CTRL F.UPD_EXPORT_CTRL_STATUS st)

end Sys2Proof.Machine
end

