-- ==== Sys2Proof/Machine/Tier.lean ====
section
/-! DEFINITION. The packets of the tiers and what follows them at cells, DMAs and update units (R220, R221, R225, R231, R234, R235, R242 to R244). -/

namespace Sys2Proof.Machine

/-- Answer a packet to where it came from (R251, R257). -/
def State.replyTo (s : State) (p : Packet) (x : Sender) (k : Pkt) : State :=
  s.send { p with pkt := k, dest := p.src, src := p.dest, sender := x }

/-- TIER_READ at the memory side (R220, R221): a request that a FAILED port holds is never answered (R225). -/
def execTierRead (n : Nat) (s : State) : Host.Outcome State Fault Refusal :=
  .next (s.onPkt (fun p => decide (p.pkt.type = 0x30)) n (fun s p => match p.pkt with
    | .memRead _ r =>
      if s.farFailed r.addr then s
      else
        let (s, b, bad) := s.tierRead r.addr r.len
        s.replyTo p (tierSender r.addr) (.memData true r b bad)
    | _ => s))

/-- TIER_WRITE at the memory side (R221). -/
def execTierWrite (n : Nat) (s : State) : Host.Outcome State Fault Refusal :=
  .next (s.onPkt (fun p => decide (p.pkt.type = 0x31)) n (fun s p => match p.pkt with
    | .memWrite _ r b bad =>
      if s.farFailed r.addr then s
      else (s.tierWrite r.addr b bad).replyTo p (tierSender r.addr) (.memAck true r)
    | _ => s))

/-- TIER_DATA at its requester (R235, R237, R403); then the haul ring of a cell presents a number of beats (assumption 119). -/
def execTierData (q : TierPkt) (s : State) : Host.Outcome State Fault Refusal :=
  .next ((s.onPkt (fun p => decide (p.pkt.type = 0x32)) q.n (fun s p => match p.pkt with
    | .memData _ r b bad =>
      let g := p.dest.cluster
      if p.dest.code < 16 then s.leadData (s.cellAt g p.dest.code) r b bad
      else if p.dest.code = 19 then s.dmaData g r b bad
      else if p.dest.code = 20 then s.updData g r b bad
      else s
    | _ => s)).leadDrain q.cell.val q.beats)

/-- TIER_ACK at its requester (R234). -/
def execTierAck (n : Nat) (s : State) : Host.Outcome State Fault Refusal :=
  .next (s.onPkt (fun p => decide (p.pkt.type = 0x33)) n (fun s p => match p.pkt with
    | .memAck _ r =>
      let g := p.dest.cluster
      if p.dest.code < 16 then s.leadAck (s.cellAt g p.dest.code) r
      else if p.dest.code = 19 then s.dmaAck g r
      else if p.dest.code = 20 then s.updAck g r
      else s
    | _ => s))

/-- PAGE_WALK_DONE (R230): the walk of the engine at endpoint e of cluster g ends. -/
def execPageWalkDone (g : Fin 256) (e : Fin 24) (s : State) : Host.Outcome State Fault Refusal :=
  .next (if e.val < 16 then s.leadWalk (s.cellAt g.val e.val)
    else if e.val = 19 then s.dmaWalk g.val
    else if e.val = 20 then s.updWalk g.val
    else s)

/-- LEAD_TIMEOUT (R242): tag k of the engine at endpoint e. -/
def execLeadTimeout (g : Fin 256) (e : Fin 24) (k : Nat) (s : State) : Host.Outcome State Fault Refusal :=
  .next (if e.val < 16 then s.leadTimeout (s.cellAt g.val e.val) k
    else if e.val = 19 then s.dmaTimeout g.val k
    else if e.val = 20 then s.updTimeout g.val k
    else s)

/-- CANCEL_COMPLETE (R244): at a cell, at a DMA or update unit, or (endpoint 23) at the hub, for the team of the cluster. -/
def execCancelComplete (g : Fin 256) (e : Fin 24) (s : State) : Host.Outcome State Fault Refusal :=
  .next (if e.val < 16 then s.cancelCell (s.cellAt g.val e.val)
    else if e.val = 19 then s.dmaCancel g.val
    else if e.val = 20 then s.updCancel g.val
    else if e.val = 23 then s.settleTeam (s.teamOfClu g.val)
    else s)

/-- FAR_PORT_DOWN (R225): a port with a link fails; logged once. -/
def execFarPortDown (p : Fin 8) (s : State) : Host.Outcome State Fault Refusal :=
  let a := R.CXL_PORT_STATUS p.val
  let st := s.fld a F.CXL_PORT_STATUS_STATE
  .next (if st = 2 ∨ st = 3 then (s.setFld a F.CXL_PORT_STATUS_STATE 4).raise { code := 0x2161, kind := 5, src := p.val } else s)

/-- Drop a tenant's cached translations, or all, and mark the tags issued through them (R231). -/
def State.tlbDrop (s : State) (hit : Nat → Bool) : State :=
  { s with
    cells := s.cells.map (fun x => (x.1, { x.2 with lead := { x.2.lead with
      cache := x.2.lead.cache.filter (fun y => !hit y.tenant),
      tags := x.2.lead.tags.map (fun t => if decide (t.space = 0) && hit t.tenant then { t with inv := true } else t) } })),
    clus := s.clus.map (fun x => (x.1, { x.2 with
      walks := x.2.walks.filter (fun y => !hit y.tenant),
      dma := x.2.dma.map (fun d => { d with page := d.page.filter (fun y => !hit y.tenant) }),
      upd := x.2.upd.map (fun d => { d with page := d.page.filter (fun y => !hit y.tenant) }),
      dmaTags := x.2.dmaTags.map (fun t => if hit t.tenant then { t with inv := true } else t),
      updTags := x.2.updTags.map (fun t => if hit t.tenant then { t with inv := true } else t) })) }

/-- A write of NT_TLB_INV (R231, Table 123). -/
def State.writeTlbInv (s : State) (v : Word) : State :=
  let s := (s.setFld R.NT_TLB_INV F.NT_TLB_INV_TENANT (getF v F.NT_TLB_INV_TENANT)).setFld R.NT_TLB_INV F.NT_TLB_INV_ALL (getF v F.NT_TLB_INV_ALL)
  if getF v F.NT_TLB_INV_GO = 1 ∧ !s.tlbBusy then
    { s with tlbBusy := true }.tlbDrop (fun t => decide (getF v F.NT_TLB_INV_ALL = 1) || decide (t = getF v F.NT_TLB_INV_TENANT))
  else s

/-- NT_TLB_INV (R231). -/
def execNtTlbInv (v : Word) (s : State) : Host.Outcome State Fault Refusal := .next (s.writeTlbInv v)

/-- Has every tag issued through a dropped entry landed, been voided or timed out? -/
def State.tlbSettled (s : State) : Bool :=
  s.cells.all (fun x => x.2.lead.tags.all (fun t => t.void || !t.inv)) &&
    s.clus.all (fun x => x.2.dmaTags.all (fun t => t.void || !t.inv) && x.2.updTags.all (fun t => t.void || !t.inv))

/-- TLB_INV_COMPLETE (R231). -/
def execTlbInvComplete (s : State) : Host.Outcome State Fault Refusal := .next (if s.tlbBusy && s.tlbSettled then { s with tlbBusy := false } else s)

end Sys2Proof.Machine
end

