-- ==== Sys2Proof/Machine/Bivouac.lean ====
section
/-! DEFINITION. Bivouac records (R97, R98, R128, R182, R204, R245, R270, R350, R351): writing a request out and restoring it. -/

namespace Sys2Proof.Machine

/-- Zeros up to a multiple of 64 bytes. -/
def pad64 (b : List Byte) : List Byte := b ++ List.replicate ((64 - b.length % 64) % 64) 0

/-! ### The items of a cell entry -/

/-- CELL_ACC_STATE of an accumulator (Table 66). -/
def Acc.stateWord (a : Acc) : Nat := a.base + 2 ^ 20 * b2n a.closed + 2 ^ 21 * a.cls + 2 ^ 32 * a.maxLeaves

/-- The sequencer state image (Table 70). -/
def Cell.seqImage (c : Cell) (merge : Bool) : List Byte :=
  let m := if merge then c.mergeStop else none
  let (fa, fd) := c.fp.getD (0, 1)
  leBytes 4 c.pc ++ leBytes 1 (b2n c.gen + 2 * c.job + 16 * b2n c.fp.isSome) ++ leBytes 1 c.loops.length ++ leBytes 1 c.mbox.length ++ [0] ++
  (List.range 4).flatMap (fun i => match c.mbox[i]? with
    | some e => leBytes 2 (e.word + 8192 * e.job)
    | none => [0, 0]) ++
  (List.range 16).flatMap (fun i => leBytes 4 (nthD c.x i 0)) ++
  (List.range 4).flatMap (fun i => match c.loops.reverse[i]? with
    | some l => leBytes 4 l.first ++ leBytes 4 l.last ++ leBytes 4 l.left
    | none => List.replicate 12 0) ++
  (List.range 4).flatMap (fun i => leBytes 8 (nthD c.accs i {}).stateWord) ++
  leBytes 2 (if c.fp.isSome then fa + 4 * (fd - 1) else 0) ++ List.replicate 14 0 ++
  (List.range 32).flatMap (fun i => leBytes 2 (wrapN 16 (nthD c.rowMax i 0))) ++
  (List.range 32).flatMap (fun i => leBytes 4 (nthD c.rowSum i 0).toNat) ++
  (List.range 4).flatMap (fun i => leBytes 8 (nthD c.accs i {}).flags) ++
  (match m with
    | some m => leBytes 2 m.iaddr ++ [1] ++ leBytes 1 m.job ++ leBytes 1 m.frame ++ leBytes 1 m.slot ++ [0, 0] ++ leBytes 4 m.xstart
    | none => List.replicate 12 0) ++
  List.replicate 100 0

/-- The vector-engine resume cursor (Table 91). -/
def veImage : Option VeCursor → List Byte
  | none => List.replicate 64 0
  | some v => leBytes 2 v.iaddr ++ [1] ++ leBytes 1 v.job ++ leBytes 4 v.done ++ (List.range 4).flatMap (fun i => leBytes 4 (nthD v.xstart i 0)) ++
      leBytes 2 v.run.flags ++ List.replicate 38 0

/-- Buffers B0 to B3 (R182): the partials stand in B3; the count of elements so far goes with them (R184, assumption 73); what else they hold no rule states. -/
def veBuffers (draw : Nat) (v : Option VeCursor) : List Byte :=
  let free (a n : Nat) : List Byte := (List.range n).map (fun i => Config.freeByte draw (a + i))
  match v with
  | none => free 0 16384
  | some v => free 0 12288 ++ (List.range 4).flatMap (fun j => (List.range 64).flatMap (fun k => leBytes 4 (nthD (nthD v.run.parts j []) k 0).toNat)) ++
      leBytes 4 v.run.elems ++ free 13316 3068

/-- The fetch cursor (Table 128) with the LEAD_BASE registers. -/
def fetchImage (f : Option FetchCursor) (bases : List Nat) : List Byte :=
  let f' := f.getD { iaddr := 0, job := 0, next := 0, xstart := [], bases := bases }
  leBytes 2 f'.iaddr ++ leBytes 1 (b2n f.isSome) ++ leBytes 1 f'.job ++ leBytes 4 f'.next ++ (List.range 3).flatMap (fun i => leBytes 4 (nthD f'.xstart i 0)) ++
    [0, 0, 0, 0] ++ (List.range 4).flatMap (fun i => leBytes 8 (nthD f'.bases i 0)) ++ List.replicate 8 0

/-- The tile that a channel header and its payload describe. -/
def tileOf (h body : List Byte) : ChTile :=
  { src := numAt h 0 2, srcChan := numAt h 2 1, nfl := numAt h 3 1, tag := numAt h 4 2, job := numAt h 6 1, gen := (numAt h 7 1).testBit 0,
    gs := (numAt h 7 1).testBit 1, poison := numAt h 8 8, bytes := body }

/-- An accumulator that holds anything. -/
def Acc.held (a : Acc) : Bool := decide (a.cls ≠ 0) || decide (a.flags ≠ 0)

/-- Bytes of an item and the poisoned 64-byte blocks in it. -/
abbrev Item := List Byte × List Nat

/-- Join items into bytes, with the poisoned blocks counted from the start. -/
def joinItems (l : List Item) : Item :=
  l.foldl (fun (x : Item) y => (x.1 ++ y.1, x.2 ++ y.2.map (· + x.1.length / 64))) ([], [])

/-- Does job j occupy a cell, so that a whole record saves its units? -/
def Cell.runs (c : Cell) (j : Nat) : Bool :=
  (decide (c.job = j) && decide (c.st = .running)) || c.mbox.any (fun e => decide (e.job = j)) || (match c.veStop with
    | some v => decide (v.job = j)
    | none => false) || (match c.lead.cursor with
    | some f => decide (f.job = j)
    | none => false) || (match c.mergeStop with
    | some m => decide (m.job = j)
    | none => false)

/-- Private regions of a job (R204): number and region, ascending. -/
def Cell.privOf (c : Cell) (j : Nat) : List (Nat × Region) :=
  ((List.range 16).zip c.store.bounds).filterMap (fun x => match x.2 with
    | some r => if r.priv && !r.tile && decide (r.job = j) then some (x.1, r) else none
    | none => none)

/-- Saved inbound tiles of a job, channel 0 to 7, head first. -/
def Cell.tilesOf (c : Cell) (j : Nat) : List (Nat × ChTile) :=
  ((List.range 8).zip c.chIn).flatMap (fun x => (x.2.slots.filter (fun t => decide (t.job = j))).map (fun t => (x.1, t)))

/-- The cell entry of a record (Table 46); `whole`: the cells of the team are at rest, else the job was written out alone (R351). -/
def State.cellEntry (s : State) (x : Sect) (L j draw : Nat) (whole : Bool) : Item :=
  let c := s.cell L
  let full := whole && c.runs j
  let tregs := if full then (List.range 16).filter (fun i => (nthD c.tregs i {}).full) else []
  let accs := if full then (List.range 4).filter (fun i => (nthD c.accs i {}).held) else []
  let tiles := if whole then c.tilesOf j else []
  let regs := c.privOf j
  let ve := if full then c.veStop else none
  let body : Item := joinItems (
    [(c.seqImage full, [])] ++
    tregs.map (fun i => let t := nthD c.tregs i {}; (sliceB t.bytes 0 4096, if t.poison then List.range 64 else [])) ++
    accs.map (fun i => let a := nthD c.accs i {}; (pad64 (a.frame x.strict ++ (List.range 32).flatMap (fun r => leBytes 4 (nthD a.push r 0))), [])) ++
    [(veImage ve, []), (veBuffers draw ve, match ve with
      | some v => (List.range 16).filterMap (fun i => if nthD v.run.zpois (i / 4) false then some (192 + i) else none)
      | none => [])] ++
    [(pad64 (tiles.flatMap (fun t => t.2.header ++ sliceB t.2.bytes 0 (256 * t.2.nfl))), [])] ++
    [(fetchImage (if full then c.lead.cursor else none) c.lead.bases, [])] ++
    regs.map (fun r => let a := scratchAddr L r.2.base
                       let n := r.2.len
                       (pad64 (s.rd a n), (List.range ((n + 63) / 64)).filter (fun k => s.poisoned (a + 64 * k) (min 64 (n - 64 * k))))))
  let counts := (List.range 8).foldl (fun m ch => m + 16 ^ ch * (tiles.filter (fun t => decide (t.1 = ch))).length) 0
  let head := leBytes 2 (teamCellOf x L) ++ leBytes 2 (maskOf 16 tregs.contains) ++ leBytes 1 (maskOf 4 accs.contains) ++ [0, 0, 0] ++ leBytes 4 counts ++
    leBytes 4 (maskOf 16 (fun i => regs.any (fun r => decide (r.1 = i)))) ++ leBytes 4 (32 + body.1.length)
  (head ++ leBytes 4 (crc32c body.1) ++ List.replicate 8 0 ++ body.1, body.2)

/-! ### Writing -/

/-- Cells that a request occupies. -/
def State.cellsOfJob (s : State) (x : Sect) (j : Nat) (whole : Bool) : List Nat :=
  (s.sectCells x).filter (fun L => let c := s.cell L; !(c.privOf j).isEmpty || (whole && (c.runs j || !(c.tilesOf j).isEmpty)))

/-- The record header (Table 45). -/
def Request.bivHeader (q : Request) (cells wm len : Nat) : List Byte :=
  let b := [0x42, 0x49, 0x56, 0x31] ++ leBytes 2 1 ++ leBytes 2 cells ++ leBytes 8 q.sect ++ leBytes 2 q.tenant ++ [0, 0] ++ leBytes 4 q.tag ++ leBytes 8 wm ++
    leBytes 8 len ++ List.replicate 8 0
  b ++ leBytes 4 (crc32c b) ++ List.replicate 12 0

/-- Write the entries of some cells from an address: the state, the bytes written. -/
def State.writeEntries (s : State) (x : Sect) (j : Nat) (whole : Bool) (base : Nat) : List Nat → Nat → State × Nat
  | [], n => (s, n)
  | L :: ls, n =>
    let (b, bad) := s.cellEntry x L j s.draws whole
    let s := { s with draws := s.draws + 1 }
    -- an entry starts 32 bytes into a sector, or at its start: a poisoned block marks every sector it touches
    let secs := (bad.flatMap (fun k => sectorsOf (base + n + 32 + 64 * k) 64)).eraseDups
    (s.tierWrite (base + n) b secs).writeEntries x j whole base ls (n + b.length)

/-- A request is written out (R97, R227, R312): its record, then its cells, tag, bookings and intake entry are free. -/
def State.writeOut (s : State) (r : Nat) (q : Request) (whole : Bool) : State :=
  let t := q.team
  let wm := s.time.count
  let (s, n, cells) := match (s.team t).running, q.job with
    | some x, some j =>
      let ls := s.cellsOfJob x j whole
      let (s, n) := s.writeEntries x j whole q.bivAddr ls 64
      (s, n, ls.length)
    | _, _ => (s, 64, 0)
  let s := s.tierWrite q.bivAddr (q.bivHeader cells wm n) []
  let moved := q.moved
  let s := s.unbook r
  let s := match q.job with
    | some j => (s.dropGroups t j).unbind t j
    | none => s
  let s := s.raiseReq r 0x6182 0
  s.updReq r (fun q => { q with st := .bivouacked, job := none, left := some (s.time.ticks, ((s.members q.team).map (· / 8)).eraseDups), dyn := none, record := true, alone := !whole, spill := false, spillWm := wm, moved := moved,
                                holdStart := none, marked := none, quiesce := false })

/-- Have the update descriptors of a job that were submitted run to completion (R410)? -/
def State.updQuiet (s : State) (t j : Nat) : Bool :=
  (s.partClus (s.members t)).all (fun g =>
    let c := s.clu g
    c.upd.all (fun u => decide (u.job ≠ j)) && c.updQ.all (fun a => decide (leNat (s.rd (a + 1) 1) % 8 ≠ j)))

/-- A request that is ready to be written out: one of a tenant without bivouac (BIV_LIFE 0) expires instead, unless a move carries it (R312). -/
def State.spillOut (s : State) (r : Nat) (q : Request) (whole : Bool) : State :=
  if s.bivLife q.tenant = 0 ∧ q.moved.isNone then s.expire r else s.writeOut r q whole

/-- BIVOUAC_WRITE (R97, R312, R309, R351): due once the cells are at rest and their tiles have landed, or the job's last group taken has ended. -/
def execBivouacWrite (r : Nat) (s : State) : Host.Outcome State Fault Refusal :=
  .next (match s.req r with
    | none => s
    | some q =>
      let whole := decide ((s.team q.team).run = .traverse)
      if !q.spill ∨ q.cancelling.isSome then s
      else match q.job with
        | none => s.spillOut r q whole
        | some j =>
          let still := s.updQuiet q.team j &&
            (if whole then (s.partCells (s.members q.team)).all (fun L => (s.cell L).atRest) && !s.tilesFly q.team else s.jobQuiet q.team j)
          if still then s.spillOut r q whole else s)

/-! ### Restoring -/

/-- What a restore reads: bytes of an address range of the record, and whether a block of it is poisoned. -/
structure RecView where
  bytes : List Byte
  bad : List Nat                     -- poisoned sectors, as addresses div 64
  base : Nat

/-- Is any byte of [a, a + n) of a record poisoned? -/
def RecView.poisoned (v : RecView) (a n : Nat) : Bool := (sectorsOf (v.base + a) n).any v.bad.contains

/-- An accumulator from its frame and push counts, its class, base and CLOSED from the sequencer image (R98). -/
def accOf (strict : Bool) (frame push : List Byte) (word : Nat) : Acc :=
  let a : Acc := { cls := bitsOf word 22 21, closed := word.testBit 20, base := bitsOf word 19 0, flags := numAt frame 8 8,
                   cover := (List.range 32).map (fun r => numAt frame (0x20 + 4 * r) 4), push := (List.range 32).map (fun r => numAt push (4 * r) 4) }
  let n := numAt frame 6 1
  (List.range n).foldl (fun a i =>
    let b := sliceB frame (256 + 4096 * i) 4096
    if numAt frame 5 1 = 2 then a.mergeSums i b
    else
      let tag := numAt frame (0xA0 + 8 * i) 8
      match a.mergeSlot strict (bitsOf tag 25 21) (bitsOf tag 20 0) (bitsOf tag 63 32) b with
      | .inr a => a
      | .inl _ => a) a

/-- The sequencer state of an image (R98, R128): the cell resumes at PC. -/
def Cell.loadSeq (c : Cell) (b : List Byte) : Cell :=
  let f := numAt b 4 1
  { c with
    pc := numAt b 0 4 % 8192, job := bitsOf f 3 1, fp := if f.testBit 4 then some (bitsOf (numAt b 0xA0 2) 1 0, bitsOf (numAt b 0xA0 2) 3 2 + 1) else none,
    loops := ((List.range (min 4 (numAt b 5 1))).map (fun i => (⟨numAt b (0x50 + 12 * i) 4, numAt b (0x54 + 12 * i) 4, numAt b (0x58 + 12 * i) 4⟩ : LoopEntry))).reverse,
    mbox := (List.range (min 4 (numAt b 6 1))).map (fun i => let w := numAt b (8 + 2 * i) 2; ({ word := w % 8192, job := w / 8192 } : MboxEntry)),
    x := (List.range 16).map (fun i => numAt b (0x10 + 4 * i) 4),
    rowMax := (List.range 32).map (fun i => sxt 16 (numAt b (0xB0 + 2 * i) 2)),
    rowSum := (List.range 32).map (fun i => BitVec.ofNat 32 (numAt b (0xF0 + 4 * i) 4)),
    incs := [], merge := none, mergeStop := if (numAt b 0x192 1).testBit 0 then some ⟨numAt b 0x190 2 % 8192, numAt b 0x193 1 % 8, numAt b 0x194 1, numAt b 0x195 1, numAt b 0x198 4⟩ else none,
    st := if c.store.prog.isEmpty then .idle else .running, stopReq := false, stopping := false, atRest := false, started := none }

/-- The accumulators before those of the record are restored: empty, with LEAF_BASE and flags from the image. -/
def bareAccs (image : List Byte) : List Acc :=
  (List.range 4).map (fun i => { base := numAt image (0x80 + 8 * i) 8 % 2 ^ 20, flags := numAt image (0x170 + 8 * i) 8 })

/-- Length of a frame at an offset, from its SLOTS. -/
def frameLen (b : List Byte) (a : Nat) : Nat := 256 + 4096 * min 12 (numAt b (a + 6) 1)

/-- Does a cell run another job than j (R351)? -/
def State.runsOther (s : State) (L j : Nat) : Bool :=
  let c := s.cell L
  c.inFlight.any (fun q => decide (q.job ≠ j)) || c.mbox.any (fun e => decide (e.job ≠ j)) ||
    (decide (c.st = .running) && decide (c.job ≠ j) && (s.jobNum (s.teamOfCell L) c.job).isSome)

/-- Restore tile registers: FULL, with POISON from the record; no rule saves their flag words, which are free. -/
def restoreTregs (v : RecView) (draw : Nat) : List Nat → Nat → Cell → Cell × Nat
  | [], a, c => (c, a)
  | i :: is, a, c => restoreTregs v draw is (a + 4096)
      { c with gated := c.gated.set (i / 4) false
               tregs := c.tregs.set i { full := true, bytes := sliceB v.bytes a 4096, flags := (Config.freeWord (draw + i)).toNat % 2 ^ 13,
                                        poison := v.poisoned a 4096 } }

/-- Restore accumulators. -/
def restoreAccs (strict : Bool) (v : RecView) (image : List Byte) : List Nat → Nat → Cell → Cell × Nat
  | [], a, c => (c, a)
  | i :: is, a, c =>
    let n := frameLen v.bytes a
    restoreAccs strict v image is (a + n + 128) (c.setAcc i (accOf strict (sliceB v.bytes a n) (sliceB v.bytes (a + n) 128) (numAt image (0x80 + 8 * i) 8)))

/-- Restore inbound tiles into their slots. -/
def restoreTiles (v : RecView) : List Nat → Nat → Cell → Cell × Nat
  | [], a, c => (c, a)
  | ch :: chs, a, c =>
    let h := sliceB v.bytes a 16
    let n := 256 * (numAt h 3 1 % 17)
    let i := nthD c.chIn ch {}
    restoreTiles v chs (a + 16 + n) { c with chIn := c.chIn.set ch { i with slots := i.slots ++ [tileOf h (sliceB v.bytes (a + 16) n)] } }

/-- The vector cursor of an item. -/
def veOf (v : RecView) (a : Nat) : Option VeCursor :=
  let b := sliceB v.bytes a 64
  if !(numAt b 2 1).testBit 0 then none
  else
    let b3 := a + 64 + 12288
    some { iaddr := numAt b 0 2 % 8192, job := numAt b 3 1 % 8, done := numAt b 4 4, xstart := (List.range 4).map (fun i => numAt b (8 + 4 * i) 4),
           run := { flags := numAt b 0x18 2 % 8192, elems := numAt v.bytes (b3 + 1024) 4,
                    parts := (List.range 4).map (fun j => (List.range 64).map (fun k => BitVec.ofNat 32 (numAt v.bytes (b3 + 256 * j + 4 * k) 4))),
                    zpois := (List.range 4).map (fun j => v.poisoned (b3 + 256 * j) 256) } }

/-- The fetch cursor of an item. -/
def fetchOf (b : List Byte) : Option FetchCursor :=
  if (numAt b 2 1).testBit 0 then
    some { iaddr := numAt b 0 2 % 8192, job := numAt b 3 1 % 8, next := numAt b 4 4, xstart := (List.range 3).map (fun i => numAt b (8 + 4 * i) 4),
           bases := (List.range 4).map (fun i => numAt b (0x18 + 8 * i) 8) }
  else none

/-- Write the saved regions back, ascending; each whole. -/
def State.restoreRegions (s : State) (v : RecView) (L : Nat) : List Nat → Nat → State
  | [], _ => s
  | i :: is, a =>
    match nthD (s.cell L).store.bounds i none with
    | none => s.restoreRegions v L is a
    | some r =>
      let tgt := scratchAddr L r.base
      let bad := ((List.range ((r.len + 63) / 64)).filter (fun k => v.poisoned (a + 64 * k) 64)).flatMap (fun k => sectorsOf (tgt + 64 * k) 64)
      (s.wr tgt (sliceB v.bytes a r.len) bad).restoreRegions v L is (a + (r.len + 63) / 64 * 64)

/-- The restored tiles hold slots of an inbound channel: its sender has 4 credits less the slots in use and its tiles in flight (R270); credits on their way to it
are part of the 4 (assumption 73). -/
def State.settleCredits (s : State) (L ch : Nat) : State :=
  let i := nthD (s.cell L).chIn ch {}
  match i.bind with
  | none => s
  | some p =>
    let fly := (s.net.filter (fun q => match q.pkt, q.sender with
      | .chTile _ ic, .cell src => decide (ic = ch) && decide (q.dest = s.cellEp L) && decide (src = p.peer)
      | _, _ => false)).length
    let s := { s with net := s.net.filter (fun q => match q.pkt, q.sender with
      | .chCredit oc ic _, .cell src => !(decide (oc = p.peerChan) && decide (ic = ch) && decide (src = L) && decide (q.dest = s.cellEp p.peer))
      | _, _ => true) }
    let k := s.cell p.peer
    s.setCell p.peer { k with chOut := k.chOut.set p.peerChan { nthD k.chOut p.peerChan {} with credits := 4 - i.slots.length - fly } }

/-- Restore a cell entry (R98, R270, R350, R351): regions, registers, accumulators, vector state, tiles, fetch cursor, and the sequencer last. The image of a
record that was written alone does not go into a cell that runs other jobs, whose own state then stands. -/
def State.restoreCell (s : State) (x : Sect) (j : Nat) (v : RecView) (e : Nat) (alone : Bool) : State :=
  let b := v.bytes
  let tc := numAt b e 2
  let L := 64 * nthD x.binding (tc / 64) 0 + tc % 64
  let tregs := (List.range 16).filter (fun i => (numAt b (e + 2) 2).testBit i)
  let accs := (List.range 4).filter (fun i => (numAt b (e + 4) 1).testBit i)
  let counts := numAt b (e + 8) 4
  let chans := (List.range 8).flatMap (fun ch => List.replicate (min 4 (counts / 16 ^ ch % 16)) ch)
  let regs := (List.range 16).filter (fun i => (numAt b (e + 12) 4).testBit i)
  let image := sliceB b (e + 32) 512
  let keep := alone && s.runsOther L j
  let d := s.draws
  let s := { s with draws := d + 16 }
  let c := s.cell L
  let (c1, a) := restoreTregs v d tregs (e + 32 + 512) c
  let (c1, a) := restoreAccs x.strict v image accs a (if keep then c1 else { c1 with accs := bareAccs image })
  let ve := veOf v a
  let a := a + 64 + 16384
  let (c1, a') := restoreTiles v chans a c1
  let a := a + (a' - a + 63) / 64 * 64
  let f := sliceB b a 64
  let s := s.restoreRegions v L regs (a + 64)
  let c1 := if keep then c1
    else ({ c1 with veCur := none, veStop := ve, lead := { c1.lead with cursor := fetchOf f, bases := (List.range 4).map (fun i => numAt f (0x18 + 8 * i) 8) } } : Cell).loadSeq image
  (chans.eraseDups).foldl (fun s ch => s.settleCredits L ch) (s.setCell L c1)

/-- Restore the entries of a record in order. -/
def State.restoreEntries (s : State) (x : Sect) (j : Nat) (v : RecView) (alone : Bool) : Nat → Nat → State
  | 0, _ => s
  | n + 1, e => (s.restoreCell x j v e alone).restoreEntries x j v alone n (e + numAt v.bytes (e + 0x10) 4)

/-- Do the CRCs of a record hold (R98)? -/
def entriesOk (b : List Byte) : Nat → Nat → Bool
  | 0, _ => true
  | n + 1, e =>
    let len := numAt b (e + 0x10) 4
    decide (32 ≤ len) && decide (e + len ≤ b.length) && decide (crc32c (sliceB b (e + 32) (len - 32)) = numAt b (e + 0x14) 4) && entriesOk b n (e + len)

/-- A request is restored at its booked start (R98, R227, R313). -/
def State.restoreReq (s : State) (r : Nat) (q : Request) (j : Nat) (dyn : Option Nat) (x : Sect) : State :=
  let (s, h, _) := s.tierRead q.bivAddr 64
  let len := numAt h 0x20 8
  let headOk := decide (crc32c (h.take 0x30) = numAt h 0x30 4) && decide (len ≤ max q.bivLen 64)
  let (s, b, bad) := s.tierRead q.bivAddr (if headOk then len else 64)
  if !headOk ∨ !entriesOk b (numAt h 6 2) 64 then (s.raiseReq r 0x3137 0).endReq r stFault 0x48 0x3137
  else
    let s := s.setReq r { q with job := some j, jobTick := s.time.ticks, dyn := dyn, record := false, opens := s.time.count }
    let s := s.bindJob { q with dyn := dyn } j
    let s := s.restoreEntries x j ⟨b, bad, q.bivAddr⟩ q.alone (numAt h 6 2) 64
    let s := s.hubSet (s.hubAnchor q.team 0x0C j) q.phase
    (s.enterPhase r q.phase).joinPitch r j

/-- BIVOUAC_RESTORE (R98). -/
def execBivouacRestore (r : Nat) (s : State) : Host.Outcome State Fault Refusal :=
  .next (match s.req r with
    | none => s
    | some q =>
      if !s.startDue r q 0 ∨ !q.record then s
      else match s.jobFor q, (s.team q.team).running with
        | some (j, dyn), some x => s.restoreReq r q j dyn x
        | _, _ => s)

end Sys2Proof.Machine
end

