-- ==== Sys2Proof/Machine/Replay.lean ====
section
/-! DEFINITION. Phases, commit points and replays (R304, R305, R377 to R382), and the take-over of a condemned slot (R394 to R396). -/

namespace Sys2Proof.Machine

/-! ### Marks and commit points -/

/-- Phases of a request's profile; a request of a section without a card has one, which no record describes. -/
def State.phasesFor (s : State) (q : Request) : List Phase := match s.profileOf q with
  | some (k, p) => k.phasesOf p
  | none => []

/-- Index of a request's last phase. -/
def State.lastPhase (s : State) (q : Request) : Nat := (s.phasesFor q).length - 1

/-- Is the mark of a phase a commit point (R378)? -/
def State.isCommit (s : State) (q : Request) (i : Nat) : Bool :=
  decide (s.lastPhase q ≤ i) || (match (s.phasesFor q)[i]? with
    | some x => x.commit
    | none => false)

/-- Units that each cell of a team has completed. -/
def State.unitsNow (s : State) (t : Nat) : SMap Nat := (s.partCells (s.members t)).map (fun L => (L, (s.cell L).units))

/-- The mark of the phase in progress has arrived (R377): the next phase starts, and a commit point awaits its decision. -/
def State.phaseMark (s : State) (r : Nat) : State :=
  match s.req r with
  | none => s
  | some q =>
    match q.job with
    | none => s
    | some j =>
      let i := q.phase
      let reached := match s.hubAnchor q.team 0x0C j with
        | some a => decide (i + 1 ≤ (s.anchor a).toNat)
        | none => false
      if !reached || q.quiesce || q.cancelling.isSome || q.marked.isSome || decide (q.st ≠ .running ∧ q.st ≠ .stalled) then s
      else
        let s := if s.isCommit q i then s.updReq r (fun q => { q with marked := some i, markAt := s.unitsNow q.team }) else s
        if i < s.lastPhase q then s.enterPhase r (i + 1) else s

/-- PHASE_MARK (R377). -/
def execPhaseMark (r : Nat) (s : State) : Host.Outcome State Fault Refusal := .next (s.phaseMark r)

/-- Have the collectors of a team every digest of the job's units that completed before the mark (R378 step 1)? `at'` counts each cell's units at the mark. -/
def State.digestsIn (s : State) (t job : Nat) (at' : SMap Nat) : Bool :=
  (s.partCells (s.members t)).all (fun L => s.votesIn L job (some (SMap.get 0 at' L)))

/-- Read and clear CLU_JOB_SUSPECT[j] in every cluster of the team (R378 step 2): the OR of the five flags. -/
def State.takeSuspect (s : State) (t job : Nat) : State × Nat :=
  (s.partClus (s.members t)).foldl (fun (x : State × Nat) g =>
    let a := R.CLU_JOB_SUSPECT g job
    (x.1.setReg a 0, x.2 ||| (x.1.reg a).toNat % 32)) (s, 0)

/-- The hub quiesces a job (R380 step 1): its dispatch stops, its groups go, its tags are cancelled; a replay follows. -/
def State.quiesceJob (s : State) (r : Nat) : State :=
  match s.req r with
  | none => s
  | some q =>
    match q.job with
    | none => s
    | some j => ((s.dropGroups q.team j).hubCancel q.team (some j)).updReq r (fun q => { q with quiesce := true, quiesceWm := s.time.count, marked := none })

/-- End a started request with FAULT once its cancellation is through. -/
def State.failReq (s : State) (r reason code : Nat) : State :=
  match s.req r with
  | none => s
  | some q =>
    match q.job with
    | none => s.endReq r stFault reason code
    | some j =>
      let s := ((s.dropGroups q.team j).hubCancel q.team (some j)).updReq r (fun q => { q with cancelling := some (stFault, reason, code), marked := none })
      s.settleCancel r

/-- The last COMMIT phase of a G1 request has committed: its reserve is free from the next pitch on (R304). -/
def State.freeReserve (s : State) (r : Nat) : State :=
  match s.req r with
  | none => s
  | some q =>
    let n := (s.phasesFor q).length
    let k := s.pitch
    let keep := q.booked.filter (fun i => decide (i.phase ≠ n))
    let was := contribution s.time q.booked k
    let now := contribution s.time keep k
    let gone : Cols := ⟨was.lanes - now.lanes, was.jobs - now.jobs, was.slots - now.slots, (List.range 8).map (fun i => nthD was.nt i 0 - nthD now.nt i 0),
      (List.range 8).map (fun i => nthD was.rd i 0 - nthD now.rd i 0), (List.range 8).map (fun i => nthD was.wr i 0 - nthD now.wr i 0)⟩
    if keep.length = q.booked.length then s
    else
      let s := s.setReq r { q with booked := keep }
      if was = now then s else { s with adm := { s.adm with ghosts := s.adm.ghosts ++ [{ team := q.team, pitch := k, cols := gone }] } }

/-- Does any phase after i carry COMMIT? -/
def State.commitsAfter (s : State) (q : Request) (i : Nat) : Bool := ((s.phasesFor q).drop (i + 1)).any (·.commit)

/-- COMMIT_DECISION (R378, R381). -/
def State.commitDecision (s : State) (r : Nat) : State :=
  match s.req r with
  | none => s
  | some q =>
    match q.marked, q.job with
    | some i, some j =>
      if q.quiesce || q.cancelling.isSome || !s.digestsIn q.team j q.markAt then s
      else
        let (s, sus) := s.takeSuspect q.team j
        if sus = 0 then
          let s := s.updReq r (fun q => { q with committed := i + 1, marked := none, checked := false, replayFrom := none, condemnVote := false })
          if s.lastPhase q ≤ i then s.endReq r stDone (if q.released then 0x43 else if q.late then 0x42 else 0)
          else if s.commitsAfter q i then s else s.freeReserve r
        else if q.replayFrom.isNone then (s.quiesceJob r).updReq r (fun q => { q with replayTo := i })
        else if sus % 2 = 1 then (s.raiseReq r 0x3203 i).failReq r 0x45 0x3203
        else if q.condemnVote then s.quiesceJob r
        else (s.raiseReq r 0x3202 i).failReq r 0x44 0x3202
    | _, _ => s

def execCommitDecision (r : Nat) (s : State) : Host.Outcome State Fault Refusal := .next (s.commitDecision r)

/-! ### Replay (R380) -/

/-- An unfunded replay books itself and the remaining phases anew, or the request is released (R305). -/
def State.rebookReplay (s : State) (r : Nat) (q : Request) : State :=
  match s.replan r q.team q.committed none (s.time.count + 1) with
  | some (c, l) => (s.rebook r c l).updReq r (fun q => { q with overrun := [] })
  | none => (s.raiseReq r 0x3180 0).releaseReq r

/-- REPLAY_START (R380): a job that is quiet, or has been quiescing for 8 wm, is set back to the first phase that has not committed. -/
def State.replayStart (s : State) (r : Nat) : State :=
  match s.req r with
  | none => s
  | some q =>
    match q.job with
    | none => s
    | some j =>
      let t := q.team
      let due := q.quiesce && q.cancelling.isNone && (q.replayFrom.isNone || q.planned) && decide ((s.team t).run = .running) &&
        decide (s.sectId t = q.sect) && ((s.jobQuiet t j && !s.cancelling t j) || decide (q.quiesceWm + 8 ≤ s.time.count))
      if !due then s
      else
        let fund := q.guar && decide (q.cls = 2) && !q.funded && !q.planned
        let s := if q.planned || !q.guar || fund then s else s.rebookReplay r q
        let a := q.committed
        let s := (s.hubSet (s.hubAnchor t 0x0C j) a).hubSet (s.hubAnchor t 0x0E j) (a + 1)
        let s := s.updReq r (fun q => { q with quiesce := false, planned := false, funded := q.funded || fund, replayFrom := some a, checked := true,
                                               condemnVote := false })
        let s := s.enterPhase r a
        s.raiseReq r 0x6200 (a + 256 * b2n fund)

def execReplayStart (r : Nat) (s : State) : Host.Outcome State Fault Refusal := .next (s.replayStart r)

/-! ### The watch (R382) -/

/-- The first booked phase of a guaranteed request whose mark is late: its index and e_i + δ. -/
def State.lateMark (s : State) (q : Request) : Option (Nat × Nat) :=
  let n := (s.phasesFor q).length
  (q.booked.find? (fun i => decide (i.phase < n) && decide (q.phase ≤ i.phase) && decide (q.marked ≠ some i.phase) && !q.overrun.contains i.phase &&
    decide (i.b + q.delta ≤ s.time.count))).map (fun i => (i.phase, i.b + q.delta))

/-- PHASE_OVERRUN (R382): the request goes on as best-effort. -/
def execPhaseOverrun (r : Nat) (s : State) : Host.Outcome State Fault Refusal :=
  .next (match s.req r with
    | none => s
    | some q => if !q.guar then s else match s.lateMark q with
      | some (i, w) => ((s.raiseReq r 0x3204 (i + 256 * w)).releaseReq r).updReq r (fun q => { q with overrun := i :: q.overrun })
      | none => s)

/-! ### Take-over (R395, R396) -/


/-- The slot map once slot k no longer serves position j (R395 step 3, R397): slot 16 takes the position, or the position's own slot where slot 16 served it and the
own slot is good. The answer is whether the position is served. -/
def State.mapAway (s : State) (k j : Nat) : State × Bool :=
  let g := k / 17
  let a := R.CLU_SLOT_MAP g
  let s := s.cutInjection g j
  let s := if k % 17 = 16 then (s.setFld a F.CLU_SLOT_MAP_SPARE_POS 0x1F).setFld a F.CLU_SLOT_MAP_SPARE_GOOD 0
    else
      let s := s.setFld a F.CLU_SLOT_MAP_RETIRED (s.fld a F.CLU_SLOT_MAP_RETIRED ||| 2 ^ (k % 17))
      if s.fld a F.CLU_SLOT_MAP_SPARE_GOOD = 1 ∧ s.fld a F.CLU_SLOT_MAP_SPARE_POS = 0x1F ∧ !s.isCondemned (17 * g + 16) then s.setFld a F.CLU_SLOT_MAP_SPARE_POS j
      else s
  let s := s.setFld (R.CLU_RTR_FENCE g) F.CLU_RTR_FENCE_FENCE (s.retiredFence g)
  (s, s.served (s.cellAt g j))

/-- Rebook a guaranteed request from the take-over boundary (R395 step 2). -/
def State.rebookTakeover (s : State) (r tw wt : Nat) : State :=
  match s.req r with
  | none => s
  | some q =>
    match s.replan r q.team q.committed (some tw) wt with
    | some (c, l) => (s.rebook r c l).updReq r (fun q => { q with overrun := [] })
    | none => (s.raiseReq r 0x3180 0).releaseReq r

/-- Steps 1 and 2 of a take-over: jobs quiesce, what is staged goes, guaranteed requests are rebooked. -/
def State.beginTakeover (s : State) (t : Nat) : State :=
  let x := s.team t
  let started := s.reqsWhere (fun q => decide (q.team = t) && q.job.isSome && q.cancelling.isNone)
  let s := started.foldl (fun s r => s.quiesceJob r) s
  let s := started.foldl (fun s r => s.updReq r (fun q => { q with planned := true })) s
  let s := match x.load with
    | some _ => s.failLoad t 0x3119 0xFFFFFFFF
    | none => s
  let s := (s.reqsWhere (fun q => decide (q.team = t) && q.staged)).foldl (fun s r => s.endReq r stFault stHwFault) s
  let s := if x.staged.isSome then s.discardStaged t else s
  let tw := match x.running.bind (·.card) with
    | some c => c.traverseWm
    | none => 0
  let gs := s.reqsWhere (fun q => decide (q.team = t) && q.guar && decide (q.st ≠ .bivouacked))
  let s := gs.foldl (fun s r => s.unbook r) s
  gs.foldl (fun s r => s.rebookTakeover r tw s.time.count) s

/-- Controllers of a team leave U mode and what they dispatched is gone. -/
def State.stopControllers (s : State) (t : Nat) : State :=
  (s.partClus (s.members t)).foldl (fun s g =>
    let c := s.clu g
    let s := s.setClu g { c with openG := List.replicate 8 [], ready := List.replicate 8 [], lbase := [], ctl := { c.ctl with sereq := false },
                                 sfu := [{}, {}], dmaQ := [], updQ := [] }
    if c.ctl.st = .user ∨ c.ctl.st = .ended then s.leaveU g .firmware
    else if c.ctl.st = .stopped then s.updCtl g (fun c => { c with st := .firmware }) else s) s

/-- The running section is loaded again in place, from step 1 of Table 39 (R395 step 4). A refused load drains the team. -/
def State.reloadInPlace (s : State) (t : Nat) : State :=
  let image := match (s.team t).running with
    | some r => r.image
    | none => 0
  let s := ((s.stopControllers t).setRun t .traverse).clearSection t
  let s := s.beginLoad t { dead := true } image 0
  if (s.team t).load.isNone then s.beginDrain t (s.fld (R.WV_LOAD_STATUS t) F.WV_LOAD_STATUS_ERROR) stHwFault else s

/-- Step 3 of a take-over at its boundary W_t, for slot k, which serves position j (R395, R396): the fence, the slot map and the epoch change at once; a running
team shows TRAVERSE, and its reload waits for its jobs to be quiet. -/
def State.swapSlot (s : State) (t k j : Nat) : State :=
  let g := k / 17
  let L := s.cellAt g j
  let x := s.team t
  let (s, ok) := s.mapAway k j
  let s := s.advanceEpoch L s.time.count
  let s := s.setCell L { gen := (s.cell L).gen, atRest := decide (x.run = .draining) }
  if ok then
    let s := if x.run = .running then (s.setRun t .traverse).setTeam t { (s.setRun t .traverse).team t with takeover := some s.time.count } else s
    s.raise { code := 0x6203, kind := 2, src := g, sect := s.sectId t, detail := j + 256 * (k % 17) }
  else
    let need := match x.running with
      | some r => decide (L % 64 < r.reqCells)
      | none => false
    if need && decide (x.run ≠ .draining) then
      let seq := s.evt.seq
      let s := (s.raiseSect t (L / 64) 2 g 0x3207 (L % 64)).nameHw (s.members t) seq 0x3207
      s.beginDrain t 0x3207 0x47
    else s

/-- May the take-over of a condemned slot begin at this waymark (R394, R489)? -/
def State.takeoverDue (s : State) (c : Condemn) : Bool :=
  let g := c.slot / 17
  let run := (s.team (s.teamOfClu g)).run
  s.time.isBoundary s.time.count && decide (c.wm + 2 ≤ s.time.count) && (s.servesPos g (c.slot % 17)).isSome && decide (run ≠ .switching ∧ run ≠ .traverse) &&
    !s.boot.resets.any (fun r => s.holdsClu r g)

/-- Are a team's quiesced jobs quiet, with nothing of theirs on its way? -/
def State.teamQuiet (s : State) (t : Nat) : Bool :=
  !s.tilesFly t && (List.range 8).all (fun j => s.jobQuiet t j && !s.cancelling t j)

/-- Carry a take-over on: steps 1 to 3 at its boundary W_t, step 4 once every job of the team is quiet, 8 wm later at the latest (R380 step 1, R395). -/
def State.takeover (s : State) (g : Nat) : State :=
  let t := s.teamOfClu g
  match (s.team t).takeover with
  | some w =>
    let u := s.setTeam t { s.team t with takeover := none }
    if (s.team t).run ≠ .traverse then u
    else if s.teamQuiet t || decide (w + 8 ≤ s.time.count) then u.reloadInPlace t
    else s
  | none =>
    match s.integ.condemned.find? (fun c => decide (c.slot / 17 = g) && s.takeoverDue c) with
    | none => s
    | some c => match s.servesPos g (c.slot % 17) with
      | some j => (if (s.team t).run = .running then s.beginTakeover t else s).swapSlot t c.slot j
      | none => s

/-- SPARE_TAKEOVER (R395). -/
def execSpareTakeover (g : Fin 256) (s : State) : Host.Outcome State Fault Refusal := .next (s.takeover g.val)

end Sys2Proof.Machine
end

