-- ==== Sys2Proof/Machine/Replica.lean ====
section
/-! DEFINITION. Replica groups (R384 to R388), the background scrub (R389 to R392), link retries and failed links (R362, R365), epochs (R259) and the tails of the
event rings (R357, R359). -/

namespace Sys2Proof.Machine

/-! ### Replica groups -/

/-- A replica as the digest engine reads it: its blocks, and the digest of each, none where a read was poisoned. -/
structure Replica where
  base : Nat
  blocks : List (List Byte)
  digests : List (Option (Word × Word))
  deriving DecidableEq, Repr

/-- Read bytes by blocks of 65,536. -/
def State.readReplica (s : State) (base len : Nat) : State × Replica :=
  let (s, b, bad) := s.tierRead base len
  let bl := blocksOf (len / 65536 + 1) 65536 b
  let dg := ((List.range bl.length).zip bl).map (fun (x : Nat × List Byte) =>
    if (sectorsOf (base + 65536 * x.1) x.2.length).any bad.contains then none else some (blockDigest x.2))
  (s, ⟨base, bl, dg⟩)

/-- Root over block digests, none where one is missing. -/
def rootOf (l : List (Option (Word × Word))) : Option (Word × Word) :=
  if l.any (·.isNone) then none else some (digestRoot (l.filterMap id))

/-- The digest that more than half of the replicas hold for block b (R386). -/
def majority (rs : List Replica) (b : Nat) : Option (Word × Word) :=
  let ds := rs.filterMap (fun r => nthD r.digests b none)
  ds.find? (fun d => decide (rs.length < 2 * (ds.filter (fun e => decide (e = d))).length))

/-- Configuration of a group: replicas, length, root. -/
def State.replLen (s : State) (i : Nat) : Nat := 32 * s.fld (R.INTEG_REPL_CFG i) F.INTEG_REPL_CFG_LEN_32
def State.replBases (s : State) (i : Nat) : List Nat :=
  (List.range (min 4 (s.fld (R.INTEG_REPL_CFG i) F.INTEG_REPL_CFG_COUNT))).map (fun r => 64 * s.fld (R.INTEG_REPL_ADDR i r) F.INTEG_REPL_ADDR_ADDR)
def State.replRoot (s : State) (i : Nat) : Word × Word := (s.reg (R.INTEG_REPL_ROOT i 0), s.reg (R.INTEG_REPL_ROOT i 1))

/-- A comparison of a group starts (R385). -/
def State.replStart (s : State) (i : Nat) (verify : Bool) : State :=
  if 64 ≤ i ∨ s.fld (R.INTEG_REPL_CFG i) F.INTEG_REPL_CFG_VALID = 0 ∨ (SMap.find? s.integ.repl i).isSome then s
  else
    ({ s with integ := { s.integ with repl := SMap.ins i (s.time.count, verify) s.integ.repl, replLast := SMap.ins i s.time.pitches s.integ.replLast } }).setFld
      (R.INTEG_REPL_STAT i) F.INTEG_REPL_STAT_STATE 2

/-- REPLICA_COMPARE (R385): every INTERVAL pitches, at a pitch boundary. -/
def execReplicaCompare (i : Nat) (s : State) : Host.Outcome State Fault Refusal :=
  let n := s.fld (R.INTEG_REPL_CFG i) F.INTEG_REPL_CFG_INTERVAL
  .next (if n ≠ 0 ∧ s.time.lastBoundary = some s.time.count ∧ SMap.get 0 s.integ.replLast i + n ≤ s.time.pitches then s.replStart i false else s)

/-- REPLICA_VERIFY (R388). -/
def execReplicaVerify (i : Nat) (s : State) : Host.Outcome State Fault Refusal := .next (s.replStart i true)

/-- A group is clean; a comparison in which every root equals ROOT also notes the waymark at which it started (R385). -/
def State.replClean (s : State) (i : Nat) : State :=
  let a := R.INTEG_REPL_STAT i
  (s.setFld a F.INTEG_REPL_STAT_STATE 1).setFld a F.INTEG_REPL_STAT_SUSPECT 0
def State.replClean1 (s : State) (i wm : Nat) : State := (s.replClean i).setFld (R.INTEG_REPL_STAT i) F.INTEG_REPL_STAT_LAST_CLEAN wm

/-- DIGEST_REPAIRED for the blocks of a list. -/
def State.logRepaired (s : State) (i : Nat) (bs : List Nat) : State :=
  bs.foldl (fun s b => s.raise { code := 0x1203, detail := i + 256 * b }) s

/-- Sections of a team that hold a weight reference inside a group's ranges. -/
def State.refersTo (x : Sect) (bases : List Nat) (len : Nat) : Bool :=
  x.weights.any (fun w => bases.any (fun b => decide (b ≤ w.ntAddr) && decide (w.ntAddr + w.len ≤ b + len)))

/-- A group becomes suspect (R387): every section that refers to it is named, and the teams that run one drain at the next boundary. -/
def State.replSuspends (s : State) (i : Nat) : State :=
  let a := R.INTEG_REPL_STAT i
  let bases := s.replBases i
  let len := s.replLen i
  let lc := s.fld a F.INTEG_REPL_STAT_LAST_CLEAN
  let s := (s.setFld a F.INTEG_REPL_STAT_STATE 3).setFld a F.INTEG_REPL_STAT_SUSPECT (ones bases.length)
  (List.range 64).foldl (fun s t =>
    let x := s.team t
    let hit (y : Option Sect) : List Sect := (y.filter (fun z => State.refersTo z bases len)).toList
    let l := hit x.running ++ hit x.staged ++ hit (x.load.map (·.sect))
    let s := l.foldl (fun s y =>
      let seq := s.evt.seq
      (s.raise { code := 0x3205, kind := 8, src := t, part := some t, sect := y.id, detail := i + 256 * lc }).nameHw (s.members t) seq 0x3205) s
    if (hit x.running).isEmpty then s else s.setTeam t { s.team t with drainAtBoundary := some (0x3205, 0x46) }) s

/-- Copy a block into a replica. -/
def State.putBlock (s : State) (base b : Nat) (bytes : List Byte) : State := s.tierWrite (base + 65536 * b) bytes []

/-- The bytes of the first replica that holds a digest for block b. -/
def blockWith (rs : List Replica) (b : Nat) (d : Word × Word) : List Byte :=
  match rs.find? (fun r => decide (nthD r.digests b none = some d)) with
  | some r => nthD r.blocks b []
  | none => []

/-- Blocks of a list whose golden digest passes its own check (R388): the root built from it and the agreed digests of all other blocks is ROOT. An unresolved block
without an agreed digest counts with its golden one (assumption 78). -/
def goldenPasses (root : Word × Word) (agreed gold : List (Option (Word × Word))) (bad : List Nat) : List Nat :=
  bad.filter (fun b => decide (rootOf ((List.range agreed.length).map (fun x =>
    if x = b then nthD gold x none else match nthD agreed x none with
      | some d => some d
      | none => nthD gold x none)) = some root))

/-- Take the golden digest of the blocks of a list for agreed. -/
def agreeOn (agreed gold : List (Option (Word × Word))) (ok : List Nat) : List (Option (Word × Word)) :=
  (List.range agreed.length).map (fun x => if ok.contains x then nthD gold x none else nthD agreed x none)

/-- Bring every replica to the agreed digests: a block from the golden copy where the list names it, else from a replica that holds it. -/
def State.copyBlocks (s : State) (rs : List Replica) (agreed : List (Option (Word × Word))) (bs : List Nat) (gold : Option Replica) : State :=
  rs.foldl (fun s r => bs.foldl (fun s b => match nthD agreed b none, gold with
    | none, _ => s
    | some _, some g => s.putBlock r.base b (nthD g.blocks b [])
    | some d, none => if nthD r.digests b none = some d then s else s.putBlock r.base b (blockWith rs b d)) s) s

/-- The golden copy of each unresolved block is tried (R388). The blocks that pass are written to every replica, with the agreed blocks that differ among them;
one that fails is a REFERENCE_MISMATCH and leaves the group suspect. What an acceptance agrees on counts for the blocks tried after it. -/
def State.replGolden (s : State) (i : Nat) (agreed : List (Option (Word × Word))) (bad : List Nat) (rs : List Replica) : State :=
  if s.fld (R.INTEG_REPL_CFG i) F.INTEG_REPL_CFG_GOLDEN_FAR = 0 then s
  else
    let (s, g) := s.readReplica (64 * s.fld (R.INTEG_REPL_ADDR i 4) F.INTEG_REPL_ADDR_ADDR) (s.replLen i)
    let root := s.replRoot i
    let first := goldenPasses root agreed g.digests bad
    let agreed := agreeOn agreed g.digests first
    let ok := goldenPasses root agreed g.digests bad
    let agreed := agreeOn agreed g.digests ok
    let s := if ok.isEmpty then s
      else ((s.copyBlocks rs agreed ok (some g)).copyBlocks rs agreed ((List.range agreed.length).filter (fun b => !bad.contains b)) none).logRepaired i ok
    let left := bad.filter (fun b => !ok.contains b)
    if left.isEmpty then s.replClean i else left.foldl (fun s b => s.raise { code := 0x3206, detail := i + 256 * b }) s

/-- Every replica of a group as the digest engine reads it. -/
def State.readReplicas (s : State) (i : Nat) : State × List Replica :=
  (s.replBases i).foldl (fun (x : State × List Replica) b => let (s, r) := x.1.readReplica b (s.replLen i); (s, x.2 ++ [r])) (s, [])

/-- A comparison ends (R385 to R388). -/
def State.replDone (s : State) (i : Nat) : State :=
  match SMap.find? s.integ.repl i with
  | none => s
  | some (wm, _) =>
    let s := { s with integ := { s.integ with repl := SMap.del i s.integ.repl } }
    let len := s.replLen i
    let (s, rs) := s.readReplicas i
    let root := s.replRoot i
    let nb := (len + 65535) / 65536
    let roots := rs.map (fun r => rootOf r.digests)
    if roots.all (fun r => decide (r = some root)) then s.replClean1 i wm
    else
      let same := match roots with
        | some d :: l => l.all (fun r => decide (r = some d))
        | _ => false
      let differs (b : Nat) : Bool := same || (match rs with
        | r :: l => (nthD r.digests b none).isNone || l.any (fun x => decide (nthD x.digests b none ≠ nthD r.digests b none))
        | [] => false)
      let bad := (List.range nb).filter differs
      let agreed := (List.range nb).map (majority rs)
      let open' := bad.filter (fun b => (nthD agreed b none).isNone)
      if open'.isEmpty then
        let (s, rs) := (s.copyBlocks rs agreed bad none).readReplicas i
        if rs.all (fun r => decide (rootOf r.digests = some root)) then (s.logRepaired i bad).replClean i
        else (s.replSuspends i).replGolden i agreed bad rs
      else (s.replSuspends i).replGolden i agreed open' rs

/-- REPLICA_COMPARE_DONE (R386). -/
def execReplicaCompareDone (i : Nat) (s : State) : Host.Outcome State Fault Refusal := .next (s.replDone i)

/-! ### The scrub (R389 to R392) -/

/-- What the scrubber knows of a sector: class of Table 205a, owner, tenant, replica group, and the class-table byte and bit of its 64 KiB page's RETIRE flag. -/
structure SectorInfo where
  cls : Nat
  owner : Option Nat := none
  tenant : Option Nat := none
  group : Nat := 0
  retire : Option (Nat × Nat) := none
  deriving DecidableEq, Repr

/-- Class of a near-tier sector (Table 205a). -/
def State.ntInfo (s : State) (a : Nat) : SectorInfo :=
  if s.fld R.INTEG_CLASS_NT F.INTEG_CLASS_NT_VALID = 0 then { cls := 0 }
  else
    let e := 0x200000 * s.fld R.INTEG_CLASS_NT F.INTEG_CLASS_NT_BASE_2M + 8 * (a / 0x200000)
    let w := leNat (s.rd e 8)
    let p := a % 0x200000 / 65536
    let own := bitOf w 3
    { cls := w % 8, owner := if own then some (bitsOf w 9 4) else none, tenant := if own then some (bitsOf w 21 10) else none, group := bitsOf w 27 22,
      retire := some (e + 4 + p / 8, p % 8) }

/-- Is the page of a near-tier sector retired? -/
def State.pageRetired (s : State) (i : SectorInfo) : Bool := decide (i.cls = 7) || (match i.retire with
  | some (a, b) => (memRead s.mem a).toNat.testBit b
  | none => false)

/-- Class of a byte that lies in a region of a cell, or in none (R391). -/
def State.regionInfo (s : State) (L p : Nat) : Option Region → SectorInfo
  | none => { cls := 0, owner := some p }
  | some r =>
    let a := R.CLU_JOB_TENANT (s.clusterOf L) r.job
    if r.priv then { cls := 3, owner := some p, tenant := if s.fld a F.CLU_JOB_TENANT_VALID = 1 then some (s.fld a F.CLU_JOB_TENANT_TENANT) else none }
    else { cls := 4, owner := some p }

/-- The weight reference of the running section whose range holds a scratchpad byte of a cell. -/
def State.weightAt (s : State) (L off : Nat) : Option WeightRef :=
  match (s.team (s.teamOfCell L)).running with
  | none => none
  | some x => if x.binding.contains (L / 64) then x.weights.find? (fun w => decide (w.cell = teamCellOf x L) && decide (w.off ≤ off) && decide (off < w.off + w.len)) else none

/-- Class of a scratchpad sector. -/
def State.spInfo (s : State) (L off : Nat) : SectorInfo :=
  match s.weightAt L off with
  | some _ => { cls := 1, owner := some (L / 64) }
  | none => s.regionInfo L (L / 64) (((s.cell L).store.bounds.filterMap id).find? (fun r => !r.tile && decide (r.base ≤ off) && decide (off < r.base + r.len)))

/-- Class of a memory-tile sector: TILE regions of the cluster's cells; the staging area holds section image. -/
def State.tileInfo (s : State) (g off : Nat) : SectorInfo :=
  let p := (s.partOf g).1
  if 0x3FC0000 ≤ off then { cls := 4, owner := some p }
  else
    let hit := (List.range 16).findSome? (fun j =>
      let L := s.cellAt g j
      (((s.cell L).store.bounds.filterMap id).find? (fun r => r.tile && decide (r.base ≤ off) && decide (off < r.base + r.len))).map (fun r => (L, r)))
    match hit with
    | some (L, r) => s.regionInfo L p (some r)
    | none => { cls := 0, owner := some p }

/-- Where a byte lies: its class, and kind, source and array of the records of its sector. The near tier has no array number (Table 205). -/
def State.sectorInfo (s : State) (a : Nat) : Option (SectorInfo × Nat × Nat × Option Nat) :=
  if a < 0x8000000000 then some (s.ntInfo a, 4, a / 2 ^ 36, none)
  else if 0x080000000000 ≤ a ∧ a < 0x080400000000 then
    let g := (a - 0x080000000000) / 0x4000000
    some (s.tileInfo g ((a - 0x080000000000) % 0x4000000), 2, g, some 1)
  else if 0x081000000000 ≤ a ∧ a < 0x081400000000 then
    let L := (a - 0x081000000000) / 0x400000
    some (s.spInfo L ((a - 0x081000000000) % 0x400000), 1, L, some 0)
  else none

/-- Rewrite the bytes of a scratchpad sector that belong to a weight blob from its near-tier copy (Table 206). -/
def State.repairWeight (s : State) (k L : Nat) (w : WeightRef) : State :=
  let (s, b, bad) := s.tierRead w.ntAddr w.len
  if !bad.isEmpty || decide (cairnRoot b ≠ w.root) then s
  else
    let base := scratchAddr L w.off
    let lo := max base (64 * k)
    let hi := min (base + w.len) (64 * k + 64)
    let s := s.wr lo ((b.drop (lo - base)).take (hi - lo)) []
    let grp := (List.range 64).find? (fun i => decide (s.fld (R.INTEG_REPL_CFG i) F.INTEG_REPL_CFG_VALID = 1) &&
      (s.replBases i).any (fun x => decide (x ≤ w.ntAddr) && decide (w.ntAddr + w.len ≤ x + s.replLen i)))
    let (s, g) := match grp with
      | some g => (s, g)
      | none => ({ s with draws := s.draws + 1 }, (Config.freeWord s.draws).toNat % 256)
    s.raise { code := 0x1203, kind := 1, src := L, part := some (L / 64), detail := g + 256 * ((lo - base) / 65536) }

/-- The action of Table 206 for an uncorrectable error of the word at an address. -/
def State.scrubAction (s : State) (a : Nat) (i : SectorInfo) : State :=
  let k := a / 64
  if a < 0x8000000000 then
    match i.cls, i.retire with
    | 0, some (b, n) => s.wr b [memRead s.mem b ||| BitVec.ofNat 8 (2 ^ n)] []
    | 1, _ => s.replStart i.group true
    | _, _ => s
  else if i.cls = 1 then
    let L := (a - 0x081000000000) / 0x400000
    match s.weightAt L ((a - 0x081000000000) % 0x400000) with
    | some w => s.repairWeight k L w
    | none => s
  else s

/-- The scrubber reads a sector. The class is that of the failing word (R391). -/
def State.scrub (s : State) (k : Nat) : State :=
  let at' := match s.badWord k with
    | some w => 8 * w
    | none => 64 * k
  match s.sectorInfo at' with
  | none => s
  | some (i, kind, src, arr) =>
    if kind = 4 ∧ s.pageRetired i then s
    else if (s.fixWord k).isSome then
      let s := s.dropFix k
      let (s, d) := match arr with
        | some d => (s, d)
        | none => ({ s.bump (R.NT_STACK_STATUS src) F.NT_STACK_STATUS_CORRECTED 1 with draws := s.draws + 1 }, (Config.freeWord s.draws).toNat % 256)
      (s.raise { code := 0x1202, kind := kind, src := src, part := i.owner, addr := some (64 * k), detail := d }).sectorErr k 2
    else if (s.badWord k).isSome then
      let s := s.dropBad k
      if s.poison.contains k then s
      else
        let s := { s with poison := insNat k s.poison }
        let s := s.raise { code := 0x2202, kind := kind, src := src, part := if i.cls = 5 then none else i.owner, tenant := i.tenant, addr := some (64 * k),
                           detail := i.cls }
        (s.scrubAction at' i).sectorErr k 1
    else s

/-- The scrubber reads a store without an address (R389 to R391): a corrected error is written back, an uncorrectable one poisons what the store holds. Table 205a
has no class for it: a free value (assumption 113). -/
def State.scrubStore (s : State) (x : Store) : State :=
  if s.upsets.contains (.storeFix x) then
    ({ s with upsets := s.upsets.erase (.storeFix x) }.raise { code := 0x1202, kind := 1, src := (storeCell x), part := some ((storeCell x) / 64), detail := (storeArray x) }).storeErr x 2
  else if s.upsets.contains (.store x) then
    let s := { s with upsets := s.upsets.erase (.store x), draws := s.draws + 1 }.spoil x
    (s.raise { code := 0x2202, kind := 1, src := (storeCell x), part := some ((storeCell x) / 64), detail := (Config.freeWord (s.draws - 1)).toNat % 8 }).storeErr x 1
  else s

/-- The constant cache is in row 4 of Table 193: it is not scrubbed (R389). -/
def storeScrubbed : Store → Bool
  | .const .. => false
  | _ => true

/-- A place once per pass: the sector that holds an address, or a store. -/
def scrubKey : ScrubLoc → ScrubLoc
  | .addr a => .addr (BitVec.ofNat 48 (64 * (a.toNat / 64)))
  | .store x => .store x

/-- A new scrub pass begins every PERIOD waymarks (R389). -/
def State.scrubPass (s : State) : State :=
  let p := s.fld R.INTEG_SCRUB F.INTEG_SCRUB_PERIOD
  if s.integ.scrubFrom + p ≤ s.time.count then { s with integ := { s.integ with scrubFrom := s.time.count, scrubbed := [] } } else s

/-- SCRUB_READ (R389 to R392): a sector or a store, once in a pass. -/
def execScrubRead (a : ScrubLoc) (s : State) : Host.Outcome State Fault Refusal :=
  .next (
    if s.fld R.INTEG_SCRUB F.INTEG_SCRUB_ENABLE = 0 then s
    else
      let s := s.scrubPass
      if s.integ.scrubbed.contains (scrubKey a) then s
      else
        let s := { s with integ := { s.integ with scrubbed := scrubKey a :: s.integ.scrubbed } }
        match a with
        | .addr a => s.scrub (a.toNat / 64)
        | .store x => if storeScrubbed x then s.scrubStore x else s)

/-! ### Links (R362, R365) -/

/-- The receiver's test of a flit (R365): its LCRC over what arrived, and its LSEQ in order. -/
def SentFlit.good (x : SentFlit) (lcrc : BitVec 16) (lseq : BitVec 6) : Bool := decide (x.flit.lcrc = lcrc.toNat) && decide (x.lseq = lseq.toNat)

/-- LINK_RETRY (R365): a flit arrives. A bad one is discarded with every later flit of the link and sent again from there; the link has failed when its sixteenth retransmission is bad. -/
def execLinkRetry (f : LinkFlit) (s : State) : Host.Outcome State Fault Refusal :=
  let l := f.link
  let k := f.k
  let g := l / 5
  let o := l % 5
  let t := SMap.get {} s.links l
  .next (
    if 256 ≤ g ∨ 4 ≤ o ∨ !linkExists g o then s
    else match t.sent[k.val]? with
      | none => s
      | some x =>
        if x.good f.lcrc f.lseq then { s with links := SMap.ins l { t with sent := t.sent.set k.val { x with tries := 0 } } s.links }
        else if x.tries < 16 then
          { s with links := SMap.ins l (t.resend k.val) s.links }.raise { code := 0x1201, kind := 2, src := g, detail := o }
        else s.fatal { code := 0x5200, kind := 2, src := g, detail := o })

/-- D2D_FAILED (R362, R483): a link of die l. -/
def execD2dFailed (l : Nat) (s : State) : Host.Outcome State Fault Refusal :=
  .next (if l < 8 then s.fatal { code := 0x5202, kind := 3, src := l, detail := l } else s)

/-! ### Epochs at the routers (R258, R259) -/

/-- EPOCH_SET (R259): the router holds the new epoch for its waymark. -/
def execEpochSet (n : Nat) (s : State) : Host.Outcome State Fault Refusal :=
  .next (s.onPkt (fun p => decide (p.pkt.type = 0x60)) n (fun s p => match p.pkt with
    | .epochSet kind id e w =>
      let g := p.dest.cluster
      let c := s.clu g
      s.setClu g { c with router := { c.router with pend := c.router.pend ++ [⟨id + 4096 * kind, e, w⟩] } }
    | _ => s))

/-- EPOCH_APPLY (R259): at their waymark a router's pending epochs take effect, and the cells and the cluster that it serves take theirs. -/
def State.epochApply (s : State) (g : Nat) : State :=
  let c := s.clu g
  let due := c.router.pend.filter (fun e => decide (e.effective ≤ s.time.count))
  let es := due.foldl (fun m e => SMap.ins e.key e.epoch m) c.router.epochs
  let s := s.setClu g { c with router := { c.router with epochs := es, pend := c.router.pend.filter (fun e => decide (s.time.count < e.effective)) } }
  due.foldl (fun s e =>
    if e.key = 4096 + g then s.setClu g { s.clu g with epoch := e.epoch }
    else if e.key < 4096 ∧ s.clusterOf e.key = g then s.setFld (R.CELL_EPOCH e.key) F.CELL_EPOCH_EPOCH e.epoch
    else s) s

def execEpochApply (g : Fin 256) (s : State) : Host.Outcome State Fault Refusal := .next (s.epochApply g.val)

/-! ### Tails of the event rings (R357, R359) -/

/-- A tail that keeps a ring at no more than its n slots. -/
def EvtRing.setTail (r : EvtRing) (n v : Nat) : EvtRing := if (r.head + 2 * n - v % (2 * n)) % (2 * n) ≤ n then { r with tail := v % (2 * n) } else r

/-- A write of EVT_LOG_TAIL (R357, Table 190). -/
def State.writeEvtTail (s : State) (v : Word) : State :=
  { s with evt := { s.evt with ring := s.evt.ring.setTail 4096 (getF v F.EVT_LOG_TAIL_TAIL) } }

/-- EVT_LOG_TAIL_WRITE (R357). -/
def execEvtLogTailWrite (v : Word) (s : State) : Host.Outcome State Fault Refusal := .next (s.writeEvtTail v)

/-- A write of PART_EVT_TAIL of partition p (R359, Table 192). -/
def State.writePartTail (s : State) (p : Nat) (v : Word) : State :=
  { s with partEvt := SMap.upd {} p (fun r => r.setTail 256 (getF v F.PART_EVT_TAIL_TAIL)) s.partEvt }

/-- PART_EVT_TAIL_WRITE (R359). -/
def execPartEvtTailWrite (p : Fin 64) (v : Word) (s : State) : Host.Outcome State Fault Refusal := .next (s.writePartTail p.val v)

end Sys2Proof.Machine
end

