-- ==== Sys2Proof/Machine/Sfu.lean ====
section
/-! DEFINITION. The SFU tiles of a cluster (R187 to R190): the descriptor, the elementwise functions, TOPK, SORT and SAMPLE. -/

namespace Sys2Proof.Machine

/-- A write of CLU_SFU_SUBMIT[t] (R187). -/
def State.sfuQueue (s : State) (g t : Nat) (v : Word) : State :=
  let c := s.clu g
  let x := nthD c.sfu t {}
  if x.queue.length + x.run.toList.length < 8 then
    s.setClu g { c with sfu := c.sfu.set t { x with queue := x.queue ++ [getF v F.CLU_SFU_SUBMIT_DESC_ADDR * 64] } }
  else s.setFld (R.CLU_SFU_STATUS g t) F.CLU_SFU_STATUS_DROPPED 1

/-- SFU_SUBMIT (R187). -/
def execSfuSubmit (g : Fin 256) (t : Fin 2) (v : Word) (s : State) : Host.Outcome State Fault Refusal := .next (s.sfuQueue g.val t.val v)

/-! ### The descriptor (Tables 96 and 97) -/

/-- A descriptor's fields. -/
structure SfuDesc where
  func : Nat
  inFmt : Fmt
  outFmt : Fmt
  desc : Bool
  k : Nat
  rows : Nat
  n : Nat
  src : Nat
  dst : Nat
  idx : Nat
  key : Nat
  temp : BitVec 32
  nucleus : BitVec 32
  anchor : Nat
  job : Nat
  deriving DecidableEq, Repr

/-- The formats an SFU tile reads and writes. -/
def sfuFmt : Nat → Option Fmt
  | 0x10 => some .bf16
  | 0x11 => some .fp16
  | 0x18 => some .fp32
  | _ => none

/-- The elementwise functions of Table 97. -/
def sfuElementwise (f : Nat) : Bool := decide (1 ≤ f ∧ f ≤ 8)

/-- Values and indices that one row gives (Table 97). -/
def SfuDesc.outs (d : SfuDesc) : Nat := if sfuElementwise d.func || d.func = 0x11 then d.n else if d.func = 0x10 then d.k else 1

/-- Are FUNC, K, N and the parameters those of Table 97? -/
def SfuDesc.shapeOk (d : SfuDesc) : Bool :=
  let p := dec32 d.nucleus
  if sfuElementwise d.func then decide (d.k = 0) && decide (1 ≤ d.n ∧ d.n ≤ 1048576) && decide (d.idx = 0)
  else if d.func = 0x10 then decide (1 ≤ d.k ∧ d.k ≤ 256) && decide (d.k ≤ d.n ∧ d.n ≤ 1048576)
  else if d.func = 0x11 then decide (d.k = 0) && decide (2 ≤ d.n ∧ d.n ≤ 65536)
  else d.func = 0x12 && decide (d.k ≤ 256) && decide (1 ≤ d.n ∧ d.n ≤ 262144) &&
    (d.k = 0 || (!p.isNan && fvLt false (FV.fin false 0 0) p && !fvLt false fvOne p))

/-- The descriptor in 64 bytes, if its fields are good. -/
def sfuRead (b : List Byte) : Option SfuDesc :=
  let n (o k : Nat) := numAt b o k
  match sfuFmt (n 1 1), sfuFmt (n 2 1) with
  | some fi, some fo =>
    let d : SfuDesc := {
      func := n 0 1, inFmt := fi, outFmt := fo, desc := decide (n 3 1 = 1), k := n 4 2, rows := n 6 2 + 1, n := n 8 4, src := n 16 8,
      dst := n 24 8, idx := n 32 8, key := n 40 4, temp := BitVec.ofNat 32 (n 44 4), nucleus := BitVec.ofNat 32 (n 48 4), anchor := n 52 4, job := n 56 1 }
    if n 3 1 < 2 && decide (n 12 4 = 0) && decide (n 57 7 = 0) && decide (d.job < 8) && decide (d.rows ≤ 1024) &&
        decide (d.anchor < 32768 ∨ d.anchor = 0xFFFFFFFF) && d.shapeOk then some d else none
  | _, _ => none

/-- Do SRC, DST and IDX lie in the cluster's memory tiles or its cells' scratchpads (R187), what is written outside the staging area (R84)? -/
def State.sfuInside (s : State) (g : Nat) (d : SfuDesc) : Bool :=
  s.localOk g d.src (d.rows * d.n * d.inFmt.bytes 1) && s.localWrOk g d.dst (d.rows * d.outs * d.outFmt.bytes 1) &&
    (sfuElementwise d.func || s.localWrOk g d.idx (d.rows * d.outs * 4))

/-! ### Order and arithmetic -/

/-- May a stand before b in ascending order: −∞ < finite < +∞ < NaN, zeros equal (R189)? -/
def sfuLe (a b : FV) : Bool := if b.isNan then true else if a.isNan then false else !fvLt false b a

/-- Element of a row: its value and its index. -/
abbrev SfuElem := FV × Nat

/-- SORT (R189): stable both ways. -/
def sfuSort (desc : Bool) (l : List SfuElem) : List SfuElem := sortBy (fun a b => if desc then sfuLe b.1 a.1 else sfuLe a.1 b.1) l

/-- The k greatest in descending order; NaNs only after every other element (R189). -/
def sfuTop (k : Nat) (l : List SfuElem) : List SfuElem :=
  (sortBy (fun a b => if a.1.isNan then b.1.isNan else b.1.isNan || sfuLe b.1 a.1) l).take k

/-- FP32 product, round-to-nearest-even. -/
def mul32 (a b : BitVec 32) : BitVec 32 × Nat :=
  let x := dec32 a
  let y := dec32 b
  if x.isNan || y.isNan then (cnan, 0) else fmaW false false x y (.fin true 0 0)

/-- Prefix sums in candidate order, from +0. -/
def sfuSums : BitVec 32 → List (BitVec 32) → List (BitVec 32)
  | _, [] => []
  | c, w :: l => let d := (addFast c w).1; d :: sfuSums d l

/-- The first place, at most m, at which a predicate holds; else m. -/
def firstUpTo (p : BitVec 32 → Bool) (m : Nat) (c : List (BitVec 32)) : Nat := ((List.range (m + 1)).find? (fun i => p (nthD c i 0))).getD m

/-- a < b of binary32 values, false with a NaN. -/
def lt32 (a b : BitVec 32) : Bool := !(dec32 a).isNan && !(dec32 b).isNan && fvLt false (dec32 a) (dec32 b)

/-- a ≤ b of binary32 values, false with a NaN. -/
def le32 (a b : BitVec 32) : Bool := !(dec32 a).isNan && !(dec32 b).isNan && !fvLt false (dec32 b) (dec32 a)

/-- SAMPLE on row r (R190): value and index, with the flags of EXP. -/
def sfuSample (d : SfuDesc) (sect r : Nat) (l : List SfuElem) : BitVec 32 × Nat × Nat :=
  let cand := if 0 < d.k then sfuTop d.k l else l.filter (fun x => !x.1.isNan)
  match cand with
  | [] => (cnan, 0xFFFFFFFF, 0)
  | _ =>
    let p0 := dec32 d.temp
    if (match p0 with
      | .fin _ m _ => decide (m = 0)
      | _ => false) then (0x3F800000#32, (nthD (sfuTop 1 cand) 0 (p0, 0)).2, 0)
    else
      let top := nthD (sortBy (fun (a b : SfuElem) => sfuLe b.1 a.1) cand) 0 (p0, 0)
      let neg := top.1.flip.to32
      let ws := cand.map (fun x => sfuFn 1 (mul32 (addFast x.1.to32 neg).1 d.temp).1)
      let fl := ws.foldl (fun f w => f ||| w.2) 0
      let w := ws.map (fun (x : BitVec 32 × Nat) => x.1)
      let c := sfuSums 0 w
      let last := c.length - 1
      let m := if 0 < d.k then
          let lim := (mul32 d.nucleus (nthD c last 0)).1
          firstUpTo (fun x => le32 lim x) last c
        else last
      let u := draw sect d.key (r % 1024) >>> 8
      let t := (mul32 (nthD c m 0) (mk32 false (spec32.round u (-24)).code)).1
      let i := firstUpTo (fun x => lt32 t x) m c
      ((div32 false (nthD w i 0) (nthD c m 0)).1, (nthD cand i (p0, 0)).2, fl)

/-- What one row gives: values as binary32, indices, flags. -/
def SfuDesc.row (d : SfuDesc) (sect r : Nat) (l : List SfuElem) : List (BitVec 32) × List Nat × Nat :=
  if sfuElementwise d.func then
    let o := l.map (fun x => sfuFn d.func x.1.to32)
    (o.map (fun (x : BitVec 32 × Nat) => x.1), [], o.foldl (fun f x => f ||| x.2) 0)
  else if d.func = 0x12 then
    let (v, i, f) := sfuSample d sect r l
    ([v], [i], f)
  else
    let o := if d.func = 0x10 then sfuTop d.k l else sfuSort d.desc l
    (o.map (fun x => x.1.to32), o.map (fun (x : SfuElem) => x.2), 0)

/-! ### Running a descriptor -/

/-- Write local bytes of an SFU tile, and set POISON of the job when they carry it (Table 199). -/
def State.sfuWrite (s : State) (g job a : Nat) (b : List Byte) (bad : List Nat) : State :=
  (s.tileWr a b bad).suspect g job F.CLU_JOB_SUSPECT_POISON (!bad.isEmpty)

/-- One row: reads, function, writes. An output that a poisoned sector reaches is poisoned: element by element for the elementwise functions, else the row. -/
def State.sfuRow (s : State) (g t sect : Nat) (d : SfuDesc) (r : Nat) : State :=
  let isz := d.inFmt.bytes 1
  let osz := d.outFmt.bytes 1
  let src := d.src + r * d.n * isz
  let (s, b, bad) := s.localRead g (17 + t) src (d.n * isz)
  let l : List SfuElem := (List.range d.n).map (fun i => (d.inFmt.dec (numAt b (i * isz) isz), i))
  let (vals, idx, fl) := d.row sect r l
  let conv := vals.map (fun v => conv32 false false none d.outFmt v)
  let fl := conv.foldl (fun f c => f ||| c.2) fl
  let out := conv.flatMap (fun c => leBytes osz c.1)
  let dst := d.dst + r * d.outs * osz
  let iad := d.idx + r * d.outs * 4
  let obad := if bad.isEmpty then []
    else if sfuElementwise d.func then
      ((List.range d.n).filter (fun i => (sectorsOf (src + i * isz) isz).any (fun k => bad.contains k))).flatMap (fun i => sectorsOf (dst + i * osz) osz)
    else sectorsOf dst out.length
  let s := s.sfuWrite g d.job dst out obad
  let s := if idx.isEmpty then s
    else s.sfuWrite g d.job iad (idx.flatMap (leBytes 4)) (if bad.isEmpty then [] else sectorsOf iad (4 * idx.length))
  let a := R.CLU_SFU_STATUS g t
  s.setFld a F.CLU_SFU_STATUS_FLAGS (s.fld a F.CLU_SFU_STATUS_FLAGS ||| fl ||| (if bad.isEmpty then 0 else flPoison))

/-- The next descriptor of a tile starts (R187). -/
def State.sfuStart (s : State) (g t : Nat) : State :=
  let c := s.clu g
  let x := nthD c.sfu t {}
  match x.run, x.queue with
  | none, a :: q =>
    let s := s.setClu g { c with sfu := c.sfu.set t { x with queue := q } }
    let bad (s : State) : State := s.faultAgent (s.teamOfClu g) (s.partOf g).1 2 g 0x3153 0 (some a)
    if !inOwnTiles g a 64 then bad s
    else
      let (s, b, _) := s.deliver 2 g 1 (17 + t) a 64
      match sfuRead b with
      | none => bad s
      | some d =>
        if !s.sfuInside g d then bad s
        else
          let sect := match s.sectClu g with
            | some x => x.id
            | none => 0
          let s := (List.range d.rows).foldl (fun (s : State) r => s.sfuRow g t sect d r) s
          s.updClu g (fun c => { c with sfu := c.sfu.set t { nthD c.sfu t {} with run := some { addr := a, anchor := d.anchor, job := d.job } } })
  | _, _ => s

/-- SFU_DESCRIPTOR_RUN (R187 to R190). -/
def execSfuDescriptorRun (g : Fin 256) (t : Fin 2) (s : State) : Host.Outcome State Fault Refusal := .next (s.sfuStart g.val t.val)

/-- SFU_DESCRIPTOR_DONE (R187): S.ADD of 1 on its anchor. -/
def execSfuDescriptorDone (g : Fin 256) (t : Fin 2) (s : State) : Host.Outcome State Fault Refusal :=
  let c := s.clu g.val
  let x := nthD c.sfu t.val {}
  .next (match x.run with
    | none => s
    | some r => (s.setClu g.val { c with sfu := c.sfu.set t.val { x with run := none } }).ancDone g.val r.anchor)

end Sys2Proof.Machine
end

