-- ==== Sys2Proof/Machine/Spdm.lean ====
section
/-! DEFINITION. Attestation (R464, R465): the SPDM responder of the management controller. The message formats are those of DSP0274 versions 1.2 and 1.3, which the
specification names (assumption 61). -/

namespace Sys2Proof.Machine

/-- Send a response. -/
def State.spdmSay (s : State) (r : List Byte) : State := { s with pwr := { s.pwr with spdmOut := r :: s.pwr.spdmOut } }

/-- An ERROR response. -/
def spdmError (ver code : Nat) : List Byte := [BitVec.ofNat 8 ver, 0x7F, BitVec.ofNat 8 code, 0]

/-- How far the requester has come before a request. -/
inductive SpdmNeed where
  | version | caps | algs
  deriving DecidableEq, Repr

/-- The error that a request meets before its own checks, if any: the root of trust zeroised, a version that is not agreed, a request out of order, or one that is
short. -/
def State.spdmBar (s : State) (b : List Byte) (need : SpdmNeed) (len : Nat) : Option Nat :=
  let p := s.sec.spdm
  if s.sec.zeroised then some 0x05
  else if b.length < len then some 0x01
  else if (match need with
    | .version => decide (numAt b 0 1 ≠ 0x12 ∧ numAt b 0 1 ≠ 0x13)
    | _ => decide (numAt b 0 1 ≠ p.version)) then some 0x41
  else match need with
    | .version => if p.transcript.isEmpty then some 0x04 else none
    | .caps => if p.caps then none else some 0x04
    | .algs => if p.algs then none else some 0x04

/-- Answer a request with f unless it meets an error. -/
def State.spdm (s : State) (b : List Byte) (need : SpdmNeed) (len : Nat) (f : State → State) : State :=
  if !s.pwr.aux then s
  else match s.spdmBar b need len with
    | some e => s.spdmSay (spdmError (if s.sec.spdm.version = 0 then 0x12 else s.sec.spdm.version) e)
    | none => f s

def State.setSpdm (s : State) (p : Spdm) : State := { s with sec := { s.sec with spdm := p } }

/-- GET_VERSION: versions 1.2 and 1.3; it restarts the connection. -/
def execGetVersion (b : List Byte) (s : State) : Host.Outcome State Fault Refusal :=
  .next (
    if !s.pwr.aux then s
    else
      let r : List Byte := [0x10, 0x04, 0, 0, 0, 2, 0x00, 0x12, 0x00, 0x13]
      (s.setSpdm { transcript := b ++ r }).spdmSay r)

/-- GET_CAPABILITIES: CERT, CHAL and MEAS with signature. -/
def execGetCapabilities (b : List Byte) (s : State) : Host.Outcome State Fault Refusal :=
  .next (s.spdm b .version 12 (fun s =>
    let r := b.take 1 ++ [0x61, 0, 0, 0, 19, 0, 0] ++ leBytes 4 0x16 ++ leBytes 4 0x1000 ++ leBytes 4 0x1000
    let p := s.sec.spdm
    (s.setSpdm { p with version := numAt b 0 1, caps := true, transcript := p.transcript ++ b ++ r }).spdmSay r))

/-- NEGOTIATE_ALGORITHMS: ECDSA P-384 and SHA-384 alone. -/
def execNegotiateAlgorithms (b : List Byte) (s : State) : Host.Outcome State Fault Refusal :=
  .next (s.spdm b .caps 32 (fun s =>
    let sel (off bit : Nat) : Nat := if (numAt b off 4).testBit bit then 2 ^ bit else 0
    let r := b.take 1 ++ [0x63, 0, 0] ++ leBytes 2 36 ++ leBytes 1 (numAt b 6 1 % 2) ++ [0] ++ leBytes 4 (4 * (numAt b 6 1 % 2)) ++ leBytes 4 (sel 8 7) ++
      leBytes 4 (sel 12 1) ++ List.replicate 16 0
    let p := s.sec.spdm
    let ok := decide (sel 8 7 ≠ 0) && decide (sel 12 1 ≠ 0)
    (s.setSpdm { p with algs := ok, transcript := p.transcript ++ b ++ r }).spdmSay r))

/-- GET_DIGESTS: the digest of the chain in slot 0. -/
def execGetDigests (b : List Byte) (s : State) : Host.Outcome State Fault Refusal :=
  .next (s.spdm b .algs 4 (fun s =>
    let p := s.sec.spdm
    let r := b.take 1 ++ [0x01, if p.version = 0x13 then 1 else 0, 1] ++ sha384 s.flash.chain
    (s.setSpdm { p with certs := p.certs ++ b ++ r }).spdmSay r))

/-- GET_CERTIFICATE: a portion of the chain in slot 0. -/
def execGetCertificate (b : List Byte) (s : State) : Host.Outcome State Fault Refusal :=
  .next (s.spdm b .algs 8 (fun s =>
    let p := s.sec.spdm
    let chain := s.flash.chain
    let off := numAt b 4 2
    if numAt b 2 1 % 16 ≠ 0 ∨ chain.length ≤ off then s.spdmSay (spdmError p.version 0x01)
    else
      let part := (chain.drop off).take (numAt b 6 2)
      let r := b.take 1 ++ [0x02, 0, 0] ++ leBytes 2 part.length ++ leBytes 2 (chain.length - off - part.length) ++ part
      (s.setSpdm { p with certs := p.certs ++ b ++ r }).spdmSay r))

/-! ### Signatures -/

/-- The version text that begins every signed message, as bytes: "dmtf-spdm-v1.2.*" or "dmtf-spdm-v1.3.*". -/
def spdmPrefix (ver : Nat) : List Byte :=
  [0x64, 0x6D, 0x74, 0x66, 0x2D, 0x73, 0x70, 0x64, 0x6D, 0x2D, 0x76, 0x31, 0x2E, if ver = 0x13 then 0x33 else 0x32, 0x2E, 0x2A]

/-- "responder-challenge_auth signing" -/
def challengeText : List Byte :=
  [0x72, 0x65, 0x73, 0x70, 0x6F, 0x6E, 0x64, 0x65, 0x72, 0x2D, 0x63, 0x68, 0x61, 0x6C, 0x6C, 0x65, 0x6E, 0x67, 0x65, 0x5F, 0x61, 0x75, 0x74, 0x68, 0x20,
   0x73, 0x69, 0x67, 0x6E, 0x69, 0x6E, 0x67]

/-- "responder-measurements signing" -/
def measureText : List Byte :=
  [0x72, 0x65, 0x73, 0x70, 0x6F, 0x6E, 0x64, 0x65, 0x72, 0x2D, 0x6D, 0x65, 0x61, 0x73, 0x75, 0x72, 0x65, 0x6D, 0x65, 0x6E, 0x74, 0x73, 0x20, 0x73, 0x69,
   0x67, 0x6E, 0x69, 0x6E, 0x67]

/-- What is signed: four times the version text, the context padded to 36 bytes, the hash of the messages. -/
def spdmMessage (ver : Nat) (text msgs : List Byte) : List Byte :=
  let p := spdmPrefix ver
  p ++ p ++ p ++ p ++ List.replicate (36 - text.length) 0 ++ text ++ sha384 msgs

/-- Sign with the identity key; the per-message scalar is drawn. -/
def State.spdmSign (s : State) (d : Nat) (msg : List Byte) : State × List Byte :=
  let k := (List.range 6).foldl (fun n i => n * 2 ^ 64 + (Config.freeWord (s.draws + i)).toNat) 0
  let (r, t) := ecdsaSign d (k % (p384n - 1) + 1) msg
  ({ s with draws := s.draws + 6 }, r ++ t)

/-! ### Measurements (R465, Table 251) -/

/-- The voted values of measurement 4, in FIELD order. -/
def Sec.fuseList (x : Sec) : List Byte :=
  ([0x01, 0x10, 0x11, 0x12, 0x13, 0x14, 0x20, 0x21, 0x22, 0x23, 0x24, 0x28, 0x29, 0x34, 0x40 + x.activeSlot] : List Nat).flatMap
    (fun f => leBytes (fuseBytes f) (x.fuse f))

/-- SEC_DEBUG as it reads (Table 260). -/
def Sec.debugReg (x : Sec) : Nat := x.grants % 16 + 16 * b2n x.zeroised

/-- A measurement: its type byte and value; none while it has not been recorded. -/
def Sec.measurement (x : Sec) (i : Nat) : Option (Nat × List Byte) :=
  if i = 1 ∨ i = 2 ∨ i = 3 then (SMap.find? x.measure i).map (fun v => (if i = 1 then 0x00 else 0x01, v))
  else if i = 4 then some (0x02, sha384 x.fuseList)
  else if i = 5 then some (0x82, leBytes 1 x.debugReg)
  else if i = 6 then some (0x83, (List.range 4).flatMap (fun w => leBytes 8 (x.bbkValid w)))
  else if i = 7 then some (0x83, leBytes 1 (popCount 64 (SMap.get 0 x.voted 0x15)))
  else none

/-- A measurement block in the DMTF format. -/
def Sec.block (x : Sec) (i : Nat) : Option (List Byte) :=
  (x.measurement i).map (fun m => leBytes 1 i ++ [0x01] ++ leBytes 2 (m.2.length + 3) ++ leBytes 1 m.1 ++ leBytes 2 m.2.length ++ m.2)

/-- The measurement summary that a challenge asks for: 0 none, 1 the firmware (indices 1 to 3), 0xFF all. -/
def Sec.summary (x : Sec) (kind : Nat) : List Byte :=
  if kind = 0 then [] else sha384 ((if kind = 1 then [1, 2, 3] else [1, 2, 3, 4, 5, 6, 7]).flatMap (fun i => (x.block i).getD []))

/-- CHALLENGE: CHALLENGE_AUTH, signed over messages A, B and C. -/
def execChallenge (b : List Byte) (s : State) : Host.Outcome State Fault Refusal :=
  .next (s.spdm b .algs 36 (fun s =>
    let p := s.sec.spdm
    match s.sec.identityKey with
    | none => s.spdmSay (spdmError p.version 0x05)
    | some d =>
      if numAt b 2 1 ≠ 0 then s.spdmSay (spdmError p.version 0x01)
      else
        let ctx := if p.version = 0x13 then sliceB b 36 8 else []
        let nonce := (List.range 32).map (Config.freeByte s.draws)
        let s := { s with draws := s.draws + 1 }
        let r := b.take 1 ++ [0x03, 0, 1] ++ sha384 s.flash.chain ++ nonce ++ s.sec.summary (numAt b 3 1) ++ [0, 0] ++ ctx
        let (s, sig) := s.spdmSign d (spdmMessage p.version challengeText (p.transcript ++ p.certs ++ b ++ r))
        (s.setSpdm { p with certs := [] }).spdmSay (r ++ sig)))

/-- GET_MEASUREMENTS: a count, one measurement or all, with a signature where one is asked for. -/
def execGetMeasurements (b : List Byte) (s : State) : Host.Outcome State Fault Refusal :=
  .next (s.spdm b .algs 4 (fun s =>
    let p := s.sec.spdm
    let sign := decide (numAt b 2 1 % 2 = 1)
    let op := numAt b 3 1
    let all := ([1, 2, 3, 4, 5, 6, 7] : List Nat).filterMap s.sec.block
    let blocks := if op = 0 then [] else if op = 0xFF then all else (s.sec.block op).toList
    if (op ≠ 0 ∧ op ≠ 0xFF ∧ blocks.isEmpty) ∨ (sign ∧ numAt b 36 1 % 16 ≠ 0) then s.spdmSay (spdmError p.version 0x01)
    else match (if sign then s.sec.identityKey else some 0) with
      | none => s.spdmSay (spdmError p.version 0x05)
      | some d =>
        let recd := blocks.flatten
        let ctx := if p.version = 0x13 then sliceB b (if sign then 37 else 4) 8 else []
        let nonce := (List.range 32).map (Config.freeByte s.draws)
        let s := { s with draws := s.draws + 1 }
        let r := b.take 1 ++ [0x60] ++ leBytes 1 (if op = 0 then all.length else 0) ++ [0] ++ leBytes 1 blocks.length ++ leBytes 3 recd.length ++ recd ++ nonce ++
          [0, 0] ++ ctx
        if sign then
          let (s, sig) := s.spdmSign d (spdmMessage p.version measureText (p.transcript ++ p.measLog ++ b ++ r))
          (s.setSpdm { p with measLog := [] }).spdmSay (r ++ sig)
        else (s.setSpdm { p with measLog := p.measLog ++ b ++ r }).spdmSay r))

end Sys2Proof.Machine
end

