-- ==== Sys2Proof/Machine/Views.lean ====
section
/-! DEFINITION. What a register reads as (R14): the stored word, with the fields that other state of the block gives in place. -/

namespace Sys2Proof.Machine

/-- Set several fields of a word. -/
def setFs (w : Word) (l : List (Fld × Nat)) : Word := l.foldl (fun w x => setF w x.1 x.2) w

/-! ### Cell blocks (files 05 to 10) -/

/-- Binding fields of a channel register (Tables 144 and 145). -/
def bindFs (b : Option ChanBind) (bound gs peer chan : Fld) : List (Fld × Nat) := match b with
  | some x => [(bound, 1), (gs, b2n x.gs), (peer, x.peer), (chan, x.peerChan)]
  | none => []

/-- Does a V.SUM hold the vector engine until a record of its cell is read (R184)? -/
def Cell.sumHolds (c : Cell) : Bool := decide (4 ≤ c.summaries) && (match c.head .vector with
  | some q => (match q.i with
    | .vSum .. => true
    | _ => false)
  | none => false)

/-- CELL_VE_STATUS (Table 93): the chain that runs, or the one stopped at its cursor. -/
def Cell.veFs (c : Cell) : List (Fld × Nat) :=
  (match c.veCur, c.veStop with
    | some v, _ => [(F.CELL_VE_STATUS_IADDR, v.iaddr), (F.CELL_VE_STATUS_DONE, v.done)]
    | none, some v => [(F.CELL_VE_STATUS_IADDR, v.iaddr), (F.CELL_VE_STATUS_DONE, v.done)]
    | none, none => []) ++
    [(F.CELL_VE_STATUS_BUSY, b2n (c.veCur.isSome || c.sumHolds)), (F.CELL_VE_STATUS_STOPPED, b2n c.veStop.isSome), (F.CELL_VE_STATUS_SUMQ, c.summaries)]

/-- The oldest tile's header at an inbound channel, as a number; 0 when it is empty. -/
def ChanIn.head (i : ChanIn) (lo : Nat) : Nat := match i.slots with
  | t :: _ => numAt t.header lo 8
  | [] => 0

/-- Registers of a cell block. -/
def Cell.view (c : Cell) (o : Nat) (w : Word) : Word :=
  let k := o % 0x40 / 8
  if o = 0x000 then setFs w [(F.CELL_SEQ_STATUS_STATE, if c.atRest then SeqState.code .stopped else c.st.code), (F.CELL_SEQ_STATUS_GEN, b2n c.gen), (F.CELL_SEQ_STATUS_JOB, c.job),
    (F.CELL_SEQ_STATUS_PC, c.pc), (F.CELL_SEQ_STATUS_LOOP_DEPTH, c.loops.length), (F.CELL_SEQ_STATUS_MBOX_COUNT, c.mbox.length),
    (F.CELL_SEQ_STATUS_FP_ACTIVE, b2n c.fp.isSome)]
  else if 0x20 ≤ o ∧ o < 0x40 then
    let a := nthD c.accs (k - 4) {}
    setFs w [(F.CELL_ACC_STATE_LEAF_BASE, a.base), (F.CELL_ACC_STATE_CLOSED, b2n a.closed), (F.CELL_ACC_STATE_CLASS, a.cls),
      (F.CELL_ACC_STATE_MAX_LEAVES, a.push.foldl max 0)]
  else if 0x80 ≤ o ∧ o < 0xA0 then BitVec.ofNat 64 (nthD c.accs k {}).flags
  else if o = 0xA0 then setFs w [(F.CELL_TREG_STATE_FULL, maskOf 16 (fun n => (nthD c.tregs n {}).full)),
    (F.CELL_TREG_STATE_POISON, maskOf 16 (fun n => (nthD c.tregs n {}).poison)), (F.CELL_TREG_STATE_GATED, maskOf 4 (fun b => nthD c.gated b false))]
  else if o = 0xB0 then setFs w c.veFs
  else if 0x100 ≤ o ∧ o < 0x180 then BitVec.ofNat 64 (nthD c.tregs ((o - 0x100) / 8) {}).flags
  else if 0x300 ≤ o ∧ o < 0x320 then
    let x := nthD c.tx k {}
    setFs w ((F.CELL_BELAY_TX_PENDING, b2n x.pend.isSome) :: match x.win with
      | some g => [(F.CELL_BELAY_TX_VALID, 1), (F.CELL_BELAY_TX_CONSUME, b2n g.consume), (F.CELL_BELAY_TX_GEN, b2n g.gen),
          (F.CELL_BELAY_TX_UNITS, g.units), (F.CELL_BELAY_TX_BASE_256, g.base / 256)]
      | none => [])
  else if 0x320 ≤ o ∧ o < 0x340 then BitVec.ofNat 64 (nthD c.tx (k - 4) {}).held
  else if 0x340 ≤ o ∧ o < 0x360 then BitVec.ofNat 64 (nthD c.rx k {}).full
  else if 0x360 ≤ o ∧ o < 0x380 then
    let x := nthD c.rx (k - 4) {}
    setFs w [(F.CELL_BELAY_RX_GRANTED, b2n x.granted), (F.CELL_BELAY_RX_CLOSED, b2n x.closed)]
  else if o = 0x400 then setFs w [(F.LEAD_STATUS_TAGS_BUSY, c.lead.tags.length), (F.LEAD_STATUS_TAGS_VOID, (c.lead.tags.filter (·.void)).length),
    (F.LEAD_STATUS_CANCEL, b2n !c.lead.cancels.isEmpty), (F.LEAD_STATUS_QUEUED, c.qLead.length), (F.LEAD_STATUS_UNLANDED, c.lead.started.length)]
  else if o = 0x408 then setFs w [(F.LEAD_HAUL_HEAD, c.lead.head % 128), (F.LEAD_HAUL_HEAD_WRAP, c.lead.head / 128), (F.LEAD_HAUL_TAIL, c.lead.tail % 128),
    (F.LEAD_HAUL_TAIL_WRAP, c.lead.tail / 128), (F.LEAD_HAUL_VOID, occupied (c.lead.ring.filter (·.void)))]
  else if 0x410 ≤ o ∧ o < 0x430 then BitVec.ofNat 64 (nthD c.lead.bases ((o - 0x410) / 8) 0)
  else if 0x500 ≤ o ∧ o < 0x540 then
    let i := nthD c.chIn k {}
    setFs w ([(F.CH_OCC_OCC, i.slots.length), (F.CH_OCC_LATCH, b2n i.latch)] ++ bindFs i.bind F.CH_OCC_BOUND F.CH_OCC_GS F.CH_OCC_PEER F.CH_OCC_PEER_CHAN)
  else if 0x540 ≤ o ∧ o < 0x580 then
    let i := nthD c.chOut k {}
    setFs w ((F.CH_OUT_CREDITS, i.credits) :: bindFs i.bind F.CH_OUT_BOUND F.CH_OUT_GS F.CH_OUT_PEER F.CH_OUT_PEER_CHAN)
  else if 0x580 ≤ o ∧ o < 0x5C0 then BitVec.ofNat 64 ((nthD c.chIn k {}).head 0)
  else if 0x5C0 ≤ o ∧ o < 0x600 then BitVec.ofNat 64 ((nthD c.chIn k {}).head 8)
  else w

/-! ### Cluster blocks (files 01, 07, 10 and 12 to 14) -/

/-- The MAP entry of a router's table in the present waymark (R252). -/
def Router.frame (r : Router) (pos : Nat) : Nat := match r.table with
  | some t => numAt t (0x40 + pos % max 1 (numAt t 0 2)) 1
  | none => 0xFF

/-- Registers of a cluster block. -/
def State.viewClu (s : State) (g o : Nat) (w : Word) : Word :=
  let c := s.clu g
  if o = 0x110 ∨ o = 0x118 then
    let x := nthD c.sfu ((o - 0x110) / 8) {}
    setFs w [(F.CLU_SFU_STATUS_QUEUED, x.queue.length + x.run.toList.length), (F.CLU_SFU_STATUS_BUSY, b2n x.run.isSome)]
  else if o = 0x500 then
    let f := c.router.frame (s.time.pitchOf s.time.count).2
    setFs w [(F.CLU_RTR_STATUS_TABLE, b2n c.router.table.isSome), (F.CLU_RTR_STATUS_SHADOW, b2n c.router.shadow.isSome),
      (F.CLU_RTR_STATUS_FRAME, if f = 0xFF then 0 else f), (F.CLU_RTR_STATUS_NOSLOT, b2n (f = 0xFF))]
  else if o = 0x600 ∨ o = 0x608 then BitVec.ofNat 64 (maskOf 64 (fun i => s.ancPois.contains (128 * g + 8 * (o - 0x600) + i)))
  else if o = 0x610 then setF w F.CLU_ANCHOR_MON_IN_USE (c.mons.filterMap id).length
  else if o = 0x700 then setF w F.CLU_CTL_STATUS_STATE c.ctl.st.code
  else if o = 0x708 then setFs w [(F.CLU_CTL_IRQ_SEREQ, b2n c.ctl.sereq), (F.CLU_CTL_IRQ_SUMMARY, b2n !c.sums.isEmpty)]
  else if o = 0x808 then setFs w [(F.CLU_DMA_STATUS_QUEUED, c.dmaQ.length + c.dma.length), (F.CLU_DMA_STATUS_TAGS_BUSY, c.dmaTags.length)]
  else if 0x900 ≤ o ∧ o < 0x988 then
    let k := 17 * g + (o - 0x900) / 8
    setFs w [(F.CLU_SLOT_ERR_CONDEMNED, b2n (s.isCondemned k || s.isRetired k)), (F.CLU_SLOT_ERR_TESTING, b2n (s.integ.testing = some k))]
  else if o = 0xB08 then
    if s.hasUpd then setFs w [(F.CLU_UPD_STATUS_QUEUED, c.updQ.length + c.upd.toList.length), (F.CLU_UPD_STATUS_BUSY, b2n c.upd.isSome),
      (F.CLU_UPD_STATUS_TAGS_BUSY, c.updTags.length)]
    else 0
  else w

/-! ### Partition blocks (files 04, 10, 11 and 13) -/

/-- Eight bytes of a ring of event records as a word. -/
def EvtRing.word (r : EvtRing) (o : Nat) : Word := match SMap.find? r.slots (o / 64) with
  | some e => BitVec.ofNat 64 (numAt e.bytes (o % 64) 8)
  | none => 0

/-- PART_ADM_STATUS (Table 171). -/
def State.viewAdm (s : State) (p : Nat) : Word :=
  let t := s.teamId p
  let c := s.ledger (fun x => decide (x = t)) s.pitch
  let used := (s.intakeHeld.filter (fun e => decide (e / 64 = p))).length
  setFs 0 [(F.PART_ADM_STATUS_INTAKE_USED, used), (F.PART_ADM_STATUS_G_JOBS, c.jobs), (F.PART_ADM_STATUS_LANES, c.lanes), (F.PART_ADM_STATUS_ENGINE, t / 8),
    (F.PART_ADM_STATUS_FLOOR_HOLD, b2n (s.floorHeld t)), (F.PART_ADM_STATUS_DEGRADED, b2n ((s.members t).any s.degraded)),
    (F.PART_ADM_STATUS_CHANGING, b2n (s.team t).change.isSome)]

/-- PART_BAR_STATE (Table 157), of the running generation. -/
def State.viewBar (s : State) (p n : Nat) : Word :=
  let u := s.bar p n
  let b := u.gen (s.team (s.teamId p)).gen
  setFs 0 ([(F.PART_BAR_STATE_WAITING, b2n b.waiting), (F.PART_BAR_STATE_ARRIVED_N, popCount 64 b.arrived), (F.PART_BAR_STATE_EPISODES, u.episodes)] ++
    (match b.desc with
      | some d => [(F.PART_BAR_STATE_VALID, 1), (F.PART_BAR_STATE_KIND, b2n d.units), (F.PART_BAR_STATE_PARENT, b2n d.parent.isSome)]
      | none => []))

/-- Registers of a partition block, the mirrors of the FUSE block apart. -/
def State.viewPart (s : State) (p o : Nat) (w : Word) : Word :=
  if 0x300 ≤ o ∧ o < 0x380 then
    match ((s.bar p ((o - 0x300) / 8)).gen (s.team (s.teamId p)).gen).desc with
    | some d => BitVec.ofNat 64 (s.barMask d)
    | none => 0
  else if 0x380 ≤ o ∧ o < 0x400 then s.viewBar p ((o - 0x380) / 8)
  else if o = 0x400 then s.viewAdm p
  else if o = 0x500 then setF w F.PART_EVT_HEAD_HEAD (SMap.get {} s.partEvt p).head
  else if o = 0x508 then setF w F.PART_EVT_TAIL_TAIL (SMap.get {} s.partEvt p).tail
  else w

/-! ### Hub blocks -/

/-- Registers of the TIME block (Tables 23 to 28). -/
def TimeBase.view (t : TimeBase) (o : Nat) (w : Word) : Word :=
  if o = 0x00 then setFs w [(F.TIME_STATE_STATE, t.st.code), (F.TIME_STATE_TRACEABLE, b2n t.traceable), (F.TIME_STATE_SOURCE_ID, t.sourceId),
    (F.TIME_STATE_HOLD_LEFT, if t.st = .holdover then t.holdEnd - t.count else 0), (F.TIME_STATE_STEP_PENDING, b2n t.stepPending)]
  else if o = 0x08 then BitVec.ofNat 64 t.count
  else if o = 0x10 then BitVec.ofNat 64 t.ts64
  else if o = 0x20 then setFs w [(F.PITCH_CFG_LEN, t.pitchLen), (F.PITCH_CFG_PHASE, t.pitchPhase), (F.PITCH_CFG_PENDING, b2n t.pendingCfg.isSome)]
  else if o = 0x28 then
    let (k, p) := t.pitchOf t.count
    setFs w [(F.PITCH_NOW_PITCH, k), (F.PITCH_NOW_POS, p)]
  else w

/-- Registers of the FUSE block (Tables 253 to 256), which read zero until the fuses are voted. -/
def State.viewFuse (s : State) (o : Nat) (w : Word) : Word :=
  let x := s.sec
  let voted := decide (s.fld R.FUSE_STATUS F.FUSE_STATUS_VOTED = 1)
  if o = 0x18 then setF w F.FUSE_STATUS_PENDING (b2n x.pending)
  else if !voted then w
  else if o = 0x20 then BitVec.ofNat 64 (bitsOf s.layout 23 8)
  else if o = 0x28 then setFs 0 [(F.FUSE_KEYS_BOOT_WRITTEN, maskOf 4 (fun i => x.fuse (0x10 + i) != 0)), (F.FUSE_KEYS_BOOT_REVOKED, x.fuse 0x14),
    (F.FUSE_KEYS_SIGN_WRITTEN, maskOf 4 (fun i => x.fuse (0x20 + i) != 0)), (F.FUSE_KEYS_SIGN_REVOKED, x.fuse 0x24),
    (F.FUSE_KEYS_SKEY_WRITTEN, maskOf 4 (fun i => x.fuse (0x30 + i) != 0)), (F.FUSE_KEYS_SKEY_REVOKED, x.fuse 0x34),
    (F.FUSE_KEYS_DEBUG_KEY, b2n (x.fuse 0x28 != 0)), (F.FUSE_KEYS_SVN, popCount 64 (x.fuse 0x15)), (F.FUSE_KEYS_DEBUG, x.fuse 0x29 % 4),
    (F.FUSE_KEYS_EXPORT, x.fuse 0x29 / 4 % 4)]
  else if 0x100 ≤ o ∧ o < 0x300 then BitVec.ofNat 64 (maskOf 64 (doorBit s.layout ((o - 0x100) / 8)))
  else w

/-- Registers of the SEC block (Tables 257 to 261). -/
def Sec.view (x : Sec) (o : Nat) (w : Word) : Word :=
  if o = 0x00 then Config.nonceWord x.nonce 0
  else if o = 0x08 then Config.nonceWord x.nonce 1
  else if o = 0x10 then setF w F.SEC_CMD_BUSY (b2n x.run.isSome)
  else if o = 0x20 then BitVec.ofNat 64 x.debugReg
  else if 0x40 ≤ o ∧ o < 0x60 then BitVec.ofNat 64 (x.bbkValid ((o - 0x40) / 8))
  else w

/-- Registers of the PWR block (Tables 281 to 285). -/
def State.viewPwr (s : State) (o : Nat) (w : Word) : Word :=
  if o = 0x00 then setFs w [(F.PWR_STATE_CAPPING, b2n (decide (s.pwr.target < 1600))), (F.PWR_STATE_THERMAL, b2n s.pwr.thermal)]
  else if o = 0x08 then setF w F.PWR_INPUT_MAIN_10MV (s.pwr.mainMv / 10)
  else if o = 0x18 then setF w F.PWR_HOLDUP_NV_PENDING (min 15 (s.pwr.nv.filter (fun j => match j.item with
    | .log _ => true
    | _ => false)).length)
  else if 0x40 ≤ o ∧ o < 0x80 then setF w F.PWR_CLK_TARGET_MHZ (s.pwr.targetOf ((o - 0x40) / 8))
  else w

/-- Registers of the EVT block. -/
def State.viewEvt (s : State) (o : Nat) (w : Word) : Word :=
  if o = 0x00 then setF w F.EVT_LOG_HEAD_HEAD s.evt.ring.head
  else if o = 0x08 then setF w F.EVT_LOG_TAIL_TAIL s.evt.ring.tail
  else if o = 0x50 then setF w F.RESET_CMD_BUSY (b2n s.resetBusy)
  else w

/-- Registers of the LINK block (Tables 240 to 242). -/
def State.viewLink (s : State) (o : Nat) (w : Word) : Word :=
  if o = 0x08 then setF w F.LINK_CMD_BUSY (b2n s.link.disabling.isSome)
  else if 0x100 ≤ o ∧ o < 0x180 then
    let p := (o - 0x100) / 8
    let x := s.port p
    if s.portPresent p then setFs w [(F.LINK_PORT_STATUS_STATE, x.st), (F.LINK_PORT_STATUS_RATE, b2n x.half), (F.LINK_PORT_STATUS_VER, x.ver), (F.LINK_PORT_STATUS_REASON, x.reason)] else 0
  else w

/-- Registers of a ring page (Tables 229 to 232). -/
def RingPage.view (g : RingPage) (o : Nat) : Word :=
  if o = 0x400 then setFs 0 [(F.TR_SQ_TAIL, g.sqTail), (F.TR_SQ_HEAD, g.sqHead)]
  else if o = 0x408 then BitVec.ofNat 64 (g.cqBase / 4096 * 4096)
  else if o = 0x410 then setFs 0 [(F.TR_CQ_CFG_ENABLE, b2n g.enable), (F.TR_CQ_CFG_LOG2, g.log2), (F.TR_CQ_CFG_VECTOR, g.vector),
    (F.TR_CQ_CFG_HEAD, g.cqHead), (F.TR_CQ_CFG_TAIL, g.cqTail)]
  else if o = 0x418 then setF 0 F.TR_STAT_BAD_DB g.badDb
  else 0

/-! ### Every block -/

/-- Is a register of a unit that the part lacks (R8)? Its window reads zero and ignores writes. -/
def State.absent (s : State) (b : Blk) (u o : Nat) : Bool :=
  match b with
  | .cell => !s.populated u
  | .cluster => !s.hasUpd && decide (0xB00 ≤ o ∧ o < 0xB10)
  | .cxl => decide (s.part = .b)
  | .link => decide (0x100 ≤ o ∧ o < 0x180) && !s.portPresent ((o - 0x100) / 8)
  | _ => false

/-- What register offset o of unit u of a block reads as. -/
def State.view (s : State) (b : Blk) (u o : Nat) : Word :=
  let w (a : Nat) : Word := if (regDescAt a).isSome then s.reg a else 0
  let d := w (b.base u + o)
  if s.absent b u o then 0 else
  match b with
  | .cell => (s.cell u).view o d
  | .cluster => s.viewClu u o d
  | .part =>
    if o < 0x18 then s.viewFuse o (w (Blk.base .fuse 0 + o))
    else if 0x80000 ≤ o ∧ o < 0x80000 + 256 * 64 then (SMap.get {} s.partEvt u).word (o - 0x80000)
    else s.viewPart u o d
  | .time => s.time.view o d
  | .fuse => s.viewFuse o d
  | .sec => s.sec.view o d
  | .pwr => s.viewPwr o d
  | .evt => if 0x10000 ≤ o ∧ o < 0x10000 + 4096 * 64 then s.evt.ring.word (o - 0x10000) else s.viewEvt o d
  | .link => s.viewLink o d
  | .hbm => if o = 0x48 then setF d F.NT_TLB_INV_BUSY (b2n s.tlbBusy) else if o = 0x190 then setF d F.UPD_EXPORT_CTRL_BUSY (b2n s.exporting.isSome) else d
  | .adm =>
    if o = 0x08 then setF d F.ADM_STATUS_INTAKE_USED s.intakeHeld.length else d
  | .ring => (s.page u).view o
  | _ => d

end Sys2Proof.Machine
end

