-- ==== Sys2Proof/Machine/Regs.lean ====
section
/-! DEFINITION. Register accesses (R8, R14 to R16): what a read returns and clears, what a write does to each register, and who reaches which block. -/

namespace Sys2Proof.Machine

/-! ### Reads -/

/-- A field of which only the values in some range occur: what a draw stands for. -/
structure FreeFld where
  f : Fld
  pick : Nat → Nat := id

/-- Fields that take any value. -/
def anyOf (l : List Fld) : List FreeFld := l.map (fun f => { f := f })

/-- The current slot (Table 137): 0 to 173, or 0xFF. -/
def pickSlot (n : Nat) : Nat := if n % 175 = 174 then 0xFF else n % 175

/-- Fields that only the block's timing or an analogue measurement sets: a read returns a free value there. -/
def freeFlds (b : Blk) (o : Nat) : List FreeFld :=
  match b with
  | .cell =>
    if 0x600 ≤ o ∧ o < 0x640 then anyOf [F.CH_IN_CNT_EMPTY_STALL]
    else if 0x640 ≤ o ∧ o < 0x680 then anyOf [F.CH_OUT_CNT_CREDIT_STALL]
    else []
  | .cluster =>
    if o = 0x500 then [{ f := F.CLU_RTR_STATUS_SLOT, pick := pickSlot }]
    else if 0x300 ≤ o ∧ o < 0x320 then anyOf [F.CLU_XBAR_STAT_STARVE]
    else if 0x520 ≤ o ∧ o < 0x548 then anyOf [F.CLU_RTR_LINK_BE_STARVE]
    else []
  | .pwr =>
    if o = 0x08 then anyOf [F.PWR_INPUT_AUX_10MV]
    else if 0x40 ≤ o ∧ o < 0x80 then anyOf [F.PWR_CLK_EST_W, F.PWR_CLK_HOLD_FC]
    else []
  | .ring => if o = 0x418 then anyOf [F.TR_STAT_CQ_STALL] else []
  | _ => []

/-- Give each of some fields of a word a free value. -/
def State.drawFlds (s : State) (w : Word) : List FreeFld → State × Word
  | [] => (s, w)
  | x :: fs => State.drawFlds { s with draws := s.draws + 1 } (setF w x.f (x.pick (Config.freeWord s.draws).toNat)) fs

/-- Clear the RC fields of a stored register: each takes its reset value (R14, Table 30). -/
def State.clearRc (s : State) (a : Nat) : State :=
  match regDescAt a with
  | some (d, _) => (d.fields.filter (fun f => decide (f.acc = .rc))).foldl (fun s f => s.setFld a f.f f.rst) s
  | none => s

/-- A read of a counter that time moves brings it up to date (Table 69). -/
def State.readTime (s : State) (b : Blk) (u o : Nat) : State :=
  if b = .cell ∧ 0x40 ≤ o ∧ o < 0x80 then s.countTime u else s

/-- Read register offset o of unit u of a block: the value, and what the read clears. -/
def State.regRead (s : State) (b : Blk) (u o : Nat) : State × Word :=
  if s.absent b u o then (s, 0)
  else
    let s := s.readTime b u o
    let (s', w) := s.drawFlds (s.view b u o) (freeFlds b o)
    (match b with
      | .ring => if o = 0x418 then s'.setPage u { s'.page u with badDb := 0 } else s'
      | .part => if o = 0x110 then s'.setMembers (s'.members (s'.teamId u)) R.SECT_STATUS F.SECT_STATUS_MORE_FAULTS 0 else s'.clearRc (b.base u + o)
      | _ => s'.clearRc (b.base u + o), w)

/-! ### Writes -/

/-- What a write leaves in one field by its access type (R14). -/
def fieldWrite (t : AccTy) (old v : Nat) : Nat :=
  match t with
  | .rw => v
  | .w1c => old - (old &&& v)
  | .w1s => old ||| v
  | _ => old

/-- A write of a register that acts by its access types alone; a reserved bit is ignored (R14, R15). -/
def State.writeFlds (s : State) (a : Nat) (v : Word) : State :=
  match regDescAt a with
  | some (d, _) =>
    (d.fields.filter (fun f => decide (f.acc = .rw ∨ f.acc = .w1c ∨ f.acc = .w1s))).foldl
      (fun s f => s.setFld a f.f (fieldWrite f.acc (s.fld a f.f) (getF v f.f))) s
  | none => s

/-- A write to the partition block of partition u through function fn (R99, R225). -/
def State.writePart (s : State) (fn u o : Nat) (v : Word) : State :=
  let a := Blk.base .part u + o
  if o = 0x508 then s.writePartTail u v
  else if o = 0x600 then s.writeFocia u v
  else if o = 0x130 then (if fn = 64 then (s.members (s.teamId u)).foldl (fun s p => s.writeFlds (R.SECT_BIV_AREA p) v) s else s)
  else if o = 0x120 ∨ 0x200 ≤ o ∧ o < 0x280 then (if fn = 64 then s.writeFlds a v else s)
  else s.writeFlds a v

/-- A write to the EVT block. -/
def State.writeEvt (s : State) (o : Nat) (v : Word) : State :=
  let a := Blk.base .evt 0 + o
  if o = 0x08 then s.writeEvtTail v
  else if o = 0x28 then s.writeSlotCmd v
  else if o = 0x50 then (if s.pwr.aux then s.writeResetCmd v else s)
  else if 0x2000 ≤ o ∧ o < 0x3000 ∧ o % 0x40 = 0 then
    let i := (o - 0x2000) / 0x40
    let s := s.writeFlds a v
    if getF v F.INTEG_REPL_CFG_VERIFY = 1 then s.replStart i true else s
  else s.writeFlds a v

/-- A write to the cluster block of cluster g (R20: CLU_SLOT_MAP is written through the physical function before ready). -/
def State.writeClu (s : State) (fn g o : Nat) (v : Word) : State :=
  let a := Blk.base .cluster g + o
  if o = 0x0 then
    (if fn = 64 ∧ !s.ready then
      let s := s.writeFlds a v
      s.setFld (R.CLU_RTR_FENCE g) F.CLU_RTR_FENCE_FENCE (s.retiredFence g)
    else s)
  else if o = 0x100 ∨ o = 0x108 then s.sfuQueue g ((o - 0x100) / 8) v
  else if o = 0x800 then s.dmaQueue g v
  else if o = 0xB00 then s.updQueue g v
  else s.writeFlds a v

/-- A write to the cell block of cell L: CELL_CNT_CTRL.CLEAR zeroes the counters (Table 67), and with GATE_DIS = 1 no bank is gated (Table 82). -/
def State.writeCellReg (s : State) (L o : Nat) (v : Word) : State :=
  let s := (if o = 0x18 then s.countTime L else s).writeFlds (Blk.base .cell L + o) v
  let s := if o = 0xA8 ∧ getF v F.CELL_TREG_CTRL_GATE_DIS = 1 then s.setCell L { s.cell L with gated := List.replicate 4 false } else s
  if o = 0x18 ∧ getF v F.CELL_CNT_CTRL_CLEAR = 1 then (List.range 8).foldl (fun s k => s.setReg (R.CELL_CNT L k) 0) s else s

/-- A write to the ring page of tenant t through function f. -/
def State.writeRing (s : State) (f t o : Nat) (v : Word) : State :=
  let g := s.page t
  if o < 0x400 then s.setPage t { g with sq := ((List.range 8).zip (leBytes 8 v.toNat)).foldl (fun m x => SMap.ins (o + x.1) x.2 m) g.sq }
  else if o = 0x400 then s.writeTrSq f t v
  else if o = 0x408 then (if g.enable then s else s.setPage t { g with cqBase := getF v F.TR_CQ_BASE_ADDR * 4096 })
  else if o = 0x410 then s.writeTrCqCfg t v
  else s

/-- Write register offset o of unit u of a block through function fn (64 the physical function, 100 a cluster controller). -/
def State.regWrite (s : State) (fn : Nat) (b : Blk) (u o : Nat) (v : Word) : State :=
  let a := b.base u + o
  if s.absent b u o then s else
  match b with
  | .adm =>
    if o = 0x10 then (if s.ready ∧ getF v F.ADM_TEAM_CHANGE_OP ≠ 0 then s.askChange (getF v F.ADM_TEAM_CHANGE_OP) v else s)
    else if 0x100 ≤ o ∧ o < 0x180 then s.writeShare a v
    else if 0x10000 ≤ o ∧ o < 0x18000 then s.writeTenant ((o - 0x10000) / 8) v
    else s.writeFlds a v
  | .time => if o = 0x18 then s.writeTimeCtrl v else if o = 0x20 then s.writePitchCfg v else s.writeFlds a v
  | .sec => if o = 0x10 then s.writeSecCmd v else s.writeFlds a v
  | .pwr => if o = 0x10 then (if fn = 64 then s.writeFlds a v else s) else s.writeFlds a v
  | .evt => s.writeEvt o v
  | .host => if o = 0 then s.writeFocia 64 v else s.writeFlds a v
  | .link =>
    if o = 0x08 then (if s.ready then s.writeLinkCmd v else s)
    else if o = 0 ∧ s.link.ports.any (fun x => x.2.on) then s.setFld a F.LINK_CTRL_TABLE (getF v F.LINK_CTRL_TABLE)
    else s.writeFlds a v
  | .hbm =>
    if o = 0x48 then s.writeTlbInv v
    else if 0x100 ≤ o ∧ o < 0x140 then s.writeSeal ((o - 0x100) / 8) v
    else if o = 0x190 then s.writeExport v
    else s.writeFlds a v
  | .cluster => s.writeClu fn u o v
  | .cell => s.writeCellReg u o v
  | .part => s.writePart fn u o v
  | .ring => s.writeRing fn u o v
  | .fuse | .cxl => s.writeFlds a v

/-! ### Who reaches a block (R20, R326, R339, R417, R476) -/

/-- Does a function's window show a block, in the present stage of the boot? -/
def State.fnReach (s : State) (f : Nat) (b : Blk) (u : Nat) : Bool :=
  s.fnLive f &&
  (match b with
    | .ring => s.ready && s.pageShown f u
    | .part => s.ready && (decide (f = 64) || decide (f = u))
    | .host | .evt | .fuse | .sec | .pwr => decide (f = 64)
    | _ => decide (f = 64) && s.ready)

/-- Do the application cores run base-camp firmware? -/
def State.coresRun (s : State) : Bool := decide (1 ≤ s.stage ∧ s.stage ≤ 7)


/-- Is offset o of a block one of the interrupt files (R16, R346), which hold no registers? -/
def irqFile (b : Blk) (o : Nat) : Bool := decide (b = .evt) && decide (0x80000 ≤ o)

/-- Does an access of n bytes at offset o act on a register: one aligned 64-bit access outside the interrupt files (R16)? -/
def regSized (b : Blk) (o n : Nat) : Bool := decide (n = 8) && decide (o % 8 = 0) && !irqFile b o

end Sys2Proof.Machine
end

