-- ==== Sys2Proof/Machine/Hubio.lean ====
section
/-! DEFINITION. Accesses that come to the device from outside the cells: the host's BAR windows (R417, R418, R420), configuration requests (R476), the
application cores' I/O (R339, R340) and the memory-tile and hub packets that carry them (R212, R250). -/

namespace Sys2Proof.Machine

/-! ### Windows of a function (Table 224) -/

/-- Place of a byte of the grant window of partition p: device address, and whether its grant permits writes (R418). -/
def State.grantByte (s : State) (p : Nat) : List Nat → Nat → Option (Nat × Bool)
  | [], _ => none
  | n :: ns, o =>
    let r := R.PART_GRANT p n
    if s.fld r F.PART_GRANT_VALID = 0 then State.grantByte s p ns o
    else
      let len := s.fld r F.PART_GRANT_LEN_2M * 0x200000
      if o < len then some (s.fld r F.PART_GRANT_BASE_2M * 0x200000 + o, decide (s.fld r F.PART_GRANT_WR = 1))
      else State.grantByte s p ns (o - len)

/-- Ring page and offset at an offset of the ring-page window, as an address of the model's ring block (R420). -/
def ringByte (o : Nat) : Nat := Blk.base .ring (o / 0x800) + o % 0x800

/-- Device address of a byte of a function's window, and whether a write passes: none where Table 224 leaves it unassigned. -/
def State.windowByte (s : State) (f bar o : Nat) : Option (Nat × Bool) :=
  let at' (a : Nat) : Option (Nat × Bool) := some (a, true)
  if f = 64 then
    if bar = 0 then
      if o < 0x1000000 then at' (0x0F0000000000 + o)
      else if o < 0x1800000 then at' (ringByte (o - 0x1000000))
      else if 0x2000000 ≤ o ∧ o < 0x2040000 then at' (0x0F4000000000 + (o - 0x2000000))
      else if 0x10000000 ≤ o ∧ o < 0x20000000 then at' (0x0F1000000000 + (o - 0x10000000))
      else if 0x20000000 ≤ o ∧ o < 0x30000000 then at' (0x0F2000000000 + (o - 0x20000000))
      else if 0x30000000 ≤ o ∧ o < 0x34000000 then at' (0x0F3000000000 + (o - 0x30000000))
      else none
    else if bar = 2 ∧ o < 2 ^ 36 then
      let r := R.HOST_APERTURE (o / 2 ^ 33)
      if s.fld r F.HOST_APERTURE_VALID = 1 then at' (s.fld r F.HOST_APERTURE_BASE_8G * 2 ^ 33 + o % 2 ^ 33) else none
    else none
  else if bar = 0 then
    if o < 0x100000 then at' (Blk.base .part f + o)
    else if o < 0x101000 then at' (anchorAddr (128 * s.cluster f ((o - 0x100000) / 1024)) + (o - 0x100000) % 1024)
    else if 0x800000 ≤ o ∧ o < 0x1000000 then at' (ringByte (o - 0x800000))
    else if 0x10000000 ≤ o ∧ o < 0x20000000 then at' (scratchAddr (64 * f) 0 + (o - 0x10000000))
    else if 0x20000000 ≤ o ∧ o < 0x30000000 then
      let x := o - 0x20000000
      at' (tileAddr (s.cluster f (x / 0x4000000)) (x % 0x4000000))
    else none
  else if bar = 2 then s.grantByte f (List.range 16) o
  else none

/-- Is a device byte reachable by a function: assigned, backed, not sealed, and its block present in this stage of the boot (R27, R406, R476)? The interrupt
files of the cores are unbacked for the host (R346). -/
def State.hostOk (s : State) (f a : Nat) : Bool :=
  match blockOf a with
  | some (.ring, t, o) => s.ready && decide (o < 0x420) && decide (t < 4096) && (s.fnLive f)
  | some (b, u, o) => s.fnReach f b u && !(decide (b = .evt) && decide (0x80000 ≤ o))
  | none => s.ready && s.backed a

/-- Maximal runs of consecutive addresses that stay within 4 KiB, as (first, count). -/
def runsOf : List Nat → List (Nat × Nat)
  | [] => []
  | a :: l => match runsOf l with
    | (b, n) :: r => if a + 1 = b ∧ b % 4096 ≠ 0 then (a, n + 1) :: r else (a, 1) :: (b, n) :: r
    | [] => [(a, 1)]

/-! ### Memory behind an access -/

/-- Does an address lie in the near tier or the far-tier window? -/
def isTier (a : Nat) : Bool := decide (a < 0x040000000000)

/-- Array code of DETAIL for an on-die address (Table 205): 0 scratchpad, 1 memory tile. -/
def arrayOf (a : Nat) : Nat := if 0x081000000000 ≤ a then 0 else 1

/-- Read bytes of memory for the hub: a tier answers as R221 and R225 say, an on-die array as R362 and R363 say. -/
def State.devRead (s : State) (a n : Nat) : State × List Byte × List Nat :=
  if isTier a then
    if s.farFailed a then ({ s with draws := s.draws + 1 }.countPoison a (sectorsOf a n).length, (List.range n).map (Config.freeByte s.draws), sectorsOf a n)
    else s.tierRead a n
  else s.deliver 0 0 (arrayOf a) 23 a n

/-- Write bytes of memory for the hub. -/
def State.devWrite (s : State) (a : Nat) (b : List Byte) (bad : List Nat) : State :=
  if isTier a then (if s.farFailed a then s.countPoison a (sectorsOf a b.length).length else s.tierWrite a b bad)
  else s.tileWr a b bad

/-! ### HOST_MEMORY_ACCESS -/

/-- The first bytes of a word. -/
def wordBytes (w : Word) (n : Nat) : List Byte := sliceB (leBytes 8 w.toNat) 0 n

/-- An access to a register block or a ring page (R16, R420): other widths and alignments read zero, do nothing, and are logged. The test comes before that of an
absent unit's window (R8), whose accesses of the right size alone log nothing: which comes first is open (DESIGN CHOICE, assumption 106). -/
def State.hostReg (s : State) (f : Nat) (b : Blk) (u o log size : Nat) (wr : Option (List Byte)) : State :=
  let bytes (s : State) (l : List Byte) : State := if wr.isNone then { s with readData := l } else s
  if b = .ring ∧ !s.pageShown f u then bytes s (List.replicate size 0)
  else if b = .ring ∧ o < 0x400 then
    let g := s.page u
    match wr with
    | none => { s with readData := (List.range size).map (fun i => SMap.get 0 g.sq (o + i)) }
    | some d => s.setPage u { g with sq := ((List.range size).zip d).foldl (fun m x => SMap.ins (o + x.1) x.2 m) g.sq }
  else if !regSized b o size then (bytes s (List.replicate size 0)).badAccess 0 log size wr.isSome
  else match wr with
    | none =>
      let (s, w) := s.regRead b u o
      { s with readData := wordBytes w 8 }
    | some d => s.regWrite f b u o (BitVec.ofNat 64 (leNat d))

/-- HOST_MEMORY_ACCESS (R417, R418): `wr` holds the bytes of a write; a read of an unassigned or unbacked byte completes with Unsupported Request, shown as no
data. -/
def execHostMemoryAccess (f : Fin 65) (bar : Fin 3) (a : BitVec 48) (size : Nat) (wr : Option (List Byte)) (s : State) :
    Host.Outcome State Fault Refusal :=
  let o := a.toNat
  let n := match wr with
    | some d => d.length
    | none => size
  let ur : State := if wr.isNone then { s with readData := [] } else s
  .next (
    if n = 0 ∨ 4096 < n ∨ !s.fnLive f.val then ur
    else
      let l := (List.range n).map (fun i => s.windowByte f.val bar.val (o + i))
      let as := l.filterMap id
      if as.length ≠ n ∨ as.any (fun x => !s.hostOk f.val x.1) then ur
      else if wr.isSome ∧ as.any (fun x => !x.2) then s
      else
        let first := (nthD as 0 (0, true)).1
        match blockOf first with
        | some (b, u, off) => s.hostReg f.val b u off (if b = .ring then o else first) n wr
        | none =>
          if 0x0F4000000000 ≤ first ∧ first < 0x0F4000040000 then
            let k := (first - 0x0F4000000000) / 8
            if n ≠ 8 ∨ first % 8 ≠ 0 then
              (if wr.isNone then { s with readData := List.replicate n 0 } else s).badAccess 0 first n wr.isSome
            else match wr with
              | none => { s with readData := wordBytes (s.anchor k) 8 }
              | some d => (s.hubAnc 0x6F k (BitVec.ofNat 64 (leNat d))).1
          else match wr with
            | none => (runsOf (as.map (·.1))).foldl (fun s r =>
                let (s, b, _) := s.devRead r.1 r.2
                { s with readData := s.readData ++ b }) { s with readData := [] }
            | some d => ((runsOf (as.map (·.1))).foldl (fun (x : State × List Byte) r =>
                (x.1.devWrite r.1 (x.2.take r.2) [], x.2.drop r.2)) (s, d)).1)

/-! ### Configuration requests (R415, R416, R476) -/

/-- CONFIGURATION_REQUEST: Retry Status until step 4a has trained the link; then it completes. A write of the SR-IOV NumVFs register of the physical function
sets NumVFs, from 0 to 64; the content of the rest of configuration space is open, so a read of it returns a free value. -/
def execConfigurationRequest (f : Fin 65) (wr : Bool) (off : BitVec 12) (v : BitVec 32) (s : State) : Host.Outcome State Fault Refusal :=
  .next (
    if !s.linkUp then s
    else if f.val = 64 ∧ off = Config.numVFsOffset then
      (if !wr then { s with readVal := BitVec.ofNat 64 s.host.numVFs }
      else if v.toNat % 65536 ≤ 64 then { s with host := { s.host with numVFs := v.toNat % 65536 } } else s)
    else if wr then s
    else { s with draws := s.draws + 1, readVal := Config.freeWord s.draws % 2 ^ 32 })

/-! ### Memory-tile packets (R212, R234) -/

/-- Answer at a memory-tile port, for a requester outside the cluster. -/
def State.portAnswer (s : State) (p : Packet) (k : Pkt) : State := s.replyTo p (.cluster p.dest.cluster) k

/-- Take the n-th selected request or answer out of the crossbars; none changes nothing. Tags tell answers apart, so the crossbars keep no order. -/
def State.onXbar (s : State) (sel : Packet → Bool) (n : Nat) (f : State → Packet → State) : State :=
  match pickNth sel s.xbar n 0 with
  | none => s
  | some i => match s.xbar[i]? with
    | none => s
    | some p => f { s with xbar := s.xbar.eraseIdx i } p

/-- Take the n-th memory-tile packet of a type out of the mesh, or out of the crossbars. -/
def State.onTile (s : State) (xb : Bool) (ty n : Nat) (f : State → Packet → State) : State :=
  let sel (p : Packet) : Bool := decide (p.pkt.type = ty)
  if xb then s.onXbar sel n f else s.onPkt sel n f

/-- Answer a memory-tile request where it came from. -/
def State.tileAnswer (s : State) (xb : Bool) (p : Packet) (k : Pkt) : State :=
  if xb then { s with xbar := s.xbar ++ [{ p with pkt := k, dest := p.src, src := p.dest, sender := .cluster p.dest.cluster }] } else s.portAnswer p k

/-- MT_READ at a tile port (R212, R233): memory tiles, and scratchpads through port P4 of their cell. -/
def execMtRead (q : TilePkt) (s : State) : Host.Outcome State Fault Refusal :=
  .next (s.onTile q.xb 0x20 q.n (fun s p => match p.pkt with
    | .memRead _ r =>
      let g := p.dest.cluster
      let (s, b, bad) := if q.xb then s.deliver 2 g 1 p.src.code r.addr r.len else s.deliver 0 0 (arrayOf r.addr) 21 r.addr r.len
      s.tileAnswer q.xb p (.memData false r b bad)
    | _ => s))

/-- MT_WRITE at a tile port (R212). -/
def execMtWrite (q : TilePkt) (s : State) : Host.Outcome State Fault Refusal :=
  .next (s.onTile q.xb 0x21 q.n (fun s p => match p.pkt with
    | .memWrite _ r b bad => (s.tileWr r.addr b bad).tileAnswer q.xb p (.memAck false r)
    | _ => s))

/-- An instruction of a core completes: rd takes a value, and the core goes on behind its `len` bytes. -/
def AppCore.done (c : AppCore) (rd : Nat) (v : Option Word) (len : Nat) : AppCore :=
  { (c.putCsr 0xB02 (c.csr 0xB02 + 1)) with
    x := match v with
      | some v => if rd = 0 then c.x else c.x.set rd v
      | none => c.x
    pc := (c.pc + len) % 2 ^ 64 }

/-- A floating-point register takes a value of 2^k bytes, boxed with ones when it is narrow. -/
def AppCore.setF (c : AppCore) (k rd v : Nat) : AppCore :=
  { c with f := c.f.set rd (if k = 2 then BitVec.ofNat 64 (0xFFFFFFFF * 2 ^ 32 + v % 2 ^ 32) else BitVec.ofNat 64 v) }.fsDirty

/-- Bytes of the vector registers from byte o of register vd on; a group runs through consecutive registers. -/
def AppCore.vBytes (c : AppCore) (vd o n : Nat) : List Byte := (List.range n).map (fun i => nthD (nthD c.v (vd + (o + i) / 64) []) ((o + i) % 64) 0)

/-- Put bytes into the vector registers. -/
def AppCore.putV (c : AppCore) (vd o : Nat) (b : List Byte) : AppCore :=
  { c with v := ((List.range b.length).zip b).foldl (fun (v : List (List Byte)) (x : Nat × Byte) => v.modify (vd + (o + x.1) / 64) (fun r => r.set ((o + x.1) % 64) x.2)) c.v }.vsDirty

/-- The value of a load of 2^k bytes. -/
def loadVal (k : Nat) (signed : Bool) (b : List Byte) : Word :=
  if signed then BitVec.ofInt 64 (sxt (8 * 2 ^ k) (leNat b)) else BitVec.ofNat 64 (leNat b)

/-- The answer of an I/O load reaches its core. -/
def AppCore.answer (c : AppCore) (b : List Byte) : AppCore :=
  let c' := { c with wait := none }
  match c.wait with
  | some (.load k sg rd len) => c'.done rd (some (loadVal k sg b)) len
  | some (.fload k rd len) => (c'.setF k rd (leNat b)).done 0 none len
  | some (.velem vd k i) => (c'.putV vd (2 ^ k * i) b).putCsr 0x008 (i + 1)
  | _ => c'

/-- Read data reaches a requester: an engine of a cluster, or the hub for an application core. -/
def State.reqData (s : State) (p : Packet) (r : MemReq) (b : List Byte) (bad : List Nat) : State :=
  let g := p.dest.cluster
  if p.dest.code < 16 then s.leadData (s.cellAt g p.dest.code) r b bad
  else if p.dest.code = 19 then s.dmaData g r b bad
  else if p.dest.code = 20 then s.updData g r b bad
  else { s with readVal := BitVec.ofNat 64 (leNat b) }.updCore r.tag (·.answer b)

/-- A write acknowledgement reaches a requester. -/
def State.reqAck (s : State) (p : Packet) (r : MemReq) : State :=
  let g := p.dest.cluster
  if p.dest.code < 16 then s.leadAck (s.cellAt g p.dest.code) r
  else if p.dest.code = 19 then s.dmaAck g r
  else if p.dest.code = 20 then s.updAck g r
  else s

/-- MT_DATA at its requester (R235); then the haul ring of a cell presents a number of beats (assumption 119). -/
def execMtData (q : TileData) (s : State) : Host.Outcome State Fault Refusal :=
  .next ((s.onTile q.xb 0x22 q.n (fun s p => match p.pkt with
    | .memData _ r b bad => s.reqData p r b bad
    | _ => s)).leadDrain q.cell.val q.beats)

/-- MT_ACK at its requester (R234). -/
def execMtAck (q : TilePkt) (s : State) : Host.Outcome State Fault Refusal :=
  .next (s.onTile q.xb 0x23 q.n (fun s p => match p.pkt with
    | .memAck _ r => s.reqAck p r
    | _ => s))

/-! ### Hub packets (R250) -/

/-- Number of a packet's sender for the pitch limit of R16: a cluster's controller, else the host. -/
def senderNum : Sender → Nat
  | .cluster g => 100 + g
  | _ => 0

/-- HUB_REQ at the hub attach port: the hub reads or writes at ADDR and answers; a register block takes only the accesses of R16. -/
def execHubReq (n : Nat) (s : State) : Host.Outcome State Fault Refusal :=
  .next (s.onPkt (fun p => decide (p.pkt.type = 0x40)) n (fun s p => match p.pkt with
    | .hubReq r write body bad =>
      (match blockOf r.addr with
        | some (b, u, o) =>
          if !regSized b o r.len then
            (s.badAccess (senderNum p.sender) r.addr r.len write).replyTo p .hub (.hubResp r (if write then [] else List.replicate r.len 0) [])
          else if write then (s.regWrite 64 b u o (BitVec.ofNat 64 (leNat body))).replyTo p .hub (.hubResp r [] [])
          else
            let (s, w) := s.regRead b u o
            s.replyTo p .hub (.hubResp r (wordBytes w r.len) [])
        | none =>
          if write then (s.devWrite r.addr body bad).replyTo p .hub (.hubResp r [] [])
          else
            let (s, b, bad) := s.devRead r.addr r.len
            s.replyTo p .hub (.hubResp r b bad))
    | _ => s))

/-- HUB_RESP at its requester: data, or with an empty body an acknowledgement. -/
def execHubResp (n : Nat) (s : State) : Host.Outcome State Fault Refusal :=
  .next (s.onPkt (fun p => decide (p.pkt.type = 0x41)) n (fun s p => match p.pkt with
    | .hubResp r b bad => if b.isEmpty then s.reqAck p r else s.reqData p r b bad
    | _ => s))

/-! ### Application cores: I/O (R339, R340, R346) -/

/-- What an access of a core comes to: done with the bytes read, an access fault, an answer that a packet will bring, or another attempt later. -/
inductive CoreAns where
  | done (b : List Byte)
  | fault
  | wait
  | retry
  deriving DecidableEq, Repr

/-- Note whether a core's access raised an access fault. -/
def State.coreFault (s : State) (h : Nat) (yes : Bool) : State := s.setCore h { s.core h with fault := yes }

/-- An access of a core to an unbacked or sealed address: an access fault, and ADDR_HOLE (R27, R339, R406). -/
def State.coreHole (s : State) (h a : Nat) : State := (s.coreFault h true).raise { code := 0x3010, kind := 0, src := h, addr := some a }

/-- An access to the interrupt files (R346): a 4-byte write of an identity to the first word of a file's page makes it pending; every read returns zero. -/
def State.imsicAccess (s : State) (o : Nat) (wr : Option Word) : State :=
  let x := o - 0x80000
  let f := x % 0x8000 / 0x1000
  match wr with
  | none => s
  | some v =>
    let id := v.toNat % 2 ^ 32
    if x % 0x1000 = 0 ∧ 1 ≤ id ∧ id ≤ 255 then s.setIrq (8 * (x / 0x8000) + f) id else s

/-- Is an I/O access of a core to a memory tile or scratchpad in flight? -/
def State.coreBusy (s : State) (h : Nat) : Bool := s.net.any (fun p => match p.pkt with
  | .memRead t r | .memWrite t r _ _ | .memData t r _ _ | .memAck t r => !t && decide (r.tag = h)
  | _ => false)

/-- Send a core's access to a memory tile or scratchpad. -/
def State.coreSend (s : State) (h a size : Nat) (wr : Option Word) : State :=
  let g := if 0x081000000000 ≤ a then s.clusterOf ((a - 0x081000000000) / 0x400000) else (a - 0x080000000000) / 0x4000000
  let r : MemReq := ⟨a, size, h, 0⟩
  s.send { pkt := match wr with
             | some v => .memWrite false r (wordBytes v size) []
             | none => .memRead false r,
           dest := ⟨g, 21⟩, src := hubEp g, sender := .hub }

/-- Does an address lie in the anchor array? -/
def isAnchor (x : Nat) : Bool := decide (anchorAddr 0 ≤ x) && decide (x < anchorAddr 32768)

/-- An access of a core outside main memory (R16, R339, R340, R346). -/
def State.coreIo (s : State) (h x size : Nat) (wr : Option Word) : State × CoreAns :=
  if s.coreBusy h then (s, .retry)
  else
    let zero : CoreAns := .done (List.replicate size 0)
    let bad : State × CoreAns := (s.badAccess (1 + h) x size wr.isSome, zero)
    match blockOf x with
    | some (b, u, o) =>
      if irqFile b o then (if size = 4 ∧ o % 4 = 0 then (s.imsicAccess o wr, zero) else bad)
      else if !regSized b o size then bad
      else (match wr with
        | some v => (s.regWrite 64 b u o v, zero)
        | none =>
          let (s, w) := s.regRead b u o
          (s, .done (wordBytes w size)))
    | none =>
      if !s.backed x then (s.coreHole h x, .fault)
      else if isAnchor x then
        (if size ≠ 8 ∨ x % 8 ≠ 0 then (s, .fault)
        else match wr with
          | some v => ((s.hubAnc 0x6F ((x - anchorAddr 0) / 8) v).1, zero)
          | none => (s, .done (leBytes 8 (s.anchor ((x - anchorAddr 0) / 8)).toNat)))
      else if (size = 1 ∨ size = 2 ∨ size = 4 ∨ size = 8) ∧ x % size = 0 then (s.coreSend h x size wr, if wr.isNone then .wait else zero)
      else (s, .fault)

/-- An AMO of a core on an anchor (R340): the old word, none where the operation is refused. -/
def State.coreAmo (s : State) (code a : Nat) (v : Word) : State × Option Word :=
  let (s, st, old) := s.hubAnc code a v
  (s, if st = 0 then some old else none)

/-- CORE_ANCHOR_AMO (R340): a refused operation leaves the anchor unchanged and raises an access fault on the hart; no section event is logged. -/
def execCoreAnchorAmo (h : Fin 16) (op : AncAcc) (a : Fin 32768) (v : Word) (s : State) : Host.Outcome State Fault Refusal :=
  .next (
    if !s.coresRun then s
    else
      let s := s.coreFault h.val false
      let amo (code : Nat) : State := match s.coreAmo code a.val v with
        | (s, some old) => { s with readVal := old }
        | (s, none) => s.coreFault h.val true
      match op with
      | .load => { s with readVal := s.anchor a.val }
      | .store => (s.hubAnc 0x6F a.val v).1
      | .amoadd => amo 0x60
      | .amoswap => amo 0x62)

end Sys2Proof.Machine
end

