-- ==== Sys2Proof/Machine/Coher.lean ====
section
/-! DEFINITION. Coherence among the application cores (R344, R345): the directory of the L3, the private L2s and their writeback buffers. The L3 slices write
through to the tiers. -/

namespace Sys2Proof.Machine

def State.dirLine (s : State) (k : Nat) : DirLine := SMap.get {} s.dir k
def State.setDir (s : State) (k : Nat) (d : DirLine) : State :=
  { s with dir := if d = {} then SMap.del k s.dir else SMap.ins k d s.dir }

/-- Put a line in a core's L2, or drop it: the L1s lose a line that the L2 does not hold (R344), and a reservation on it ends. -/
def State.setL2 (s : State) (h k : Nat) (l : Option Line) : State :=
  s.updCore h (fun c => match l with
    | some x => { c with l2 := SMap.ins k x c.l2 }
    | none => { c with
        l2 := SMap.del k c.l2
        l1i := SMap.del k c.l1i
        l1d := c.l1d.filter (· != k)
        resv := c.resv.filter (fun r => decide (r.1 / 64 ≠ k)) })

/-- Drop a line from a core's writeback buffer. -/
def State.dropWb (s : State) (h k : Nat) : State :=
  let c := s.core h
  s.setCore h { c with wb := SMap.del k c.wb }

/-- A line as the owner's caches hold it: an error in a dirty line marks it poisoned (Table 193). -/
def State.meetCache (s : State) (h k : Nat) (l : Line) : State × Line :=
  if s.upsets.contains (.cache h k) then
    ({ s with upsets := s.upsets.erase (.cache h k) }.raise { code := 0x2201, kind := 0, src := h, addr := some (64 * k), detail := 2 }, { l with poison := true })
  else (s, l)

/-- A line read from its tier. -/
def State.lineRead (s : State) (k : Nat) (st : LineSt) : State × Line :=
  let (s, b, bad) := s.devRead (64 * k) 64
  (s, { st := st, bytes := b, poison := !bad.isEmpty })

/-- The line a GetM is granted without an owner: the requester's own copy in S, else read from the tier. -/
def State.lineOwn (s : State) (h k : Nat) : State × Line := match SMap.find? (s.core h).l2 k with
  | some l => (s, l)
  | none => s.lineRead k .m

/-- A line written to its tier; a poisoned one keeps its poison. -/
def State.lineWrite (s : State) (k : Nat) (l : Line) : State := s.devWrite (64 * k) l.bytes (if l.poison then [k] else [])

/-- Perform the store that caused a GetM. -/
def Line.store (l : Line) : LineStore → Line
  | some (o, b) => { l with st := .m, bytes := l.bytes.set o b }
  | none => { l with st := .m }

/-- Grant M to a core, which performs its store at once (R345). -/
def State.grantM (s : State) (h k : Nat) (l : Line) (v : LineStore) : State :=
  (s.setL2 h k (some (l.store v))).setDir k { owner := some h }

/-- May the coherence of a line serve a core: cores running, main memory, backed and not sealed (R339)? -/
def State.lineOk (s : State) (k : Nat) : Bool := isTier (64 * k) && s.backed (64 * k)

/-- Where a core holds a line: its L2, else its writeback buffer. -/
def AppCore.line (c : AppCore) (k : Nat) : Option Line := match SMap.find? c.l2 k with
  | some l => some l
  | none => SMap.find? c.wb k

/-- A GetS of a core for a line of main memory (R344, R345): from I the core becomes the owner in E; from S it joins the sharers; an owned line is forwarded. -/
def State.askS (s : State) (h k : Nat) : State :=
  let d := s.dirLine k
  if ((s.core h).line k).isSome ∨ d.busy.isSome then s
  else match d.owner with
    | some _ => s.setDir k { d with busy := some (.fwd h false none) }
    | none =>
      if d.sharers = 0 then
        let (s, l) := s.lineRead k .e
        (s.setL2 h k (some l)).setDir k { owner := some h }
      else
        let (s, l) := s.lineRead k .s
        (s.setL2 h k (some l)).setDir k { d with sharers := d.sharers ||| 2 ^ h }

/-- Does a core own a line, in M or E? -/
def State.ownsLine (s : State) (h k : Nat) : Bool := match SMap.find? (s.core h).l2 k with
  | some l => decide (l.st ≠ .s)
  | none => false

/-- A GetM of a core for a line of main memory (R344, R345): from I at once, from S after every other sharer has acknowledged, from an owner by a forward. `st`:
the store that caused it. -/
def State.askM (s : State) (h k : Nat) (st : LineStore) : State :=
  let d := s.dirLine k
  if s.ownsLine h k ∨ (SMap.find? (s.core h).wb k).isSome ∨ d.busy.isSome then s
  else match d.owner with
    | some _ => s.setDir k { d with busy := some (.fwd h true st) }
    | none =>
      let rest := d.sharers &&& (65535 - 2 ^ h)
      if rest = 0 then
        let (s, l) := s.lineOwn h k
        s.grantM h k l st
      else s.setDir k { d with busy := some (.inv h st rest) }

/-- A Get that a command gives for an address: outside main memory it asks nothing, and a hole is an access fault. -/
def State.onLine (s : State) (h a : Nat) (f : State → State) : State :=
  if !s.coresRun ∨ !isTier a ∧ s.backed a then s
  else if !s.lineOk (a / 64) then s.coreHole h a
  else f (s.coreFault h false)

/-- GETS (R344, R345). -/
def execGets (h : Fin 16) (a : BitVec 48) (s : State) : Host.Outcome State Fault Refusal :=
  .next (s.onLine h.val a.toNat (·.askS h.val (a.toNat / 64)))

/-- GETM (R344, R345). `v`: the byte offset and value of the store that caused it; a core that owns the line already performs the store at once, and an E line
becomes M. -/
def execGetm (h : Fin 16) (a : BitVec 48) (v : Option (BitVec 6 × Byte)) (s : State) : Host.Outcome State Fault Refusal :=
  let k := a.toNat / 64
  let st : LineStore := v.map (fun x => (x.1.toNat, x.2))
  .next (s.onLine h.val a.toNat (fun s => match SMap.find? (s.core h.val).l2 k with
    | some l => if l.st = .s then s.askM h.val k st else if st.isNone then s else s.setL2 h.val k (some (l.store st))
    | none => s.askM h.val k st))

/-- An eviction of a line in the state a predicate names. While a transaction of the line is in progress it goes to the writeback buffer, from which a forward is
answered; a Put that comes after that is acknowledged without a write (R345). -/
def State.putLine (s : State) (h k : Nat) (is : LineSt → Bool) : State :=
  let d := s.dirLine k
  let c := s.core h
  match SMap.find? c.l2 k with
  | some l =>
    if !is l.st then s
    else if d.busy.isSome then (s.setL2 h k none).setCore h { (s.setL2 h k none).core h with wb := SMap.ins k l c.wb }
    else
      let s := if l.st = .m then
          let (s, l) := s.meetCache h k l
          s.lineWrite k l
        else s
      (s.setL2 h k none).setDir k { d with owner := none }
  | none => match SMap.find? c.wb k with
    | some l =>
      if !is l.st ∨ d.busy.isSome then s
      else if d.owner = some h then
        let s := if l.st = .m then
            let (s, l) := s.meetCache h k l
            s.lineWrite k l
          else s
        (s.dropWb h k).setDir k { d with owner := none }
      else s.dropWb h k
    | none => s

/-- PUTM (R345). -/
def execPutm (h : Fin 16) (a : BitVec 48) (s : State) : Host.Outcome State Fault Refusal :=
  .next (if s.coresRun then s.putLine h.val (a.toNat / 64) (fun x => decide (x = .m)) else s)

/-- PUTE (R344, R345). -/
def execPute (h : Fin 16) (a : BitVec 48) (s : State) : Host.Outcome State Fault Refusal :=
  .next (if s.coresRun then s.putLine h.val (a.toNat / 64) (fun x => decide (x = .e)) else s)

/-- PUTS (R344, R345): the sharer leaves the vector; an invalidation on its way is still acknowledged. -/
def execPuts (h : Fin 16) (a : BitVec 48) (s : State) : Host.Outcome State Fault Refusal :=
  let k := a.toNat / 64
  let d := s.dirLine k
  .next (match SMap.find? (s.core h.val).l2 k with
    | some l =>
      if !s.coresRun ∨ l.st ≠ .s then s
      else if d.busy.isSome then s.setL2 h.val k none
      else (s.setL2 h.val k none).setDir k { d with sharers := d.sharers &&& (65535 - 2 ^ h.val) }
    | none => s)

/-- Does a forward of a line wait at a core, which was granted M and has not performed the store that caused the GetM (R345)? -/
def State.fwdWaits (s : State) (h k : Nat) : Bool := decide ((s.core h).want = some k) && s.ownsLine h k

/-- FWD_GETS at the owner (R345): it keeps the line in S, or has only its writeback buffer; dirty data goes to the slice. -/
def execFwdGets (h : Fin 16) (a : BitVec 48) (s : State) : Host.Outcome State Fault Refusal :=
  let k := a.toNat / 64
  let d := s.dirLine k
  .next (match d.busy, (s.core h.val).line k with
    | some (.fwd r false _), some l =>
      if !s.coresRun ∨ d.owner ≠ some h.val ∨ s.fwdWaits h.val k then s
      else
        let (s, l) := if l.st = .m then s.meetCache h.val k l else (s, l)
        let s := if l.st = .m then s.lineWrite k l else s
        let held := (SMap.find? (s.core h.val).l2 k).isSome
        let s := if held then s.setL2 h.val k (some { l with st := .s }) else s
        (s.setL2 r k (some { l with st := .s })).setDir k { sharers := 2 ^ r ||| (if held then 2 ^ h.val else 0) }
    | _, _ => s)

/-- FWD_GETM at the owner (R345), which has performed its own store: the line goes to the requester in M. -/
def execFwdGetm (h : Fin 16) (a : BitVec 48) (s : State) : Host.Outcome State Fault Refusal :=
  let k := a.toNat / 64
  let d := s.dirLine k
  .next (match d.busy, (s.core h.val).line k with
    | some (.fwd r true st), some l =>
      if !s.coresRun ∨ d.owner ≠ some h.val ∨ s.fwdWaits h.val k then s
      else
        let (s, l) := s.meetCache h.val k l
        (s.setL2 h.val k none).grantM r k l st
    | _, _ => s)

/-- INV at a sharer (R344): it drops the line and acknowledges; the last acknowledgement completes the GetM. -/
def execInv (h : Fin 16) (a : BitVec 48) (s : State) : Host.Outcome State Fault Refusal :=
  let k := a.toNat / 64
  let d := s.dirLine k
  .next (match d.busy with
    | some (.inv r st left) =>
      if !s.coresRun ∨ !left.testBit h.val then s
      else
        let left := left &&& (65535 - 2 ^ h.val)
        let s := s.setL2 h.val k none
        if left ≠ 0 then s.setDir k { d with busy := some (.inv r st left) }
        else
          let (s, l) := s.lineOwn r k
          s.grantM r k l st
    | _ => s)

end Sys2Proof.Machine
end

