-- ==== Sys2Proof/Machine/Apmem.lean ====
section
/-! DEFINITION. Memory as a program of an application core sees it (R338, R339, R341): address translation under Sv39 and Sv48 in one or two stages, physical
memory protection, the caches and the store buffer (assumption 122). -/

namespace Sys2Proof.Machine

/-! ### Main memory -/

/-- Lines that a range of bytes meets. -/
def linesOf (a n : Nat) : List Nat := (List.range ((a + n - 1) / 64 - a / 64 + 1)).map (a / 64 + ·)

/-- A byte as a core sees it: its own buffered stores hide the byte in the cache. -/
def AppCore.seen (c : AppCore) (a : Nat) (b : Byte) : Byte :=
  c.sb.foldl (fun v x => if x.1 ≤ a then nthD x.2 (a - x.1) v else v) b

/-- Load from main memory: lines that the L2 lacks are asked for, and one that is not granted at once makes the core try again. -/
def State.memLoad (s : State) (h a n : Nat) : State × CoreAns :=
  let ls := linesOf a n
  match ls.find? (fun k => !s.lineOk k) with
  | some k => (s.coreHole h (max a (64 * k)), .fault)
  | none =>
    let s := ls.foldl (fun (s : State) k => s.askS h k) s
    let c := s.core h
    if ls.any (fun k => (SMap.find? c.l2 k).isNone) then (s, .retry)
    else
      let byte (x : Nat) : Byte := c.seen x (match SMap.find? c.l2 (x / 64) with
        | some l => nthD l.bytes (x % 64) 0
        | none => 0)
      (s.setCore h { c with l1d := (ls ++ c.l1d.filter (fun k => !ls.contains k)).take 1024 }, .done ((List.range n).map (fun i => byte (a + i))))

/-- Store to main memory: the bytes wait in the store buffer, cut at the end of a line. -/
def State.memStore (s : State) (h a : Nat) (b : List Byte) : State × CoreAns :=
  match (linesOf a b.length).find? (fun k => !s.lineOk k) with
  | some k => (s.coreHole h (max a (64 * k)), .fault)
  | none =>
    let n := 64 - a % 64
    let put := if b.length ≤ n then [(a, b)] else [(a, b.take n), (a + n, b.drop n)]
    (s.updCore h (fun c => { c with sb := c.sb ++ put }), .done [])

/-- An access at a device address: main memory through the caches, anything else as I/O. -/
def State.phys (s : State) (h a n : Nat) (wr : Option (List Byte)) : State × CoreAns :=
  if isTier a then (match wr with
    | none => s.memLoad h a n
    | some b => s.memStore h a b)
  else s.coreIo h a n (wr.map (fun b => BitVec.ofNat 64 (leNat b)))

/-- Ask for ownership of a line, for an access that must not be parted from the grant (R345); does the core own it now? -/
def State.ownNow (s : State) (h k : Nat) : State × Bool :=
  let s := (s.askM h k none).updCore h (fun c => { c with want := some k })
  (s, s.ownsLine h k)

/-- Write bytes into an owned line: it is in M. -/
def State.lineSet (s : State) (h a : Nat) (b : List Byte) : State :=
  match SMap.find? (s.core h).l2 (a / 64) with
  | some l => (s.setL2 h (a / 64) (some { l with st := .m, bytes := l.bytes.take (a % 64) ++ b ++ l.bytes.drop (a % 64 + b.length) })).updCore h
      (fun c => { c with want := none })
  | none => s

/-- The n-th buffered store leaves the buffer once its line is owned. Stores to one line keep their order, and one that has asked for ownership goes first. -/
def State.sbDrain (s : State) (h n : Nat) : State :=
  let c := s.core h
  match c.sb[n]? with
  | none => s
  | some (a, b) =>
    let k := a / 64
    if (c.sb.take n).any (fun x => decide (x.1 / 64 = k)) || decide (c.want ≠ none ∧ c.want ≠ some k) then s
    else
      let (s, own) := s.ownNow h k
      if own then (s.lineSet h a b).updCore h (fun c => { c with sb := c.sb.eraseIdx n }) else s

/-! ### Address translation -/

/-- What a table walk comes to: an address, a page fault, a guest page fault at a guest physical address (of an implicit access or not), an access fault, or another
attempt later. -/
inductive Walk where
  | ok (a : Nat)
  | page
  | guest (gpa : Nat) (implicit : Bool)
  | fault
  | retry
  deriving DecidableEq, Repr

/-- Read a page-table entry, which lies in main memory and which supervisor rights must reach. -/
def State.pteRead (s : State) (h a : Nat) : State × CoreAns :=
  if !isTier a || !(s.core h).pmpOk .hs .r a 8 then (s, .fault) else s.memLoad h a 8

/-- A page-table entry that is no valid entry: V clear, W without R, or a reserved bit set. -/
def pteBad (pte : Nat) : Bool := !pte.testBit 0 || (pte.testBit 2 && !pte.testBit 1) || decide (2 ^ 54 ≤ pte)

/-- Walk a page table from a level down. `tr` finds the place of an entry, `perm` judges a leaf, `wide` is the number of entries of the table. -/
def ptWalk (h va : Nat) (tr : State → Nat → State × Walk) (perm : Nat → Bool) (lvl wide base : Nat) (s : State) : State × Walk :=
  match tr s (base + 8 * (va / 2 ^ (12 + 9 * lvl) % wide)) with
  | (s, .ok a) => (match s.pteRead h a with
    | (s, .done b) =>
      let pte := leNat b
      let ppn := bitsOf pte 53 10
      if pteBad pte then (s, .page)
      else if pte.testBit 1 || pte.testBit 3 then
        (if !perm pte || decide (ppn % 2 ^ (9 * lvl) ≠ 0) then (s, .page) else (s, .ok (ppn * 4096 + va % 2 ^ (12 + 9 * lvl))))
      else if bitsOf pte 7 6 ≠ 0 ∨ pte.testBit 4 then (s, .page)
      else match lvl with
        | 0 => (s, .page)
        | l + 1 => ptWalk h va tr perm l 512 (ppn * 4096) s
    | (s, .fault) => (s, .fault)
    | (s, _) => (s, .retry))
  | x => x

/-- Levels of the mode of an address-translation CSR: 3 for Sv39, 4 for Sv48. -/
def atpLevels (atp : Nat) : Nat := bitsOf atp 63 60 - 5

/-- Does a leaf permit a kind of access? `hx`: a load that needs the right to execute. The accessed bit, and for a store the dirty bit, must be set. -/
def ptePerm (acc : MemAcc) (hx mxr : Bool) (pte : Nat) : Bool :=
  pte.testBit 6 && (match acc with
    | .x => pte.testBit 3
    | .r => if hx then pte.testBit 3 else pte.testBit 1 || (mxr && pte.testBit 3)
    | .w => pte.testBit 2 && pte.testBit 7)

/-- The second stage: Sv39x4 or Sv48x4 of hgatp. -/
def State.gStage (s : State) (h gpa : Nat) (acc : MemAcc) (hx implicit : Bool) : State × Walk :=
  let c := s.core h
  let atp := c.csr 0x680
  if bitsOf atp 63 60 = 0 then (s, .ok gpa)
  else
    let n := atpLevels atp
    if 2 ^ (14 + 9 * n) ≤ gpa then (s, .guest gpa implicit)
    else match ptWalk h gpa (fun s a => (s, .ok a)) (fun p => p.testBit 4 && ptePerm acc hx (c.bit 0x300 19) p) (n - 1) 2048 (bitsOf atp 43 0 * 4096) s with
      | (s, .page) => (s, .guest gpa implicit)
      | x => x

/-- Translate an address for a mode: the first stage under satp or vsatp, and under the hypervisor the second. -/
def State.stages (s : State) (h : Nat) (mode : CoreMode) (acc : MemAcc) (hx : Bool) (va : Nat) : State × Walk :=
  let c := s.core h
  let v := mode.virt
  let atp := c.csr (if v then 0x280 else 0x180)
  let st := c.csr (if v then 0x200 else 0x300)
  let n := atpLevels atp
  let w := 12 + 9 * n
  let perm (p : Nat) : Bool :=
    (if mode.priv = 0 then p.testBit 4 else !p.testBit 4 || (st.testBit 18 && decide (acc ≠ .x))) && ptePerm acc hx (st.testBit 19 || c.bit 0x300 19) p
  let first : State × Walk :=
    if bitsOf atp 63 60 = 0 then (s, .ok va)
    else if va / 2 ^ (w - 1) ≠ 0 ∧ va / 2 ^ (w - 1) ≠ 2 ^ (65 - w) - 1 then (s, .page)
    else ptWalk h (va % 2 ^ w) (fun s a => if v then s.gStage h a .r false true else (s, .ok a)) perm (n - 1) 512 (bitsOf atp 43 0 * 4096) s
  match mode, first with
  | .m, _ => (s, .ok va)
  | _, (s, .ok a) => if v then s.gStage h a acc hx false else (s, .ok a)
  | _, x => x

/-- What an access of a program comes to: a value, a trap, or another attempt later. -/
inductive Try (α : Type) where
  | ok (v : α)
  | trap (t : Trap)
  | retry
  deriving DecidableEq, Repr

/-- The device address of n bytes of one page, with the trap where there is none. -/
def State.apAddr (s : State) (h : Nat) (mode : CoreMode) (acc : MemAcc) (hx : Bool) (va n : Nat) : State × Try Nat :=
  let t (cause : Nat) : Trap := { cause := cause, tval := va, gva := mode.virt }
  match s.stages h mode acc hx va with
  | (s, .ok a) => if (s.core h).pmpOk mode acc a n then (s, .ok a) else (s, .trap (t acc.fault))
  | (s, .page) => (s, .trap (t acc.page))
  | (s, .guest g i) => (s, .trap { t acc.guest with gpa := g, tinst := if i then 0x3000 else 0 })
  | (s, .fault) => (s, .trap (t acc.fault))
  | (s, .retry) => (s, .retry)

/-! ### Accesses -/

/-- The mode of a load or store: under MPRV that of the mode to which MRET would return. -/
def AppCore.dataMode (c : AppCore) : CoreMode :=
  if c.mode = .m ∧ c.bit 0x300 17 then modeOf (bitsOf (c.csr 0x300) 12 11) (c.bit 0x300 39) else c.mode

/-- A load, or a store of `wr`: the bytes, or none while a packet carries an I/O load. `io` says which device addresses outside main memory the access may name. A
range that crosses a page must lie in main memory. -/
def State.apAccess (s : State) (h : Nat) (mode : CoreMode) (hx : Bool) (io : Nat → Bool) (va n : Nat) (wr : Option (List Byte)) : State × Try (Option (List Byte)) :=
  let acc : MemAcc := if wr.isSome then .w else .r
  let bad : Trap := { cause := acc.fault, tval := va, gva := mode.virt }
  let ans : State × CoreAns → State × Try (Option (List Byte))
    | (s, .done b) => (s, .ok (some b))
    | (s, .wait) => (s, .ok none)
    | (s, .retry) => (s, .retry)
    | (s, .fault) => (s, .trap bad)
  let n1 := min n (4096 - va % 4096)
  match s.apAddr h mode acc hx va n1 with
  | (s, .ok a) =>
    if n1 = n then (if isTier a || io a then ans (s.phys h a n wr) else (s, .trap bad))
    else (match s.apAddr h mode acc hx ((va + n1) % 2 ^ 64) (n - n1) with
      | (s, .ok a2) =>
        if !isTier a || !isTier a2 then (s, .trap bad)
        else (match s.phys h a n1 (wr.map (·.take n1)) with
          | (s, .done b) => (match s.phys h a2 (n - n1) (wr.map (·.drop n1)) with
            | (s, .done b2) => (s, .ok (some (b ++ b2)))
            | x => ans x)
          | x => ans x)
      | (s, .trap t) => (s, .trap t)
      | (s, .retry) => (s, .retry))
  | (s, .trap t) => (s, .trap t)
  | (s, .retry) => (s, .retry)

/-- Two bytes of code at an address: main memory, through the L1 instruction cache, whose copy a later store of the core does not change. -/
def State.apHalf (s : State) (h va : Nat) : State × Try Nat :=
  let t : Trap := { cause := 1, tval := va, gva := (s.core h).mode.virt }
  match s.apAddr h (s.core h).mode .x false va 2 with
  | (s, .ok a) =>
    if !isTier a then (if s.backed a then (s, .trap t) else (s.coreHole h a, .trap t))
    else
      let k := a / 64
      (match SMap.find? (s.core h).l1i k with
      | some b => (s, .ok (leNat (sliceB b (a % 64) 2)))
      | none => match s.memLoad h (64 * k) 64 with
        | (s, .done _) => (match SMap.find? (s.core h).l2 k with
          | some l => (s.updCore h (fun c => { c with l1i := SMap.ins k l.bytes (if c.l1i.length < 1024 then c.l1i else c.l1i.drop 1) }),
                       .ok (leNat (sliceB l.bytes (a % 64) 2)))
          | none => (s, .retry))
        | (s, .fault) => (s, .trap t)
        | (s, _) => (s, .retry))
  | (s, .trap t) => (s, .trap t)
  | (s, .retry) => (s, .retry)

/-- The instruction at pc, its word and its length. -/
def State.apFetch (s : State) (h : Nat) : State × Try (ApOp × Nat × Nat) :=
  let pc := (s.core h).pc
  match s.apHalf h pc with
  | (s, .ok lo) =>
    if lo % 4 ≠ 3 then (s, .ok (apcDecode lo, lo, 2))
    else (match s.apHalf h ((pc + 2) % 2 ^ 64) with
      | (s, .ok hi) => (s, .ok (apDecode (lo + 2 ^ 16 * hi), lo + 2 ^ 16 * hi, 4))
      | (s, .trap t) => (s, .trap t)
      | (s, .retry) => (s, .retry))
  | (s, .trap t) => (s, .trap t)
  | (s, .retry) => (s, .retry)

end Sys2Proof.Machine
end

