-- ==== Sys2Proof/Machine/Apcore.lean ====
section
/-! DEFINITION. Programs of the application cores (R338 to R343, R346): the instructions of RV64GC, of the hypervisor and vector extensions and of Zicbom, which the
spec names by reference (assumption 122), and CORE_IO_ACCESS. -/

namespace Sys2Proof.Machine

/-! ### Completion and traps -/

/-- An instruction completes: rd takes a value. -/
def State.apDone (s : State) (h rd : Nat) (v : Option Word) (len : Nat) : State := s.updCore h (·.done rd v len)

/-- An exception of the instruction at pc that is no memory access: 2 illegal and 22 virtual carry its word. -/
def State.apExc (s : State) (h cause : Nat) (tval : Nat := 0) : State := s.coreTrap h { cause := cause, tval := tval, gva := decide (cause = 3) && (s.core h).mode.virt }

/-- A control transfer. -/
def State.apJump (s : State) (h rd len : Nat) (target : Word) : State :=
  s.updCore h (fun c => { (c.done rd (some (BitVec.ofNat 64 (c.pc + len))) len) with pc := target.toNat / 2 * 2 })

/-- n bytes whose values are free. -/
def State.freeList (s : State) (n : Nat) : State × List Byte := ({ s with draws := s.draws + 1 }, (List.range n).map (Config.freeByte s.draws))

/-! ### Loads, stores and atomic operations -/

/-- A load: its value goes where `put` says; an I/O load leaves `wait` behind. -/
def State.apLoad (s : State) (h : Nat) (mode : CoreMode) (hx : Bool) (va k : Nat) (wait : CoreWait) : State :=
  match s.apAccess h mode hx (fun _ => true) va (2 ^ k) none with
  | (s, .ok (some b)) => s.updCore h (fun c => { c with wait := some wait }.answer b)
  | (s, .ok none) => s.updCore h (fun c => { c with wait := some wait })
  | (s, .trap t) => s.coreTrap h t
  | (s, .retry) => s

/-- A store of 2^k bytes. -/
def State.apStore (s : State) (h : Nat) (mode : CoreMode) (va k : Nat) (v : Word) (len : Nat) : State :=
  match s.apAccess h mode false (fun _ => true) va (2 ^ k) (some (wordBytes v (2 ^ k))) with
  | (s, .ok _) => s.apDone h 0 none len
  | (s, .trap t) => s.coreTrap h t
  | (s, .retry) => s

/-- Run an atomic operation on its device address. Earlier stores leave the buffer first. -/
def State.apAtomic (s : State) (h va k : Nat) (acc : MemAcc) (f : State → Nat → State) : State :=
  let c := s.core h
  let t (cause : Nat) : Trap := { cause := cause, tval := va, gva := c.dataMode.virt }
  if !c.sb.isEmpty then s
  else if va % 2 ^ k ≠ 0 then s.coreTrap h (t (acc.fault - 1))
  else match s.apAddr h c.dataMode acc false va (2 ^ k) with
    | (s, .ok a) => if (isTier a && s.lineOk (a / 64)) || (isAnchor a && decide (k = 3)) then f s a else (if s.backed a then s else s.coreHole h a).coreTrap h (t acc.fault)
    | (s, .trap t) => s.coreTrap h t
    | (s, .retry) => s

/-- LR: main memory only. -/
def State.apLr (s : State) (h k rd va : Nat) : State :=
  s.apAtomic h va k .r (fun s a =>
    if !isTier a then s.coreTrap h { cause := 5, tval := va, gva := (s.core h).dataMode.virt }
    else match s.memLoad h a (2 ^ k) with
      | (s, .done b) => (s.updCore h (fun c => { c with resv := some (a, 2 ^ k) })).apDone h rd (some (loadVal k true b)) 4
      | (s, _) => s)

/-- SC: it fails without a reservation of its bytes, and may fail otherwise (assumption 110); it succeeds only where the core owns the line. -/
def State.apSc (s : State) (h k rd va : Nat) (v : Word) : State :=
  s.apAtomic h va k .w (fun s a =>
    let fail (s : State) : State := (s.updCore h (fun c => { c with resv := none, want := none })).apDone h rd (some 1) 4
    if !isTier a then s.coreTrap h { cause := 7, tval := va, gva := (s.core h).dataMode.virt }
    else if (s.core h).resv ≠ some (a, 2 ^ k) then fail s
    else match s.ownNow h (a / 64) with
      | (s, false) => s
      | (s, true) =>
        let ok := (Config.freeWord s.draws).getLsbD 0
        let s : State := { s with draws := s.draws + 1 }
        if ok then ((s.lineSet h a (wordBytes v (2 ^ k))).updCore h (fun c => { c with resv := none })).apDone h rd (some 0) 4 else fail s)

/-- AMO: on main memory every one, on an anchor AMOADD.D and AMOSWAP.D (R339, R340). -/
def State.apAmo (s : State) (h : Nat) (op : RvAmo) (k rd va : Nat) (v : Word) : State :=
  s.apAtomic h va k .w (fun s a =>
    let fault (s : State) : State := s.coreTrap h { cause := 7, tval := va, gva := (s.core h).dataMode.virt }
    let anc (code : Nat) : State :=
      if s.coreBusy h then s
      else match s.coreAmo code ((a - anchorAddr 0) / 8) v with
        | (s, some old) => s.apDone h rd (some old) 4
        | (s, none) => fault s
    if !isTier a then (match op with
      | .add => anc 0x60
      | .swap => anc 0x62
      | _ => fault s)
    else match s.ownNow h (a / 64) with
      | (s, false) => s
      | (s, true) => match s.memLoad h a (2 ^ k) with
        | (s, .done b) => (s.lineSet h a (wordBytes (rvAmoEval op (8 * 2 ^ k) (loadVal k true b) v) (2 ^ k))).apDone h rd (some (loadVal k true b)) 4
        | (s, _) => s)

/-! ### Fences and cache blocks (R341) -/

/-- FENCE: stores to main memory leave the buffer before anything that W must precede, and an I/O access in flight ends before anything that I or O must. -/
def State.apFence (s : State) (h pred len : Nat) : State :=
  if (pred.testBit 0 && !(s.core h).sb.isEmpty) || ((pred.testBit 2 || pred.testBit 3) && s.coreBusy h) then s else s.apDone h 0 none len

/-- A cache-block operation on every coherent copy of a line: clean and flush write dirty data to its tier, inval and flush drop the copies. -/
def State.lineCbo (s : State) (op : RvCbo) (k : Nat) : State :=
  let d := s.dirLine k
  let s := match d.owner with
    | some o => (match SMap.find? (s.core o).l2 k with
      | some l =>
        if l.st = .m ∧ op ≠ .inval then
          let (s, l) := s.meetCache o k l
          (s.lineWrite k l).setL2 o k (some { l with st := .e })
        else s
      | none => s)
    | none => s
  if op = .clean then s
  else ((List.range 16).foldl (fun (s : State) o => if (SMap.find? (s.core o).l2 k).isSome then s.setL2 o k none else s) s).setDir k {}

/-- The exception of a cache-block operation by the environment-configuration CSRs, none where it may run, with the operation that runs: an inval may be performed as
a flush. -/
def AppCore.cboAs (c : AppCore) (op : RvCbo) : Option Nat × RvCbo :=
  let f (n : Nat) : Nat := if op = .inval then bitsOf (c.csr n) 5 4 else 3 * bitsOf (c.csr n) 6 6
  let m := if c.mode = .m then 3 else f 0x30A
  let hv := if c.mode.virt then f 0x60A else 3
  let u := if c.mode.priv = 0 then f 0x10A else 3
  if m = 0 ∨ (c.mode = .u ∧ u = 0) then (some 2, op)
  else if hv = 0 ∨ u = 0 then (some 22, op)
  else (none, if op = .inval ∧ (m = 1 ∨ hv = 1 ∨ u = 1) then .flush else op)

/-- CBO.CLEAN, CBO.FLUSH and CBO.INVAL: the right to load or to store suffices. They count as stores: earlier ones to the line leave the buffer first. -/
def State.apCbo (s : State) (h : Nat) (op : RvCbo) (va w : Nat) : State :=
  let c := s.core h
  let a0 := va / 64 * 64
  match c.cboAs op with
  | (some e, _) => s.apExc h e w
  | (none, op) =>
    let x := match s.apAddr h c.dataMode .r false a0 64 with
      | (s, .trap _) => s.apAddr h c.dataMode .w false a0 64
      | x => x
    match x with
    | (s, .ok a) =>
      if !s.backed a then (s.coreHole h a).coreTrap h { cause := 7, tval := va, gva := c.dataMode.virt }
      else if !isTier a then s.apDone h 0 none 4
      else if c.sb.any (fun e => decide (e.1 / 64 = a / 64)) || (s.dirLine (a / 64)).busy.isSome then s
      else (s.lineCbo op (a / 64)).apDone h 0 none 4
    | (s, .trap t) => s.coreTrap h { t with tval := va }
    | (s, .retry) => s

/-! ### CSR instructions -/

/-- The exception of a CSR instruction, none where it may run. -/
def State.csrExc (s : State) (h n : Nat) (write : Bool) : Option Nat :=
  let c := s.core h
  if (decide (1 ≤ n ∧ n ≤ 3) && c.fsOff) || (([0x008, 0x009, 0x00A, 0x00F, 0xC20, 0xC21, 0xC22].contains n) && c.vsOff) then some 2
  else match c.csrDenied n write with
    | some e => some e
    | none => if (s.apCsr h (csrHere c.mode n)).isNone then some 2 else none

/-- A CSR instruction: rd takes the old value, `f` gives the new one of an instruction that writes. The cycles since the last read of `cycle` are a free value. -/
def State.apCsrOp (s : State) (h n rd w : Nat) (f : Option (Word → Word)) : State :=
  match s.csrExc h n f.isSome with
  | some e => s.apExc h e w
  | none =>
    let s := if n = 0xB00 ∨ n = 0xC00 then
        { s with draws := s.draws + 1 }.updCore h (fun c => c.putCsr 0xB00 (c.csr 0xB00 + (Config.freeWord s.draws).toNat)) else s
    let here := csrHere (s.core h).mode n
    let old : Word := BitVec.ofNat 64 ((s.apCsr h here).getD 0)
    let s := s.apDone h rd (some old) 4
    match f with
    | some f =>
      let s := s.putApCsr h here (f old).toNat
      if 1 ≤ n ∧ n ≤ 3 then s.updCore h (·.fsDirty) else if n < 0x010 then s.updCore h (·.vsDirty) else s
    | none => s

/-! ### Vectors -/

/-- vtype: the log2 of the element width in bytes, and the exponent of LMUL. -/
def AppCore.vsew (c : AppCore) : Nat := bitsOf (c.csr 0xC21) 5 3
def lmulExp (vtype : Nat) : Int := if vtype % 8 < 4 then (vtype % 8 : Nat) else (vtype % 8 : Nat) - 8
def AppCore.vill (c : AppCore) : Bool := c.bit 0xC21 63

/-- Elements of 2^k bytes in a group of exponent e. -/
def vlmax (k : Nat) (e : Int) : Nat := if 0 ≤ e then 64 / 2 ^ k * 2 ^ e.toNat else 64 / 2 ^ k / 2 ^ (-e).toNat

/-- Is a vtype supported: no reserved bit, elements of at most 64 bits, and a fraction of a register that holds one? -/
def vtypeOk (v : Nat) : Bool := decide (v < 256) && decide (bitsOf v 5 3 ≤ 3) && decide (v % 8 ≠ 4) && decide (1 ≤ vlmax (bitsOf v 5 3) (lmulExp v)) &&
  decide ((bitsOf v 5 3 : Int) ≤ 3 + min 0 (lmulExp v))

/-- VSETVLI, VSETIVLI and VSETVL. Between VLMAX and twice VLMAX the length is open within bounds: a free value. -/
def State.apVset (s : State) (h rd rs1 : Nat) (imm vt : Option Nat) (rs2 len : Nat) : State :=
  let c := s.core h
  let v := vt.getD (nthD c.x rs2 0).toNat
  let max := vlmax (bitsOf v 5 3) (lmulExp v)
  let put (s : State) (vtype vl : Nat) : State :=
    (s.updCore h (fun c => (((c.putCsr 0xC21 vtype).putCsr 0xC20 vl).putCsr 0x008 0).vsDirty)).apDone h rd (some (BitVec.ofNat 64 vl)) len
  if !vtypeOk v then put s (2 ^ 63) 0
  else
    let avl := match imm with
      | some n => n
      | none => if rs1 ≠ 0 then (nthD c.x rs1 0).toNat else if rd ≠ 0 then max else c.csr 0xC20
    if avl ≤ max then put s v avl
    else if 2 * max ≤ avl then put s v max
    else
      let lo := (avl + 1) / 2
      put { s with draws := s.draws + 1 } v (lo + (Config.freeWord s.draws).toNat % (max - lo + 1))

/-- The log2 of the element width of a vector access, and the exponent of its group. -/
def VMem.shape (m : VMem) (c : AppCore) : Nat × Int :=
  let l := lmulExp (c.csr 0xC21)
  match m.addr with
  | .indexed .. => (c.vsew, l)
  | _ => if m.whole.isSome ∨ m.byte then (m.log2, 0) else (m.log2, m.log2 - c.vsew + l)

/-- Number of elements. -/
def VMem.count (m : VMem) (c : AppCore) : Nat := match m.whole with
  | some n => n * 64 / 2 ^ m.log2
  | none => if m.byte then (c.csr 0xC20 + 7) / 8 else c.csr 0xC20

/-- Is the form of a vector access legal? -/
def VMem.legal (m : VMem) (c : AppCore) : Bool :=
  let (_, e) := m.shape c
  let g := 2 ^ e.toNat
  let regs := match m.whole with
    | some n => n
    | none => m.nf * g
  let align := match m.whole with
    | some n => n
    | none => g
  let index : Bool := match m.addr with
    | .indexed vs2 k =>
      let i : Int := (k : Int) - c.vsew + lmulExp (c.csr 0xC21)
      decide (-3 ≤ i) && decide (i ≤ 3) && decide (vs2 % 2 ^ i.toNat = 0)
    | _ => true
  !c.vsOff && (m.whole.isSome || !c.vill) && decide (-3 ≤ e) && decide (e ≤ 3) && decide (regs ≤ 8) && decide (m.vd + regs ≤ 32) && decide (m.vd % align = 0) &&
    !(m.masked && !m.store && decide (m.vd = 0)) && index

/-- Address of field j of element i. -/
def VMem.ea (m : VMem) (c : AppCore) (k i j : Nat) : Nat :=
  let base := (nthD c.x m.rs1 0).toNat
  (match m.addr with
    | .unit => base + (i * m.nf + j) * 2 ^ k
    | .strided r => base + (nthD c.x r 0).toNat * i + j * 2 ^ k
    | .indexed v w => base + leNat (c.vBytes v (2 ^ w * i) (2 ^ w)) + j * 2 ^ k) % 2 ^ 64

/-- What an element comes to: the next one follows, a trap, or the core stops here. -/
inductive VStep where
  | go
  | trap (t : Trap)
  | stop

/-- Does an address lie in a memory tile or scratchpad, which vector unit-stride accesses reach (R339)? -/
def vIo (m : VMem) (a : Nat) : Bool := decide (m.addr = .unit ∧ m.nf = 1) && decide (tileAddr 0 0 ≤ a) && decide (a < scratchAddr 4096 0)

/-- The fields of element i, in order. -/
def State.vFields (s : State) (h : Nat) (m : VMem) (k g i : Nat) : List Nat → State × VStep
  | [] => (s, .go)
  | j :: js =>
    let c := s.core h
    let vd := m.vd + j * g
    let data := if m.store then some (c.vBytes vd (2 ^ k * i) (2 ^ k)) else none
    match s.apAccess h c.dataMode false (vIo m) (m.ea c k i j) (2 ^ k) data with
    | (s, .ok (some b)) => State.vFields (if m.store then s else s.updCore h (·.putV vd (2 ^ k * i) b)) h m k g i js
    | (s, .ok none) => (s.updCore h (fun c => { c with wait := some (.velem vd k i) }), .stop)
    | (s, .trap t) => (s, .trap t)
    | (s, .retry) => (s, .stop)

/-- The elements from vstart on. vstart names the element at which an interrupted instruction goes on; a trap behind the first element of a fault-only-first load
shortens vl instead. -/
def State.vElems (s : State) (h : Nat) (m : VMem) (k g len : Nat) : List Nat → State
  | [] => (s.updCore h (·.putCsr 0x008 0)).apDone h 0 none len
  | i :: is =>
    if m.masked ∧ !(leNat ((s.core h).vBytes 0 (i / 8) 1)).testBit (i % 8) then State.vElems s h m k g len is
    else match s.vFields h m k g i (List.range m.nf) with
      | (s, .go) => State.vElems s h m k g len is
      | (s, .stop) => s.updCore h (·.putCsr 0x008 i)
      | (s, .trap t) =>
        if m.first ∧ 0 < i then (s.updCore h (fun c => (c.putCsr 0xC20 i).putCsr 0x008 0)).apDone h 0 none len
        else (s.updCore h (·.putCsr 0x008 i)).coreTrap h t

/-- A vector load or store. -/
def State.apVmem (s : State) (h : Nat) (m : VMem) (w : Nat) : State :=
  let c := s.core h
  if !m.legal c then s.apExc h 2 w
  else
    let (k, e) := m.shape c
    s.vElems h m k (2 ^ e.toNat) 4 ((List.range (m.count c)).filter (fun i => decide (c.csr 0x008 ≤ i)))

/-- A computation of F, D or V: its result is a free value, and so are the flags that it raises (assumption 122). A vector result fills its group, twice as wide for a
widening operation. -/
def State.apCompute (s : State) (h : Nat) (d : FpDest) (vec : Bool) (w : Nat) : State :=
  let c := s.core h
  if (if vec then c.vsOff || c.vill else c.fsOff) then s.apExc h 2 w
  else
    let f := Config.freeWord s.draws
    let s := { s with draws := s.draws + 1 }.updCore h (fun c => (c.putCsr 0x003 (c.csr 0x003 ||| (f.toNat % 32))).putCsr 0x008 0)
    let v := Config.freeWord s.draws
    let s : State := { s with draws := s.draws + 1 }
    match d with
    | .x rd => s.apDone h rd (some v) 4
    | .f rd => (s.updCore h (·.setF 3 rd v.toNat)).apDone h 0 none 4
    | .v vd =>
      let n := min (32 - vd) (2 * 2 ^ (lmulExp (c.csr 0xC21)).toNat)
      let (s, b) := s.freeList (64 * n)
      (s.updCore h (·.putV vd 0 b)).apDone h 0 none 4

/-! ### The instruction at pc -/

/-- The exception of an instruction that only some modes run: SRET (0), a fence of the address translation (1), one of its second stage (2), WFI (3). -/
def AppCore.modeExc (c : AppCore) (what : Nat) : Option Nat :=
  let ms (i : Nat) : Bool := c.bit 0x300 i
  let hv (i : Nat) : Bool := c.bit 0x600 i
  match c.mode, what with
  | .m, _ => none
  | .vu, _ => some 22
  | .vs, 0 => if hv 22 then some 22 else none
  | .vs, 1 => if hv 20 then some 22 else none
  | .vs, 2 => some 22
  | .vs, _ => if ms 21 then some 2 else if hv 21 then some 22 else none
  | .hs, 0 => if ms 22 then some 2 else none
  | .hs, 1 | .hs, 2 => if ms 20 then some 2 else none
  | .hs, _ => if ms 21 then some 2 else none
  | .u, 3 => if ms 21 then some 2 else none
  | .u, _ => some 2

/-- Run f unless the mode forbids the instruction. -/
def State.inMode (s : State) (h what w : Nat) (f : State) : State := match (s.core h).modeExc what with
  | some e => s.apExc h e w
  | none => f

/-- HLV, HLVX and HSV: as a load or store of the guest, from M and HS mode, and from U mode by hstatus.HU. -/
def State.hyper (s : State) (h w : Nat) (f : CoreMode → State) : State :=
  let c := s.core h
  if c.mode.virt then s.apExc h 22 w
  else if c.mode = .u ∧ !c.bit 0x600 9 then s.apExc h 2 w
  else f (modeOf (b2n (c.bit 0x600 8)) true)

/-- An integer or system instruction of Rv. -/
def State.apBase (s : State) (h : Nat) (i : RvOp) (w len : Nat) : State :=
  let c := s.core h
  let x (r : Nat) : Word := nthD c.x r 0
  let ea (r : Nat) (off : Int) : Nat := (x r + BitVec.ofInt 64 off).toNat
  let pc : Word := BitVec.ofNat 64 c.pc
  match i with
  | .lui rd v => s.apDone h rd (some v) len
  | .auipc rd v => s.apDone h rd (some (pc + v)) len
  | .jal rd off => s.apJump h rd len (pc + BitVec.ofInt 64 off)
  | .jalr rd r off => s.apJump h rd len (BitVec.ofNat 64 (ea r off))
  | .branch k a b off => if rvTaken k (x a) (x b) then s.apJump h 0 len (pc + BitVec.ofInt 64 off) else s.apDone h 0 none len
  | .load k sg rd r off => s.apLoad h c.dataMode false (ea r off) k (.load k sg rd len)
  | .store k r v off => s.apStore h c.dataMode (ea r off) k (x v) len
  | .imm op ww rd r v => s.apDone h rd (some (rvEval op ww (x r) v)) len
  | .alu op ww rd a b => s.apDone h rd (some (rvEval op ww (x a) (x b))) len
  | .fence pred _ => s.apFence h pred len
  | .fenceI => if c.sb.isEmpty then (s.updCore h (fun c => { c with l1i := [] })).apDone h 0 none len else s
  | .wfi => s.inMode h 3 w (s.apDone h 0 none len)
  | .ecall => s.apExc h (match c.mode with
    | .u | .vu => 8
    | .hs => 9
    | .vs => 10
    | .m => 11)
  | .ebreak => s.apExc h 3 c.pc
  | .mret => if c.mode = .m then s.updCore h (fun c => c.mret.putCsr 0xB02 (c.csr 0xB02 + 1)) else s.apExc h 2 w
  | .csr op rd n src isImm =>
    let v : Word := if isImm then BitVec.ofNat 64 src else x src
    s.apCsrOp h n rd w (match op with
      | .write => some (fun _ => v)
      | .set => if src = 0 then none else some (fun o => o ||| v)
      | .clear => if src = 0 then none else some (fun o => o &&& ~~~v))
  | .lr k rd r => s.apLr h k rd (x r).toNat
  | .sc k rd r v => s.apSc h k rd (x r).toNat (x v)
  | .amo op k rd r v => s.apAmo h op k rd (x r).toNat (x v)
  | .cbo op r => s.apCbo h op (x r).toNat w
  | .xscg .. | .illegal => s.apExc h 2 w

/-- Run a decoded instruction. -/
def State.apRun (s : State) (h : Nat) (i : ApOp) (w len : Nat) : State :=
  let c := s.core h
  let x (r : Nat) : Word := nthD c.x r 0
  let ea (r : Nat) (off : Int) : Nat := (x r + BitVec.ofInt 64 off).toNat
  let fp (f : State) : State := if c.fsOff then s.apExc h 2 w else f
  match i with
  | .base i => s.apBase h i w len
  | .sret => s.inMode h 0 w (s.updCore h (fun c => c.sret.putCsr 0xB02 (c.csr 0xB02 + 1)))
  | .tlbFence hyper gstage => s.inMode h (if hyper then 2 else 1) w
      (if hyper && gstage && decide (c.mode = .hs) && c.bit 0x300 20 then s.apExc h 2 w else s.apDone h 0 none len)
  | .hlv k sg hx rd r => s.hyper h w (fun as => s.apLoad h as hx (x r).toNat k (.load k sg rd len))
  | .hsv k r v => s.hyper h w (fun as => s.apStore h as (x r).toNat k (x v) len)
  | .fload k rd r off => fp (s.apLoad h c.dataMode false (ea r off) k (.fload k rd len))
  | .fstore k r v off => fp (s.apStore h c.dataMode (ea r off) k (nthD c.f v 0) len)
  | .fmvX dbl rd r => fp (s.apDone h rd (some (if dbl then nthD c.f r 0 else sext32 (nthD c.f r 0))) len)
  | .fmvF dbl rd r => fp ((s.updCore h (·.setF (if dbl then 3 else 2) rd (x r).toNat)).apDone h 0 none len)
  | .fp d => s.apCompute h d false w
  | .vset rd r imm vt r2 => if c.vsOff then s.apExc h 2 w else s.apVset h rd r imm vt r2 len
  | .vmem m => s.apVmem h m w
  | .vop d => s.apCompute h d true w

/-- The instruction at a core's pc, or the interrupt that it takes first. A core whose I/O load is under way waits for the answer. -/
def State.apStep (s : State) (h : Nat) : State :=
  if (s.core h).wait.isSome then s
  else match s.coreIrq h with
    | some i => s.coreTrap h { cause := i, irq := true }
    | none => match s.apFetch h with
      | (s, .ok (i, w, len)) => s.apRun h i w len
      | (s, .trap t) => s.coreTrap h t
      | (s, .retry) => s

/-- An access that a command gives by its effect: the value read stands in State.readVal. -/
def State.apDirect (s : State) (h a size : Nat) (wr : Option Word) : State :=
  if (s.core h).wait.isSome then s
  else match (s.coreFault h false).phys h a size (wr.map (fun v => wordBytes v size)) with
    | (s, .done b) => if wr.isNone then { s with readVal := BitVec.ofNat 64 (leNat b) } else s
    | (s, .fault) => s.coreFault h true
    | (s, .wait) => s.updCore h (fun c => { c with wait := some .plain })
    | (s, .retry) => s

/-- CORE_IO_ACCESS (R16, R338, R339, R346): the instruction at the core's pc runs, a buffered store leaves the buffer, or a load (`wr` none) or
store of `size` bytes takes place. -/
def execCoreIoAccess (h : Fin 16) (op : CoreAcc) (size : Nat) (wr : Option Word) (s : State) : Host.Outcome State Fault Refusal :=
  .next (
    if !s.coresRun then s
    else match op with
      | .step => s.apStep h.val
      | .drain n => s.sbDrain h.val n
      | .io a => s.apDirect h.val a.toNat size wr)

end Sys2Proof.Machine
end

