-- ==== Sys2Proof/Machine/Ctlprog.lean ====
section
/-! DEFINITION. Cluster controllers (R325 to R335): traps and interrupts, loads and stores, the Xscg operations, the instructions of their programs, and the
dispatch arbiter. -/

namespace Sys2Proof.Machine

/-! ### Running, traps and interrupts (R328, R335) -/

/-- Can a hart execute an instruction: not in reset or fetch, not waiting; ended or stopped programs leave only M mode (R328, R334)? -/
def Ctl.canRun (c : Ctl) : Bool :=
  decide (c.wait = .none) && (match c.st with
    | .firmware | .user => true
    | .ended | .stopped => !c.umode
    | _ => false)

/-- An instruction of `len` bytes completes: rd takes a value, the hart goes on behind it. -/
def State.ctlDone (s : State) (g rd : Nat) (v : Option Word) (len : Nat := 4) : State :=
  s.updCtl g (fun c => (match v with
    | some v => c.setX rd v
    | none => c).retire (c.pc + len))

/-- Trap entry to M mode (RV64 privileged architecture): MEPC and MCAUSE, MPIE and MPP, and the vector of MTVEC. -/
def State.ctlEnter (s : State) (g : Nat) (cause : Nat) (interrupt : Bool) : State :=
  s.updCtl g (fun c => { c with
    mepc := c.pc, mcause := BitVec.ofNat 64 (cause + (if interrupt then 2 ^ 63 else 0)), mPIE := c.mIE, mIE := false, mPPm := !c.umode, umode := false,
    wait := .none, pc := c.mtvec.toNat / 4 * 4 + (if interrupt ∧ c.mtvec.toNat % 2 = 1 then 4 * cause else 0) })

/-- An exception (R328): in U mode every one but ECALL stops the section program; in M mode it traps. -/
def State.ctlExc (s : State) (g cause : Nat) : State := if (s.clu g).ctl.umode ∧ cause ≠ 8 then s.ctlTrap g cause else s.ctlEnter g cause false

/-- CTL_TRAP (R328): a U-mode exception; cause 8 is ECALL. -/
def execCtlTrap (g : Fin 256) (cause : BitVec 8) (s : State) : Host.Outcome State Fault Refusal :=
  let c := (s.clu g.val).ctl
  .next (if c.canRun && c.umode then s.ctlExc g.val cause.toNat else s)

/-- Does a hart take an enabled interrupt now: U mode or MIE, and no anchor operation but S.WAIT in progress (R332, R333)? -/
def Ctl.interruptible (c : Ctl) : Bool :=
  decide (c.st ≠ .reset ∧ c.st ≠ .fetch) && (c.umode || c.mIE) && (match c.wait with
    | .none | .summary _ _ => true
    | .anchor op _ _ _ => decide (op = 0x64))

/-- mip.MTIP (R335). -/
def State.mtip (s : State) (g : Nat) : Bool := decide ((s.clu g).ctl.mtimecmp.toNat ≤ s.time.count % 2 ^ 64)

/-- mip.MEIP (R335): a bit of CLU_CTL_IRQ set in PEND and ENABLE. -/
def State.meip (s : State) (g : Nat) : Bool :=
  let w := (s.view .cluster g 0x708).toNat
  decide (w % 8 &&& getF (s.reg (R.CLU_CTL_IRQ g)) F.CLU_CTL_IRQ_ENABLE ≠ 0)

/-- CTL_TIMER_INTERRUPT (R335). -/
def execCtlTimerInterrupt (g : Fin 256) (s : State) : Host.Outcome State Fault Refusal :=
  let c := (s.clu g.val).ctl
  .next (if c.interruptible && c.mtie && s.mtip g.val then s.ctlEnter g.val 7 true else s)

/-- CTL_EXTERNAL_INTERRUPT (R335). -/
def execCtlExternalInterrupt (g : Fin 256) (s : State) : Host.Outcome State Fault Refusal :=
  let c := (s.clu g.val).ctl
  .next (if c.interruptible && c.meie && s.meip g.val then s.ctlEnter g.val 11 true else s)

/-! ### Address space (R326, Table 175) -/

/-- What a controller's address names. -/
inductive CtlMem where
  | prog | ram | fw | timecmp | tile | scratch (L : Nat) | block
  deriving DecidableEq, Repr

/-- The range of Table 175 that holds an access of n bytes, if the mode permits it. -/
def State.ctlMem (s : State) (g a n : Nat) (um write exec : Bool) : Option CtlMem :=
  let isIn (lo len : Nat) : Bool := decide (lo ≤ a) && decide (a + n ≤ lo + len)
  let sp := scratchAddr (s.cellAt g 0) 0
  if isIn 0 0x40000 then (if um && write then none else some .prog)
  else if isIn 0x40000 0x10000 then (if exec then none else some .ram)
  else if isIn 0x80000 0x10000 then (if um then none else some .fw)
  else if isIn 0x90000 8 then (if um || exec then none else some .timecmp)
  else if isIn (tileAddr g 0) 0x4000000 then (if exec || (um && !isIn (tileAddr g 0) 0x3FC0000) then none else some .tile)
  else if isIn sp (16 * 0x400000) then
    let L := s.cellAt g ((a - sp) / 0x400000)
    if exec || !s.populated L then none else some (.scratch L)
  else if isIn (Blk.base .cluster g) 0x100000 then (if um || exec then none else some .block)
  else none

/-- An access fault (R326), with ADDR_HOLE against the section for an address that nothing backs (R27, R406). -/
def State.ctlHole (s : State) (g a cause : Nat) : State :=
  let t := s.teamOfClu g
  if 0x100000 ≤ a ∧ !s.backed a then
    ((s.raiseSect t (s.partOf g).1 2 g 0x3010 0 (some a)).ctlExc g cause).sectFails t 0x3010
  else s.ctlExc g cause

/-- Bytes of a local memory. -/
def mapBytes (m : SMap Byte) (a n : Nat) : List Byte := (List.range n).map (fun i => SMap.get 0 m (a + i))

/-- Put bytes into a local memory. -/
def putBytes (m : SMap Byte) (a : Nat) (b : List Byte) : SMap Byte := ((List.range b.length).zip b).foldl (fun m x => SMap.ins (a + x.1) x.2 m) m

/-- Memory-tile bytes through the data cache (R327): a miss fills the line; 256 lines are held. -/
def State.tileLoad (s : State) (g a n : Nat) : State × List Byte :=
  let k := a / 64 * 64
  match (s.clu g).ctl.cache.find? (fun l => decide (l.addr = k)) with
  | some l => (s, sliceB l.bytes (a - k) n)
  | none =>
    let (s, b, _) := s.deliver 2 g 1 16 k 64
    (s.updCtl g (fun c => { c with cache := (⟨k, b⟩ :: c.cache).take 256 }), sliceB b (a - k) n)

/-- A memory-tile store (R327): written through; a held line takes it too. -/
def State.tileStore (s : State) (g a : Nat) (b : List Byte) : State :=
  let k := a / 64 * 64
  (s.tileWr a b []).updCtl g (fun c => { c with cache := c.cache.map (fun l =>
    if l.addr = k then { l with bytes := l.bytes.take (a - k) ++ b ++ l.bytes.drop (a - k + b.length) } else l) })

/-- Load n bytes from a range. -/
def State.ctlRead (s : State) (g a n : Nat) (m : CtlMem) : State × List Byte :=
  let c := (s.clu g).ctl
  match m with
  | .prog => (s, mapBytes c.prog a n)
  | .ram => (s, mapBytes c.ram a n)
  | .fw => (s, mapBytes c.fw (a - 0x80000) n)
  | .timecmp => (s, sliceB (leBytes 8 c.mtimecmp.toNat) (a - 0x90000) n)
  | .tile => s.tileLoad g a n
  | .scratch L =>
    let (s, b, _) := s.deliver 2 g 0 (L % 16) a n
    (s, b)
  | .block =>
    if n = 8 then
      let (s, w) := s.regRead .cluster g (a % 0x100000)
      (s, leBytes 8 w.toNat)
    else (s.badAccess (100 + g) a n false, List.replicate n 0)

/-- Store bytes to a range. -/
def State.ctlWrite (s : State) (g a : Nat) (b : List Byte) (m : CtlMem) : State :=
  match m with
  | .prog => s.updCtl g (fun c => { c with prog := putBytes c.prog a b })
  | .ram => s.updCtl g (fun c => { c with ram := putBytes c.ram a b })
  | .fw => s.updCtl g (fun c => { c with fw := putBytes c.fw (a - 0x80000) b })
  | .timecmp => s.updCtl g (fun c => { c with mtimecmp := BitVec.ofNat 64 (leNat
      (sliceB (leBytes 8 c.mtimecmp.toNat) 0 (a - 0x90000) ++ b ++ (leBytes 8 c.mtimecmp.toNat).drop (a - 0x90000 + b.length))) })
  | .tile => s.tileStore g a b
  | .scratch _ => s.wr a b []
  | .block => if b.length = 8 then s.regWrite 100 .cluster g (a % 0x100000) (BitVec.ofNat 64 (leNat b)) else s.badAccess (100 + g) a b.length true

/-! ### CSRs (R325, R333, R334) -/

/-- scgstat (R334). -/
def State.scgstat (s : State) (g : Nat) : Nat :=
  let c := s.clu g
  b2n c.ctl.sereq + 2 * c.sums.length + 256 * maskOf 8 (fun j => decide (s.fld (R.CLU_JOB_TENANT g j) F.CLU_JOB_TENANT_VALID = 1))

/-- The value of a CSR that the state holds: none where the hart has no such CSR or its value is open. -/
def State.csrValue (s : State) (g n : Nat) : Option Word :=
  let c := (s.clu g).ctl
  let v (x : Nat) : Option Word := some (BitVec.ofNat 64 x)
  match n with
  | 0x8C1 => some c.scgexp
  | 0xCC0 => v (s.scgstat g)
  | 0xB02 | 0xC02 => some c.minstret
  | 0xC01 => v s.time.count
  | 0x300 => v (8 * b2n c.mIE + 128 * b2n c.mPIE + 0x1800 * b2n c.mPPm + 0x20000 * b2n c.mPRV + 0x200000 * b2n c.mTW + 2 * 2 ^ 32)
  | 0x301 => v (2 ^ 63 + 0x101105)
  | 0x304 => v (128 * b2n c.mtie + 2048 * b2n c.meie)
  | 0x305 => some c.mtvec
  | 0x306 => v c.mcounteren
  | 0x340 => some c.mscratch
  | 0x341 => v c.mepc
  | 0x342 => some c.mcause
  | 0x344 => v (128 * b2n (s.mtip g) + 2048 * b2n (s.meip g))
  | 0xF14 => v (0x100 + g)
  | _ => none

/-- CSRs whose value is open: mtval, menvcfg and the identification registers (assumption 90). -/
def csrOpen (n : Nat) : Bool := [0x343, 0x30A, 0xF11, 0xF12, 0xF13, 0xF15].contains n

/-- Read a CSR: none where the hart has no such CSR. The fabric cycles since the last read of `cycle` are a free value (assumption 22). -/
def State.csrRead (s : State) (g n : Nat) : Option (State × Word) :=
  let f := Config.freeWord s.draws
  if n = 0xB00 ∨ n = 0xC00 then
    let v := (s.clu g).ctl.mcycle + f
    some ({ s with draws := s.draws + 1 }.updCtl g (fun c => { c with mcycle := v }), v)
  else if csrOpen n then some ({ s with draws := s.draws + 1 }, f)
  else (s.csrValue g n).map (fun v => (s, v))

/-- Write a CSR. -/
def Ctl.setCsr (c : Ctl) (n : Nat) (v : Word) : Ctl :=
  match n with
  | 0x8C1 => { c with scgexp := v }
  | 0xB00 => { c with mcycle := v }
  | 0xB02 => { c with minstret := v }
  | 0x300 => { c with mIE := v.toNat.testBit 3, mPIE := v.toNat.testBit 7, mPPm := v.toNat.testBit 11, mPRV := v.toNat.testBit 17, mTW := v.toNat.testBit 21 }
  | 0x304 => { c with mtie := v.toNat.testBit 7, meie := v.toNat.testBit 11 }
  | 0x305 => { c with mtvec := v }
  | 0x306 => { c with mcounteren := v.toNat % 8 }
  | 0x340 => { c with mscratch := v }
  | 0x341 => { c with mepc := v.toNat / 2 * 2 }
  | 0x342 => { c with mcause := v }
  | _ => c

/-- May a hart in its mode read a CSR: not one above the mode, nor in U mode a counter that MCOUNTEREN hides? -/
def Ctl.csrVisible (c : Ctl) (n : Nat) : Bool :=
  !c.umode || (decide (n / 256 % 4 = 0) && !(decide (0xC00 ≤ n ∧ n < 0xC03) && !c.mcounteren.testBit (n - 0xC00)))

/-- A CSR instruction: rd takes the old value, `f` gives the new one of an instruction that writes. An absent CSR, one the mode may not read, or a write of a
read-only one is an illegal instruction. -/
def State.ctlCsr (s : State) (g n rd : Nat) (f : Option (Word → Word)) : State :=
  let c := (s.clu g).ctl
  if !c.csrVisible n || (f.isSome && decide (n / 1024 = 3)) then s.ctlExc g 2
  else match s.csrRead g n with
    | none => s.ctlExc g 2
    | some (s, x) =>
      let s := s.ctlDone g rd (some x)
      match f with
      | some f => s.updCtl g (fun c => c.setCsr n (f x))
      | none => s

/-- MRET: back to the mode and the instruction that the trap interrupted; MPRV clears on the way to U mode. -/
def Ctl.mret (c : Ctl) : Ctl := { c with umode := !c.mPPm, mIE := c.mPIE, mPIE := true, mPRV := c.mPRV && c.mPPm, mPPm := false, pc := c.mepc }

/-- Drop a line of the data cache. -/
def Ctl.dropLine (c : Ctl) (a : Nat) : Ctl := { c with cache := c.cache.filter (fun l => decide (l.addr ≠ a / 64 * 64)) }

/-- Does a data access of a hart have U-mode rights: its mode, or MPP under MPRV? -/
def Ctl.dataU (c : Ctl) : Bool := c.umode || (c.mPRV && !c.mPPm)

/-- A load of 2^k bytes (R326): a misaligned one, or one that Table 175 does not permit, is an exception. -/
def State.ctlLoad (s : State) (g k : Nat) (signed : Bool) (a rd : Nat) (len : Nat := 4) : State :=
  let n := 2 ^ k
  if a % n ≠ 0 then s.ctlExc g 4
  else match s.ctlMem g a n (s.clu g).ctl.dataU false false with
    | none => s.ctlHole g a 5
    | some m =>
      let (s, b) := s.ctlRead g a n m
      s.ctlDone g rd (some (if signed then BitVec.ofInt 64 (sxt (8 * n) (leNat b)) else BitVec.ofNat 64 (leNat b))) len

/-- A store of 2^k bytes (R326). -/
def State.ctlStore (s : State) (g k a : Nat) (v : Word) (len : Nat := 4) : State :=
  let n := 2 ^ k
  if a % n ≠ 0 then s.ctlExc g 6
  else match s.ctlMem g a n (s.clu g).ctl.dataU true false with
    | none => s.ctlHole g a 7
    | some m => (s.ctlWrite g a (sliceB (leBytes 8 v.toNat) 0 n) m).ctlDone g 0 none len

/-- Is a range main memory for a controller (R327)? Atomic operations act on nothing else (assumption 110). -/
def CtlMem.main : CtlMem → Bool
  | .prog | .ram | .fw | .tile => true
  | _ => false

/-- The range on which an atomic operation acts, with its exception where there is none: `st` for SC and AMO. -/
def State.ctlAtomic (s : State) (g k a : Nat) (st : Bool) (f : State → CtlMem → State) : State :=
  if a % 2 ^ k ≠ 0 then s.ctlExc g (if st then 6 else 4)
  else match (s.ctlMem g a (2 ^ k) (s.clu g).ctl.dataU st false).filter (·.main) with
    | none => s.ctlHole g a (if st then 7 else 5)
    | some m => f s m

/-- LR: the word, and a reservation of its address with the bytes read. -/
def State.ctlLr (s : State) (g k a rd : Nat) : State :=
  s.ctlAtomic g k a false (fun s m =>
    let (s, b) := s.ctlRead g a (2 ^ k) m
    (s.updCtl g (fun c => { c with resv := some (a, b) })).ctlDone g rd (some (BitVec.ofInt 64 (sxt (8 * 2 ^ k) (leNat b)))))

/-- SC: it fails without a reservation of its address or where the bytes have changed, and may fail otherwise (assumption 110); rd takes 0 on success, else 1. -/
def State.ctlSc (s : State) (g k a rd : Nat) (v : Word) : State :=
  s.ctlAtomic g k a true (fun s m =>
    let (s, b) := s.ctlRead g a (2 ^ k) m
    let ok := decide ((s.clu g).ctl.resv = some (a, b)) && (Config.freeWord s.draws).getLsbD 0
    let s := ({ s with draws := s.draws + 1 } : State).updCtl g (fun c => { c with resv := none })
    (if ok then s.ctlWrite g a (sliceB (leBytes 8 v.toNat) 0 (2 ^ k)) m else s).ctlDone g rd (some (if ok then 0 else 1)))

/-- AMO: rd takes the old word, memory the new one. -/
def State.ctlAmo (s : State) (g : Nat) (op : RvAmo) (k a rd : Nat) (v : Word) : State :=
  s.ctlAtomic g k a true (fun s m =>
    let n := 2 ^ k
    let (s, b) := s.ctlRead g a n m
    let old : Word := BitVec.ofInt 64 (sxt (8 * n) (leNat b))
    (s.ctlWrite g a (sliceB (leBytes 8 (rvAmoEval op (8 * n) old v).toNat) 0 n) m).ctlDone g rd (some old))

/-- A cache-block operation on the line of an address (R327): a store has been performed when it completes, so only the drop of the line has an effect, and an
address outside the memory tiles is in no line. -/
def State.ctlCbo (s : State) (g : Nat) (op : RvCbo) (a : Nat) : State :=
  (s.updCtl g (fun c => if op = .clean then c else c.dropLine a)).ctlDone g 0 none

/-- ECALL. -/
def State.ctlEcall (s : State) (g : Nat) : State := s.ctlEnter g (if (s.clu g).ctl.umode then 8 else 11) false

/-- MRET, an illegal instruction in U mode. -/
def State.ctlMret (s : State) (g : Nat) : State :=
  if (s.clu g).ctl.umode then s.ctlExc g 2 else s.updCtl g (fun c => { c.mret with minstret := c.minstret + 1 })

/-! ### The Xscg operations (R329 to R334) -/

/-- Run an Xscg instruction on a hart that can execute. -/
def State.xscg (s : State) (g : Nat) (f : State → State) : State := if (s.clu g).ctl.canRun then f s else s

/-- Is a job of a cluster bound? -/
def State.jobBound (s : State) (g j : Nat) : Bool := decide (s.fld (R.CLU_JOB_TENANT g j) F.CLU_JOB_TENANT_VALID = 1)

/-- Grid positions of a mask. -/
def positions (m : Nat) : List Nat := (List.range 16).filter (fun i => m.testBit i)

/-- X.GRP (R330). -/
def State.xGrp (s : State) (g : Nat) (rs1 rs2 : Word) (rd : Nat) : State :=
    if 2 ^ 19 ≤ rs1.toNat ∨ 2 ^ 13 ≤ rs2.toNat then s.ctlExc g 2
    else
      let c := s.clu g
      let j := bitsOf rs1.toNat 18 16
      let grp := nthD c.openG j []
      let ps := positions (rs1.toNat % 65536)
      if ps.any (fun p => grp.any (fun e => decide (e.1 = p))) then s.ctlDone g rd (some 1)
      else if !s.jobBound g j then s.ctlDone g rd (some 2)
      else (s.setClu g { c with openG := c.openG.set j (grp ++ ps.map (fun p => (p, rs2.toNat))) }).ctlDone g rd (some 0)

/-- X.DISP (R330). -/
def State.xDisp (s : State) (g : Nat) (rs1 : Word) (rd : Nat) : State :=
    if 8 ≤ rs1.toNat then s.ctlExc g 2
    else
      let c := s.clu g
      let j := rs1.toNat
      let grp := nthD c.openG j []
      let rq := nthD c.ready j []
      if !s.jobBound g j then (s.setClu g { c with openG := c.openG.set j [] }).ctlDone g rd (some 3)
      else if grp.isEmpty then s.ctlDone g rd (some 2)
      else if 8 ≤ rq.length then s.ctlDone g rd (some 1)
      else (s.setClu g { c with openG := c.openG.set j [], ready := c.ready.set j (rq ++ [grp]) }).ctlDone g rd (some 0)

/-- X.DROP (R330). -/
def State.xDrop (s : State) (g : Nat) (rs1 : Word) : State :=
    if 8 ≤ rs1.toNat then s.ctlExc g 2
    else
      let c := s.clu g
      (s.setClu g { c with openG := c.openG.set rs1.toNat [] }).ctlDone g 0 none

/-- X.LBASE (R331). -/
def State.xLbase (s : State) (g : Nat) (rs1 rs2 : Word) : State :=
    if 2 ^ 18 ≤ rs1.toNat ∨ 2 ^ 48 ≤ rs2.toNat then s.ctlExc g 2
    else
      let c := s.clu g
      let b := bitsOf rs1.toNat 17 16
      let ps := positions (rs1.toNat % 65536)
      let keep := c.lbase.filter (fun x => !(ps.contains x.1 && decide (x.2.1 = b)))
      (s.setClu g { c with lbase := keep ++ ps.map (fun p => (p, b, rs2.toNat)) }).ctlDone g 0 none

/-- The data-RAM address of X.SUMRD and X.SUMWT: an exception cause where it is not a multiple of 32 in the data RAM. -/
def sumBad (a : Nat) : Option Nat := if a % 32 ≠ 0 then some 6 else if 0x40000 ≤ a ∧ a + 32 ≤ 0x50000 then none else some 7

/-- X.SUMRD (R332). -/
def State.xSumrd (s : State) (g : Nat) (rs1 : Word) (rd : Nat) : State := match sumBad rs1.toNat with
    | some e => s.ctlExc g e
    | none => match (s.clu g).sums with
      | r :: rest => s.sumCopy g rs1.toNat rd r rest
      | [] => s.ctlDone g rd (some 0)

/-- X.SUMWT (R332): it waits for a record. -/
def State.xSumwt (s : State) (g : Nat) (rs1 : Word) (rd : Nat) : State := match sumBad rs1.toNat with
    | some e => s.ctlExc g e
    | none => match (s.clu g).sums with
      | r :: rest => s.sumCopy g rs1.toNat rd r rest
      | [] => s.updCtl g (fun c => { c with wait := .summary rs1.toNat rd })

/-- An anchor form (R333): the operation goes to the agent and the hart waits for its answer. -/
def State.ctlAnchor (s : State) (g op : Nat) (rs1 v : Word) (rd : Nat) : State :=
  if 32768 ≤ rs1.toNat then s.ctlExc g 2
  else
    let n := (s.clu g).ctl.ancReqs
    let e := if op = 0x63 then (s.clu g).ctl.scgexp else 0
    (s.updCtl g (fun c => { c with wait := .anchor op rd v n, ancReqs := n + 1 })).send
      { pkt := .ancOp op rs1.toNat v e, dest := ancEp rs1.toNat, src := ⟨g, 16⟩, sender := .cluster g, req := n }

/-- X.SECTEND (R334): the section program has ended; a hart in U mode waits for the switch. -/
def State.xSectend (s : State) (g : Nat) : State := (s.updCtl g (fun c => if c.st = .user then { c with st := .ended } else c)).ctlDone g 0 none

/-- X_GRP (R330). -/
def execXGrp (g : Fin 256) (rs1 rs2 : Word) (rd : Fin 32) (s : State) : Host.Outcome State Fault Refusal :=
  .next (s.xscg g.val (fun s => s.xGrp g.val rs1 rs2 rd.val))

/-- X_DISP (R330). -/
def execXDisp (g : Fin 256) (rs1 : Word) (rd : Fin 32) (s : State) : Host.Outcome State Fault Refusal :=
  .next (s.xscg g.val (fun s => s.xDisp g.val rs1 rd.val))

/-- X_DROP (R330). -/
def execXDrop (g : Fin 256) (rs1 : Word) (s : State) : Host.Outcome State Fault Refusal :=
  .next (s.xscg g.val (fun s => s.xDrop g.val rs1))

/-- X_LBASE (R331). -/
def execXLbase (g : Fin 256) (rs1 rs2 : Word) (s : State) : Host.Outcome State Fault Refusal :=
  .next (s.xscg g.val (fun s => s.xLbase g.val rs1 rs2))

/-- X_SUMRD (R332). -/
def execXSumrd (g : Fin 256) (rs1 : Word) (rd : Fin 32) (s : State) : Host.Outcome State Fault Refusal :=
  .next (s.xscg g.val (fun s => s.xSumrd g.val rs1 rd.val))

/-- X_SUMWT (R332). -/
def execXSumwt (g : Fin 256) (rs1 : Word) (rd : Fin 32) (s : State) : Host.Outcome State Fault Refusal :=
  .next (s.xscg g.val (fun s => s.xSumwt g.val rs1 rd.val))

/-- CTL_S_ADD (R333). -/
def execCtlSAdd (g : Fin 256) (rs1 rs2 : Word) (rd : Fin 32) (s : State) : Host.Outcome State Fault Refusal :=
  .next (s.xscg g.val (fun s => s.ctlAnchor g.val 0x60 rs1 rs2 rd.val))

/-- CTL_S_SUB (R333). -/
def execCtlSSub (g : Fin 256) (rs1 rs2 : Word) (rd : Fin 32) (s : State) : Host.Outcome State Fault Refusal :=
  .next (s.xscg g.val (fun s => s.ctlAnchor g.val 0x61 rs1 rs2 rd.val))

/-- CTL_S_SET (R333). -/
def execCtlSSet (g : Fin 256) (rs1 rs2 : Word) (rd : Fin 32) (s : State) : Host.Outcome State Fault Refusal :=
  .next (s.xscg g.val (fun s => s.ctlAnchor g.val 0x62 rs1 rs2 rd.val))

/-- CTL_S_CAS (R333): the expected value is scgexp. -/
def execCtlSCas (g : Fin 256) (rs1 rs2 : Word) (rd : Fin 32) (s : State) : Host.Outcome State Fault Refusal :=
  .next (s.xscg g.val (fun s => s.ctlAnchor g.val 0x63 rs1 rs2 rd.val))

/-- CTL_S_WAIT (R333). -/
def execCtlSWait (g : Fin 256) (rs1 rs2 : Word) (rd : Fin 32) (s : State) : Host.Outcome State Fault Refusal :=
  .next (s.xscg g.val (fun s => s.ctlAnchor g.val 0x64 rs1 rs2 rd.val))

/-- X_SECTEND (R334). -/
def execXSectend (g : Fin 256) (s : State) : Host.Outcome State Fault Refusal := .next (s.xscg g.val (fun s => s.xSectend g.val))

/-! ### The instructions of a controller's program (R325, R326, R329) -/

/-- The instruction at an address, with its length: none where the address may not be executed. -/
def State.ctlFetch (s : State) (g a : Nat) : Option (RvOp × Nat) :=
  let half (x : Nat) : Option Nat := match s.ctlMem g x 2 (s.clu g).ctl.umode false true with
    | some .prog => some (leNat (mapBytes (s.clu g).ctl.prog x 2))
    | some .fw => some (leNat (mapBytes (s.clu g).ctl.fw (x - 0x80000) 2))
    | _ => none
  match half a with
  | none => none
  | some lo => if lo % 4 ≠ 3 then some (rvcDecode lo, 2) else (half (a + 2)).map (fun hi => (rvDecode (lo + 2 ^ 16 * hi), 4))

/-- Run an Xscg word (Table 176): another funct3 or funct7, or a register field other than x0 where the table has x0, is illegal. -/
def State.ctlXscg (s : State) (g f3 f7 rd rs1 rs2 : Nat) (x1 x2 : Word) : State :=
  match f3, f7 with
  | 0, 0 => s.xGrp g x1 x2 rd
  | 0, 1 => if rs2 = 0 then s.xDisp g x1 rd else s.ctlExc g 2
  | 0, 2 => if rs2 = 0 ∧ rd = 0 then s.xDrop g x1 else s.ctlExc g 2
  | 0, 3 => if rd = 0 then s.xLbase g x1 x2 else s.ctlExc g 2
  | 1, 0 => if rs2 = 0 then s.xSumrd g x1 rd else s.ctlExc g 2
  | 1, 1 => if rs2 = 0 then s.xSumwt g x1 rd else s.ctlExc g 2
  | 2, k => if 0x60 ≤ k ∧ k ≤ 0x64 then s.ctlAnchor g k x1 x2 rd else s.ctlExc g 2
  | 3, 0 => if rs1 = 0 ∧ rs2 = 0 ∧ rd = 0 then s.xSectend g else s.ctlExc g 2
  | _, _ => s.ctlExc g 2

/-- A control transfer: rd takes the address behind it. -/
def State.ctlJump (s : State) (g rd len : Nat) (target : Word) : State :=
  s.updCtl g (fun c => (c.setX rd (BitVec.ofNat 64 (c.pc + len))).retire target.toNat)

/-- Run a decoded instruction of `len` bytes (R325, assumption 90). FENCE, FENCE.I and WFI have nothing to wait for: every access of the hart has been performed
when the next one starts. -/
def State.ctlRun (s : State) (g : Nat) (i : RvOp) (len : Nat) : State :=
  let c := (s.clu g).ctl
  let x (r : Nat) : Word := nthD c.x r 0
  let ea (r : Nat) (off : Int) : Nat := (x r + BitVec.ofInt 64 off).toNat
  let pc : Word := BitVec.ofNat 64 c.pc
  match i with
  | .lui rd v => s.ctlDone g rd (some v) len
  | .auipc rd v => s.ctlDone g rd (some (pc + v)) len
  | .jal rd off => s.ctlJump g rd len (pc + BitVec.ofInt 64 off)
  | .jalr rd r off => s.ctlJump g rd len (BitVec.ofNat 64 (ea r off / 2 * 2))
  | .branch k a b off => if rvTaken k (x a) (x b) then s.ctlJump g 0 len (pc + BitVec.ofInt 64 off) else s.ctlDone g 0 none len
  | .load k sg rd r off => s.ctlLoad g k sg (ea r off) rd len
  | .store k r v off => s.ctlStore g k (ea r off) (x v) len
  | .imm op w rd r v => s.ctlDone g rd (some (rvEval op w (x r) v)) len
  | .alu op w rd a b => s.ctlDone g rd (some (rvEval op w (x a) (x b))) len
  | .fence .. | .fenceI => s.ctlDone g 0 none len
  | .wfi => if c.umode && c.mTW then s.ctlExc g 2 else s.ctlDone g 0 none len
  | .ecall => s.ctlEcall g
  | .ebreak => s.ctlExc g 3
  | .mret => s.ctlMret g
  | .csr op rd n src isImm =>
    let v : Word := if isImm then BitVec.ofNat 64 src else x src
    s.ctlCsr g n rd (match op with
      | .write => some (fun _ => v)
      | .set => if src = 0 then none else some (fun o => o ||| v)
      | .clear => if src = 0 then none else some (fun o => o &&& ~~~v))
  | .lr k rd r => s.ctlLr g k (x r).toNat rd
  | .sc k rd r v => s.ctlSc g k (x r).toNat rd (x v)
  | .amo op k rd r v => s.ctlAmo g op k (x r).toNat rd (x v)
  | .cbo op r => s.ctlCbo g op (x r).toNat
  | .xscg f3 f7 rd a b => s.ctlXscg g f3 f7 rd a b (x a) (x b)
  | .illegal => s.ctlExc g 2

/-- CTL_LOAD_STORE (R325 to R327): the instruction at the hart's pc runs, or an instruction with the access that the operands give. -/
def execCtlLoadStore (g : Fin 256) (op : CtlAcc) (a : BitVec 48) (v : Word) (rd : Fin 32) (s : State) : Host.Outcome State Fault Refusal :=
  let c := (s.clu g.val).ctl
  let x := a.toNat
  .next (
    if !c.canRun then s
    else if s.upsets.contains (.ctlMem g.val 1) then s.memFails g.val 1
    else match op with
      | .step => (match s.ctlFetch g.val c.pc with
          | some (i, len) => s.ctlRun g.val i len
          | none => s.ctlHole g.val c.pc 1)
      | .load k sg => s.ctlLoad g.val k.val sg x rd.val
      | .store k => s.ctlStore g.val k.val x v
      | .fetch => (match s.ctlMem g.val x 2 c.umode false true with
          | none => s.ctlHole g.val x 1
          | some _ => s.updCtl g.val (fun c => { c with pc := x }))
      | .inval => s.ctlCbo g.val .inval x
      | .clean => s.ctlCbo g.val .clean x
      | .flush => s.ctlCbo g.val .flush x
      | .ecall => s.ctlEcall g.val
      | .mret => s.ctlMret g.val
      | .csr w => s.ctlCsr g.val (x % 4096) rd.val (if w then some (fun _ => v) else none))

/-! ### The dispatch arbiter (R292, R330, R331) -/

/-- Request that holds a job tag in a cluster, with its number. -/
def State.jobHolder (s : State) (g j : Nat) : Option (Nat × Request) :=
  let t := s.teamOfClu g
  s.adm.reqs.find? (fun (x : Nat × Request) => decide (x.2.team = t) && decide (x.2.job = some j) && (match x.2.dyn with
    | some L => decide (s.clusterOf L = g)
    | none => true))

/-- Where a group's entries go: each named position with its word; a DYNAMIC job's group goes to its one cell (R303). -/
def State.groupTargets (s : State) (g : Nat) (q : Request) (grp : Group) : List (Nat × Nat) :=
  match q.dyn with
  | some L =>
    let w := match grp.find? (fun e => decide (e.1 = L % 16)), grp with
      | some e, _ => e.2
      | none, e :: _ => e.2
      | none, [] => 0
    [(L % 16, w)]
  | none => grp.filter (fun e => s.populated (s.cellAt g e.1))

/-- The job's oldest ready group, if its booked start has come (R303), every cell the group names has room in its mailbox and its dispatch is not held (R330,
R380). -/
def State.groupDue (s : State) (g j : Nat) : Option (List (Nat × Nat)) :=
  match s.jobHolder g j, nthD (s.clu g).ready j [] with
  | some (_, q), grp :: _ =>
    let l := s.groupTargets g q grp
    if decide (s.time.count < q.opens) || q.quiesce || q.cancelling.isSome || l.any (fun e => decide (4 ≤ (s.cell (s.cellAt g e.1)).mbox.length)) then none else some l
  | _, _ => none

/-- The job that the arbiter serves at its lane position (R292): the owner, else a best-effort job in acceptance order, else a guaranteed one in lane order, those
without a lane after the others in acceptance order (assumption 91). -/
def State.arbiter (s : State) (g : Nat) : Option Nat :=
  let t := s.teamOfClu g
  let due (j : Nat) : Bool := (s.groupDue g j).isSome
  let jobOf (r : Nat) : Option Nat := (s.req r).bind (·.job)
  let lanes := (s.team t).lanes
  let owner := ((nthD lanes ((s.clu g).round % 16) none).bind jobOf).filter due
  let be := (s.adm.reqs.filterMap (fun (x : Nat × Request) => if x.2.team = t ∧ !x.2.guar then x.2.job.filter due else none)).head?
  let gu := (lanes.filterMap (fun l => (l.bind jobOf).filter due) ++
    s.adm.reqs.filterMap (fun (x : Nat × Request) => if x.2.team = t ∧ x.2.guar then x.2.job.filter due else none)).head?
  match owner, be, gu with
  | some j, _, _ => some j
  | none, some j, _ => some j
  | none, none, x => x

/-- GROUP_POST (R292, R330, R331): every entry of the group is posted at once, with the pending LEAD_BASE values of its cell. -/
def execGroupPost (g : Fin 256) (j : Fin 8) (s : State) : Host.Outcome State Fault Refusal :=
  .next (match s.arbiter g.val, s.groupDue g.val j.val with
    | some k, some l =>
      if k ≠ j.val then s
      else
        let c := s.clu g.val
        let held := c.lbase
        let s := s.setClu g.val { c with
          ready := c.ready.set j.val ((nthD c.ready j.val []).drop 1), round := (c.round + 1) % 16,
          lbase := held.filter (fun x => !l.any (fun e => decide (e.1 = x.1))) }
        l.foldl (fun s e =>
          let L := s.cellAt g.val e.1
          let x := s.cell L
          s.setCell L { x with mbox := x.mbox ++ [⟨e.2, j.val, (held.filter (fun y => decide (y.1 = e.1))).map (fun y => (y.2.1, y.2.2))⟩] }) s
    | _, _ => s)

end Sys2Proof.Machine
end

