-- ==== Sys2Proof/Machine/Jtag.lean ====
section
/-! DEFINITION. The test access port (R515) and the status and strap balls (R514). -/

namespace Sys2Proof.Machine

/-- The next state of an IEEE 1149.1 controller. -/
def TapState.next (st : TapState) (tms : Bool) : TapState :=
  match st with
  | .reset => if tms then .reset else .idle
  | .idle => if tms then .selDr else .idle
  | .selDr => if tms then .selIr else .capDr
  | .capDr => if tms then .ex1Dr else .shDr
  | .shDr => if tms then .ex1Dr else .shDr
  | .ex1Dr => if tms then .updDr else .pauDr
  | .pauDr => if tms then .ex2Dr else .pauDr
  | .ex2Dr => if tms then .updDr else .shDr
  | .updDr => if tms then .selDr else .idle
  | .selIr => if tms then .reset else .capIr
  | .capIr => if tms then .ex1Ir else .shIr
  | .shIr => if tms then .ex1Ir else .shIr
  | .ex1Ir => if tms then .updIr else .pauIr
  | .pauIr => if tms then .ex2Ir else .pauIr
  | .ex2Ir => if tms then .updIr else .shIr
  | .updIr => if tms then .selDr else .idle

/-- Balls of the boundary register in ascending ball order (Table 294): 0 to 3 CXL_PERST_N of ports 0 to 3 (row G), 4 PERST_N and 5 TEST_MODE (row BV), 6 I3C_SCL,
7 I3C_SDA, 8 ALERT_N, 9 SAFE_N and 10 THERMTRIP_N (row BY), 11 to 13 MGMT_ADDR (row CA), 14 to 17 CXL_PERST_N of ports 4 to 7 (row EA). -/
def ballPort (i : Nat) : Option Nat := if i < 4 then some i else if 14 ≤ i ∧ i < 18 then some (i - 10) else none

/-- Is a ball an open-drain output? -/
def ballOpenDrain (i : Nat) : Bool := (ballPort i).isSome || decide (8 ≤ i ∧ i ≤ 10)

/-- Is the instruction in force EXTEST? Every code but EXTEST and SAMPLE/PRELOAD selects BYPASS. -/
def TapPort.extest (t : TapPort) : Bool := decide (t.ir = 0x00)
def TapPort.boundary (t : TapPort) : Bool := decide (t.ir = 0x00 ∨ t.ir = 0x02)

/-- The level that the device's logic gives a ball (R514). The I3C lines idle high. -/
def State.coreBall (s : State) (i : Nat) : Bool :=
  match ballPort i with
  | some d => decide (2 ≤ s.fld (R.CXL_PORT_STATUS d) F.CXL_PORT_STATUS_STATE ∧ s.stage ≠ 8)
  | none =>
    if i = 4 then !s.boot.perst
    else if i = 5 then s.boot.testMode
    else if i = 8 then !s.alertLow
    else if i = 9 then !s.safeLow
    else if i = 10 then !s.tripLow
    else if 11 ≤ i ∧ i ≤ 13 then s.boot.mgmtAddr.testBit (i - 11)
    else true

/-- The level of a ball: under EXTEST the boundary register drives the open-drain outputs. -/
def State.ball (s : State) (i : Nat) : Bool := if s.tap.extest ∧ ballOpenDrain i then nthD s.tap.upd i false else s.coreBall i

/-- What the controller does at the rising edge of TCK in its present state: capture and shift. -/
def State.tapRise (s : State) (tdi : Bool) : TapPort :=
  let t := s.tap
  match t.st with
  | .capDr => if t.boundary then { t with bsr := (List.range 18).map s.ball } else { t with bypass := false }
  | .shDr => if t.boundary then { t with bsr := tdi :: t.bsr.take 17 } else { t with bypass := tdi }
  | .capIr => { t with irSh := 1 }
  | .shIr => { t with irSh := t.irSh / 2 + 128 * b2n tdi }
  | _ => t

/-- What it does at the falling edge in its new state: TDO, the update latches, the instruction. -/
def TapPort.fall (t : TapPort) : TapPort :=
  match t.st with
  | .shDr => { t with tdo := if t.boundary then nthD t.bsr 17 false else t.bypass }
  | .shIr => { t with tdo := t.irSh.testBit 0 }
  | .updDr => if t.boundary then { t with upd := t.bsr } else t
  | .updIr => { t with ir := t.irSh }
  | .reset => { t with ir := 0xFF }
  | _ => t

/-- TEST_ACCESS_PORT (R515): one TCK cycle, or TRST_N low, which resets the controller. -/
def execTestAccessPort (pins : TapPins) (tdi : Bool) (s : State) : Host.Outcome State Fault Refusal :=
  .next (if !s.pwr.aux then s
    else match pins with
      | .trst => { s with tap := ({ s.tap with st := .reset } : TapPort).fall }
      | .tck tms =>
        let t := s.tapRise tdi
        { s with tap := ({ t with st := t.st.next tms } : TapPort).fall })

end Sys2Proof.Machine
end

