-- ==== Sys2Proof/Machine/Pitch.lean ====
section
/-! DEFINITION. The pitch boundary (R46): what the device does at every boundary of the pitch schedule. -/

namespace Sys2Proof.Machine

/-- Write the share wheels of a cluster (R216, Table 113): the wheel image of each memory-tile port, or 31 in every entry; 31 too where the cluster is out of
service (Table 267). -/
def State.writeWheels (s : State) (g : Nat) (image : Nat → Option (List Nat)) : State :=
  if s.cluOut g then s.clearWheelsOf [g]
  else (List.range 32).foldl (fun s i =>
    let k := i / 8
    let v := match image k with
      | some l => (List.range 8).foldl (fun v m => v + nthD l (8 * (i % 8) + m) 31 * 256 ^ m) 0
      | none => 0x1F1F1F1F1F1F1F1F
    s.setReg (R.CLU_XBAR_WHEEL g k (i % 8)) (BitVec.ofNat 64 v)) s

/-- The wheel image that a card's cluster map names for port k of team cluster u (R289). -/
def Card.wheel (c : Card) (u k : Nat) : Option (List Nat) :=
  let m := nthD c.cmap (4 * u + k) 0xFF
  if m = 0xFF then none else c.wheels[m]?

/-- The running section's card becomes the active card (R91, R216). -/
def State.activateCard (s : State) (t : Nat) : State :=
  let x := s.team t
  if !x.cardAtBoundary then s
  else match x.running with
    | none => s.setTeam t { x with cardAtBoundary := false }
    | some y =>
      let s := (s.clearWheels t).setTeam t { x with cardAtBoundary := false, activeCard := y.card }
      (List.range (4 * y.binding.length)).foldl (fun s u =>
        s.writeWheels (s.teamCluster y u) (fun k => y.card.bind (fun c => c.wheel u k))) s

/-- A router whose controller has switched takes its shadow slot table (R90, R256): none, which reserves nothing (R255), where the section has no ROUTER_SLOTS
frame for it. -/
def Router.atBoundary (r : Router) : Router := if r.switchDue then { r with table := r.shadow, shadow := none, switchDue := false } else r

/-- A slot that passed its test returns to service (R20, R397). A spare has no RETIRED bit: it shows SPARE_GOOD again (assumption 114). -/
def State.returnSlot (s : State) (k : Nat) : State :=
  let g := k / 17
  let a := R.CLU_SLOT_MAP g
  let s := if k % 17 = 16 then s.setFld a F.CLU_SLOT_MAP_SPARE_GOOD 1
    else s.setFld a F.CLU_SLOT_MAP_RETIRED (s.fld a F.CLU_SLOT_MAP_RETIRED &&& (65535 - 2 ^ (k % 17)))
  let s := s.setFld (R.CLU_RTR_FENCE g) F.CLU_RTR_FENCE_FENCE (s.retiredFence g)
  let s := { s with integ := { s.integ with condemned := s.integ.condemned.filter (fun c => decide (c.slot ≠ k)) },
                    pwr := { s.pwr with nv := s.pwr.nv ++ [({ item := .retire k false } : NvJob)] } }
  s.raise { code := 0x6204, kind := 9, src := k, detail := k % 17 }

/-- A condemned spare that serves no position loses SPARE_GOOD (R20, R393). -/
def State.dropSpare (s : State) (k : Nat) : State :=
  let g := k / 17
  let a := R.CLU_SLOT_MAP g
  if k % 17 = 16 ∧ s.fld a F.CLU_SLOT_MAP_SPARE_POS = 0x1F then
    let s := s.setFld a F.CLU_SLOT_MAP_SPARE_GOOD 0
    s.setFld (R.CLU_RTR_FENCE g) F.CLU_RTR_FENCE_FENCE (s.retiredFence g)
  else s

/-- What a team does at a boundary: a drain that waits for it begins (R387), its card activates, and the lanes and budgets of the pitch are set (R292, R296). -/
def State.teamBoundary (s : State) (t : Nat) : State :=
  let s := match (s.team t).drainAtBoundary with
    | some (code, reason) => (s.setTeam t { s.team t with drainAtBoundary := none }).beginDrain t code reason
    | none => s
  (s.activateCard t).newPitch t

/-- Clusters whose router meets an uncorrectable error in the slot table it takes for the pitch (R362). -/
def slotTableUpsets (l : List Upset) : List Nat := l.filterMap (fun u => match u with
  | .ctlMem g 2 => some g
  | _ => none)

/-- The limits "once per pitch" start again. -/
def State.clearPitchLimits (s : State) : State :=
  { s with
    badReg := [],
    time := { s.time with floorLogged := List.replicate 8 false },
    adm := { s.adm with busyLogged := [], ghosts := s.adm.ghosts.filter (fun g => decide (s.pitch ≤ g.pitch)) },
    pwr := { s.pwr with capLogged := false, holdLogged := false },
    clus := s.clus.map (fun (x : Nat × Clu) => (x.1, { x.2 with skipLogged := false, router := x.2.router.atBoundary })),
    link := { s.link with streams := s.link.streams.map (fun (x : Nat × CamStream) => (x.1, { x.2 with lateLogged := false })) } }

/-- PITCH_BOUNDARY (R46): due once at each waymark that is a boundary. -/
def execPitchBoundary (s : State) : Host.Outcome State Fault Refusal :=
  .next (
    if s.time.st = .acquire ∨ !s.time.isBoundary s.time.count ∨ s.time.lastBoundary = some s.time.count then s
    else
      let s := { s with time := { s.time with lastBoundary := some s.time.count, pitches := s.time.pitches + 1 } }
      let s := s.flushCorrected.clearPitchLimits
      let s := (slotTableUpsets s.upsets).foldl (fun s g => s.memFails g 2) s
      let s := (s.integ.condemned.map (·.slot)).foldl (fun s k => s.dropSpare k) s
      let s := s.integ.returned.foldl (fun s k => s.returnSlot k) { s with integ := { s.integ with returned := [] } }
      ((List.range 64).filter (fun (t : Nat) => decide (s.teamId t = t))).foldl (fun s t => s.teamBoundary t) s)

end Sys2Proof.Machine
end

