-- ==== Sys2Proof/Machine/Regcmd.lean ====
section
/-! DEFINITION. The register commands (R8, R14 to R16): one 64-bit access by a host function, an application core or a cluster controller. -/

namespace Sys2Proof.Machine

/-- The register at an address that a host function reaches: its block, unit and offset, with whether the access is aligned. An interrupt file is unbacked for the
host (R346), and so is what its windows do not show (R417): such a write is discarded. -/
def State.fnReg (s : State) (f a : Nat) : Option (Blk × Nat × Nat × Bool) :=
  match blockOf a with
  | some (b, u, o) => if s.fnReach f b u && !irqFile b o then some (b, u, o, regSized b o 8) else none
  | none => none

/-- REGISTER_WRITE (R14 to R16, R27): a core's write follows R339, a controller's is its store of 8 bytes (R326). -/
def execRegisterWrite (w : Who) (a : BitVec 48) (v : Word) (s : State) : Host.Outcome State Fault Refusal :=
  let x := a.toNat
  .next (match w with
    | .fn f => (match s.fnReg f.val x with
      | some (b, u, o, ok) => if ok then s.regWrite f.val b u o v else s.badAccess 0 x 8 true
      | none => s)
    | .core h => if s.coresRun then s.apDirect h.val x 8 (some v) else s
    | .ctl g => if (s.clu g.val).ctl.canRun then s.ctlStore g.val 3 x v else s)

/-- RC_REGISTER_READ (R14, R16, R27): the value read, and its RC fields clear. A core's read follows R339; a controller's is its load of 8 bytes (R326), whose
value stands in State.readVal here. -/
def execRcRegisterRead (w : Who) (a : BitVec 48) (s : State) : Host.Outcome State Fault Refusal :=
  let x := a.toNat
  .next (match w with
    | .fn f => (match s.fnReg f.val x with
      | some (b, u, o, ok) =>
        if ok then
          let (s, v) := s.regRead b u o
          { s with readVal := v }
        else ({ s with readVal := 0 } : State).badAccess 0 x 8 false
      | none => s)
    | .core h => if s.coresRun then s.apDirect h.val x 8 none else s
    | .ctl g =>
      if !(s.clu g.val).ctl.canRun then s
      else if x % 8 = 0 ∧ s.ctlMem g.val x 8 (s.clu g.val).ctl.dataU false false = some .block then
        let (s, v) := s.regRead .cluster g.val (x % 0x100000)
        ({ s with readVal := v } : State).ctlDone g.val 0 none
      else s.ctlLoad g.val 3 false x 0)

end Sys2Proof.Machine
end

