-- ==== Sys2Proof/Machine/Vector.lean ====
section
/-! DEFINITION. The vector engine (R169 to R184) and the plausibility check of its summaries (R375). -/

namespace Sys2Proof.Machine

/-- Bytes of a sector that one write of n bytes at a covers. -/
def coverOf (k a n : Nat) : Nat := min (64 * k + 64) (a + n) - max (64 * k) a

/-- Write many byte runs of a scratchpad as one access: sectors written whole and clean lose their poison, sectors with a poisoned run get it (R181, R221). -/
def State.wrParts (s : State) (base : Nat) (ws : List OutWrite) : State :=
  let m := ws.foldl (fun m w => memWriteN m (base + w.off) w.bytes) s.mem
  let secs := (ws.flatMap (fun w => sectorsOf (base + w.off) w.bytes.length)).eraseDups
  let p := secs.foldl (fun p k =>
    let here := ws.filter (fun w => (sectorsOf (base + w.off) w.bytes.length).contains k)
    if here.any (·.pois) then insNat k p
    else if here.foldl (fun n w => n + coverOf k (base + w.off) w.bytes.length) 0 = 64 then p.filter (· != k) else p) s.poison
  { s with mem := m, poison := p }

/-- Write output bytes into the constant cache from a byte offset (R179). -/
def writeConst (m : SMap (BitVec 32)) (base : Nat) (ws : List OutWrite) : SMap (BitVec 32) :=
  ws.foldl (fun m w => ((List.range w.bytes.length).zip w.bytes).foldl (fun m x =>
    let o := base + w.off + x.1
    let old := (SMap.get 0 m (o / 4)).toNat
    let sh := 8 * (o % 4)
    SMap.ins (o / 4) (BitVec.ofNat 32 (old - bitsOf old (sh + 7) sh * 2 ^ sh + x.2.toNat * 2 ^ sh)) m) m) m

/-- Faults of a V.CHAIN at its start (R169, R179, R183): the code, or none. -/
def chainFault (d : Desc) (n xa xb xd xm : Nat) (bField mField zField : Bool) : Option Nat :=
  if zField || (!d.usesB && bField) || (d.mask ≠ 1 && mField) then some evChainBad
  else if xa % 32 ≠ 0 || (d.usesB && xb % 32 ≠ 0) || (d.mask = 1 && xm % 32 ≠ 0) || (!d.dest && xd % 32 ≠ 0) || (d.dest && xd % 4 ≠ 0) then some evChainBad
  else if d.constBad n || (d.dest && decide (16384 < xd + streamLen d.fmtD 0 false n)) then some evConstRange
  else none

/-- Units of a chain in the order of R196: group by group, streams A, B, mask, output. -/
def chainUnits (d : Desc) (n xa xb xd xm : Nat) : List Nat :=
  let gl := if d.w then 128 else 64
  let part (base : Nat) (f : Fmt) (scl : Nat) (e0 e1 : Nat) : List Nat :=
    let b0 := elemBit f scl d.layout e0 / 8
    let b1 := (elemBit f scl d.layout (e1 - 1) + f.bits + 7) / 8
    unitsOfRange (base + b0) (b1 - b0) ++
      (if scl = 0 then [] else (List.range (e1 - e0)).map (fun i => (base + scaleByte f scl d.layout (e0 + i)) / 32))
  firstTouch ((List.range ((n + gl - 1) / gl)).flatMap (fun g =>
    let e0 := g * gl
    let e1 := min n (e0 + gl)
    part xa d.fmtA d.sclA e0 e1 ++ (if d.usesB then part xb d.fmtB d.sclB e0 e1 else []) ++
      (if d.mask = 1 then unitsOfRange (xm + e0 / 8) ((e1 - e0 + 7) / 8) else []) ++
      (if d.dest then [] else part xd d.fmtD d.sclD e0 e1)))

/-- Completion of a chain (R180, R181): summaries, flags and counters. -/
def State.chainDone (s : State) (L : Nat) (strict : Bool) (d : Desc) (r : ChainRun) : State :=
  let (zs, zf) := finishZ strict d r
  let fl := r.flags ||| zf
  let c := s.cell L
  let z := (List.range 4).map (fun j => match nthD zs j none with
    | some v => v
    | none => nthD c.zs j (0, false))
  let s := s.setCell L { c with zs := z, elems := r.elems, veCur := none }
  let s := s.setFld (R.CELL_VE_LAST L) F.CELL_VE_LAST_FLAGS fl
  s.setFld (R.CELL_VE_FLAGS L) F.CELL_VE_FLAGS_FLAGS (s.fld (R.CELL_VE_FLAGS L) F.CELL_VE_FLAGS_FLAGS ||| fl)

/-- Constant words that an output wrote whole, which are then free of error. -/
def wholeWords (base : Nat) (ws : List OutWrite) (k : Nat) : Bool :=
  (List.range 4).all (fun i => ws.any (fun w => decide (base + w.off ≤ 4 * k + i) && decide (4 * k + i < base + w.off + w.bytes.length)))

/-- One segment of a chain (R182): it reads its own elements, and writes its own output. -/
def State.vSegment (s : State) (L : Nat) (strict : Bool) (d : Desc) (n xa xb xd xm seg : Nat) (run : ChainRun) : State × ChainRun :=
  let e0 := seg * segLen d
  let e1 := min n (e0 + segLen d)
  let lo (f : Fmt) (scl : Nat) := streamLen f scl d.layout e0
  let len (f : Fmt) (scl : Nat) := streamLen f scl d.layout e1 - streamLen f scl d.layout e0
  let oa := xa + lo d.fmtA d.sclA
  let ob := xb + lo d.fmtB d.sclB
  let om := xm + e0 / 8
  let (s, a, pa) := s.ownRead L oa (len d.fmtA d.sclA)
  let (s, b, pb) := if d.usesB then s.ownRead L ob (len d.fmtB d.sclB) else (s, [], [])
  let (s, m, pm) := if d.mask = 1 then s.ownRead L om ((e1 - e0 + 7) / 8) else (s, [], [])
  let c := s.cell L
  let k := if d.usesK then (List.range 4096).map (fun i => SMap.get 0 c.const i) else []
  let bad (l : List Nat) (base i : Nat) : Bool := l.contains (scratchAddr L (base + i) / 64)
  let st : Streams := ⟨a, b, m, k, bad pa oa, bad pb ob, bad pm om, c.constBad.contains, e0⟩
  let (ws, run) := runSegment strict (s.e4sat L) d (s.sectIdAt L) xd n seg st run
  (if d.dest then
    s.setCell L { c with const := writeConst c.const xd ws, constBad := c.constBad.filter (fun k => !wholeWords xd ws k) }
  else s.wrParts (scratchAddr L xd) ws, run)

/-- At most `fuel` segments of a chain, one after another. -/
def State.vSegments (L : Nat) (strict : Bool) (d : Desc) (n xa xb xd xm : Nat) : Nat → Nat → State × ChainRun → State × ChainRun
  | 0, _, x => x
  | k + 1, seg, x => vSegments L strict d n xa xb xd xm k (seg + 1) (x.1.vSegment L strict d n xa xb xd xm seg x.2)

/-- Where the chain at the head of the vector queue stands: on its way, or at the cursor it resumes from (R350). -/
def Cell.veFrom (c : Cell) (q : QInstr) : Option VeCursor :=
  match c.veCur, q.cur with
  | some v, _ => some v
  | none, .ve v => some v
  | none, _ => none

/-- V.CHAIN: run at most `segs` segments from where it stands, or from the start (R169 to R183). -/
def State.vChain (s : State) (L : Nat) (q : QInstr) (n xa xb xd xm : Nat) (bField mField zField : Bool) (chain segs : Nat) : State :=
  let c := s.cell L
  let strict := s.strict L
  match Desc.read c.store.num chain n with
  | none => s.headFault L .vector q evChainBad
  | some d =>
    let la := streamLen d.fmtA d.sclA d.layout n
    let lb := streamLen d.fmtB d.sclB d.layout n
    let ld := streamLen d.fmtD d.sclD d.layout n
    match chainFault d n xa xb xd xm bField mField zField with
    | some ev => s.headFault L .vector q ev
    | none =>
      if !c.inRegion xa la Region.rd then s.headOverflow L .vector q xa false
      else if d.usesB && !c.inRegion xb lb Region.rd then s.headOverflow L .vector q xb false
      else if d.mask = 1 && !c.inRegion xm ((n + 7) / 8) Region.rd then s.headOverflow L .vector q xm false
      else if !d.dest && !c.inRegion xd ld Region.wr then s.headOverflow L .vector q xd true
      else
        let (done, run) := match c.veFrom q with
          | some v => (v.done, v.run)
          | none => (0, ChainRun.start d)
        let k := min segs (segCount d n - done)
        let (s, run) := State.vSegments L strict d n xa xb xd xm k done (s.startHead L q, run)
        if segCount d n ≤ done + k then
          let s := s.chainDone L strict d run
          let s := s.consumeRead L xa la
          let s := if d.usesB then s.consumeRead L xb lb else s
          let s := if d.mask = 1 then s.consumeRead L xm ((n + 7) / 8) else s
          (s.countBanks L q (chainUnits d n xa xb xd xm)).finish L .vector
        else s.setCell L { s.cell L with veCur := some ⟨q.iaddr, q.job, done + k, [xa, xb, xd, xm], run⟩ }

/-- V_CHAIN (R169, R182): at most n segments, then it waits at its cursor. -/
def execVChain (c : Fin 4096) (n : Nat) (s : State) : Host.Outcome State Fault Refusal :=
  .next (s.atHead c.val .vector (fun q => match q.i with
    | .vChain xa xb xd xm _ r3 n1 r7 chain =>
      let xs := match (s.cell c.val).veFrom q with
        | some v => v.xstart
        | none => [xval q.xs xa, xval q.xs xb, xval q.xs xd, xval q.xs xm]
      s.vChain c.val q (n1.toNat + 1) (nthD xs 0 0) (nthD xs 1 0) (nthD xs 2 0) (nthD xs 3 0) (xb ≠ 0#4) (xm ≠ 0#4)
        (r3 ≠ 0#3 || r7 ≠ 0#7) chain.toNat n
    | _ => s))

/-! ### Summaries -/

/-- A summary record (Table 92). -/
def summaryBytes (pos job tag zmask : Nat) (flags elems : Nat) (zs : List (BitVec 32 × Bool)) : List Byte :=
  let present := zmask
  let pois := (List.range 4).foldl (fun m j => if zmask.testBit j && (nthD zs j (0, false)).2 then m + 2 ^ j else m) 0
  leBytes 1 pos ++ leBytes 1 job ++ leBytes 2 tag ++ leBytes 1 present ++ leBytes 1 pois ++ leBytes 2 flags ++ leBytes 4 elems ++
    leBytes 4 0 ++ (List.range 4).flatMap (fun j => leBytes 4 (if zmask.testBit j then (nthD zs j (0, false)).1.toNat else 0))

/-- Is z outside [lo, hi] as FP32 (R375)? A NaN always is. -/
def outsideF (z lo hi : BitVec 32) : Bool :=
  (dec32 z).isNan || fvLt false (dec32 z) (dec32 lo) || fvLt false (dec32 hi) (dec32 z)

/-- Does a record fail a PLAUS entry (R375)? -/
def plausFails (rcd ent : List Byte) : Bool :=
  let j := numAt ent 2 1 % 4
  let kind := bitsOf (numAt ent 2 1) 4 2
  let z := numAt rcd (16 + 4 * j) 4
  let lo := numAt ent 8 4
  let hi := numAt ent 12 4
  let out := if kind = 4 ∨ kind = 5 then decide (z < lo ∨ hi < z) else outsideF (BitVec.ofNat 32 z) (BitVec.ofNat 32 lo) (BitVec.ofNat 32 hi)
  !(numAt rcd 4 1).testBit j || (numAt rcd 5 1).testBit j || out || decide (numAt rcd 6 2 &&& numAt ent 4 2 ≠ 0)

/-- The plausibility check of a record against the running PLAUS store (R375). -/
def State.plausCheck (s : State) (g L job : Nat) (rcd : List Byte) : State :=
  let pl := (s.clu g).plaus
  let n := numAt pl 6 2
  let ents := (List.range n).map (fun e => (e, sliceB pl (64 + 32 * e) 32))
  let bad := ents.filter (fun e => decide (numAt e.2 0 2 = numAt rcd 2 2) && plausFails rcd e.2)
  bad.foldl (fun s e =>
    let zj := numAt rcd (16 + 4 * (numAt e.2 2 1 % 4)) 4
    (s.setFld (R.CLU_JOB_SUSPECT g job) F.CLU_JOB_SUSPECT_PLAUS 1).raise
      { code := 0x3201, kind := 1, src := L, part := some (L / 64), sect := s.sectId (s.teamOfCell L),
        detail := numAt rcd 2 2 + e.1 * 2 ^ 16 + zj * 2 ^ 32 }) s

/-- V.SUM (R184). -/
def State.vSum (s : State) (L : Nat) (q : QInstr) (zmask tag : Nat) : State :=
  let c := s.cell L
  let g := s.clusterOf L
  if 4 ≤ c.summaries ∨ 64 ≤ (s.clu g).sums.length then s
  else
    let rcd := summaryBytes (L % 16) q.job tag zmask (s.fld (R.CELL_VE_LAST L) F.CELL_VE_LAST_FLAGS) c.elems c.zs
    let s := ((s.startHead L q).finish L .vector)
    let s := s.setCell L { s.cell L with summaries := c.summaries + 1 }
    let s := (s.plausCheck g L q.job rcd).suspect g q.job F.CLU_JOB_SUSPECT_POISON (numAt rcd 5 1 != 0)
    let k := s.clu g
    (s.setClu g { k with sums := k.sums ++ [⟨L % 16, rcd⟩] }).sumArrived g

/-- V_SUM (R184). -/
def execVSum (c : Fin 4096) (s : State) : Host.Outcome State Fault Refusal :=
  .next (s.atHead c.val .vector (fun q => match q.i with
    | .vSum zmask tag => s.vSum c.val q zmask.toNat tag.toNat
    | _ => s))

end Sys2Proof.Machine
end

