-- ==== Sys2Proof/Machine/Dispatch.lean ====
section
/-! DEFINITION. One arm per command: a direct call of its meaning. -/

namespace Sys2Proof.Machine

def exec (i : Instr) (s : State) : Host.Outcome State Fault Refusal :=
  match i with
  | .waymarkEdge t tcode => Sys2Proof.Machine.execWaymarkEdge t tcode s
  | .internalTick t => Sys2Proof.Machine.execInternalTick t s
  | .wmkMissed => Sys2Proof.Machine.execWmkMissed s
  | .timeCodeFrame => Sys2Proof.Machine.execTimeCodeFrame s
  | .timeDegraded => Sys2Proof.Machine.execTimeDegraded s
  | .freeRunEntry => Sys2Proof.Machine.execFreeRunEntry s
  | .timeStep => Sys2Proof.Machine.execTimeStep s
  | .forceStep v => Sys2Proof.Machine.execForceStep v s
  | .pitchCfgWrite v => Sys2Proof.Machine.execPitchCfgWrite v s
  | .pitchCfgApply => Sys2Proof.Machine.execPitchCfgApply s
  | .pitchBoundary => Sys2Proof.Machine.execPitchBoundary s
  | .floorWindowEnd d fc => Sys2Proof.Machine.execFloorWindowEnd d fc s
  | .floorHoldRelease d => Sys2Proof.Machine.execFloorHoldRelease d s
  | .rcRegisterRead w a => Sys2Proof.Machine.execRcRegisterRead w a s
  | .registerWrite w a v => Sys2Proof.Machine.execRegisterWrite w a v s
  | .hostMemoryAccess f bar a size wr => Sys2Proof.Machine.execHostMemoryAccess f bar a size wr s
  | .loadSection t => Sys2Proof.Machine.execLoadSection t s
  | .loadFrame p => Sys2Proof.Machine.execLoadFrame p s
  | .qNop c => Sys2Proof.Machine.execQNop c s
  | .qSetx c => Sys2Proof.Machine.execQSetx c s
  | .qAddx c => Sys2Proof.Machine.execQAddx c s
  | .qLoop c => Sys2Proof.Machine.execQLoop c s
  | .qBlock c => Sys2Proof.Machine.execQBlock c s
  | .qBlockTake c => Sys2Proof.Machine.execQBlockTake c s
  | .qEnd c => Sys2Proof.Machine.execQEnd c s
  | .instructionIssue c => Sys2Proof.Machine.execInstructionIssue c s
  | .tLd c => Sys2Proof.Machine.execTLd c s
  | .tSt c => Sys2Proof.Machine.execTSt c s
  | .tRel c => Sys2Proof.Machine.execTRel c s
  | .tregBankGate c b => Sys2Proof.Machine.execTregBankGate c b s
  | .aZero c => Sys2Proof.Machine.execAZero c s
  | .aMma c => Sys2Proof.Machine.execAMma c s
  | .aDrain c => Sys2Proof.Machine.execADrain c s
  | .aMerge c n => Sys2Proof.Machine.execAMerge c n s
  | .mMv c => Sys2Proof.Machine.execMMv c s
  | .fPair c => Sys2Proof.Machine.execFPair c s
  | .vChain c n => Sys2Proof.Machine.execVChain c n s
  | .vSum c => Sys2Proof.Machine.execVSum c s
  | .cSend c => Sys2Proof.Machine.execCSend c s
  | .cRecv c => Sys2Proof.Machine.execCRecv c s
  | .lFetch c => Sys2Proof.Machine.execLFetch c s
  | .lGather c => Sys2Proof.Machine.execLGather c s
  | .lCancel c => Sys2Proof.Machine.execLCancel c s
  | .sAdd c => Sys2Proof.Machine.execSAdd c s
  | .sSub c => Sys2Proof.Machine.execSSub c s
  | .sSet c => Sys2Proof.Machine.execSSet c s
  | .sCas c => Sys2Proof.Machine.execSCas c s
  | .sWait c => Sys2Proof.Machine.execSWait c s
  | .sBar c => Sys2Proof.Machine.execSBar c s
  | .sWaitResend c => Sys2Proof.Machine.execSWaitResend c s
  | .cellSwitch c => Sys2Proof.Machine.execCellSwitch c s
  | .switchFillDone c => Sys2Proof.Machine.execSwitchFillDone c s
  | .controllerSwitch g => Sys2Proof.Machine.execControllerSwitch g s
  | .teamSwitchComplete p => Sys2Proof.Machine.execTeamSwitchComplete p s
  | .switchTimeout p => Sys2Proof.Machine.execSwitchTimeout p s
  | .drainComplete p => Sys2Proof.Machine.execDrainComplete p s
  | .traverseStart p => Sys2Proof.Machine.execTraverseStart p s
  | .stopRequest c => Sys2Proof.Machine.execStopRequest c s
  | .cellAtRest c => Sys2Proof.Machine.execCellAtRest c s
  | .bivouacWrite r => Sys2Proof.Machine.execBivouacWrite r s
  | .bivouacRestore r => Sys2Proof.Machine.execBivouacRestore r s
  | .sfuSubmit g t v => Sys2Proof.Machine.execSfuSubmit g t v s
  | .sfuDescriptorRun g t => Sys2Proof.Machine.execSfuDescriptorRun g t s
  | .sfuDescriptorDone g t => Sys2Proof.Machine.execSfuDescriptorDone g t s
  | .belayGrant n => Sys2Proof.Machine.execBelayGrant n s
  | .neighbourWrite n => Sys2Proof.Machine.execNeighbourWrite n s
  | .neighbourAck n => Sys2Proof.Machine.execNeighbourAck n s
  | .belayCreditReturn n => Sys2Proof.Machine.execBelayCreditReturn n s
  | .belayClose n => Sys2Proof.Machine.execBelayClose n s
  | .pageWalkDone g e => Sys2Proof.Machine.execPageWalkDone g e s
  | .leadTimeout g e k => Sys2Proof.Machine.execLeadTimeout g e k s
  | .cancelComplete g e => Sys2Proof.Machine.execCancelComplete g e s
  | .farPortDown p => Sys2Proof.Machine.execFarPortDown p s
  | .ntTlbInv v => Sys2Proof.Machine.execNtTlbInv v s
  | .tlbInvComplete => Sys2Proof.Machine.execTlbInvComplete s
  | .dmaSubmit g v => Sys2Proof.Machine.execDmaSubmit g v s
  | .dmaDescriptorStart g => Sys2Proof.Machine.execDmaDescriptorStart g s
  | .dmaDescriptorDone g => Sys2Proof.Machine.execDmaDescriptorDone g s
  | .chTile n => Sys2Proof.Machine.execChTile n s
  | .chMarker n => Sys2Proof.Machine.execChMarker n s
  | .chCredit n => Sys2Proof.Machine.execChCredit n s
  | .ancOp n => Sys2Proof.Machine.execAncOp n s
  | .ancReply n => Sys2Proof.Machine.execAncReply n s
  | .ancWake n => Sys2Proof.Machine.execAncWake n s
  | .ancNotyet n => Sys2Proof.Machine.execAncNotyet n s
  | .barArrive n => Sys2Proof.Machine.execBarArrive n s
  | .barDone n => Sys2Proof.Machine.execBarDone n s
  | .mtRead q => Sys2Proof.Machine.execMtRead q s
  | .mtWrite q => Sys2Proof.Machine.execMtWrite q s
  | .mtData q => Sys2Proof.Machine.execMtData q s
  | .mtAck q => Sys2Proof.Machine.execMtAck q s
  | .tierRead n => Sys2Proof.Machine.execTierRead n s
  | .tierWrite n => Sys2Proof.Machine.execTierWrite n s
  | .tierData q => Sys2Proof.Machine.execTierData q s
  | .tierAck n => Sys2Proof.Machine.execTierAck n s
  | .hubReq n => Sys2Proof.Machine.execHubReq n s
  | .hubResp n => Sys2Proof.Machine.execHubResp n s
  | .epochSet n => Sys2Proof.Machine.execEpochSet n s
  | .epochApply g => Sys2Proof.Machine.execEpochApply g s
  | .linkRetry f => Sys2Proof.Machine.execLinkRetry f s
  | .chTap n => Sys2Proof.Machine.execChTap n s
  | .shadowCheckRun g => Sys2Proof.Machine.execShadowCheckRun g s
  | .chTapDigest n => Sys2Proof.Machine.execChTapDigest n s
  | .retireWindowEnd => Sys2Proof.Machine.execRetireWindowEnd s
  | .spareTakeover g => Sys2Proof.Machine.execSpareTakeover g s
  | .slotRetireCmd v => Sys2Proof.Machine.execSlotRetireCmd v s
  | .slotTestCmd v => Sys2Proof.Machine.execSlotTestCmd v s
  | .slotTestDone pass => Sys2Proof.Machine.execSlotTestDone pass s
  | .phaseMark r => Sys2Proof.Machine.execPhaseMark r s
  | .commitDecision r => Sys2Proof.Machine.execCommitDecision r s
  | .replayStart r => Sys2Proof.Machine.execReplayStart r s
  | .phaseOverrun r => Sys2Proof.Machine.execPhaseOverrun r s
  | .replicaCompare group => Sys2Proof.Machine.execReplicaCompare group s
  | .replicaCompareDone group => Sys2Proof.Machine.execReplicaCompareDone group s
  | .replicaVerify group => Sys2Proof.Machine.execReplicaVerify group s
  | .scrubRead a => Sys2Proof.Machine.execScrubRead a s
  | .d2dFailed l => Sys2Proof.Machine.execD2dFailed l s
  | .evtLogTailWrite v => Sys2Proof.Machine.execEvtLogTailWrite v s
  | .partEvtTailWrite p v => Sys2Proof.Machine.execPartEvtTailWrite p v s
  | .nvStore blk => Sys2Proof.Machine.execNvStore s blk
  | .nvStoreRetry => Sys2Proof.Machine.execNvStoreRetry s
  | .doorbell f t v => Sys2Proof.Machine.execDoorbell f t v s
  | .ringEntryRead t => Sys2Proof.Machine.execRingEntryRead t s
  | .trCqCfgWrite f t v => Sys2Proof.Machine.execTrCqCfgWrite f t v s
  | .fociaVersionWrite f v => Sys2Proof.Machine.execFociaVersionWrite f v s
  | .submit t => Sys2Proof.Machine.execSubmit t s
  | .queryAdmit t => Sys2Proof.Machine.execQueryAdmit t s
  | .cancel t => Sys2Proof.Machine.execCancel t s
  | .streamData t => Sys2Proof.Machine.execStreamData t s
  | .streamDataComplete n d => Sys2Proof.Machine.execStreamDataComplete n d s
  | .resume t => Sys2Proof.Machine.execResume t s
  | .requestStart r => Sys2Proof.Machine.execRequestStart r s
  | .holdExpiry r => Sys2Proof.Machine.execHoldExpiry r s
  | .bivouacExpired r => Sys2Proof.Machine.execBivouacExpired r s
  | .sectionEndRequest p => Sys2Proof.Machine.execSectionEndRequest p s
  | .sectendLate p => Sys2Proof.Machine.execSectendLate p s
  | .teamJoin v => Sys2Proof.Machine.execTeamJoin v s
  | .teamLeave v => Sys2Proof.Machine.execTeamLeave v s
  | .teamTraverse v => Sys2Proof.Machine.execTeamTraverse v s
  | .teamChangeApply p => Sys2Proof.Machine.execTeamChangeApply p s
  | .admTenantWrite t v => Sys2Proof.Machine.execAdmTenantWrite t v s
  | .admShareWrite a v => Sys2Proof.Machine.execAdmShareWrite a v s
  | .groupPost g j => Sys2Proof.Machine.execGroupPost g j s
  | .xGrp g rs1 rs2 rd => Sys2Proof.Machine.execXGrp g rs1 rs2 rd s
  | .xDisp g rs1 rd => Sys2Proof.Machine.execXDisp g rs1 rd s
  | .xDrop g rs1 => Sys2Proof.Machine.execXDrop g rs1 s
  | .xLbase g rs1 rs2 => Sys2Proof.Machine.execXLbase g rs1 rs2 s
  | .xSumrd g rs1 rd => Sys2Proof.Machine.execXSumrd g rs1 rd s
  | .xSumwt g rs1 rd => Sys2Proof.Machine.execXSumwt g rs1 rd s
  | .ctlSAdd g rs1 rs2 rd => Sys2Proof.Machine.execCtlSAdd g rs1 rs2 rd s
  | .ctlSSub g rs1 rs2 rd => Sys2Proof.Machine.execCtlSSub g rs1 rs2 rd s
  | .ctlSSet g rs1 rs2 rd => Sys2Proof.Machine.execCtlSSet g rs1 rs2 rd s
  | .ctlSCas g rs1 rs2 rd => Sys2Proof.Machine.execCtlSCas g rs1 rs2 rd s
  | .ctlSWait g rs1 rs2 rd => Sys2Proof.Machine.execCtlSWait g rs1 rs2 rd s
  | .xSectend g => Sys2Proof.Machine.execXSectend g s
  | .ctlTrap g cause => Sys2Proof.Machine.execCtlTrap g cause s
  | .ctlTimerInterrupt g => Sys2Proof.Machine.execCtlTimerInterrupt g s
  | .ctlExternalInterrupt g => Sys2Proof.Machine.execCtlExternalInterrupt g s
  | .coreAnchorAmo h op a v => Sys2Proof.Machine.execCoreAnchorAmo h op a v s
  | .hostAnchorWrite f a v be => Sys2Proof.Machine.execHostAnchorWrite f a v be s
  | .gets h a => Sys2Proof.Machine.execGets h a s
  | .getm h a v => Sys2Proof.Machine.execGetm h a v s
  | .putm h a => Sys2Proof.Machine.execPutm h a s
  | .pute h a => Sys2Proof.Machine.execPute h a s
  | .puts h a => Sys2Proof.Machine.execPuts h a s
  | .fwdGets h a => Sys2Proof.Machine.execFwdGets h a s
  | .fwdGetm h a => Sys2Proof.Machine.execFwdGetm h a s
  | .inv h a => Sys2Proof.Machine.execInv h a s
  | .updSubmit g v => Sys2Proof.Machine.execUpdSubmit g v s
  | .updDescriptorStart g => Sys2Proof.Machine.execUpdDescriptorStart g s
  | .updDescriptorDone g => Sys2Proof.Machine.execUpdDescriptorDone g s
  | .updSealWrite sealNo v => Sys2Proof.Machine.execUpdSealWrite sealNo v s
  | .shardExport v => Sys2Proof.Machine.execShardExport v s
  | .shardImport v => Sys2Proof.Machine.execShardImport v s
  | .exportEngineDone => Sys2Proof.Machine.execExportEngineDone s
  | .camleyPack p b => Sys2Proof.Machine.execCamleyPack p b s
  | .data p => Sys2Proof.Machine.execData p s
  | .credit p => Sys2Proof.Machine.execCredit p s
  | .ack p => Sys2Proof.Machine.execAck p s
  | .nak p => Sys2Proof.Machine.execNak p s
  | .hello p => Sys2Proof.Machine.execHello p s
  | .camleyResendTimeout p => Sys2Proof.Machine.execCamleyResendTimeout p s
  | .unitSend st => Sys2Proof.Machine.execUnitSend st s
  | .unitDelivery st => Sys2Proof.Machine.execUnitDelivery st s
  | .camleyPortTrained p half => Sys2Proof.Machine.execCamleyPortTrained p half s
  | .portEnable v => Sys2Proof.Machine.execPortEnable v s
  | .portDisable v => Sys2Proof.Machine.execPortDisable v s
  | .streamEnable v => Sys2Proof.Machine.execStreamEnable v s
  | .streamDisable v => Sys2Proof.Machine.execStreamDisable v s
  | .functionLevelReset f => Sys2Proof.Machine.execFunctionLevelReset f s
  | .perstNAssert => Sys2Proof.Machine.execPerstNAssert s
  | .perstNDeassert => Sys2Proof.Machine.execPerstNDeassert s
  | .directiveFuseProgram => Sys2Proof.Machine.execDirectiveFuseProgram s
  | .directiveKeyWrite => Sys2Proof.Machine.execDirectiveKeyWrite s
  | .debugToken => Sys2Proof.Machine.execDebugToken s
  | .zeroiseKeySlot => Sys2Proof.Machine.execZeroiseKeySlot s
  | .secCmdNoOp => Sys2Proof.Machine.execSecCmdNoOp s
  | .secCmdComplete => Sys2Proof.Machine.execSecCmdComplete s
  | .scanEnable => Sys2Proof.Machine.execScanEnable s
  | .getVersion b => Sys2Proof.Machine.execGetVersion b s
  | .getCapabilities b => Sys2Proof.Machine.execGetCapabilities b s
  | .negotiateAlgorithms b => Sys2Proof.Machine.execNegotiateAlgorithms b s
  | .getDigests b => Sys2Proof.Machine.execGetDigests b s
  | .getCertificate b => Sys2Proof.Machine.execGetCertificate b s
  | .challenge b => Sys2Proof.Machine.execChallenge b s
  | .getMeasurements b => Sys2Proof.Machine.execGetMeasurements b s
  | .setNumericEffecterValue id v => Sys2Proof.Machine.execSetNumericEffecterValue id v s
  | .pldmSensorRead q => Sys2Proof.Machine.execPldmSensorRead q s
  | .sensorRefresh => Sys2Proof.Machine.execSensorRefresh s
  | .mgmtWarmReset => Sys2Proof.Machine.execMgmtWarmReset s
  | .mgmtColdReset => Sys2Proof.Machine.execMgmtColdReset s
  | .cellReset v => Sys2Proof.Machine.execCellReset v s
  | .clusterReset v => Sys2Proof.Machine.execClusterReset v s
  | .partitionReset v => Sys2Proof.Machine.execPartitionReset v s
  | .moduleWarmReset v => Sys2Proof.Machine.execModuleWarmReset v s
  | .moduleColdReset v => Sys2Proof.Machine.execModuleColdReset v s
  | .resetDone => Sys2Proof.Machine.execResetDone s
  | .coldBoot => Sys2Proof.Machine.execColdBoot s
  | .selfTestDone => Sys2Proof.Machine.execSelfTestDone s
  | .trainingDone => Sys2Proof.Machine.execTrainingDone s
  | .firmwareFetchDone g => Sys2Proof.Machine.execFirmwareFetchDone g s
  | .knownAnswerDone => Sys2Proof.Machine.execKnownAnswerDone s
  | .bootReady => Sys2Proof.Machine.execBootReady s
  | .auxPowerOn tm ma => Sys2Proof.Machine.execAuxPowerOn tm ma s
  | .auxInputLow => Sys2Proof.Machine.execAuxInputLow s
  | .auxPowerLoss => Sys2Proof.Machine.execAuxPowerLoss s
  | .supplySample mv => Sys2Proof.Machine.execSupplySample mv s
  | .brownoutTimeout => Sys2Proof.Machine.execBrownoutTimeout s
  | .undervoltageStop => Sys2Proof.Machine.execUndervoltageStop s
  | .overvoltageStop => Sys2Proof.Machine.execOvervoltageStop s
  | .mainInputGood => Sys2Proof.Machine.execMainInputGood s
  | .coreDroop d => Sys2Proof.Machine.execCoreDroop d s
  | .coreUndervolt d => Sys2Proof.Machine.execCoreUndervolt d s
  | .capStep w => Sys2Proof.Machine.execCapStep w s
  | .thermalLimit d hbm => Sys2Proof.Machine.execThermalLimit d hbm s
  | .thermalLimitEnd d hbm => Sys2Proof.Machine.execThermalLimitEnd d hbm s
  | .thermalTrip d hbm => Sys2Proof.Machine.execThermalTrip d hbm s
  | .ctlLoadStore g op a v rd => Sys2Proof.Machine.execCtlLoadStore g op a v rd s
  | .coreIoAccess h op size wr => Sys2Proof.Machine.execCoreIoAccess h op size wr s
  | .configurationRequest f wr off v => Sys2Proof.Machine.execConfigurationRequest f wr off v s
  | .droopRecovered d => Sys2Proof.Machine.execDroopRecovered d s
  | .testAccessPort pins tdi => Sys2Proof.Machine.execTestAccessPort pins tdi s

end Sys2Proof.Machine
end

