-- ==== Sys2Proof/Safety.lean ====
section
/-! DEFINITION. What counts as a safe run: every step answers a next state, and memory keeps its canonical form, and no line of memory has two writers. -/

namespace Sys2Proof.Machine

/-- The states the block reaches from s in exactly n steps; the relation stops at a fault or a refusal. -/
inductive Reaches : Nat → State → State → Prop where
  | here (s : State) : Reaches 0 s s
  | more {n : Nat} {s t u : State} (h : step s = .next t) (r : Reaches n t u) : Reaches (n + 1) s u

/-- The step from s answers a next state. -/
def State.runs (s : State) : Prop := ∃ t, step s = .next t

/-- A predicate that every step keeps. -/
def Invariant (inv : State → Prop) : Prop := ∀ s t, inv s → step s = .next t → inv t

/-- One writer per line (R344, R345): a core that holds a line in M or E is its owner, an owned line has no sharer, a core that holds one in S stands in the sharer
vector, and a GetM that waits for acknowledgements has no owner beside it and waits for every other core that holds the line. -/
def State.coherent (s : State) : Prop :=
  ∀ k : Nat,
    (∀ h, (s.dirLine k).owner = some h → (s.dirLine k).sharers = 0) ∧
    (∀ h < 16, ∀ l, SMap.find? (s.core h).l2 k = some l →
      (l.st ≠ .s → (s.dirLine k).owner = some h) ∧ (l.st = .s → (s.dirLine k).sharers.testBit h = true)) ∧
    (∀ r st left, (s.dirLine k).busy = some (.inv r st left) → (s.dirLine k).owner = none ∧
      ∀ h < 16, h ≠ r → (SMap.find? (s.core h).l2 k).isSome = true → left.testBit h = true)

end Sys2Proof.Machine
end

