-- ==== Sys2Proof/WellFormed.lean ====
section
/-! DEFINITION. Which command terms a sender may form: access sizes and byte counts that a bus can carry. The step does not check it; statements use it. -/

namespace Sys2Proof

/-- A device access is 1 to 4,096 bytes long (R16, R427). -/
def accessSizeOk (n : Nat) : Bool := decide (1 ≤ n) && decide (n ≤ 4096)

/-- A core's access is 1, 2, 4 or 8 bytes long (R16). -/
def coreSizeOk (n : Nat) : Bool := decide (n = 1 ∨ n = 2 ∨ n = 4 ∨ n = 8)

/-- The well-formed commands. -/
def Instr.wf : Instr → Bool
  | .hostMemoryAccess _ _ _ n w => accessSizeOk n && (match w with
    | some l => decide (l.length = n)
    | none => true)
  | .coreIoAccess _ (.io _) n _ => coreSizeOk n
  | _ => true

end Sys2Proof
end

