-- ==== Sys2Proof/Certificates/Slice0/Obligations.lean ====
section
/-! DEFINITION. The statements about the model. A clause that names an event states what its command does when its step is due, on the state and the operands
alone. -/

open Sys2Proof Sys2Proof.Machine

/-! ### Words of the statements -/

namespace Sys2Proof.Machine

/-- The sequencer of cell L issues i next: it may issue, its bank holds no error, and i stands at its PC. -/
def State.issuesNow (s : State) (L : Nat) (i : CellInstr) : Prop :=
  (s.cell L).issues = true ∧ s.bankErr L = none ∧ (s.cell L).atPc = some i

/-- A cell with one more word issued, and counted as started. -/
def Cell.counted (c : Cell) (i : CellInstr) : Cell := { c with issued := c.issued + 1 }.begin (c.entry i c.incs .fresh)

/-- The head of an engine's queue of cell L may start, and is q with instruction i. -/
def State.starts (s : State) (L : Nat) (e : Engine) (q : QInstr) (i : CellInstr) : Prop := (s.cell L).head e = some q ∧ q.i = i

/-- The n-th packet of a kind is ejected at its destination, with no error in its header; the receiver, which has met the errors of its payload, takes it as p
in the state u. -/
def State.ejected (s : State) (sel : Packet → Bool) (n : Nat) (p : Packet) (u : State) : Prop :=
  (∃ v x, s.takePkt sel n = some (v, x) ∧ v.headerFails x = none) ∧ ∃ w y, s.eject sel n = some (w, some y) ∧ w.payloadMeet y = (u, p)

/-- The n-th packet of a type is ejected as p, in the state u. -/
def State.arrives (s : State) (type n : Nat) (p : Packet) (u : State) : Prop := s.ejected (fun y => decide (y.pkt.type = type)) n p u

/-- The n-th message of a type, on a cluster's crossbar (xb) or on the mesh, reaches its end as p, in the state u. -/
def State.reaches (s : State) (xb : Bool) (type n : Nat) (p : Packet) (u : State) : Prop :=
  if xb then ∃ i, pickNth (fun y => decide (y.pkt.type = type)) s.xbar n 0 = some i ∧ s.xbar[i]? = some p ∧ u = { s with xbar := s.xbar.eraseIdx i }
  else s.arrives type n p u

end Sys2Proof.Machine

namespace Sys2Proof.Machine

/-- The n-th message of a kind on the neighbour links reaches cell L from direction d as m, and leaves the state u. -/
def State.crosses (s : State) (sel : NbrMsg → Bool) (n : Nat) (m : NbrMsg) (L d : Nat) (u : State) : Prop :=
  ∃ i, pickNbr sel s.nbr n 0 = some i ∧ s.nbr[i]? = some m ∧
    (s.nbr.take i).any (fun x => decide (x.cell = m.cell) && decide (x.dir = m.dir)) = false ∧
    u = { s with nbr := s.nbr.eraseIdx i } ∧ u.neighbour m.cell m.dir = some L ∧ d = opposite m.dir

/-- An S instruction of cell L may start: its sync unit is free, its anchor belongs to the team (index u is anchor a), and an S.CAS writes inside a region. -/
def State.syncReady (s : State) (L : Nat) (q : QInstr) (x : Sect) (u a : Nat) : Prop :=
  (s.cell L).sync = none ∧ s.sectOf L = some x ∧ s.teamAnchor x u = some a ∧ ∀ d, casDest q = some d → (s.cell L).inRegion d 8 Region.wr = true

/-- The state after an S instruction has sent its operation: it has left its queue and stands in the sync unit. -/
def State.syncSent (s : State) (L : Nat) (q : QInstr) (op a : Nat) (v e : Word) : State :=
  (s.setCell L { ((s.cell L).begin q).done .sync with sync := some { q := q } }).ancSend L q.job op a v e q.seq

end Sys2Proof.Machine

namespace Sys2Proof.Machine

/-- The front command of tenant t's ring is c, with opcode op; taking it leaves the state u. -/
def State.pops (s : State) (t op : Nat) (c : HostCmd) (u : State) : Prop :=
  ∃ rest, (s.page t).inbox = c :: rest ∧ c.cmd.opcode = op ∧ u = s.setPage t { s.page t with inbox := rest }

/-- With the scrub enabled, place a is read next in its pass; the pass with a marked as read leaves the state z. -/
def State.scrubsNext (s : State) (a : ScrubLoc) (z : State) : Prop :=
  s.fld R.INTEG_SCRUB F.INTEG_SCRUB_ENABLE = 1 ∧ s.scrubPass.integ.scrubbed.contains (scrubKey a) = false ∧
    z = { s.scrubPass with integ := { s.scrubPass.integ with scrubbed := scrubKey a :: s.scrubPass.integ.scrubbed } }

/-- A slot command writes its fields of INTEG_SLOT_CMD. -/
def State.slotFields (s : State) (v : Word) : State :=
  ((s.setFld R.INTEG_SLOT_CMD F.INTEG_SLOT_CMD_CLUSTER (getF v F.INTEG_SLOT_CMD_CLUSTER)).setFld R.INTEG_SLOT_CMD F.INTEG_SLOT_CMD_SLOT
    (getF v F.INTEG_SLOT_CMD_SLOT)).setFld R.INTEG_SLOT_CMD F.INTEG_SLOT_CMD_OP (getF v F.INTEG_SLOT_CMD_OP)

/-- The team change that a write of v to ADM_TEAM_CHANGE asks for. -/
def State.changeAsked (s : State) (op : Nat) (v : Word) : Change :=
  { op := op, part := getF v F.ADM_TEAM_CHANGE_PARTITION, target := getF v F.ADM_TEAM_CHANGE_SUBSTITUTE,
    subValid := decide (getF v F.ADM_TEAM_CHANGE_SUB_VALID = 1), w := s.changeWm }

/-- The front waiting frame of port p is f, of a type; taking it, and noting its UNLOCKED flag, leaves the state u. -/
def State.takesFrame (s : State) (p type : Nat) (f : List Byte) (u : State) : Prop :=
  ∃ rest, (s.port p).rx = f :: rest ∧ numAt f 1 1 = type ∧ u = s.setPort p { s.port p with rx := rest, unlocked := (numAt f 2 1).testBit 1 }

/-- A write of LINK_CMD with GO and an operation on a target; the fields written leave the state u. -/
def State.linkCommand (s : State) (v : Word) (op tg : Nat) (u : State) : Prop :=
  s.ready = true ∧ getF v F.LINK_CMD_OP = op ∧ getF v F.LINK_CMD_GO = 1 ∧ getF v F.LINK_CMD_TARGET = tg ∧ s.link.disabling = none ∧
    u = (s.setFld R.LINK_CMD F.LINK_CMD_OP op).setFld R.LINK_CMD F.LINK_CMD_TARGET tg

end Sys2Proof.Machine

/-! ### The time base (file 02) -/

/-- O1. R31, R32, R40, R42, R526: what the commands of the flywheel and of the time state do when they are due. The model chose what assumptions 6, 12, 115
say. -/
def Obligations.TimeBaseCommandsComplete : Prop :=
  -- a valid edge in LOCKED steers the flywheel by the law of R526 and starts the next run of windows
  (∀ (t : Rat) (b : Bool) (s : State), s.pwr.aux = true → s.time.testDue = false → s.time.st = .locked → s.time.now ≤ t →
    s.time.pred - 50 ≤ t → t ≤ s.time.pred + 50 →
    ∃ u : State, exec (.waymarkEdge t b) s = .next u ∧ u = { s with time := u.time } ∧
      u.time.interval = s.time.interval + (t - s.time.pred) / 1024 ∧
      u.time.pred = s.time.pred + u.time.interval + max (-2) (min 2 ((t - s.time.pred) / 8)) ∧
      u.time.lastEdge = t ∧ u.time.phaseErr = t - s.time.pred ∧ u.time.missRun = 0 ∧ u.time.st = .locked ∧
      u.time.count = s.time.count ∧ u.time.ticks = s.time.ticks) ∧
  -- the tick of the next predicted edge: one more tick, and one more waymark once a count exists; ports in session send their HELLO
  (∀ (t : Rat) (s : State), s.pwr.aux = true → (s.time.tickWait = none → s.time.ticked = false) →
    s.time.tickOk t (s.time.tickWait.getD (s.time.pred + s.time.slew)) = true →
    ∃ v : TimeBase, exec (.internalTick t) s = .next { s with time := v }.sendHellos ∧
      v.ticks = s.time.ticks + 1 ∧ v.count = (if s.time.st = .acquire then s.time.count else s.time.count + 1) ∧
      v.base = s.time.tickWait.getD (s.time.pred + s.time.slew) ∧ v.tickWait = none ∧ v.now = t ∧ v.st = s.time.st) ∧
  -- a missing waymark in LOCKED, the fourth apart: the flywheel runs on, MISSED counts and WMK_MISSED is logged
  (∀ s : State, s.pwr.aux = true → s.time.testDue = false → s.time.st = .locked → s.time.tickWait = none → s.time.missRun < 3 →
    ∃ v : TimeBase, exec .wmkMissed s = .next (({ s with time := v }.timeErr F.TIME_ERR_MISSED).timeEvt 0x6001) ∧
      v.pred = s.time.pred + s.time.interval ∧ v.interval = s.time.interval ∧ v.missRun = s.time.missRun + 1 ∧ v.st = .locked) ∧
  -- a due frame that is valid and agrees with the count in LOCKED
  (∀ (f : Nat) (s : State), s.time.testDue = true → frameBits s.time.samples = some f → frameOk f = true → s.time.st = .locked →
    ((bitsOf f 103 40 : Nat) : Int) + 127 = s.time.countOf s.time.lastTick →
    exec .timeCodeFrame s = .next { s with time := { s.time with
      tested := true, sinceTest := 0, aligned := true, failRun := 0, anyFrame := true, lastFrame := some (bitsOf f 103 40),
      traceable := bitOf f 107, sourceId := bitsOf f 39 32, ext := some (bitsOf f 103 40 + 127), disagree := 0 } }) ∧
  -- HOLD_LEFT has reached 0
  (∀ s : State, s.time.st = .holdover → s.time.holdEnd ≤ s.time.count →
    exec .timeDegraded s = .next (({ s with time := { s.time with st := .degraded } }.flagDegraded.timeEvt 0x6004).coreMsi 6)) ∧
  -- ten million ticks without a valid frame: the count begins at 0 with the tick that follows the ten-millionth
  (∀ s : State, s.time.st = .acquire → s.time.anyFrame = false → 10000000 ≤ s.time.ticks →
    ∃ v : TimeBase, exec .freeRunEntry s = .next { ({ s with time := { s.time with st := .free } }.coreMsi 6) with time := v } ∧ v.st = .free ∧
      v.count = s.time.ticks - 10000000 ∧ v.interval = 1000)

/-- O2. R44, R47, R49: steps of the count, the pitch configuration and the release of a floor hold. The model chose what assumptions 12, 115 say. -/
def Obligations.StepsAndPitchConfigComplete : Prop :=
  -- a pending step at an external pitch boundary with no guaranteed booking
  (∀ (n : Nat) (s : State), s.time.ext = some n → s.time.st ≠ .acquire → s.time.stepPending = true → s.guarHeld = false →
    s.time.isBoundary n = true → s.time.edgeSeen = true → s.time.windows = 0 → s.time.now = s.time.lastEdge →
    ∃ u : State, exec .timeStep s = .next u ∧ u.time.st = .locked ∧ u.time.stepPending = false ∧ u.time.count = n - 1 ∧
      u.time.tickWait = some s.time.lastEdge ∧ u.time.ticks = s.time.ticks ∧ u.time.lastBoundary = none) ∧
  -- TIME_CTRL.FORCE_STEP outside ACQUIRE
  (∀ (v : Word) (s : State), s.time.st ≠ .acquire → getF v F.TIME_CTRL_FORCE_STEP = 1 →
    exec (.forceStep v) s = .next { s with time := { s.time with stepPending := true } }) ∧
  -- FORCE_STEP in ACQUIRE, or a write of 0, does nothing
  (∀ (v : Word) (s : State), s.time.st = .acquire ∨ getF v F.TIME_CTRL_FORCE_STEP = 0 → exec (.forceStep v) s = .next s) ∧
  -- a write of PITCH_CFG in range while the ledger holds no guaranteed booking: pending, or at once in ACQUIRE
  (∀ (v : Word) (s : State), getF v F.PITCH_CFG_REJECTED = 0 → 16 ≤ getF v F.PITCH_CFG_LEN → getF v F.PITCH_CFG_LEN ≤ 4096 →
    getF v F.PITCH_CFG_PHASE < getF v F.PITCH_CFG_LEN → s.guarBooked = false →
    exec (.pitchCfgWrite v) s = .next { s with time :=
      if s.time.st = .acquire then
        { s.time with pitchLen := getF v F.PITCH_CFG_LEN, pitchPhase := getF v F.PITCH_CFG_PHASE, pendingCfg := none }
      else { s.time with pendingCfg := some (getF v F.PITCH_CFG_LEN, getF v F.PITCH_CFG_PHASE, s.time.ticks) } }) ∧
  -- any other write of it is ignored with REJECTED set
  (∀ (v : Word) (s : State), getF v F.PITCH_CFG_REJECTED = 0 →
    (getF v F.PITCH_CFG_LEN < 16 ∨ 4096 < getF v F.PITCH_CFG_LEN ∨ getF v F.PITCH_CFG_LEN ≤ getF v F.PITCH_CFG_PHASE ∨ s.guarBooked = true) →
    exec (.pitchCfgWrite v) s = .next (s.setFld R.PITCH_CFG F.PITCH_CFG_REJECTED 1)) ∧
  -- a pending configuration starts at a boundary of the new schedule
  (∀ (len ph k : Nat) (s : State), s.time.pendingCfg = some (len, ph, k) → k < s.time.ticks → s.time.st ≠ .acquire →
    ((s.time.count : Int) - ph) % len = 0 →
    exec .pitchCfgApply s = .next { s with time := { s.time with pitchLen := len, pitchPhase := ph, pendingCfg := none } }) ∧
  -- the hold of R49 ends
  (∀ (d : Fin 8) (w : Nat) (s : State), nthD s.time.holdUntil d.val none = some w → w ≤ s.time.count →
    exec (.floorHoldRelease d) s = .next { s with time := { s.time with holdUntil := s.time.holdUntil.set d.val none } }) ∧
  -- a window that is over and at or above the floor, on a die whose clock has not stretched and has not stepped
  (∀ (d : Fin 8) (fc : Nat) (s : State), 16 * (nthD s.time.floorDone d.val 0 + 1) + 1 ≤ s.time.ticks → s.time.stepTick = none → 22396 ≤ fc →
    nthD s.pwr.stretched d.val false = false →
    ∃ x : State, x = { s with time := { s.time with floorDone := s.time.floorDone.set d.val (nthD s.time.floorDone d.val 0 + 1) },
                              pwr := { s.pwr with stretched := s.pwr.stretched.set d.val (nthD s.pwr.stretching d.val false) } } ∧
      exec (.floorWindowEnd d fc) s = .next ((((x.setFld (R.FLOOR_MON d.val) F.FLOOR_MON_LAST (min fc 65535)).setFld (R.FLOOR_MON d.val)
        F.FLOOR_MON_NOW_BELOW 0).setFld (R.FLOOR_MON d.val) F.FLOOR_MON_MIN (min fc (((x.setFld (R.FLOOR_MON d.val) F.FLOOR_MON_LAST
        (min fc 65535)).setFld (R.FLOOR_MON d.val) F.FLOOR_MON_NOW_BELOW 0).fld (R.FLOOR_MON d.val) F.FLOOR_MON_MIN)))))

/-! ### Boundaries, registers and loads (files 02, 00, 15 and 03) -/

/-- O3. R46, R91, R358: a pitch boundary that has not been taken yet. The model chose what assumptions 95, 114 say. -/
def Obligations.PitchBoundaryCompletes : Prop :=
  ∀ s : State, s.time.st ≠ .acquire → s.time.isBoundary s.time.count = true → s.time.lastBoundary ≠ some s.time.count →
    ∃ a b : State,
      -- the corrected records of the pitch are written, its once-per-pitch limits start again, and routers meet the errors of their slot tables
      a = (slotTableUpsets s.upsets).foldl (fun x g => x.memFails g 2)
        { s with time := { s.time with lastBoundary := some s.time.count, pitches := s.time.pitches + 1 } }.flushCorrected.clearPitchLimits ∧
      -- condemned spares are withdrawn and tested slots return
      b = a.integ.condemned.foldl (fun x k => x.dropSpare k.slot) a ∧
      exec .pitchBoundary s = .next (((List.range 64).filter (fun t => decide
          ((b.integ.returned.foldl State.returnSlot { b with integ := { b.integ with returned := [] } }).teamId t = t))).foldl State.teamBoundary
        (b.integ.returned.foldl State.returnSlot { b with integ := { b.integ with returned := [] } }))

/-- O4. R14, R16, R417, R418: accesses that reach their register or their memory. The model chose what assumptions 84, 85, 106 say. -/
def Obligations.AccessesComplete : Prop :=
  -- a host function's aligned access to a register of a block that it reaches: the write, and the read with what reading clears
  (∀ (f : Fin 65) (a : BitVec 48) (v : Word) (s : State) (b : Blk) (u o : Nat), blockOf a.toNat = some (b, u, o) → s.fnReach f.val b u = true →
    irqFile b o = false → o % 8 = 0 → exec (.registerWrite (.fn f) a v) s = .next (s.regWrite f.val b u o v) ∧
      exec (.rcRegisterRead (.fn f) a) s = .next { (s.regRead b u o).1 with readVal := (s.regRead b u o).2 }) ∧
  -- a misaligned one reads zero or writes nothing, and is noted (R16)
  (∀ (f : Fin 65) (a : BitVec 48) (v : Word) (s : State) (b : Blk) (u o : Nat), blockOf a.toNat = some (b, u, o) → s.fnReach f.val b u = true →
    irqFile b o = false → o % 8 ≠ 0 → exec (.registerWrite (.fn f) a v) s = .next (s.badAccess 0 a.toNat 8 true) ∧
      exec (.rcRegisterRead (.fn f) a) s = .next ({ s with readVal := 0 }.badAccess 0 a.toNat 8 false)) ∧
  -- an application core with no access outstanding reaches every block, as management does
  (∀ (h : Fin 16) (a : BitVec 48) (v : Word) (s : State) (b : Blk) (u o : Nat), s.coresRun = true → (s.core h.val).wait = none →
    s.coreBusy h.val = false → blockOf a.toNat = some (b, u, o) → irqFile b o = false → o % 8 = 0 →
    exec (.registerWrite (.core h) a v) s = .next ((s.coreFault h.val false).regWrite 64 b u o v) ∧
      exec (.rcRegisterRead (.core h) a) s = .next { ((s.coreFault h.val false).regRead b u o).1 with
        readVal := ((s.coreFault h.val false).regRead b u o).2 }) ∧
  -- a core's misaligned access, and one of eight bytes to an interrupt file, is noted under its own number
  (∀ (h : Fin 16) (a : BitVec 48) (v : Word) (s : State) (b : Blk) (u o : Nat), s.coresRun = true → (s.core h.val).wait = none →
    s.coreBusy h.val = false → blockOf a.toNat = some (b, u, o) → (irqFile b o = true ∨ o % 8 ≠ 0) →
    exec (.registerWrite (.core h) a v) s = .next ((s.coreFault h.val false).badAccess (1 + h.val) a.toNat 8 true) ∧
      exec (.rcRegisterRead (.core h) a) s =
        .next { (s.coreFault h.val false).badAccess (1 + h.val) a.toNat 8 false with readVal := 0 }) ∧
  -- a controller in M mode reaches the block of its own cluster
  (∀ (g : Fin 256) (a : BitVec 48) (v : Word) (s : State), (s.clu g.val).ctl.canRun = true → a.toNat % 8 = 0 →
    (s.ctlMem g.val a.toNat 8 (s.clu g.val).ctl.dataU true false = some .block →
      exec (.registerWrite (.ctl g) a v) s = .next ((s.regWrite 100 .cluster g.val (a.toNat % 0x100000) v).ctlDone g.val 0 none)) ∧
    (s.ctlMem g.val a.toNat 8 (s.clu g.val).ctl.dataU false false = some .block →
      exec (.rcRegisterRead (.ctl g) a) s = .next ({ (s.regRead .cluster g.val (a.toNat % 0x100000)).1 with
        readVal := (s.regRead .cluster g.val (a.toNat % 0x100000)).2 }.ctlDone g.val 0 none))) ∧
  -- a host read of n bytes of memory, each assigned, backed and free of seals, returns them piece by piece
  (∀ (f : Fin 65) (bar : Fin 3) (a : BitVec 48) (n : Nat) (as : List (Nat × Bool)) (s : State), 1 ≤ n → n ≤ 4096 → s.fnLive f.val = true →
    (List.range n).map (fun i => s.windowByte f.val bar.val (a.toNat + i)) = as.map some → (∀ x ∈ as, s.hostOk f.val x.1 = true) →
    blockOf (nthD as 0 (0, true)).1 = none →
    ¬ (0x0F4000000000 ≤ (nthD as 0 (0, true)).1 ∧ (nthD as 0 (0, true)).1 < 0x0F4000040000) →
    exec (.hostMemoryAccess f bar a n none) s = .next ((runsOf (as.map (·.1))).foldl (fun x r =>
      { (x.devRead r.1 r.2).1 with readData := (x.devRead r.1 r.2).1.readData ++ (x.devRead r.1 r.2).2.1 }) { s with readData := [] })) ∧
  -- a host write to bytes that the window lets it write stores them, piece by piece
  (∀ (f : Fin 65) (bar : Fin 3) (a : BitVec 48) (n : Nat) (d : List Byte) (as : List (Nat × Bool)) (s : State), 1 ≤ d.length → d.length ≤ 4096 →
    s.fnLive f.val = true → (List.range d.length).map (fun i => s.windowByte f.val bar.val (a.toNat + i)) = as.map some →
    (∀ x ∈ as, s.hostOk f.val x.1 = true ∧ x.2 = true) → blockOf (nthD as 0 (0, true)).1 = none →
    ¬ (0x0F4000000000 ≤ (nthD as 0 (0, true)).1 ∧ (nthD as 0 (0, true)).1 < 0x0F4000040000) →
    exec (.hostMemoryAccess f bar a n (some d)) s = .next ((runsOf (as.map (·.1))).foldl (fun (x : State × List Byte) r =>
      (x.1.devWrite r.1 (x.2.take r.2) [], x.2.drop r.2)) (s, d)).1) ∧
  -- a host access to a register block or a ring page goes to that register
  (∀ (f : Fin 65) (bar : Fin 3) (a : BitVec 48) (n : Nat) (d : List Byte) (as : List (Nat × Bool)) (s : State) (b : Blk) (u o : Nat), 1 ≤ n → n ≤ 4096 →
    d.length = n → s.fnLive f.val = true → (List.range n).map (fun i => s.windowByte f.val bar.val (a.toNat + i)) = as.map some →
    (∀ x ∈ as, s.hostOk f.val x.1 = true) → blockOf (nthD as 0 (0, true)).1 = some (b, u, o) →
    exec (.hostMemoryAccess f bar a n none) s =
      .next (s.hostReg f.val b u o (if b = Blk.ring then a.toNat else (nthD as 0 (0, true)).1) n none) ∧
    ((∀ x ∈ as, x.2 = true) → exec (.hostMemoryAccess f bar a n (some d)) s =
      .next (s.hostReg f.val b u o (if b = Blk.ring then a.toNat else (nthD as 0 (0, true)).1) n (some d))))

/-- O5. R432, R58, R59, R72: a LOAD_SECTION for a rope team begins its load, and LOAD_FRAME takes the next frame of the body. The model chose what assumption 57 says. -/
def Obligations.LoadsComplete : Prop :=
  (∀ (t : Fin 4096) (c : HostCmd) (rest : List HostCmd) (s : State), (s.page t.val).inbox = c :: rest → c.cmd.opcode = 4 → c.cmd.fn = 64 →
    numAt c.bytes 0x18 1 < 64 → (s.setPage t.val { s.page t.val with inbox := rest }).teamId (numAt c.bytes 0x18 1) = numAt c.bytes 0x18 1 →
    exec (.loadSection t) s = .next ((s.setPage t.val { s.page t.val with inbox := rest }).beginLoad (numAt c.bytes 0x18 1) c.cmd
      (numAt c.bytes 0x10 8) (numAt c.bytes 0x20 8))) ∧
  (∀ (p : Fin 64) (l : Load) (hdr raw : List Byte) (s u v : State), (s.team p.val).load = some l →
    (∀ k, l.keySrc = some (2, k) → (s.sec.streamKey 2 k).isSome = true) → l.pos + 24 ≤ l.bodyLen →
    s.imageRead (l.sect.image + 128 + l.pos) 24 = (u, .ok hdr) → (frameHdr hdr).typeBad l.verMinor = false →
    (frameHdr hdr).boundsBad l.sect (l.bodyLen - l.pos) l.encrypted = false → l.orderBad (frameHdr hdr) = false →
    u.imageRead (l.sect.image + 128 + l.pos + 24) ((frameHdr hdr).size l.encrypted - 24) = (v, .ok raw) →
    exec (.loadFrame p) s = .next (v.frameBody p.val l (frameHdr hdr) hdr raw))

/-! ### Cells: the sequencer and the tile mover (files 05, 06 and 07) -/

/-- O6. Table 53, R103, R105: what each sequencer instruction does when the cell issues it. -/
def Obligations.SequencerInstructionsComplete : Prop :=
  (∀ (c : Fin 4096) (s : State), s.issuesNow c.val .qNop → (loopNext (s.cell c.val).loops (s.cell c.val).pc).2 < 8192 →
    exec (.qNop c) s = .next ((s.count c.val 1 1).setCell c.val { (s.cell c.val).counted .qNop with
      loops := (loopNext (s.cell c.val).loops (s.cell c.val).pc).1, pc := (loopNext (s.cell c.val).loops (s.cell c.val).pc).2 })) ∧
  (∀ (c : Fin 4096) (xd : BitVec 4) (imm : BitVec 32) (s : State), s.issuesNow c.val (.qSetx xd imm) →
    (loopNext (s.cell c.val).loops (s.cell c.val).pc).2 < 8192 →
    exec (.qSetx c) s = .next ((s.count c.val 1 1).setCell c.val { (s.cell c.val).counted (.qSetx xd imm) with
      x := (s.cell c.val).x.set xd.toNat imm.toNat, incs := (s.cell c.val).incs.filter (fun j => decide (j.reg ≠ xd.toNat)),
      loops := (loopNext (s.cell c.val).loops (s.cell c.val).pc).1, pc := (loopNext (s.cell c.val).loops (s.cell c.val).pc).2 })) ∧
  (∀ (c : Fin 4096) (xd xs : BitVec 4) (imm : BitVec 32) (s : State), s.issuesNow c.val (.qAddx xd xs imm) →
    (loopNext (s.cell c.val).loops (s.cell c.val).pc).2 < 8192 →
    exec (.qAddx c) s = .next ((s.count c.val 1 1).setCell c.val { (s.cell c.val).counted (.qAddx xd xs imm) with
      x := (s.cell c.val).x.set xd.toNat ((xval (s.cell c.val).x xs + imm.toNat) % 2 ^ 32),
      incs := (s.cell c.val).incs.filter (fun j => decide (j.reg ≠ xd.toNat)) ++
        ((s.cell c.val).incs.filter (fun j => decide (j.reg = xs.toNat))).map (fun j => { j with reg := xd.toNat }),
      loops := (loopNext (s.cell c.val).loops (s.cell c.val).pc).1, pc := (loopNext (s.cell c.val).loops (s.cell c.val).pc).2 })) ∧
  -- a loop of count1 + 1 passes over the next len words, at most four deep and each within the one around it
  (∀ (c : Fin 4096) (n1 : BitVec 16) (len : BitVec 13) (s : State), s.issuesNow c.val (.qLoop n1 len) → (s.cell c.val).loops.length < 4 →
    (∀ l ∈ (s.cell c.val).loops.head?, (s.cell c.val).pc + len.toNat ≤ l.last) → len ≠ 0 → (s.cell c.val).pc + 1 < 8192 →
    exec (.qLoop c) s = .next ((s.count c.val 1 1).setCell c.val { (s.cell c.val).counted (.qLoop n1 len) with
      loops := ⟨(s.cell c.val).pc + 1, (s.cell c.val).pc + len.toNat, n1.toNat⟩ :: (s.cell c.val).loops, pc := (s.cell c.val).pc + 1 })) ∧
  -- Q.BLOCK outside a loop takes the oldest entry, which names a delivered word, or waits
  (∀ (c : Fin 4096) (e : MboxEntry) (r : List MboxEntry) (s : State), s.issuesNow c.val .qBlock → (s.cell c.val).loops = [] →
    (s.cell c.val).mbox = e :: r → (s.cell c.val).store.prog.any (fun w => decide (w.1 ≤ e.word) && decide (e.word < w.1 + w.2)) = true →
    exec (.qBlock c) s = .next ((s.count c.val 1 1).setCell c.val { (s.cell c.val).counted .qBlock with
      mbox := r, pc := e.word, job := e.job, st := .running,
      lead := { (s.cell c.val).lead with bases := e.bases.foldl (fun l b => l.set b.1 b.2) (s.cell c.val).lead.bases } })) ∧
  (∀ (c : Fin 4096) (s : State), s.issuesNow c.val .qBlock → (s.cell c.val).loops = [] → (s.cell c.val).mbox = [] →
    exec (.qBlock c) s = .next ((s.count c.val 1 1).setCell c.val { (s.cell c.val).counted .qBlock with st := .blockWait })) ∧
  (∀ (c : Fin 4096) (e : MboxEntry) (r : List MboxEntry) (s : State), (s.cell c.val).st = .blockWait → (s.cell c.val).stopping = false →
    (s.cell c.val).mbox = e :: r → (s.cell c.val).store.prog.any (fun w => decide (w.1 ≤ e.word) && decide (e.word < w.1 + w.2)) = true →
    exec (.qBlockTake c) s = .next (s.setCell c.val { s.cell c.val with
      mbox := r, pc := e.word, job := e.job, st := .running,
      lead := { (s.cell c.val).lead with bases := e.bases.foldl (fun l b => l.set b.1 b.2) (s.cell c.val).lead.bases } }))

/-- O7. R85, R100, R106, R109: Q.END once every earlier instruction has completed, and the issue of an engine's instruction into a queue with room. The model chose what assumption 98 says. -/
def Obligations.IssueAndEndComplete : Prop :=
  (∀ (c : Fin 4096) (s : State), s.issuesNow c.val .qEnd → (s.cell c.val).inFlight = [] → (s.cell c.val).lead.tags = [] →
    (s.cell c.val).loops = [] →
    ∃ u v : State, u = (s.setCell c.val ((s.cell c.val).counted .qEnd)).count c.val 1 1 ∧
      v = (if (u.team (u.teamOfCell c.val)).run = .running then u.enterSwitching (u.teamOfCell c.val) else u) ∧
      exec (.qEnd c) s = .next ((((v.setCell c.val { v.cell c.val with
        st := .ending, chIn := (s.cell c.val).chIn.map (fun i => { i with took := false }) }).closeBelay c.val).sendMarkers c.val).endProgress c.val)) ∧
  (∀ (c : Fin 4096) (i : CellInstr) (e : Engine) (s : State) (k : Cell) (cur : Resume) (live : List XInc), s.issuesNow c.val i →
    i.engine = some e → (s.cell c.val).room i = true → (s.cell c.val).takeCursor i = (k, cur) →
    live = (s.cell c.val).incs.filter (fun j => (s.cell c.val).inFlight.any (fun p => decide (p.seq = j.seq))) →
    (loopNext (s.cell c.val).loops (s.cell c.val).pc).2 < 8192 →
    exec (.instructionIssue c) s = .next ((s.count c.val 1 1).setCell c.val { (k.setQueue e (k.queue e ++ [k.entry i live cur])) with
      issued := (s.cell c.val).issued + 1, x := i.incX (s.cell c.val).store (s.cell c.val).x,
      incs := live ++ (if i.allOrNone then (i.steps (s.cell c.val).store).map (fun p => ⟨p.1.toNat, (s.cell c.val).issued, p.2⟩) else []),
      loops := (loopNext (s.cell c.val).loops (s.cell c.val).pc).1, pc := (loopNext (s.cell c.val).loops (s.cell c.val).pc).2 })) ∧
  -- Q.END inside a loop body is LOOP_BAD (R105)
  (∀ (c : Fin 4096) (s : State), s.issuesNow c.val .qEnd → (s.cell c.val).inFlight = [] → (s.cell c.val).lead.tags = [] →
    (s.cell c.val).loops ≠ [] →
    exec (.qEnd c) s = .next ((s.setCell c.val ((s.cell c.val).counted .qEnd)).issueFault c.val 0x3144)) ∧
  -- a word with no legal instruction faults the section's cell at issue (R108)
  (∀ (c : Fin 4096) (s : State), (s.cell c.val).issues = true → s.bankErr c.val = none → (s.cell c.val).atPc = none →
    exec (.instructionIssue c) s = .next (s.issueFault c.val 0x3140))

/-- O8. R115, R161 to R166, R206: what the tile mover's instructions and A.ZERO do at the head of their queue. The model chose what assumptions 24, 27 say. -/
def Obligations.TileInstructionsComplete : Prop :=
  -- T.LD inside a readable region fills its register with the image and leaves the queue
  (∀ (c : Fin 4096) (q : QInstr) (fmt : BitVec 5) (scl : BitVec 2) (tr : BitVec 4) (tps : BitVec 1) (xb : BitVec 4) (off : BitVec 17)
      (stride inc : BitVec 10) (s : State), s.starts c.val .tile q (.tLd fmt scl tr tps xb off stride inc) →
    (s.cell c.val).inRegion (offAddr q.xs xb off.toNat) (imageSpan (fmtOf fmt) scl.toNat stride.toNat) Region.rd = true →
    ∃ (runs : List (Nat × Nat)) (u : State) (b : List Byte) (bad : Bool),
      runs = imageRuns (fmtOf fmt) scl.toNat stride.toNat (offAddr q.xs xb off.toNat) ∧ (s.startHead c.val q).readRuns c.val runs = (u, b, bad) ∧
      exec (.tLd c) s = .next (((u.setTreg c.val tr.toNat {
        full := true, bytes := if tps = 1#1 then transposeTile (fmtOf fmt) b else b, flags := 0, poison := bad }).countBanks c.val q (runUnits runs)).finish c.val .tile)) ∧
  -- T.ST of a full register into a writable region of the own scratchpad
  (∀ (c : Fin 4096) (q : QInstr) (fmt : BitVec 5) (scl : BitVec 2) (tr : BitVec 4) (tps : BitVec 1) (xb : BitVec 4) (off : BitVec 17)
      (stride inc : BitVec 10) (s m : State) (t : TReg), s.starts c.val .tile q (.tSt fmt scl tr tps 0#3 xb off stride inc) →
    m = s.meetStores (tregStores c.val [tr.toNat]) → t = nthD (m.cell c.val).tregs tr.toNat {} → t.full = true →
    (m.cell c.val).inRegion (offAddr q.xs xb off.toNat) (imageSpan (fmtOf fmt) scl.toNat stride.toNat) Region.wr = true →
    ∃ (runs : List (Nat × Nat)) (u : State), runs = imageRuns (fmtOf fmt) scl.toNat stride.toNat (offAddr q.xs xb off.toNat) ∧
      u = (cutRuns runs (if tps = 1#1 then transposeTile (fmtOf fmt) (sliceB t.bytes 0 (tileBytes (fmtOf fmt) scl.toNat))
        else sliceB t.bytes 0 (tileBytes (fmtOf fmt) scl.toNat))).foldl (fun x r => x.ownWrite c.val r.1 r.2 t.poison) (m.startHead c.val q) ∧
      exec (.tSt c) s = .next (((u.setFld (R.CELL_VE_FLAGS c.val) F.CELL_VE_FLAGS_FLAGS (u.fld (R.CELL_VE_FLAGS c.val) F.CELL_VE_FLAGS_FLAGS |||
        t.flags)).countBanks c.val q (runUnits runs)).finish c.val .tile)) ∧
  -- T.ST to a neighbour inside the granted window, with every credit held: it spends them, sends the write, leaves the queue and is acknowledged later (R206, R207)
  (∀ (c : Fin 4096) (q : QInstr) (fmt : BitVec 5) (scl : BitVec 2) (tr : BitVec 4) (tps : BitVec 1) (dir : BitVec 3) (xb : BitVec 4)
      (off : BitVec 17) (stride inc : BitVec 10) (s : State) (t : TReg) (tx : BelayTx) (w : Grant) (base span : Nat) (us : List Nat),
    s.starts c.val .tile q (.tSt fmt scl tr tps dir xb off stride inc) → dir ≠ 0#3 → s.upsets = [] →
    t = nthD (s.cell c.val).tregs tr.toNat {} → t.full = true →
    tx = nthD (s.cell c.val).tx (dir.toNat - 1) {} → tx.win = some w → base = offAddr q.xs xb off.toNat →
    span = imageSpan (fmtOf fmt) scl.toNat stride.toNat → w.base ≤ base → base + span ≤ w.base + 256 * w.units →
    us = unitsIn w.base w.units base span → us.all (fun u => tx.held.testBit u) = true →
    ∃ u : State, exec (.tSt c) s = .next u ∧
      u.cell c.val = { ((s.cell c.val).begin q).done .tile with
        nbrOut := (s.cell c.val).nbrOut ++ [(dir.toNat, q)],
        tx := (s.cell c.val).tx.set (dir.toNat - 1) { tx with held := us.foldl (fun m k => m - 2 ^ k) tx.held } } ∧
      u.nbr = s.nbr ++ [{
        cell := c.val, dir := dir.toNat,
        body := .write base span (cutRuns (imageRuns (fmtOf fmt) scl.toNat stride.toNat base) (if tps = 1#1 then transposeTile (fmtOf fmt) (sliceB t.bytes 0 (tileBytes (fmtOf fmt) scl.toNat))
          else sliceB t.bytes 0 (tileBytes (fmtOf fmt) scl.toNat))) t.poison q.iaddr }] ∧ u.mem = s.mem) ∧
  -- T.REL empties the registers of its mask
  (∀ (c : Fin 4096) (q : QInstr) (m : BitVec 16) (s : State), s.starts c.val .tile q (.tRel m) →
    exec (.tRel c) s = .next (s.setCell c.val ((((s.cell c.val).begin q).releaseTregs m.toNat).done .tile))) ∧
  (∀ (c : Fin 4096) (b : Fin 4) (s : State), (s.cell c.val).bankEmpty b.val = true → s.fld (R.CELL_TREG_CTRL c.val) F.CELL_TREG_CTRL_GATE_DIS = 0 →
    exec (.tregBankGate c b) s = .next (s.setCell c.val { s.cell c.val with gated := (s.cell c.val).gated.set b.val true })) ∧
  (∀ (c : Fin 4096) (q : QInstr) (acc : BitVec 2) (base : BitVec 20) (s : State), s.starts c.val .array q (.aZero acc base) →
    exec (.aZero c) s = .next (((s.startHead c.val q).setAcc c.val acc.toNat (Acc.zero base.toNat)).finish c.val .array))

/-! ### Cells: the array, the vector engine, channels and the lead engine (files 05, 06, 09 and 08) -/

/-- O9. R112, R117, R119, R122, R148: the array's instructions at the head of their queue. The model chose what assumptions 14, 15, 23, 117 say. -/
def Obligations.ArrayInstructionsComplete : Prop :=
  -- A.MMA of two full registers whose leaves the accumulator takes
  (∀ (c : Fin 4096) (q : QInstr) (fb fa : BitVec 5) (sb sa acc : BitVec 2) (ta tb : BitVec 4) (k m : BitVec 5) (fin : BitVec 1) (s w z u : State)
      (ra rb : TReg) (rows : List RowLeaves) (x : Acc) (bad : Bool), s.starts c.val .array q (.aMma fb fa sb sa acc ta tb k m fin) →
    w = s.meetStores (tregStores c.val [ta.toNat, tb.toNat] ++ accStores c.val [acc.toNat]) → z = w.meetStores [.opnd (cellNum c.val)] →
    z.mayCheck c.val q.job (tileBytes (fmtOf fa) sa.toNat + tileBytes (fmtOf fb) sb.toNat) = true →
    ra = nthD (z.cell c.val).tregs ta.toNat {} → rb = nthD (z.cell c.val).tregs tb.toNat {} → ra.full = true → rb.full = true →
    rows = mmaLeaves (z.strict c.val) (fmtOf fa) (fmtOf fb) sa.toNat sb.toNat (k.toNat + 1) (m.toNat + 1) ra.bytes rb.bytes →
    ((z.cell c.val).acc acc.toNat).pushAll (z.strict c.val) (fmtOf fa).isInt (fin = 1#1) rows = .inr x →
    bad = (ra.poison || rb.poison || w.opndBad c.val) →
    u = (((z.startHead c.val q).setAcc c.val acc.toNat (if bad then x.or flPoison else x)).count c.val 2
      ((k.toNat + 1) * rateFactor (z.strict c.val) (fmtOf fa) (fmtOf fb))).count c.val 3 ((m.toNat + 1) * (k.toNat + 1) * 32) →
    exec (.aMma c) s = .next (((if (fmtOf fa).isInt then u else u.treeUpset c.val [acc.toNat]).unitDone c.val q.job q.i.encode (k.toNat + 1)
      (m.toNat + 1) rows (sliceB ra.bytes 0 (tileBytes (fmtOf fa) sa.toNat)) (sliceB rb.bytes 0 (tileBytes (fmtOf fb) sb.toNat))
      bad).finish c.val .array)) ∧
  -- a root drain without NORM fills its register with the roots, and clears the accumulator when CLR is 1
  (∀ (c : Fin 4096) (q : QInstr) (fb : BitVec 5) (acc : BitVec 2) (ta : BitVec 4) (sr clr : BitVec 1) (xb : BitVec 4) (off : BitVec 13)
      (s w z : State) (codes : List Nat) (fl : Nat) (x : Acc), s.starts c.val .array q (.aDrain fb acc ta 0#1 sr clr 0#1 xb off) →
    w = s.meetStores (accStores c.val [acc.toNat]) →
    z = (if ((w.cell c.val).acc acc.toNat).drainAdds then w.treeUpset c.val [acc.toNat] else w) →
    rootDrain (z.strict c.val) (z.e4sat c.val) (fmtOf fb) none (if sr = 1#1 then some (z.sectIdAt c.val, (xval q.xs xb + off.toNat) % 2 ^ 32) else none)
      ((z.cell c.val).acc acc.toNat) = (codes, fl) → x = ((z.cell c.val).acc acc.toNat).or fl →
    exec (.aDrain c) s = .next ((((z.startHead c.val q).setTreg c.val ta.toNat {
      full := true, bytes := packCodes (fmtOf fb) codes, flags := x.flags, poison := x.flags.testBit 5 }).setAcc c.val acc.toNat
        (if clr = 1#1 then Acc.zero 0 else x)).finish c.val .array)) ∧
  -- a frame drain into a writable region writes the accumulator's frame
  (∀ (c : Fin 4096) (q : QInstr) (fb : BitVec 5) (acc : BitVec 2) (ta : BitVec 4) (sr clr norm : BitVec 1) (xb : BitVec 4) (off : BitVec 13)
      (s w : State) (x : Acc), s.starts c.val .array q (.aDrain fb acc ta 1#1 sr clr norm xb off) →
    w = s.meetStores (accStores c.val [acc.toNat]) → x = (w.cell c.val).acc acc.toNat →
    (w.cell c.val).inRegion (offAddr q.xs xb off.toNat) (x.frame (w.strict c.val)).length Region.wr = true →
    exec (.aDrain c) s = .next (((((w.startHead c.val q).ownWrite c.val (offAddr q.xs xb off.toNat) (x.frame (w.strict c.val))
      (x.flags.testBit 5)).setAcc c.val acc.toNat (if clr = 1#1 then Acc.zero 0 else x)).countBanks c.val q
        (unitsOfRange (offAddr q.xs xb off.toNat) (x.frame (w.strict c.val)).length)).finish c.val .array)) ∧
  -- A.MERGE: a step that ends the last frame completes it and consumes what it read; a step that ends no frame goes on to the next slot
  (∀ (c : Fin 4096) (n : Nat) (q : QInstr) (acc : BitVec 2) (n1 : BitVec 7) (xb : BitVec 4) (off : BitVec 10) (s u v : State) (len : Nat),
    s.starts c.val .array q (.aMerge acc n1 xb off) → (s.cell c.val).mergeFrom q = none → n1 = 0#7 →
    (s.startHead c.val q).mergeStep c.val acc.toNat (offAddr q.xs xb off.toNat) 0 = (u, none, true) →
    v = u.setCell c.val { u.cell c.val with merge := none } →
    len = v.frameAt c.val 1 (offAddr q.xs xb off.toNat) - offAddr q.xs xb off.toNat →
    exec (.aMerge c (n + 1)) s = .next (((v.consumeRead c.val (offAddr q.xs xb off.toNat) len).countBanks c.val q
      (unitsOfRange (offAddr q.xs xb off.toNat) len)).finish c.val .array)) ∧
  (∀ (c : Fin 4096) (n : Nat) (q : QInstr) (acc : BitVec 2) (n1 : BitVec 7) (xb : BitVec 4) (off : BitVec 10) (s u : State),
    s.starts c.val .array q (.aMerge acc n1 xb off) → (s.cell c.val).mergeFrom q = none →
    (s.startHead c.val q).mergeStep c.val acc.toNat (offAddr q.xs xb off.toNat) 0 = (u, none, false) →
    exec (.aMerge c (n + 1)) s = .next (State.mergeRun c.val q acc.toNat (n1.toNat + 1) (offAddr q.xs xb off.toNat) n 0 1 u)) ∧
  -- M.MV of kc chunks in a readable region, whose leaves row ROW takes
  (∀ (c : Fin 4096) (q : QInstr) (fb fa : BitVec 5) (sb sa acc : BitVec 2) (ta : BitVec 4) (klen row : BitVec 5) (fin : BitVec 1) (kc1 : BitVec 7)
      (xb : BitVec 4) (inc : BitVec 1) (s r z u : State) (ra : TReg) (w : List Byte) (bad : List Nat) (cb ab base : Nat) (pois : Bool)
      (chunks : List (List Byte × List Byte × Nat)) (lv : List (List (List (LeafVal × Nat)))) (x : Acc),
    s.starts c.val .array q (.mMv fb fa sb sa acc ta klen row fin kc1 xb inc) →
    r = s.meetStores (tregStores c.val [ta.toNat] ++ accStores c.val [acc.toNat]) → z = r.meetStores [.opnd (cellNum c.val)] →
    cb = tileBytes (fmtOf fb) sb.toNat → ab = (fmtOf fa).bytes 32 + sclBytes sa.toNat → base = xval q.xs xb →
    z.mayCheck c.val q.job (ab + cb) = true → ra = nthD (z.cell c.val).tregs ta.toNat {} → ra.full = true →
    (z.cell c.val).inRegion base ((kc1.toNat + 1) * cb) Region.rd = true → z.ownRead c.val base ((kc1.toNat + 1) * cb) = (u, w, bad) →
    chunks = (List.range (kc1.toNat + 1)).map (fun i =>
      (sliceB ra.bytes (i * ab) ab, sliceB w (i * cb) cb, if i + 1 = kc1.toNat + 1 then klen.toNat + 1 else 32)) →
    lv = chunks.map (fun y => mvChunk (z.strict c.val) (fmtOf fa) (fmtOf fb) sa.toNat sb.toNat y.2.2 y.1 y.2.1) →
    ((z.cell c.val).acc acc.toNat).pushAll (z.strict c.val) (fmtOf fa).isInt (fin = 1#1) [(row.toNat, lv.flatten)] = .inr x →
    pois = (ra.poison || !bad.isEmpty || r.opndBad c.val) →
    ∃ v : State, v = (((u.startHead c.val q).setAcc c.val acc.toNat (if pois then x.or flPoison else x)).count c.val 4
        (mvFc (z.strict c.val) base ((kc1.toNat + 1) * cb) (32 * kc1.toNat + (klen.toNat + 1)))).count c.val 5 (32 * (32 * kc1.toNat + (klen.toNat + 1))) ∧
      exec (.mMv c) s = .next (((((chunks.zip lv).foldl (fun z y => z.unitDone c.val q.job q.i.encode y.1.2.2 1 [(row.toNat, y.2)] y.1.1 y.1.2.1
        pois) (if (fmtOf fa).isInt then v else v.treeUpset c.val [acc.toNat])).consumeRead c.val base
          ((kc1.toNat + 1) * cb)).countBanks c.val q (unitsOfRange base ((kc1.toNat + 1) * cb))).finish c.val .array))

/-- O10. R122, R123, R185: an F.PAIR that raises no fault makes its group active, keeps the row maxima of its rows and leaves the queue. The model chose what
assumptions 14, 116 say. -/
def Obligations.ScorePairCompletes : Prop :=
  ∀ (c : Fin 4096) (q : QInstr) (fb fa : BitVec 5) (sb sa acc : BitVec 2) (tq xk : BitVec 4) (klen rows : BitVec 5) (xv : BitVec 4) (dch : BitVec 2)
      (first inc : BitVec 1) (chain : BitVec 13) (s u1 u2 : State) (qr : List TReg) (nb : Nat) (d : Desc) (kb vb : List Byte) (b1 b2 : List Nat)
      (m0 : List Int) (l0 : List (BitVec 32)) (kc : List (BitVec 32)) (prs : List PairRow) (img : List Byte) (accs : List Acc) (outs : List Acc),
    s.starts c.val .array q (.fPair fb fa sb sa acc tq xk klen rows xv dch first inc chain) → s.upsets = [] →
    s.mayCheck c.val q.job ((fmtOf fa).bytes 1024 + nb) = true →
    qr = (regRun tq.toNat (dch.toNat + 1)).map (fun r => nthD (s.cell c.val).tregs r {}) → qr.all (·.full) = true →
    (first = 1#1 ∨ (s.cell c.val).fp = some (acc.toNat, dch.toNat + 1)) → nb = tileBytes (fmtOf fb) sb.toNat →
    Desc.read (s.cell c.val).store.num chain.toNat 1024 = some d → d.pairOk (s.cell c.val).store.num chain.toNat = true → d.pairConstBad = false →
    (s.cell c.val).inRegion (xval q.xs xk) ((dch.toNat + 1) * nb) Region.rd = true →
    (s.cell c.val).inRegion (xval q.xs xv) ((dch.toNat + 1) * nb) Region.rd = true →
    s.ownRead c.val (xval q.xs xk) ((dch.toNat + 1) * nb) = (u1, kb, b1) → u1.ownRead c.val (xval q.xs xv) ((dch.toNat + 1) * nb) = (u2, vb, b2) →
    m0 = (if first = 1#1 then List.replicate 32 (-32768) else (s.cell c.val).rowMax) →
    l0 = (if first = 1#1 then List.replicate 32 0 else (s.cell c.val).rowSum) →
    kc = (if d.usesK then (List.range 4096).map (fun i => SMap.get 0 (s.cell c.val).const i) else []) →
    -- one score row, with its new maximum, per query row
    prs = (List.range (rows.toNat + 1)).map (fun r => pairRow (s.strict c.val) (s.e4sat c.val) d kc (fmtOf fa) (fmtOf fb) sa.toNat sb.toNat
      (klen.toNat + 1) r (nthD m0 r (-32768)) (qr.map (·.bytes)) ((List.range (dch.toNat + 1)).map (fun h => sliceB kb (h * nb) nb))) →
    img = packCodes (fmtOf fa) (prs.flatMap (·.p) ++ List.replicate (32 * (32 - (rows.toNat + 1))) 0) →
    -- the rescaled accumulators of the group take the value product
    accs = (List.range (dch.toNat + 1)).map (fun h => (List.range (rows.toNat + 1)).foldl (fun x r =>
      if (nthD prs r ⟨[], 0, 0, 0⟩).m = nthD m0 r 0 then x else x.scaleRow r (nthD m0 r 0 - (nthD prs r ⟨[], 0, 0, 0⟩).m))
        (if first = 1#1 then Acc.zero 0 else (s.cell c.val).acc (acc.toNat + h))) →
    (accs.zip ((List.range (dch.toNat + 1)).map (fun h => mmaLeaves (s.strict c.val) (fmtOf fa) (fmtOf fb) 0 sb.toNat 32 (rows.toNat + 1) img
      (sliceB vb (h * nb) nb)))).map (fun y => y.1.pushAll (s.strict c.val) (fmtOf fa).isInt false y.2) = outs.map .inr →
    ∃ t : State, exec (.fPair c) s = .next t ∧ (t.cell c.val).fp = some (acc.toNat, dch.toNat + 1) ∧
      (t.cell c.val).qArray = (s.cell c.val).qArray.drop 1 ∧
      (∀ h ≤ dch.toNat, acc.toNat + h < (s.cell c.val).accs.length → ∃ f : Nat, (t.cell c.val).acc (acc.toNat + h) = (nthD outs h {}).or f) ∧
      (t.cell c.val).rowMax = (List.range 32).map (fun r => if r < rows.toNat + 1 then (nthD prs r ⟨[], 0, 0, 0⟩).m else nthD m0 r (-32768)) ∧
      (t.cell c.val).rowSum = (List.range 32).map (fun r => if r < rows.toNat + 1 then
        (addMode (s.strict c.val) (scale32 (nthD l0 r 0) (nthD m0 r 0 - (nthD prs r ⟨[], 0, 0, 0⟩).m)) (nthD prs r ⟨[], 0, 0, 0⟩).sum).1
        else nthD l0 r 0)

/-- O11. R169, R179 to R184, R266, R267: vector chains, summaries, and channel instructions at the head of their queue. The model chose what assumptions 16,
18, 29, 118 say. -/
def Obligations.VectorAndChannelInstructionsComplete : Prop :=
  -- V.CHAIN: with every check passed, at most `segs` segments run; the chain completes with its last one, or waits at its cursor
  (∀ (c : Fin 4096) (segs : Nat) (q : QInstr) (xa xb xd xm : BitVec 4) (inc : BitVec 1) (n1 : BitVec 16) (chain : BitVec 13)
      (s v : State) (d : Desc) (xs : List Nat) (n A B D M : Nat) (done k : Nat) (run run' : ChainRun),
    s.starts c.val .vector q (.vChain xa xb xd xm inc 0#3 n1 0#7 chain) →
    xs = (match (s.cell c.val).veFrom q with
      | some v => v.xstart
      | none => [xval q.xs xa, xval q.xs xb, xval q.xs xd, xval q.xs xm]) →
    A = nthD xs 0 0 → B = nthD xs 1 0 → D = nthD xs 2 0 → M = nthD xs 3 0 → n = n1.toNat + 1 →
    Desc.read (s.cell c.val).store.num chain.toNat n = some d → chainFault d n A B D M (xb ≠ 0#4) (xm ≠ 0#4) false = none →
    (s.cell c.val).inRegion A (streamLen d.fmtA d.sclA d.layout n) Region.rd = true →
    (d.usesB = true → (s.cell c.val).inRegion B (streamLen d.fmtB d.sclB d.layout n) Region.rd = true) →
    (d.mask = 1 → (s.cell c.val).inRegion M ((n + 7) / 8) Region.rd = true) →
    (d.dest = false → (s.cell c.val).inRegion D (streamLen d.fmtD d.sclD d.layout n) Region.wr = true) →
    (done, run) = (match (s.cell c.val).veFrom q with
      | some v => (v.done, v.run)
      | none => (0, ChainRun.start d)) → k = min segs (segCount d n - done) →
    -- the segments run one after another, each reading its own elements and then writing its own results
    State.vSegments c.val (s.strict c.val) d n A B D M k done (s.startHead c.val q, run) = (v, run') →
      (done + k < segCount d n → exec (.vChain c segs) s = .next (v.setCell c.val { v.cell c.val with
        veCur := some ⟨q.iaddr, q.job, done + k, [A, B, D, M], run'⟩ })) ∧
      (segCount d n ≤ done + k → ∃ w x y : State,
        w = (v.chainDone c.val (s.strict c.val) d run').consumeRead c.val A (streamLen d.fmtA d.sclA d.layout n) ∧
        x = (if d.usesB then w.consumeRead c.val B (streamLen d.fmtB d.sclB d.layout n) else w) ∧
        y = (if d.mask = 1 then x.consumeRead c.val M ((n + 7) / 8) else x) ∧
        exec (.vChain c segs) s = .next ((y.countBanks c.val q (chainUnits d n A B D M)).finish c.val .vector))) ∧
  -- V.SUM with room for its record
  (∀ (c : Fin 4096) (q : QInstr) (zmask : BitVec 4) (tag : BitVec 16) (s u v : State) (r : List Byte),
    s.starts c.val .vector q (.vSum zmask tag) → (s.cell c.val).summaries < 4 → (s.clu (s.clusterOf c.val)).sums.length < 64 →
    r = summaryBytes (c.val % 16) q.job tag.toNat zmask.toNat (s.fld (R.CELL_VE_LAST c.val) F.CELL_VE_LAST_FLAGS) (s.cell c.val).elems
      (s.cell c.val).zs → u = (s.startHead c.val q).finish c.val .vector →
    v = ((u.setCell c.val { u.cell c.val with summaries := (s.cell c.val).summaries + 1 }).plausCheck (s.clusterOf c.val) c.val q.job r).suspect
      (s.clusterOf c.val) q.job F.CLU_JOB_SUSPECT_POISON (numAt r 5 1 != 0) →
    exec (.vSum c) s = .next ((v.setClu (s.clusterOf c.val) { v.clu (s.clusterOf c.val) with
      sums := (v.clu (s.clusterOf c.val)).sums ++ [⟨c.val % 16, r⟩] }).sumArrived (s.clusterOf c.val))) ∧
  -- C.SEND with a bound channel, a credit and a readable, aligned tile
  (∀ (c : Fin 4096) (q : QInstr) (ch : BitVec 3) (inc : BitVec 1) (xb nfl : BitVec 4) (off : BitVec 12) (tag : BitVec 16) (s u v : State)
      (o : ChanOut) (b : ChanBind) (a n m : Nat) (bs : List Byte) (bad : List Nat),
    s.starts c.val .channel q (.cSend ch inc xb nfl off tag) → o = nthD (s.cell c.val).chOut ch.toNat {} → o.bind = some b → 0 < o.credits →
    a = offAddr q.xs xb off.toNat → a % 32 = 0 → n = 256 * (nfl.toNat + 1) → (s.cell c.val).inRegion a n Region.rd = true →
    u = (s.startHead c.val q).setCell c.val { (s.startHead c.val q).cell c.val with
      chOut := ((s.startHead c.val q).cell c.val).chOut.set ch.toNat { o with credits := o.credits - 1 } } →
    u.ownRead c.val a n = (v, bs, bad) → m = tilePoison (scratchAddr c.val a) n bad →
    exec (.cSend c) s = .next ((((((v.consumeRead c.val a n).chanSend c.val b q.job (.chTile {
      src := c.val, srcChan := ch.toNat, nfl := nfl.toNat + 1, tag := tag.toNat, job := q.job, gen := ((v.consumeRead c.val a n).cell c.val).gen,
      gs := b.gs, poison := m, bytes := bs } b.peerChan)).bump (R.CH_OUT_CNT c.val ch.toNat) F.CH_OUT_CNT_TILES 1).suspect
        ((((v.consumeRead c.val a n).chanSend c.val b q.job (.chTile {
      src := c.val, srcChan := ch.toNat, nfl := nfl.toNat + 1, tag := tag.toNat, job := q.job, gen := ((v.consumeRead c.val a n).cell c.val).gen,
      gs := b.gs, poison := m, bytes := bs } b.peerChan)).bump (R.CH_OUT_CNT c.val ch.toNat) F.CH_OUT_CNT_TILES 1).clusterOf c.val)
        q.job F.CLU_JOB_SUSPECT_POISON (m != 0)).portWaits c.val).finish c.val .channel)) ∧
  -- C.RECV of a waiting tile of its length into a writable, aligned region: the bytes are copied and a credit goes back
  (∀ (c : Fin 4096) (q : QInstr) (ch : BitVec 3) (inc : BitVec 1) (xb nfl : BitVec 4) (off : BitVec 12) (s w u : State)
      (i : ChanIn) (b : ChanBind) (t : ChTile) (rest : List ChTile) (a n : Nat),
    s.starts c.val .channel q (.cRecv ch inc xb nfl off) → w = s.meetStores (slotStores c.val ch.toNat) →
    i = nthD (w.cell c.val).chIn ch.toNat {} → i.bind = some b → i.slots = t :: rest →
    a = offAddr q.xs xb off.toNat → a % 32 = 0 → t.nfl = nfl.toNat + 1 → n = 256 * (nfl.toNat + 1) → (w.cell c.val).inRegion a n Region.wr = true →
    u = ((w.startHead c.val q).setCell c.val { (w.startHead c.val q).cell c.val with
      chIn := ((w.startHead c.val q).cell c.val).chIn.set ch.toNat { i with slots := rest } }).wr (scratchAddr c.val a) (sliceB t.bytes 0 n)
        (poisonSectors (scratchAddr c.val a) n t.poison) →
    exec (.cRecv c) s = .next ((((u.chanSend c.val b q.job (.chCredit b.peerChan ch.toNat 1)).bump (R.CH_IN_CNT c.val ch.toNat)
      F.CH_IN_CNT_TILES 1).portWaits c.val).finish c.val .channel))

/-- O12. R232, R238, R243: the lead engine's instructions at the head of their queue, when the engine is ready and every check passes. The model chose what
assumptions 11, 27, 29, 119 say. -/
def Obligations.LeadInstructionsComplete : Prop :=
  (∀ (c : Fin 4096) (q : QInstr) (xs : BitVec 4) (lb : BitVec 2) (sp dir : BitVec 1) (xd : BitVec 4) (inc : BitVec 1) (len : BitVec 17) (s : State),
    s.starts c.val .lead q (.lFetch xs lb sp dir xd inc len) → (s.cell c.val).lead.ready = true →
    (s.cell c.val).inRegion (q.leadX 1 xd) (32 * (len.toNat + 1)) Region.haul = true →
    (sp = 1#1 → (s.cell c.val).inTile (q.leadX 0 xs) (32 * (len.toNat + 1)) (if dir = 1#1 then Region.wr else Region.rd) = true) →
    exec (.lFetch c) s = .next (s.leadStart c.val q [q.leadX 0 xs, q.leadX 1 xd, 0] [])) ∧
  (∀ (c : Fin 4096) (q : QInstr) (xs : BitVec 4) (lb : BitVec 2) (sp : BitVec 1) (xd xt : BitVec 4) (inc : BitVec 1) (pg : BitVec 3)
      (count : BitVec 9) (len : BitVec 11) (s u : State) (b : List Byte) (bad : List Nat) (table : List Nat),
    s.starts c.val .lead q (.lGather xs lb sp xd xt inc pg count len) → (s.cell c.val).lead.ready = true → q.leadX 0 xs % 32 = 0 →
    q.leadX 0 xs + 32 * (len.toNat + 1) ≤ 2 ^ (9 + pg.toNat) → (s.cell c.val).inRegion (q.leadX 2 xt) (4 * (count.toNat + 1)) Region.rd = true →
    (s.cell c.val).inRegion (q.leadX 1 xd) ((count.toNat + 1) * (32 * (len.toNat + 1))) Region.haul = true →
    s.ownRead c.val (q.leadX 2 xt) (4 * (count.toNat + 1)) = (u, b, bad) → table = chunkWords (count.toNat + 1) 4 b →
    (sp = 1#1 → ∀ e ∈ table, e ≠ 0xFFFFFFFF → (s.cell c.val).inTile (e * 2 ^ (9 + pg.toNat) + q.leadX 0 xs) (32 * (len.toNat + 1)) Region.rd = true) →
    exec (.lGather c) s = .next ((u.consumeRead c.val (q.leadX 2 xt) (4 * (count.toNat + 1))).leadStart c.val q
      [q.leadX 0 xs, q.leadX 1 xd, q.leadX 2 xt] table)) ∧
  -- L.CANCEL marks its cancel point once, and stays at the head until the cancellation completes (R244)
  (∀ (c : Fin 4096) (q : QInstr) (all : BitVec 1) (s : State), s.starts c.val .lead q (.lCancel all) →
    (s.cell c.val).lead.cancels.any (fun x => x.q = some q) = false →
    ∃ j : Option Nat, j = (if all = 1#1 then none else some q.job) ∧
      exec (.lCancel c) s = .next (s.setCell c.val { (s.cell c.val).begin q with lead := { (s.cell c.val).lead.cancel j with
        cancels := ((s.cell c.val).lead.cancel j).cancels ++ [{ job := j, q := some q }] } }))

/-! ### Cells: anchors and barriers (file 10) -/

/-- O13. R272, R274, R275, R277, R283: S instructions whose operands pass their checks send one operation and wait for its answer. The model chose what assumption 30 says. -/
def Obligations.SyncInstructionsComplete : Prop :=
  (∀ (c : Fin 4096) (q : QInstr) (xa : BitVec 4) (ao : BitVec 15) (xv : BitVec 4) (vr : BitVec 1) (im : BitVec 24) (s : State) (x : Sect) (a : Nat),
    s.starts c.val .sync q (.sAdd xa ao xv vr im) → s.syncReady c.val q x ((xval q.xs xa + ao.toNat) % 2 ^ 15) a →
    exec (.sAdd c) s = .next (s.syncSent c.val q 0x60 a (BitVec.ofNat 64 (if vr = 1#1 then xval q.xs xv else im.toNat)) 0)) ∧
  (∀ (c : Fin 4096) (q : QInstr) (xa : BitVec 4) (ao : BitVec 15) (xv : BitVec 4) (vr : BitVec 1) (im : BitVec 24) (s : State) (x : Sect) (a : Nat),
    s.starts c.val .sync q (.sSub xa ao xv vr im) → s.syncReady c.val q x ((xval q.xs xa + ao.toNat) % 2 ^ 15) a →
    exec (.sSub c) s = .next (s.syncSent c.val q 0x61 a (BitVec.ofNat 64 (if vr = 1#1 then xval q.xs xv else im.toNat)) 0)) ∧
  (∀ (c : Fin 4096) (q : QInstr) (xa : BitVec 4) (ao : BitVec 15) (xv : BitVec 4) (vr : BitVec 1) (im : BitVec 24) (s : State) (x : Sect) (a : Nat),
    s.starts c.val .sync q (.sSet xa ao xv vr im) → s.syncReady c.val q x ((xval q.xs xa + ao.toNat) % 2 ^ 15) a →
    exec (.sSet c) s = .next (s.syncSent c.val q 0x62 a (BitVec.ofNat 64 (if vr = 1#1 then xval q.xs xv else im.toNat)) 0)) ∧
  (∀ (c : Fin 4096) (q : QInstr) (xa : BitVec 4) (ao : BitVec 15) (xv : BitVec 4) (vr : BitVec 1) (xe xd : BitVec 4) (im : BitVec 24) (s : State)
      (x : Sect) (a : Nat),
    s.starts c.val .sync q (.sCas xa ao xv vr xe xd im) → s.syncReady c.val q x ((xval q.xs xa + ao.toNat) % 2 ^ 15) a →
    exec (.sCas c) s = .next (s.syncSent c.val q 0x63 a (BitVec.ofNat 64 (if vr = 1#1 then xval q.xs xv else im.toNat))
      (BitVec.ofNat 64 (xval q.xs xe)))) ∧
  (∀ (c : Fin 4096) (q : QInstr) (xa : BitVec 4) (ao : BitVec 15) (xv : BitVec 4) (vr : BitVec 1) (im : BitVec 24) (s : State) (x : Sect) (a : Nat),
    s.starts c.val .sync q (.sWait xa ao xv vr im) → s.syncReady c.val q x ((xval q.xs xa + ao.toNat) % 2 ^ 15) a →
    exec (.sWait c) s = .next (s.syncSent c.val q 0x64 a (BitVec.ofNat 64 (if vr = 1#1 then xval q.xs xv else im.toNat)) 0)) ∧
  -- S.BAR sends its arrival to the unit of the cell's own partition
  (∀ (c : Fin 4096) (q : QInstr) (u : BitVec 4) (s : State), s.starts c.val .sync q (.sBar u) → (s.cell c.val).sync = none →
    ∃ v : State, v = s.setCell c.val { ((s.cell c.val).begin q).done .sync with sync := some { q := q } } ∧
      exec (.sBar c) s = .next (v.send {
        pkt := .barArrive u.toNat (c.val % 64), gs := v.jobGuar (s.clusterOf c.val) q.job, gen := (s.cell c.val).gen, job := q.job,
        dest := v.barEp (c.val / 64) u.toNat, src := v.cellEp c.val, sender := .cell c.val, tenant := v.jobTenant (s.clusterOf c.val) q.job })) ∧
  -- an S.WAIT that met a full monitor table is sent again
  (∀ (c : Fin 4096) (o : SyncOut) (xa : BitVec 4) (ao : BitVec 15) (xv : BitVec 4) (vr : BitVec 1) (im : BitVec 24) (x : Sect) (a : Nat) (s : State),
    (s.cell c.val).sync = some o → o.resend = true → o.q.i = .sWait xa ao xv vr im → s.sectOf c.val = some x →
    s.teamAnchor x ((xval o.q.xs xa + ao.toNat) % 2 ^ 15) = some a →
    exec (.sWaitResend c) s = .next ((s.setCell c.val { s.cell c.val with sync := some { o with resend := false } }).ancSend c.val o.q.job 0x64 a
      (BitVec.ofNat 64 (if vr = 1#1 then xval o.q.xs xv else im.toNat)) 0 o.q.seq))

/-- O14. R274, R277, R278, R283, R284: what anchor and barrier packets do where they are ejected. The model chose what assumption 30 says. -/
def Obligations.AnchorAndBarrierPacketsComplete : Prop :=
  -- an operation other than S.WAIT is applied at its agent and answered with its status and the old word
  (∀ (n : Nat) (p : Packet) (op a : Nat) (v e : Word) (s u w : State) (st : Nat) (old : Word), s.arrives 0x10 n p u → p.pkt = .ancOp op a v e →
    op ≠ 0x64 → u.ancApply op a v e (u.ancOwned p.sender a) true = (w, st, old) →
    exec (.ancOp n) s = .next (w.send {
      pkt := .ancReply st old, gs := p.gs, gen := p.gen, job := p.job, dest := p.src, src := p.dest, sender := .cluster (a / 128),
      tenant := p.tenant, req := p.req })) ∧
  -- an S.WAIT is answered, monitored or refused
  (∀ (n : Nat) (p : Packet) (a : Nat) (v e : Word) (s u : State), s.arrives 0x10 n p u → p.pkt = .ancOp 0x64 a v e →
    exec (.ancOp n) s = .next (u.ancWait p a v)) ∧
  (∀ (n : Nat) (p : Packet) (st : Nat) (old : Word) (s u : State), s.arrives 0x11 n p u → p.pkt = .ancReply st old →
    exec (.ancReply n) s = .next (u.ancDeliver p st old)) ∧
  (∀ (n : Nat) (p : Packet) (st a : Nat) (s u : State), s.arrives 0x12 n p u → p.pkt = .ancWake st a →
    exec (.ancWake n) s = .next (u.ancDeliver p st 0)) ∧
  -- a cell that is told to wait marks its S.WAIT for sending again
  (∀ (n : Nat) (p : Packet) (s u : State), s.arrives 0x13 n p u → p.dest.code < 16 →
    exec (.ancNotyet n) s = .next (u.setCell (u.cellOf p.dest) { u.cell (u.cellOf p.dest) with
      sync := (u.cell (u.cellOf p.dest)).sync.map (fun o => if o.q.seq = p.req then { o with resend := true } else o) })) ∧
  -- an arrival that the unit's descriptor names is noted and may complete the set
  (∀ (n : Nat) (p : Packet) (k src : Nat) (d : BarDesc) (s u : State), s.arrives 0x18 n p u → p.pkt = .barArrive k src →
    ((u.bar (u.partOf p.dest.cluster).1 k).gen p.gen).desc = some d → d.units = decide (0x80 ≤ src) →
    d.mask.testBit (if 0x80 ≤ src then src - 0x80 else src) = true →
    exec (.barArrive n) s = .next ((u.setBar (u.partOf p.dest.cluster).1 k ((u.bar (u.partOf p.dest.cluster).1 k).setGen p.gen
      { (u.bar (u.partOf p.dest.cluster).1 k).gen p.gen with
        arrived := ((u.bar (u.partOf p.dest.cluster).1 k).gen p.gen).arrived ||| 2 ^ (if 0x80 ≤ src then src - 0x80 else src) })).barCheck
          (u.partOf p.dest.cluster).1 k p)) ∧
  -- a release completes the S.BAR of the cells of its mask that wait at that unit
  (∀ (n : Nat) (p : Packet) (k m : Nat) (s u : State), s.arrives 0x19 n p u → p.pkt = .barDone k m → m ≠ 0 →
    exec (.barDone n) s = .next ((List.range 16).foldl (fun x j =>
      if m.testBit j ∧ (x.cell (x.cellAt p.dest.cluster j)).inBar k p.gen then x.syncDone (x.cellAt p.dest.cluster j) else x) u)) ∧
  (∀ (n : Nat) (p : Packet) (k : Nat) (s u : State), s.arrives 0x19 n p u → p.pkt = .barDone k 0 →
    exec (.barDone n) s = .next (u.barRelease (u.partOf p.dest.cluster).1 k p))

/-! ### Sections in place, stops and bivouacs (files 04 and 11) -/

/-- O15. R81, R88, R90, R91: the switch of a cell, a controller and a team. The model chose what assumptions 31, 32, 54 say. -/
def Obligations.SwitchCompletes : Prop :=
  -- a cell of the staged section that is through with the outgoing one
  (∀ (c : Fin 4096) (s : State), (s.team (s.teamOfCell c.val)).run = .switching → (s.cell c.val).switched = false → (s.cell c.val).ended = true →
    (s.cell c.val).stopReq = false → (s.cell c.val).stopping = false → (s.cell c.val).staged = true →
    exec (.cellSwitch c) s = .next (((s.cellSwitch c.val).members (s.teamOfCell c.val)).foldl (fun x p =>
      x.bump (R.SECT_STATUS p) F.SECT_STATUS_CELLS_SWITCHED 1) (s.cellSwitch c.val))) ∧
  -- a cell outside it goes idle without channels or windows
  (∀ (c : Fin 4096) (s u : State), (s.team (s.teamOfCell c.val)).run = .switching → (s.cell c.val).switched = false → (s.cell c.val).ended = true →
    (s.cell c.val).stopReq = false → (s.cell c.val).stopping = false → (s.cell c.val).staged = false → (s.cell c.val).st = .ending →
    u = (s.countTime c.val).setCell c.val { s.cell c.val with
      st := .idle, switched := true, chIn := (s.cell c.val).chIn.map (fun i => { i with bind := none, took := false }),
      tx := List.replicate 4 {}, rx := List.replicate 4 {} } →
    exec (.cellSwitch c) s = .next ((u.members (s.teamOfCell c.val)).foldl (fun x p =>
      x.bump (R.SECT_STATUS p) F.SECT_STATUS_CELLS_SWITCHED 1) u)) ∧
  -- a fill without constants or weight copies ends: the program starts
  (∀ (c : Fin 4096) (s : State), (s.cell c.val).filling = true → (s.cell c.val).store.hasConst = false → (s.cell c.val).store.copies = [] →
    exec (.switchFillDone c) s = .next (s.setCell c.val { s.cell c.val with
      filling := false, st := if (s.cell c.val).store.prog.isEmpty then .idle else .running })) ∧
  -- a fill with constants, and weight copies that all agree with their root
  (∀ (c : Fin 4096) (s u v : State), (s.cell c.val).filling = true → u = (if (s.cell c.val).store.hasConst then s.fillConst c.val else s) →
    (u.cell c.val).store.copies.foldl (fun (x : State × Bool) w => ((x.1.weightCopy c.val w).1, x.2 && (x.1.weightCopy c.val w).2)) (u, true) =
      (v, true) →
    exec (.switchFillDone c) s = .next ((v.setCell c.val { v.cell c.val with filling := false }).startProgram c.val)) ∧
  -- a controller whose program, if any, has ended, with every team cell of its cluster through
  (∀ (g : Fin 256) (s : State), (s.team (s.teamOfClu g.val)).run = .switching → (s.team (s.teamOfClu g.val)).staged ≠ none →
    (s.clu g.val).switched = false → (s.clu g.val).ctl.st ≠ .user →
    (s.switchCells (s.teamOfClu g.val)).all (fun L => decide (s.clusterOf L ≠ g.val) || s.cellThrough L) = true →
    ∃ k : Ctl, exec (.controllerSwitch g) s = .next (s.setClu g.val { s.clu g.val with
        ctl := k, plaus := (s.clu g.val).plausShadow, plausShadow := (s.clu g.val).plaus, switched := true,
        router := { (s.clu g.val).router with switchDue := true } }) ∧
      k.progShadow = (s.clu g.val).ctl.prog ∧ k.prog = (s.clu g.val).ctl.progShadow ∧ k.sereq = false ∧
      ((s.clu g.val).ctl.progShadow ≠ [] → k.st = .user ∧ k.umode = true ∧ k.pc = 0 ∧ k.x = List.replicate 32 0 ∧ k.wait = .none) ∧
      ((s.clu g.val).ctl.progShadow = [] → k.st = (s.clu g.val).ctl.st ∧ k.pc = (s.clu g.val).ctl.pc)) ∧
  -- every cell, controller and router of the staged section has switched
  (∀ (p : Fin 64) (y : Sect) (s : State), (s.team p.val).run = .switching → (s.team p.val).staged = some y →
    (s.switchCells p.val).all s.cellThrough = true → (s.sectCells y).all (fun L => (s.cell L).switched) = true →
    (s.partClus y.binding).all (fun g => (s.clu g).switched && !(s.clu g).router.switchDue) = true →
    exec (.teamSwitchComplete p) s = .next (s.teamSwitched p.val y))

/-- O16. R82, R308, R320, R348, R349, R486: bounds of the switch, drains, moves, and the stop of a cell. The model chose what assumptions 32, 72, 103 say. -/
def Obligations.StopsAndDrainsComplete : Prop :=
  (∀ (p : Fin 64) (d : Nat) (s : State), (s.team p.val).run = .switching → (s.team p.val).swDeadline = some d → d ≤ s.time.count →
    exec (.switchTimeout p) s = .next (((s.raiseSect p.val p.val 8 p.val evSwitchTimeout).discardStaged p.val).beginDrain p.val evSwitchTimeout 0)) ∧
  (∀ (p : Fin 64) (s : State), (s.team p.val).run = .draining →
    (s.partCells (s.members p.val)).all (fun L => (s.cell L).atRest && (s.cell L).lead.cancels.isEmpty) = true →
    (s.partClus (s.members p.val)).all (fun g => (s.clu g).dmaCancels.isEmpty && (s.clu g).updCancels.isEmpty) = true →
    s.tilesFly p.val = false → exec (.drainComplete p) s = .next (s.drainEnd p.val)) ∧
  (∀ (p : Fin 64) (c : Change) (s : State), (s.team p.val).change = some c → (c.op = 3 ∨ c.op = 2 ∧ (s.team p.val).bare = false) →
    c.started = false → c.w ≤ s.time.count → s.finishing p.val = false → exec (.traverseStart p) s = .next (s.startMove p.val c)) ∧
  -- the stop request takes back what has not started, and the cell issues no more
  (∀ (c : Fin 4096) (s : State), (s.cell c.val).stopReq = true → (s.cell c.val).stopping = false →
    exec (.stopRequest c) s = .next (s.setCell c.val { (s.cell c.val).withdraw with stopReq := false, stopping := true, atRest := false })) ∧
  (∀ (c : Fin 4096) (s : State), (s.cell c.val).stopping = true → (s.cell c.val).atRest = false → (s.cell c.val).quiet = true →
    exec (.cellAtRest c) s = .next (s.setCell c.val (s.cell c.val).rest)) ∧
  -- a record is written once the job's cells are at rest, or its last group has ended, and its update units are quiet
  (∀ (r : Nat) (q : Request) (j : Nat) (s : State), s.req r = some q → q.spill = true → q.cancelling = none → q.job = some j →
    s.updQuiet q.team j = true → (s.bivLife q.tenant ≠ 0 ∨ q.moved ≠ none) →
    ((s.team q.team).run = .traverse → (s.partCells (s.members q.team)).all (fun L => (s.cell L).atRest) = true ∧ s.tilesFly q.team = false) →
    ((s.team q.team).run ≠ .traverse → s.jobQuiet q.team j = true) →
    exec (.bivouacWrite r) s = .next (s.writeOut r q (decide ((s.team q.team).run = .traverse)))) ∧
  (∀ (r : Nat) (q : Request) (j : Nat) (dyn : Option Nat) (x : Sect) (s : State), s.req r = some q → s.startDue r q 0 = true → q.record = true →
    s.jobFor q = some (j, dyn) → (s.team q.team).running = some x → exec (.bivouacRestore r) s = .next (s.restoreReq r q j dyn x))

/-! ### SFU tiles and neighbour links (files 06 and 07) -/

/-- O17. R187, R188: descriptors of an SFU tile. The model chose what assumptions 17, 18, 80, 81 say. -/
def Obligations.SfuCommandsComplete : Prop :=
  -- a queue with room takes the descriptor's address
  (∀ (g : Fin 256) (t : Fin 2) (v : Word) (s : State) (x : Sfu), x = nthD (s.clu g.val).sfu t.val {} → x.queue.length + x.run.toList.length < 8 →
    exec (.sfuSubmit g t v) s = .next (s.setClu g.val { s.clu g.val with
      sfu := (s.clu g.val).sfu.set t.val { x with queue := x.queue ++ [getF v F.CLU_SFU_SUBMIT_DESC_ADDR * 64] } })) ∧
  -- a full queue sets DROPPED
  (∀ (g : Fin 256) (t : Fin 2) (v : Word) (s : State) (x : Sfu), x = nthD (s.clu g.val).sfu t.val {} → 8 ≤ x.queue.length + x.run.toList.length →
    exec (.sfuSubmit g t v) s = .next (s.setFld (R.CLU_SFU_STATUS g.val t.val) F.CLU_SFU_STATUS_DROPPED 1)) ∧
  -- an idle tile runs every row of the next descriptor, which is readable and stays inside its tiles
  (∀ (g : Fin 256) (t : Fin 2) (s u v : State) (x : Sfu) (a : Nat) (rest : List Nat) (b : List Byte) (bad : List Nat) (d : SfuDesc),
    x = nthD (s.clu g.val).sfu t.val {} → x.run = none → x.queue = a :: rest →
    u = s.setClu g.val { s.clu g.val with sfu := (s.clu g.val).sfu.set t.val { x with queue := rest } } → inOwnTiles g.val a 64 = true →
    u.deliver 2 g.val 1 (17 + t.val) a 64 = (v, b, bad) → sfuRead b = some d → v.sfuInside g.val d = true →
    exec (.sfuDescriptorRun g t) s = .next (((List.range d.rows).foldl (fun (y : State) r => y.sfuRow g.val t.val
      (match v.sectClu g.val with
        | some z => z.id
        | none => 0) d r) v).updClu g.val (fun c => { c with
          sfu := c.sfu.set t.val { nthD c.sfu t.val {} with run := some { addr := a, anchor := d.anchor, job := d.job } } }))) ∧
  (∀ (g : Fin 256) (t : Fin 2) (s : State) (x : Sfu) (r : SfuRun), x = nthD (s.clu g.val).sfu t.val {} → x.run = some r →
    exec (.sfuDescriptorDone g t) s =
      .next ((s.setClu g.val { s.clu g.val with sfu := (s.clu g.val).sfu.set t.val { x with run := none } }).ancDone g.val r.anchor))

/-- O18. R205 to R209: what belay messages do at the cell they reach. The model chose what assumptions 31, 117 say. -/
def Obligations.BelayMessagesComplete : Prop :=
  -- a grant of the receiver's own generation takes effect; one of the other generation waits for the switch
  (∀ (n L d : Nat) (m : NbrMsg) (g : Grant) (s u : State), s.crosses NbrMsg.isGrant n m L d u → m.body = .grant g →
    exec (.belayGrant n) s = .next (if (u.cell L).gen = g.gen then
        u.takeGrant L d g ((u.cell L).filling || !decide ((u.cell L).st = .ending ∨ (u.cell L).st = .idle))
      else u.setCell L { u.cell L with tx := (u.cell L).tx.set (d - 1) { nthD (u.cell L).tx (d - 1) {} with pend := some g } })) ∧
  -- a write into a granted window lands, marks its units FULL, counts, and is acknowledged
  (∀ (n L d off span iaddr : Nat) (m : NbrMsg) (parts : List (Nat × List Byte)) (pois : Bool) (w : BelayRx) (s u v : State),
    s.crosses NbrMsg.isWrite n m L d u → m.body = .write off span parts pois iaddr → w = nthD (u.cell L).rx (d - 1) {} → w.granted = true →
    v = (parts.foldl (fun x r => x.ownWrite L r.1 r.2 pois) u).nbrParity L off span →
    exec (.neighbourWrite n) s = .next ((((v.setCell L { v.cell L with rx := (v.cell L).rx.set (d - 1) { w with
      full := (unitsIn w.base w.units off span).foldl (fun k x => k ||| 2 ^ x) w.full } }).bump (R.CELL_BELAY_RX L (d - 1))
        F.CELL_BELAY_RX_WRITES 1).portWaits L).nbrSend L d .ack)) ∧
  -- the acknowledgement completes the oldest T.ST that waits for one from its direction
  (∀ (n L d : Nat) (m : NbrMsg) (s u : State) (a b : List (Nat × QInstr)) (q : QInstr), s.crosses NbrMsg.isAck n m L d u →
    (u.cell L).nbrOut = a ++ (d, q) :: b → (∀ x ∈ a, x.1 ≠ d) →
    exec (.neighbourAck n) s = .next (u.setCell L { u.cell L with nbrOut := a ++ b })) ∧
  -- a returned credit is held again, or goes back in a close after Q.END and when its window is gone (the model's reading, assumption 117)
  (∀ (n L d k : Nat) (gen : Bool) (m : NbrMsg) (x : BelayTx) (w : Grant) (s u : State), s.crosses NbrMsg.isCredit n m L d u → m.body = .credit k gen → x = nthD (u.cell L).tx (d - 1) {} → x.win = some w → w.gen = gen →
    exec (.belayCreditReturn n) s = .next (if (u.cell L).st = .ending ∨ (u.cell L).st = .idle then u.nbrSend L d (.close (2 ^ k) gen)
      else u.setCell L { u.cell L with tx := (u.cell L).tx.set (d - 1) { x with held := x.held ||| 2 ^ k } })) ∧
  (∀ (n L d k : Nat) (gen : Bool) (m : NbrMsg) (s u : State), s.crosses NbrMsg.isCredit n m L d u → m.body = .credit k gen →
    (∀ w, (nthD (u.cell L).tx (d - 1) {}).win = some w → w.gen ≠ gen) →
    exec (.belayCreditReturn n) s = .next (u.nbrSend L d (.close (2 ^ k) gen))) ∧
  -- a close brings credits home
  (∀ (n L d k : Nat) (gen : Bool) (m : NbrMsg) (w : BelayRx) (s u : State), s.crosses NbrMsg.isClose n m L d u → m.body = .close k gen → w = nthD (u.cell L).rx (d - 1) {} → w.granted = true → (u.cell L).gen = gen →
    exec (.belayClose n) s = .next (u.setCell L { u.cell L with
      rx := (u.cell L).rx.set (d - 1) { w with closed := true, home := w.home ||| k } }))

/-! ### Translation, the tiers and the DMA (files 08 and 13) -/

/-- O19. R225, R230, R231, R242, R244: walks, timeouts, cancellations, a failed far-tier port and the invalidation of translations. The model chose what
assumptions 28, 33, 119 say. -/
def Obligations.TranslationAndTimeoutsComplete : Prop :=
  -- a walk of a cell's lead engine that finds its page
  (∀ (g : Fin 256) (e : Fin 24) (i : LeadInstr) (a : Nat) (p : Piece) (x : Xlate) (L : Nat) (s u : State), e.val < 16 → L = s.cellAt g.val e.val →
    (s.cell L).lead.started.find? (fun i => i.issuing && i.walk) = some i → i.runAt (i.next / i.perRun) = some a →
    p = pieceAt 512 a 0 i.shape.len (i.next % i.perRun) →
    (s.updLead L (fun l => l.updInstr i.q.seq (fun i => { i with walk := false }))).walk (s.clusterOf L)
      ((s.updLead L (fun l => l.updInstr i.q.seq (fun i => { i with walk := false }))).jobTenant (s.clusterOf L) i.q.job) p.va = (u, some x) →
    exec (.pageWalkDone g e) s = .next ((u.updLead L (fun l => { l with
      cache := lruPut 64 (fun y => decide (y.va = x.va) && decide (y.tenant = x.tenant)) x l.cache })).leadGo L)) ∧
  -- walks of a DMA and of an update unit
  (∀ (g : Fin 256) (s : State), exec (.pageWalkDone g 19) s = .next (s.dmaWalk g.val)) ∧
  (∀ (g : Fin 256) (s : State), exec (.pageWalkDone g 20) s = .next (s.updWalk g.val)) ∧
  -- a fetch tag that is not void times out: it is logged and counted, and zeros with poison are delivered through the haul ring
  (∀ (g : Fin 256) (e : Fin 24) (k L : Nat) (t : LeadTag) (s u : State), e.val < 16 → L = s.cellAt g.val e.val →
    (s.cell L).lead.tags.find? (fun t => decide (t.num = k) && !t.arrived) = some t → t.void = false → t.put = false →
    u = s.updLead L (fun l => l.free k) →
    exec (.leadTimeout g e k) s = .next (((((u.timeoutRec 1 L (u.clusterOf L) t.job t.tenant t.va).bump (R.LEAD_STATUS L) F.LEAD_STATUS_TIMEOUTS
      1).haulIn L t false (List.replicate t.len 0) (sectorsOf t.addr t.len))).leadGo L)) ∧
  -- a put tag: what the bytes of the put now hold is open (R242)
  (∀ (g : Fin 256) (e : Fin 24) (k L : Nat) (t : LeadTag) (s u v : State), e.val < 16 → L = s.cellAt g.val e.val →
    (s.cell L).lead.tags.find? (fun t => decide (t.num = k) && !t.arrived) = some t → t.void = false → t.put = true →
    u = s.updLead L (fun l => l.free k) →
    v = (u.timeoutRec 1 L (u.clusterOf L) t.job t.tenant t.va).bump (R.LEAD_STATUS L) F.LEAD_STATUS_TIMEOUTS 1 →
    exec (.leadTimeout g e k) s = .next (({ v with draws := v.draws + 1 }.wr t.addr ((List.range t.len).map (Config.freeByte v.draws)) []).leadGo L)) ∧
  -- a cancellation of a cell with no void tag and no unacknowledged put left
  (∀ (g : Fin 256) (e : Fin 24) (L : Nat) (x : Cancel) (s : State), e.val < 16 → L = s.cellAt g.val e.val →
    (s.cell L).lead.cancels.find? (s.cell L).lead.cancelDone = some x →
    ∃ u : State, u = s.setCell L { s.cell L with
        qLead := match x.q with
          | some q => (s.cell L).qLead.filter (fun y => decide (y ≠ q))
          | none => (s.cell L).qLead,
        lead := { (s.cell L).lead with
          cancels := (s.cell L).lead.cancels.erase x,
          started := (s.cell L).lead.started.filter (fun i => !(i.stopped && (match x.job with
            | some k => decide (i.q.job = k)
            | none => true))) } } ∧
      exec (.cancelComplete g e) s = .next ((u.leadGo L).settleTeam ((u.leadGo L).teamOfCell L))) ∧
  -- a port with a link fails, and is logged
  (∀ (p : Fin 8) (s : State), (s.fld (R.CXL_PORT_STATUS p.val) F.CXL_PORT_STATUS_STATE = 2 ∨ s.fld (R.CXL_PORT_STATUS p.val) F.CXL_PORT_STATUS_STATE = 3) →
    exec (.farPortDown p) s = .next ((s.setFld (R.CXL_PORT_STATUS p.val) F.CXL_PORT_STATUS_STATE 4).raise { code := 0x2161, kind := 5, src := p.val })) ∧
  -- a write of NT_TLB_INV with GO drops the cached translations of its tenant, or all, and is busy
  (∀ (v : Word) (s : State), getF v F.NT_TLB_INV_GO = 1 → s.tlbBusy = false →
    exec (.ntTlbInv v) s = .next ({ (s.setFld R.NT_TLB_INV F.NT_TLB_INV_TENANT (getF v F.NT_TLB_INV_TENANT)).setFld R.NT_TLB_INV F.NT_TLB_INV_ALL
      (getF v F.NT_TLB_INV_ALL) with tlbBusy := true }.tlbDrop (fun t => decide (getF v F.NT_TLB_INV_ALL = 1) ||
        decide (t = getF v F.NT_TLB_INV_TENANT)))) ∧
  (∀ s : State, s.tlbBusy = true → s.tlbSettled = true → exec .tlbInvComplete s = .next { s with tlbBusy := false })

/-- O20. R336, R337: DMA descriptors. The model chose what assumptions 29, 34, 35 say. -/
def Obligations.DmaCommandsComplete : Prop :=
  (∀ (g : Fin 256) (v : Word) (s : State), (s.clu g.val).dmaQ.length + (s.clu g.val).dma.length < 16 →
    exec (.dmaSubmit g v) s = .next (s.setClu g.val { s.clu g.val with
      dmaQ := (s.clu g.val).dmaQ ++ [getF v F.CLU_DMA_SUBMIT_DESC_ADDR * 64] })) ∧
  (∀ (g : Fin 256) (v : Word) (s : State), 16 ≤ (s.clu g.val).dmaQ.length + (s.clu g.val).dma.length →
    exec (.dmaSubmit g v) s = .next (s.setFld (R.CLU_DMA_STATUS g.val) F.CLU_DMA_STATUS_DROPPED 1)) ∧
  -- the next descriptor starts once the one before has issued its last piece
  (∀ (g : Fin 256) (a : Nat) (rest : List Nat) (s u v : State) (b : List Byte) (bad : List Nat) (d : DmaRun), (s.clu g.val).dmaQ = a :: rest →
    (s.clu g.val).dma.any (fun d => !d.stopped && decide (d.next < d.len)) = false →
    u = s.setClu g.val { s.clu g.val with dmaQ := rest, dmaNext := (s.clu g.val).dmaNext + 1 } → inOwnTiles g.val a 64 = true →
    u.deliver 2 g.val 1 19 a 64 = (v, b, bad) → v.dmaRead g.val b (s.clu g.val).dmaNext = some d →
    exec (.dmaDescriptorStart g) s = .next ((v.updClu g.val (fun c => { c with dma := c.dma ++ [d] })).dmaPump dmaFuel g.val)) ∧
  -- a landed descriptor adds to its anchor and raises DMA_DONE
  (∀ (g : Fin 256) (d : DmaRun) (s : State), (s.clu g.val).dma.find? (s.clu g.val).dmaLanded = some d →
    exec (.dmaDescriptorDone g) s = .next (((s.setClu g.val { s.clu g.val with
      dma := (s.clu g.val).dma.filter (fun x => !decide (x.id = d.id)) }).ancDone g.val d.anchor).setFld (R.CLU_CTL_IRQ g.val) F.CLU_CTL_IRQ_DMA_DONE 1))

/-! ### Packets (files 09, 07 and 08) -/

/-- O21. R85, R266 to R268: packets of rope channels that name the channel's binding. The model chose what assumption 31 says. -/
def Obligations.ChannelPacketsComplete : Prop :=
  (∀ (n : Nat) (p : Packet) (t : ChTile) (ch : Nat) (s u : State), s.arrives 0x01 n p u → p.pkt = .chTile t ch →
    (nthD (u.cell (u.cellOf p.dest)).chIn ch {}).names t.src t.srcChan = true →
    exec (.chTile n) s = .next ((u.setCell (u.cellOf p.dest) { u.cell (u.cellOf p.dest) with
      chIn := (u.cell (u.cellOf p.dest)).chIn.set ch { nthD (u.cell (u.cellOf p.dest)).chIn ch {} with
        slots := (nthD (u.cell (u.cellOf p.dest)).chIn ch {}).slots ++ [t] } }).endProgress (u.cellOf p.dest))) ∧
  (∀ (n : Nat) (p : Packet) (sc ch src : Nat) (s u : State), s.arrives 0x02 n p u → p.pkt = .chMarker sc ch → p.sender = .cell src →
    (nthD (u.cell (u.cellOf p.dest)).chIn ch {}).names src sc = true →
    exec (.chMarker n) s = .next ((u.setCell (u.cellOf p.dest) { u.cell (u.cellOf p.dest) with
      chIn := (u.cell (u.cellOf p.dest)).chIn.set ch { nthD (u.cell (u.cellOf p.dest)).chIn ch {} with latch := true } }).endProgress
        (u.cellOf p.dest))) ∧
  (∀ (n : Nat) (p : Packet) (oc ic k src : Nat) (b : ChanBind) (o : ChanOut) (s u : State), s.arrives 0x03 n p u → p.pkt = .chCredit oc ic k →
    p.sender = .cell src → o = nthD (u.cell (u.cellOf p.dest)).chOut oc {} → o.bind = some b → b.peer = src → b.peerChan = ic → o.credits + k ≤ 4 →
    exec (.chCredit n) s = .next (u.setCell (u.cellOf p.dest) { u.cell (u.cellOf p.dest) with
      chOut := (u.cell (u.cellOf p.dest)).chOut.set oc { o with credits := o.credits + k } })) ∧
  -- a tile that no inbound channel of the cell binds is a CHAN_MISMATCH
  (∀ (n : Nat) (p : Packet) (t : ChTile) (ch : Nat) (s u : State), s.arrives 0x01 n p u → p.pkt = .chTile t ch →
    (nthD (u.cell (u.cellOf p.dest)).chIn ch {}).names t.src t.srcChan = false →
    exec (.chTile n) s = .next (u.chanMismatch (u.cellOf p.dest)))

/-- O22. R212, R220, R221, R234, R235: reads, writes, data and acknowledgements of memory tiles and tiers. The model chose what assumptions 28, 119 say. -/
def Obligations.MemoryPacketsComplete : Prop :=
  -- a memory tile reads or writes its bytes and answers, over the mesh or inside its cluster
  (∀ (xb : Bool) (n : Nat) (p : Packet) (t : Bool) (r : MemReq) (s u v : State) (b : List Byte) (bad : List Nat), s.reaches xb 0x20 n p u →
    p.pkt = .memRead t r →
    (if xb then u.deliver 2 p.dest.cluster 1 p.src.code r.addr r.len else u.deliver 0 0 (arrayOf r.addr) 21 r.addr r.len) = (v, b, bad) →
    exec (.mtRead ⟨xb, n⟩) s = .next (v.tileAnswer xb p (.memData false r b bad))) ∧
  (∀ (xb : Bool) (n : Nat) (p : Packet) (t : Bool) (r : MemReq) (b : List Byte) (bad : List Nat) (s u : State), s.reaches xb 0x21 n p u →
    p.pkt = .memWrite t r b bad → exec (.mtWrite ⟨xb, n⟩) s = .next ((u.tileWr r.addr b bad).tileAnswer xb p (.memAck false r))) ∧
  -- the answer reaches who asked; the haul ring of a cell then writes some beats
  (∀ (xb : Bool) (n : Nat) (c : Fin 4096) (beats : Nat) (p : Packet) (t : Bool) (r : MemReq) (b : List Byte) (bad : List Nat) (s u : State),
    s.reaches xb 0x22 n p u → p.pkt = .memData t r b bad →
    exec (.mtData ⟨⟨n, c, beats⟩, xb⟩) s = .next ((u.reqData p r b bad).leadDrain c.val beats)) ∧
  (∀ (xb : Bool) (n : Nat) (p : Packet) (t : Bool) (r : MemReq) (s u : State), s.reaches xb 0x23 n p u → p.pkt = .memAck t r →
    exec (.mtAck ⟨xb, n⟩) s = .next (u.reqAck p r)) ∧
  -- a tier whose port has not failed answers a read with its bytes, and a write with an acknowledgement
  (∀ (n : Nat) (p : Packet) (t : Bool) (r : MemReq) (s u v : State) (b : List Byte) (bad : List Nat), s.arrives 0x30 n p u → p.pkt = .memRead t r →
    u.farFailed r.addr = false → u.tierRead r.addr r.len = (v, b, bad) →
    exec (.tierRead n) s = .next (v.replyTo p (tierSender r.addr) (.memData true r b bad))) ∧
  (∀ (n : Nat) (p : Packet) (t : Bool) (r : MemReq) (b : List Byte) (bad : List Nat) (s u : State), s.arrives 0x31 n p u →
    p.pkt = .memWrite t r b bad → u.farFailed r.addr = false →
    exec (.tierWrite n) s = .next ((u.tierWrite r.addr b bad).replyTo p (tierSender r.addr) (.memAck true r))) ∧
  -- at a cell, a DMA or an update unit, by the endpoint
  (∀ (n : Nat) (c : Fin 4096) (beats : Nat) (p : Packet) (t : Bool) (r : MemReq) (b : List Byte) (bad : List Nat) (s u : State),
    s.arrives 0x32 n p u → p.pkt = .memData t r b bad →
    (p.dest.code < 16 → exec (.tierData ⟨n, c, beats⟩) s =
      .next ((u.leadData (u.cellAt p.dest.cluster p.dest.code) r b bad).leadDrain c.val beats)) ∧
    (p.dest.code = 19 → exec (.tierData ⟨n, c, beats⟩) s = .next ((u.dmaData p.dest.cluster r b bad).leadDrain c.val beats)) ∧
    (p.dest.code = 20 → exec (.tierData ⟨n, c, beats⟩) s = .next ((u.updData p.dest.cluster r b bad).leadDrain c.val beats))) ∧
  (∀ (n : Nat) (p : Packet) (t : Bool) (r : MemReq) (s u : State), s.arrives 0x33 n p u → p.pkt = .memAck t r →
    (p.dest.code < 16 → exec (.tierAck n) s = .next (u.leadAck (u.cellAt p.dest.cluster p.dest.code) r)) ∧
    (p.dest.code = 19 → exec (.tierAck n) s = .next (u.dmaAck p.dest.cluster r)) ∧
    (p.dest.code = 20 → exec (.tierAck n) s = .next (u.updAck p.dest.cluster r)))

/-- O23. R250, R259, R365: hub packets, epochs and link retries. The model chose what assumptions 70, 84, 88, 107 say. -/
def Obligations.HubEpochAndRetryComplete : Prop :=
  -- a read or a write of a register through the hub
  (∀ (n : Nat) (p : Packet) (r : MemReq) (body : List Byte) (bad : List Nat) (b : Blk) (k o : Nat) (s u : State), s.arrives 0x40 n p u →
    p.pkt = .hubReq r true body bad → blockOf r.addr = some (b, k, o) → regSized b o r.len = true →
    exec (.hubReq n) s = .next ((u.regWrite 64 b k o (BitVec.ofNat 64 (leNat body))).replyTo p .hub (.hubResp r [] []))) ∧
  (∀ (n : Nat) (p : Packet) (r : MemReq) (body : List Byte) (bad : List Nat) (b : Blk) (k o : Nat) (s u : State), s.arrives 0x40 n p u →
    p.pkt = .hubReq r false body bad → blockOf r.addr = some (b, k, o) → regSized b o r.len = true →
    exec (.hubReq n) s = .next ((u.regRead b k o).1.replyTo p .hub (.hubResp r (wordBytes (u.regRead b k o).2 r.len) []))) ∧
  -- one of another width or alignment is noted (R16)
  (∀ (n : Nat) (p : Packet) (r : MemReq) (w : Bool) (body : List Byte) (bad : List Nat) (b : Blk) (k o : Nat) (s u : State), s.arrives 0x40 n p u →
    p.pkt = .hubReq r w body bad → blockOf r.addr = some (b, k, o) → regSized b o r.len = false →
    exec (.hubReq n) s = .next ((u.badAccess (senderNum p.sender) r.addr r.len w).replyTo p .hub
      (.hubResp r (if w then [] else List.replicate r.len 0) []))) ∧
  -- of memory
  (∀ (n : Nat) (p : Packet) (r : MemReq) (body : List Byte) (bad : List Nat) (s u : State), s.arrives 0x40 n p u → p.pkt = .hubReq r true body bad →
    blockOf r.addr = none → exec (.hubReq n) s = .next ((u.devWrite r.addr body bad).replyTo p .hub (.hubResp r [] []))) ∧
  (∀ (n : Nat) (p : Packet) (r : MemReq) (body : List Byte) (bad : List Nat) (s u : State), s.arrives 0x40 n p u → p.pkt = .hubReq r false body bad →
    blockOf r.addr = none →
    exec (.hubReq n) s = .next ((u.devRead r.addr r.len).1.replyTo p .hub (.hubResp r (u.devRead r.addr r.len).2.1 (u.devRead r.addr r.len).2.2))) ∧
  (∀ (n : Nat) (p : Packet) (r : MemReq) (b : List Byte) (bad : List Nat) (s u : State), s.arrives 0x41 n p u → p.pkt = .hubResp r b bad →
    exec (.hubResp n) s = .next (if b.isEmpty then u.reqAck p r else u.reqData p r b bad)) ∧
  -- an epoch is held for its waymark, and applied by the tick of that waymark
  (∀ (n : Nat) (p : Packet) (kind id e w : Nat) (s u : State), s.arrives 0x60 n p u → p.pkt = .epochSet kind id e w →
    exec (.epochSet n) s = .next (u.setClu p.dest.cluster { u.clu p.dest.cluster with router := { (u.clu p.dest.cluster).router with
      pend := (u.clu p.dest.cluster).router.pend ++ [⟨id + 4096 * kind, e, w⟩] } })) ∧
  (∀ (g : Fin 256) (s : State), ∃ due : List EpochPend, due = (s.clu g.val).router.pend.filter (fun e => decide (e.effective ≤ s.time.count)) ∧
    exec (.epochApply g) s = .next (due.foldl (fun x e =>
      if e.key = 4096 + g.val then x.setClu g.val { x.clu g.val with epoch := e.epoch }
      else if e.key < 4096 ∧ x.clusterOf e.key = g.val then x.setFld (R.CELL_EPOCH e.key) F.CELL_EPOCH_EPOCH e.epoch
      else x) (s.setClu g.val { s.clu g.val with router := { (s.clu g.val).router with
        epochs := due.foldl (fun m e => SMap.ins e.key e.epoch m) (s.clu g.val).router.epochs,
        pend := (s.clu g.val).router.pend.filter (fun e => decide (s.time.count < e.effective)) } }))) ∧
  -- a flit that arrives with its own LCRC and LSEQ is taken: its failures in a row start again
  (∀ (l : Nat) (k : Fin 64) (lcrc : BitVec 16) (lseq : BitVec 6) (x : SentFlit) (s : State), l / 5 < 256 → l % 5 < 4 →
    linkExists (l / 5) (l % 5) = true → (SMap.get ({} : LinkTx) s.links l).sent[k.val]? = some x → x.flit.lcrc = lcrc.toNat → x.lseq = lseq.toNat →
    exec (.linkRetry ⟨l, k, lcrc, lseq⟩) s = .next { s with links := SMap.ins l { SMap.get ({} : LinkTx) s.links l with
      sent := (SMap.get ({} : LinkTx) s.links l).sent.set k.val { x with tries := 0 } } s.links }) ∧
  -- any other is discarded and sent again with all that follow it, and logged; the sixteenth retransmission that fails is fatal
  (∀ (l : Nat) (k : Fin 64) (lcrc : BitVec 16) (lseq : BitVec 6) (x : SentFlit) (s : State), l / 5 < 256 → l % 5 < 4 →
    linkExists (l / 5) (l % 5) = true → (SMap.get ({} : LinkTx) s.links l).sent[k.val]? = some x → (x.flit.lcrc ≠ lcrc.toNat ∨ x.lseq ≠ lseq.toNat) →
    exec (.linkRetry ⟨l, k, lcrc, lseq⟩) s = .next (if x.tries < 16 then
        { s with links := SMap.ins l ((SMap.get ({} : LinkTx) s.links l).resend k.val) s.links }.raise { code := 0x1201, kind := 2, src := l / 5, detail := l % 5 }
      else s.fatal { code := 0x5200, kind := 2, src := l / 5, detail := l % 5 }))

/-! ### Integrity: checks, slots, commits and replicas (file 14) -/

/-- O24. R371 to R373, R393, R395, R397: taps, checks, digests, windows, slot commands and the take-over. The model chose what assumptions 15, 74, 75, 76, 114
say. -/
def Obligations.CheckAndSlotCommandsComplete : Prop :=
  -- the last packet of a tap puts it into the check store when there is room for its entries, at most eight per position
  (∀ (n : Nat) (p : Packet) (t : TapUnit) (first : Bool) (s u : State),
    s.ejected (fun y => decide (y.pkt.type = 0x04) && !s.tapWaits y) n p u → p.pkt = .tap t first true →
    ((u.clu p.dest.cluster).taps.filter (fun e => decide (e.pos = p.dest.code))).foldl (fun n e => n + tapEntries e.tap) 0 + tapEntries t ≤ 8 →
    exec (.chTap n) s = .next (u.setClu p.dest.cluster { u.clu p.dest.cluster with taps := (u.clu p.dest.cluster).taps ++ [⟨p.dest.code, t⟩] })) ∧
  -- the checker of the oldest tap recomputes it and returns the digest of what it computed
  (∀ (g : Fin 256) (e : TapEntry) (rest : List TapEntry) (L : Nat) (s v : State), (s.clu g.val).taps = e :: rest → L = s.cellAt g.val e.pos →
    e.tap.pois = false → s.upsets = [] →
    v = (s.setClu g.val { s.clu g.val with taps := rest }).bump (R.CELL_SHADOW_CNT L) F.CELL_SHADOW_CNT_CHECKED 1 →
    exec (.shadowCheckRun g) s = .next (v.send {
      pkt := .tapDigest (unitDigest (e.tap.leaves ((s.setClu g.val { s.clu g.val with taps := rest }).strict L))) e.tap.unit e.tap.primary e.tap.job
        e.tap.alt e.tap.pois e.tap.checked e.tap.digest,
      gs := true, gen := (v.cell L).gen, job := e.tap.job, dest := ⟨v.clusterOf e.tap.primary, 18⟩, src := v.cellEp L, sender := .cell L,
      tenant := v.jobTenant g.val e.tap.job })) ∧
  -- a digest of sampled execution that agrees changes nothing else; one that differs is an event
  (∀ (n l un pr j : Nat) (alt pois : Bool) (d dp : Word × Word) (p : Packet) (s u : State), s.arrives 0x05 n p u → p.sender = .cell l →
    p.pkt = .tapDigest d un pr j alt pois false dp →
    exec (.chTapDigest n) s = .next (if pois || decide (d = dp) then u else u.shadowDiffers pr l un j true)) ∧
  -- in checked mode the first digest of a unit waits for the second
  (∀ (n l un pr j : Nat) (alt pois : Bool) (d dp : Word × Word) (p : Packet) (s u : State), s.arrives 0x05 n p u → p.sender = .cell l →
    p.pkt = .tapDigest d un pr j alt pois true dp →
    (u.clu p.dest.cluster).collect.find? (fun e => decide (e.primary = pr) && decide (e.unit = un)) = none →
    exec (.chTapDigest n) s = .next (u.setClu p.dest.cluster { u.clu p.dest.cluster with
      collect := (u.clu p.dest.cluster).collect ++ [⟨pr, un, j, alt, d, pois⟩] })) ∧
  -- a retire window ends: every count of slot errors restarts
  (∀ s : State, s.integ.window + s.fld R.INTEG_CTRL F.INTEG_CTRL_RETIRE_WINDOW ≤ s.time.pitches →
    ∃ u : State, exec .retireWindowEnd s = .next u ∧
      u.integ = { s.integ with window := s.integ.window + s.fld R.INTEG_CTRL F.INTEG_CTRL_RETIRE_WINDOW } ∧
      ∀ a v, (a, v) ∈ u.regs → (a, v) ∈ s.regs ∧ ∀ g o, blockOf a = some (.cluster, g, o) → o < 0x900 ∨ 0x900 + 8 * 17 ≤ o) ∧
  -- a take-over that is due, at a boundary: a running team's jobs are quiesced, and the map changes at once
  (∀ (g : Fin 256) (c : Condemn) (j : Nat) (s : State), (s.team (s.teamOfClu g.val)).takeover = none →
    s.integ.condemned.find? (fun c => decide (c.slot / 17 = g.val) && s.takeoverDue c) = some c → s.servesPos g.val (c.slot % 17) = some j →
    exec (.spareTakeover g) s = .next ((if (s.team (s.teamOfClu g.val)).run = .running then s.beginTakeover (s.teamOfClu g.val) else s).swapSlot
      (s.teamOfClu g.val) c.slot j)) ∧
  -- it ends once the team is quiet, at the latest 8 waymarks on: the running section is loaded again in place
  (∀ (g : Fin 256) (w : Nat) (s : State), (s.team (s.teamOfClu g.val)).takeover = some w → (s.team (s.teamOfClu g.val)).run = .traverse →
    (s.teamQuiet (s.teamOfClu g.val) = true ∨ w + 8 ≤ s.time.count) →
    exec (.spareTakeover g) s = .next ((s.setTeam (s.teamOfClu g.val) { s.team (s.teamOfClu g.val) with takeover := none }).reloadInPlace
      (s.teamOfClu g.val))) ∧
  (∀ (v : Word) (k : Nat) (s : State), getF v F.INTEG_SLOT_CMD_GO = 1 → getF v F.INTEG_SLOT_CMD_OP = 1 →
    s.fld R.INTEG_SLOT_CMD F.INTEG_SLOT_CMD_BUSY = 0 → slotOfCmd v = some k →
    exec (.slotRetireCmd v) s = .next ((s.slotFields v).condemn k 4)) ∧
  -- a test of a slot that is out of service begins and keeps the command busy
  (∀ (v : Word) (k : Nat) (s : State), getF v F.INTEG_SLOT_CMD_GO = 1 → getF v F.INTEG_SLOT_CMD_OP = 2 →
    s.fld R.INTEG_SLOT_CMD F.INTEG_SLOT_CMD_BUSY = 0 → slotOfCmd v = some k → (s.slotFields v).slotDown k = true →
    exec (.slotTestCmd v) s = .next ({ s.slotFields v with integ := { s.integ with testing := some k } }.setFld R.INTEG_SLOT_CMD
      F.INTEG_SLOT_CMD_BUSY 1)) ∧
  -- it ends: BUSY falls, PASS tells the outcome, and a slot that passed returns at the next boundary
  (∀ (pass : Bool) (k : Nat) (s : State), s.integ.testing = some k →
    exec (.slotTestDone pass) s = .next (({ s with integ := { s.integ with
      testing := none, returned := if pass then s.integ.returned ++ [k] else s.integ.returned } }.setFld R.INTEG_SLOT_CMD F.INTEG_SLOT_CMD_BUSY
        0).setFld R.INTEG_SLOT_CMD F.INTEG_SLOT_CMD_PASS (b2n pass)))

/-- O25. R377, R378, R380, R382: phases, commit points and replays. The model chose what assumptions 66, 75, 77, 104 say. -/
def Obligations.CommitAndReplayComplete : Prop :=
  -- the phase anchor has passed the running phase: a commit point is marked, and the next phase begins
  (∀ (r j a : Nat) (q : Request) (s u : State), s.req r = some q → q.job = some j → s.hubAnchor q.team 0x0C j = some a →
    q.phase + 1 ≤ (s.anchor a).toNat → q.quiesce = false → q.cancelling = none → q.marked = none → (q.st = .running ∨ q.st = .stalled) →
    u = (if s.isCommit q q.phase then s.updReq r (fun x => { x with marked := some q.phase, markAt := s.unitsNow q.team }) else s) →
    exec (.phaseMark r) s = .next (if q.phase < u.lastPhase q then u.enterPhase r (q.phase + 1) else u)) ∧
  -- a commit point with every digest of the units before its mark in, and no suspect flag, commits; the last one completes the request
  (∀ (r i j : Nat) (q : Request) (s u : State), s.req r = some q → q.marked = some i → q.job = some j → q.quiesce = false → q.cancelling = none →
    s.digestsIn q.team j q.markAt = true → s.takeSuspect q.team j = (u, 0) →
    ∃ v : State, v = u.updReq r (fun q => { q with
        committed := i + 1, marked := none, checked := false, replayFrom := none, condemnVote := false }) ∧
      exec (.commitDecision r) s = .next (if v.lastPhase q ≤ i then v.endReq r stDone (if q.released then 0x43 else if q.late then 0x42 else 0)
        else if v.commitsAfter q i then v else v.freeReserve r)) ∧
  -- a first suspect flag quiesces the job for a replay up to this commit point
  (∀ (r i j sus : Nat) (q : Request) (s u : State), s.req r = some q → q.marked = some i → q.job = some j → q.quiesce = false → q.cancelling = none →
    s.digestsIn q.team j q.markAt = true → s.takeSuspect q.team j = (u, sus) → sus ≠ 0 → q.replayFrom = none →
    exec (.commitDecision r) s = .next ((u.quiesceJob r).updReq r (fun q => { q with replayTo := i }))) ∧
  -- a quiesced best-effort job, quiet or 8 waymarks on, replays from its last committed phase: both anchors are set and checked mode begins
  (∀ (r j : Nat) (q : Request) (s v : State), s.req r = some q → q.job = some j → q.guar = false → q.planned = false → q.quiesce = true →
    q.cancelling = none → q.replayFrom = none → (s.team q.team).run = .running → s.sectId q.team = q.sect →
    (s.jobQuiet q.team j = true ∧ s.cancelling q.team j = false ∨ q.quiesceWm + 8 ≤ s.time.count) →
    v = (s.hubSet (s.hubAnchor q.team 0x0C j) q.committed).hubSet
      ((s.hubSet (s.hubAnchor q.team 0x0C j) q.committed).hubAnchor q.team 0x0E j) (q.committed + 1) →
    exec (.replayStart r) s = .next (((v.updReq r (fun q' => { q' with
      quiesce := false, planned := false, funded := q'.funded || false, replayFrom := some q.committed, checked := true,
      condemnVote := false })).enterPhase r q.committed).raiseReq r 0x6200 (q.committed + 256 * b2n false))) ∧
  -- a guaranteed request whose phase mark is late goes on as best-effort
  (∀ (r i w : Nat) (q : Request) (s : State), s.req r = some q → q.guar = true → s.lateMark q = some (i, w) →
    exec (.phaseOverrun r) s = .next (((s.raiseReq r 0x3204 (i + 256 * w)).releaseReq r).updReq r (fun q => { q with overrun := i :: q.overrun })))

/-- O26. R362, R385, R386, R388, R389, R390, R483: replica groups, the scrub and a failed die link. The model chose what assumptions 78, 79, 113 say. -/
def Obligations.ReplicaAndScrubComplete : Prop :=
  (∀ (group : Nat) (s : State), s.fld (R.INTEG_REPL_CFG group) F.INTEG_REPL_CFG_INTERVAL ≠ 0 → s.time.lastBoundary = some s.time.count →
    SMap.get 0 s.integ.replLast group + s.fld (R.INTEG_REPL_CFG group) F.INTEG_REPL_CFG_INTERVAL ≤ s.time.pitches → group < 64 →
    s.fld (R.INTEG_REPL_CFG group) F.INTEG_REPL_CFG_VALID = 1 → SMap.find? s.integ.repl group = none →
    exec (.replicaCompare group) s = .next ({ s with integ := { s.integ with
      repl := SMap.ins group (s.time.count, false) s.integ.repl, replLast := SMap.ins group s.time.pitches s.integ.replLast } }.setFld
        (R.INTEG_REPL_STAT group) F.INTEG_REPL_STAT_STATE 2)) ∧
  (∀ (group : Nat) (s : State), group < 64 → s.fld (R.INTEG_REPL_CFG group) F.INTEG_REPL_CFG_VALID = 1 → SMap.find? s.integ.repl group = none →
    exec (.replicaVerify group) s = .next ({ s with integ := { s.integ with
      repl := SMap.ins group (s.time.count, true) s.integ.repl, replLast := SMap.ins group s.time.pitches s.integ.replLast } }.setFld
        (R.INTEG_REPL_STAT group) F.INTEG_REPL_STAT_STATE 2)) ∧
  -- every replica of the group has the root of its configuration: the comparison ends clean
  (∀ (group wm : Nat) (v : Bool) (s u w : State) (rs : List Replica), SMap.find? s.integ.repl group = some (wm, v) →
    u = { s with integ := { s.integ with repl := SMap.del group s.integ.repl } } →
    u.readReplicas group = (w, rs) → (∀ r ∈ rs, rootOf r.digests = some (w.replRoot group)) →
    exec (.replicaCompareDone group) s = .next (w.replClean1 group wm)) ∧
  -- the scrub meets an uncorrectable word of a sector: the sector is poisoned, logged and acted on by the class of the byte that failed
  (∀ (a : BitVec 48) (k w : Nat) (i : SectorInfo) (kind src : Nat) (arr : Option Nat) (s z u : State), k = a.toNat / 64 →
    s.scrubsNext (.addr a) z → z.badWord k = some w → z.fixWord k = none → z.sectorInfo (8 * w) = some (i, kind, src, arr) →
    ¬(kind = 4 ∧ z.pageRetired i = true) → z.poison.contains k = false →
    u = { z.dropBad k with poison := insNat k z.poison }.raise {
      code := 0x2202, kind := kind, src := src, part := if i.cls = 5 then none else i.owner, tenant := i.tenant, addr := some (64 * k),
      detail := i.cls } →
    exec (.scrubRead (.addr a)) s = .next ((u.scrubAction (8 * w) i).sectorErr k 1)) ∧
  -- a sound sector is read and left
  (∀ (a : BitVec 48) (s z : State), s.scrubsNext (.addr a) z → z.badWord (a.toNat / 64) = none → z.fixWord (a.toNat / 64) = none →
    exec (.scrubRead (.addr a)) s = .next z) ∧
  -- an uncorrectable word of a cell's own store is spoilt, logged and counted; its class is open (assumption 113)
  (∀ (x : Store) (s z u : State), s.scrubsNext (.store x) z → storeScrubbed x = true → z.upsets.contains (.storeFix x) = false →
    z.upsets.contains (.store x) = true → u = { z with upsets := z.upsets.erase (.store x), draws := z.draws + 1 }.spoil x →
    exec (.scrubRead (.store x)) s = .next ((u.raise {
      code := 0x2202, kind := 1, src := storeCell x, part := some (storeCell x / 64), detail := (Config.freeWord (u.draws - 1)).toNat % 8 }).storeErr x 1)) ∧
  (∀ (l : Nat) (s : State), l < 8 → exec (.d2dFailed l) s = .next (s.fatal { code := 0x5202, kind := 3, src := l, detail := l }))

/-! ### Event rings, the flash store and the host interface (files 14, 18 and 15) -/

/-- O27. R357, R359, R503, R504: tails of the event rings and stores to the flash. The model chose what assumptions 3, 43, 121 say. -/
def Obligations.EventRingsAndStoresComplete : Prop :=
  (∀ (v : Word) (s : State), exec (.evtLogTailWrite v) s = .next { s with evt := { s.evt with
    ring := if (s.evt.ring.head + 2 * 4096 - getF v F.EVT_LOG_TAIL_TAIL % (2 * 4096)) % (2 * 4096) ≤ 4096 then
      { s.evt.ring with tail := getF v F.EVT_LOG_TAIL_TAIL % (2 * 4096) } else s.evt.ring } }) ∧
  (∀ (p : Fin 64) (v : Word) (s : State) (r : EvtRing), r = SMap.get {} s.partEvt p.val →
    exec (.partEvtTailWrite p v) s = .next { s with
      partEvt := SMap.ins p.val (if (r.head + 2 * 256 - getF v F.PART_EVT_TAIL_TAIL % (2 * 256)) % (2 * 256) ≤ 256
        then { r with tail := getF v F.PART_EVT_TAIL_TAIL % (2 * 256) } else r) s.partEvt }) ∧
  -- the oldest store is made, when none has been refused and the bank holds the energy for it; without the energy a commit is set aside
  (∀ (j : NvJob) (s : State), s.pwr.aux = true → s.sec.storing = false → s.pwr.nv.find? (fun j => !j.refused) = some j →
    s.pwr.nv.any (·.refused) = false →
    ∃ (u : State) (ok : Bool), s.holdUp j.item.energy = (u, ok) ∧ exec (.nvStore none) s = .next (if ok then { u with
        flash := u.flash.store j.item, pwr := { u.pwr with nv := dropFirst (fun j => !j.refused) u.pwr.nv } }
      else { u with pwr := { u.pwr with nv := if j.item.commit then refuseFirst u.pwr.nv else dropFirst (fun j => !j.refused) u.pwr.nv } })) ∧
  -- a block of a firmware slot, when nothing else waits: it is programmed where the bank holds the energy for it, and otherwise not
  (∀ (i : Fin 2) (k : Fin 128) (b : List Byte) (s : State), s.pwr.aux = true → s.sec.storing = false → s.pwr.nv = [] →
    ∃ (w u : State) (ok : Bool), w = { s with pwr := { s.pwr with nv := [{ item := .block i.val k.val b }] } } ∧ w.holdUp 4000 = (u, ok) ∧
      exec (.nvStore (some ⟨i, k, b⟩)) s = .next (if ok then { u with flash := u.flash.program i.val k.val b, pwr := { u.pwr with nv := [] } }
        else { u with pwr := { u.pwr with nv := [] } })) ∧
  -- a refused one, tried again
  (∀ (j : NvJob) (s : State), s.pwr.aux = true → s.sec.storing = false → s.pwr.nv.find? (·.refused) = some j →
    ∃ (u : State) (ok : Bool), s.holdUp 1200 = (u, ok) ∧ exec .nvStoreRetry s = .next (if ok then { u with
        flash := u.flash.store j.item, pwr := { u.pwr with nv := dropFirst (·.refused) u.pwr.nv } }
      else u))

/-- O28. R419, R421, R422, R424: the ring pages of a tenant and the version of a function. The model chose what assumption 36 says. -/
def Obligations.RingCommandsComplete : Prop :=
  -- a doorbell of a function with an agreed version makes the entries up to the new tail visible
  (∀ (f : Fin 65) (t : Fin 4096) (v : Word) (s : State) (k : Nat), s.ready = true → s.fnLive f.val = true → s.pageShown f.val t.val = true →
    s.agreed f.val ≠ 0 → k = (getF v F.TR_SQ_TAIL + 16 - (s.page t.val).sqTail) % 16 → 0 < k → (s.page t.val).vis.length + k < 16 →
    exec (.doorbell f t v) s = .next (s.setPage t.val { s.page t.val with
      sqTail := getF v F.TR_SQ_TAIL, vis := (s.page t.val).vis ++ List.replicate k f.val })) ∧
  -- one that would make more than 15 entries visible is only counted
  (∀ (f : Fin 65) (t : Fin 4096) (v : Word) (s : State) (k : Nat), s.ready = true → s.fnLive f.val = true → s.pageShown f.val t.val = true →
    s.agreed f.val ≠ 0 → k = (getF v F.TR_SQ_TAIL + 16 - (s.page t.val).sqTail) % 16 → 0 < k → 16 ≤ (s.page t.val).vis.length + k →
    exec (.doorbell f t v) s = .next (s.setPage t.val { s.page t.val with badDb := satAdd 65535 (s.page t.val).badDb 1 })) ∧
  -- an entry is read when its completions have room, and a sound one joins the inbox of its opcode
  (∀ (t : Fin 4096) (f op need : Nat) (rest : List Nat) (b : List Byte) (s u : State), s.ready = true → s.linkUp = true →
    (s.page t.val).vis = f :: rest → b = (List.range 64).map (fun i => SMap.get 0 (s.page t.val).sq (64 * (s.page t.val).sqHead + i)) →
    op = numAt b 0 1 → need = (if op = 1 then 2 else 1) → (s.page t.val).enable = true → (s.page t.val).reserved + need ≤ (s.page t.val).free →
    u = s.setPage t.val { s.page t.val with
      vis := rest, sqHead := ((s.page t.val).sqHead + 1) % 16, reserved := (s.page t.val).reserved + need } →
    entryBad (u.agreed f) b = false → (numAt b 2 2 = t.val ∨ op = 1) → (op = 1 ∨ op = 5 → u.waitingAt (u.engineOf t.val) < 5) →
    exec (.ringEntryRead t) s = .next (u.setPage t.val { u.page t.val with inbox := (u.page t.val).inbox ++
      [⟨u.time.count, { tenant := t.val, cmdId := numAt b 4 2, reqTag := numAt b 8 4, opcode := op, fn := f }, b,
        if op = 1 then u.takeIntake t.val else none⟩] })) ∧
  (∀ (f : Fin 65) (t : Fin 4096) (v : Word) (s : State), s.ready = true → s.fnLive f.val = true → s.pageShown f.val t.val = true →
    exec (.trCqCfgWrite f t v) s = .next (s.writeTrCqCfg t.val v)) ∧
  -- MIN and MAX of a function without rings in use agree on the highest version both sides hold
  (∀ (f : Fin 65) (v : Word) (s : State), s.fnLive f.val = true → s.ready = true → s.ringsBusy f.val = false → getF v F.HOST_FOCIA_VER_REJECTED = 0 →
    exec (.fociaVersionWrite f v) s = .next (((s.setFld (verReg f.val) F.HOST_FOCIA_VER_MIN (getF v F.HOST_FOCIA_VER_MIN)).setFld (verReg f.val)
      F.HOST_FOCIA_VER_MAX (getF v F.HOST_FOCIA_VER_MAX)).setFld (verReg f.val) F.HOST_FOCIA_VER_AGREED
        (if getF v F.HOST_FOCIA_VER_MIN ≤ 0x12 ∧ 0x12 ≤ getF v F.HOST_FOCIA_VER_MAX then 0x12
          else if getF v F.HOST_FOCIA_VER_MIN ≤ 0x11 ∧ 0x11 ≤ getF v F.HOST_FOCIA_VER_MAX then 0x11
          else if getF v F.HOST_FOCIA_VER_MIN ≤ 0x10 ∧ 0x10 ≤ getF v F.HOST_FOCIA_VER_MAX then 0x10
          else 0))) ∧
  -- with rings in use the write is rejected
  (∀ (f : Fin 65) (v : Word) (s : State), s.fnLive f.val = true → s.ready = true → s.ringsBusy f.val = true → getF v F.HOST_FOCIA_VER_REJECTED = 0 →
    exec (.fociaVersionWrite f v) s = .next (s.setFld (verReg f.val) F.HOST_FOCIA_VER_REJECTED 1))

/-! ### Admission and team changes (files 11 and 12) -/

/-- O29. R298 to R303, R310 to R315, R428 to R431: submissions, queries, cancellation, input, the start of a request and its holds. The model chose what assumptions 62 to 69 say. -/
def Obligations.AdmissionCommandsComplete : Prop :=
  -- a submission with a free tag that passes its tests is taken in
  (∀ (t : Fin 4096) (c : HostCmd) (g : Grantee) (b : Option (Nat × List Interval)) (s u : State), s.pops t.val 1 c u →
    u.upsets.findSome? Upset.hubStore? = none → u.reqOf c.cmd.tenant c.cmd.reqTag = none → u.decision (askOf c) = .ok (g, b) →
    exec (.submit t) s = .next (u.accept c (askOf c) g b)) ∧
  -- one that fails them is refused, with the reason of the first test it fails
  (∀ (t : Fin 4096) (c : HostCmd) (d : Denial) (s u : State), s.pops t.val 1 c u →
    u.upsets.findSome? Upset.hubStore? = none → u.reqOf c.cmd.tenant c.cmd.reqTag = none → u.decision (askOf c) = .error d → d.reason ≠ 0x21 → c.cmd.opcode = 1 →
    exec (.submit t) s = .next ((u.answer c.cmd stRefused d.reason d.retry).unreserve c.cmd.tenant)) ∧
  -- a query that would be taken in answers DONE with WOULD_ACCEPT and takes nothing
  (∀ (t : Fin 4096) (c : HostCmd) (g : Grantee) (b : Option (Nat × List Interval)) (s u : State), s.pops t.val 5 c u →
    u.decision (askOf c) = .ok (g, b) → exec (.queryAdmit t) s = .next (u.answer c.cmd stDone 0 (b.map (·.1)) 4)) ∧
  -- a cancel of a request that has not started ends it with REQ_CANCELLED
  (∀ (t : Fin 4096) (c : HostCmd) (r : Nat) (q : Request) (s u v : State), s.pops t.val 2 c u → u.reqOf c.cmd.tenant c.cmd.reqTag = some r →
    v = u.updReq r (fun q => { q with cancelCmds := q.cancelCmds ++ [c.cmd] }) → v.req r = some q → q.job = none →
    exec (.cancel t) s = .next (v.endReq r stFault 0x40)) ∧
  (∀ (t : Fin 4096) (c : HostCmd) (s u : State), s.pops t.val 2 c u → u.reqOf c.cmd.tenant c.cmd.reqTag = none →
    exec (.cancel t) s = .next (u.answer c.cmd stFault 0x4C)) ∧
  -- a copy into a request that waits for input, or into none under the tag of no request, starts
  (∀ (t : Fin 4096) (c : HostCmd) (s u : State), s.pops t.val 3 c u →
    (c.cmd.reqTag = 0xFFFFFFFF ∧ 0x12 ≤ u.agreed c.cmd.fn ∨
      ∃ r q, u.reqOf c.cmd.tenant c.cmd.reqTag = some r ∧ u.req r = some q ∧ q.ready = none) →
    exec (.streamData t) s = .next { u with host := { u.host with copies := u.host.copies ++
      [{ cmd := c.cmd, hostAddr := numAt c.bytes 0x10 8, devVa := numAt c.bytes 0x18 8, len := numAt c.bytes 0x20 4,
         last := (numAt c.bytes 0x24 1).testBit 0 }] } }) ∧
  -- it ends: an error of the host's memory is a fault, and a copy that was not the last answers DONE with its bytes written
  (∀ (n : Nat) (x : StreamCopy) (s u : State), s.host.copies[n]? = some x → 0 < x.len →
    u = { s with host := { s.host with copies := s.host.copies.eraseIdx n } } →
    exec (.streamDataComplete n none) s = .next (u.answer x.cmd stFault 0x49)) ∧
  (∀ (n : Nat) (x : StreamCopy) (b : List Byte) (s u v : State), s.host.copies[n]? = some x → 0 < x.len → x.last = false →
    u = { s with host := { s.host with copies := s.host.copies.eraseIdx n } } →
    u.hubWrite x.cmd.tenant 258 x.devVa (sliceB b 0 x.len) = (v, none) →
    exec (.streamDataComplete n (some b)) s = .next (v.answer x.cmd stDone 0)) ∧
  -- a bivouacked best-effort request is restored: it waits again, without bookings
  (∀ (t : Fin 4096) (c : HostCmd) (r : Nat) (q : Request) (g : Grantee) (y : Sect) (s u : State), s.pops t.val 6 c u →
    u.reqOf c.cmd.tenant c.cmd.reqTag = some r → u.req r = some q → q.st = .bivouacked → q.guar = false →
    (u.team (u.teamId (u.partOfTenant q.tenant))).running = some y → y.id = q.sect →
    u.admitTest { tenant := q.tenant, field := q.tenant, fn := 64, sect := q.sect, batch := q.batch, cls := 0, deadline := q.deadline, inputWm := 0, wd := c.wm }
      (some r) = .ok g →
    exec (.resume t) s = .next ((u.setReq r { q with
      st := .waiting, team := u.teamId (u.partOfTenant q.tenant), intake := g.intake, booked := [], c := 0, delta := 0, staged := false }).answer
        c.cmd stAccepted 0)) ∧
  -- a request whose start is due takes a job tag, resets its phase anchor and enters its first phase
  (∀ (r j : Nat) (dyn : Option Nat) (q : Request) (s u v : State), s.req r = some q → s.startDue r q 1 = true → q.record = false →
    s.jobFor q = some (j, dyn) →
    u = (s.setReq r { q with job := some j, jobTick := s.time.ticks, dyn := dyn, opens := firstStart q.booked }).bindJob { q with dyn := dyn } j →
    v = u.hubSet (u.hubAnchor q.team 0x0C j) 0 → exec (.requestStart r) s = .next ((v.enterPhase r 0).joinPitch r j)) ∧
  -- a hold is over: the request is to be written out, or expires where its tenant keeps no bivouac
  (∀ (r w : Nat) (q : Request) (s : State), s.req r = some q → q.st = .stalled → q.holdStart = some w → q.spill = false →
    w + s.holdWm q.tenant ≤ s.time.count →
    exec (.holdExpiry r) s = .next (if s.bivLife q.tenant = 0 then s.expire r else s.updReq r (fun q => { q with spill := true }))) ∧
  (∀ (r : Nat) (q : Request) (s : State), s.req r = some q → q.st = .bivouacked → q.moved = none → q.spillWm + s.bivLife q.tenant ≤ s.time.count →
    exec (.bivouacExpired r) s = .next ((s.raiseReq r 0x6183 0).expire r))

/-- O30. R295, R307, R308, R315, R319, R320: the end of a section, team changes, tenants and shares. The model chose what assumptions 62, 72, 105 say. -/
def Obligations.SectionEndAndTeamChangesComplete : Prop :=
  -- C comes: every controller raises SEREQ, best-effort requests are to be written out, cells without a program count as ended
  (∀ (p : Fin 64) (s u : State), (s.team p.val).cutover ≠ 0 → (s.team p.val).cutover ≤ s.time.count → (s.team p.val).secEnd = false →
    (s.team p.val).running.isSome = true → ((s.team p.val).run = .running ∨ (s.team p.val).run = .switching) → u = s.setTeam p.val { s.team p.val with secEnd := true } →
    ∃ v : State, v = (u.partClus (u.members p.val)).foldl (fun s g =>
        s.setClu g { s.clu g with ctl := { (s.clu g).ctl with sereq := true } }) u ∧
      exec (.sectionEndRequest p) s = .next (((v.reqsWhere (fun q => decide (q.team = p.val) && !q.staged && !q.guar &&
        decide (q.st ≠ .bivouacked))).foldl (fun s r => s.updReq r (fun q => { q with spill := true })) v).countEnded p.val)) ∧
  -- a controller that is still in its user program SECTION_END_BOUND later fails the section
  (∀ (p : Fin 64) (g : Nat) (s : State), (s.team p.val).secEnd = true → ((s.team p.val).run = .running ∨ (s.team p.val).run = .switching) →
    (s.team p.val).cutover + (1 * (s.team p.val).groupFc + 1398) / 1399 + 1 ≤ s.time.count → g ∈ s.partClus (s.members p.val) →
    (s.clu g).ctl.st = .user → (s.clu g).switched = false →
    exec (.sectendLate p) s = .next ((s.raiseSect p.val p.val 8 p.val 0x3138).sectFails p.val 0x3138)) ∧
  -- a change that may be asked for stands pending in its team until its waymark
  (∀ (v : Word) (t : Nat) (c : Change) (s : State), s.ready = true → getF v F.ADM_TEAM_CHANGE_OP = 1 → t = getF v F.ADM_TEAM_CHANGE_TEAM_ID →
    s.teamId t = t → (s.team t).change = none → c = s.changeAsked 1 v →
    (s.members t).contains c.part = false → s.joinable c.part = true → s.permitted (s.members t ++ [c.part]) = true →
    exec (.teamJoin v) s = .next ((s.setTeam t { s.team t with change := some c }).changeStatus 1 0 s.changeWm)) ∧
  (∀ (v : Word) (t : Nat) (c : Change) (s : State), s.ready = true → getF v F.ADM_TEAM_CHANGE_OP = 2 → t = getF v F.ADM_TEAM_CHANGE_TEAM_ID →
    s.teamId t = t → (s.team t).change = none → c = s.changeAsked 2 v →
    (s.team t).bare = true → (s.team t).running = none → (s.members t).contains c.part = true → 2 ≤ (s.members t).length →
    exec (.teamLeave v) s = .next ((s.setTeam t { s.team t with change := some c }).changeStatus 1 0 s.changeWm)) ∧
  -- a traverse also books its move
  (∀ (v : Word) (t tw : Nat) (r : Sect) (c : Change) (s u : State), s.ready = true → getF v F.ADM_TEAM_CHANGE_OP = 3 →
    t = getF v F.ADM_TEAM_CHANGE_TEAM_ID → s.teamId t = t → (s.team t).change = none → c = s.changeAsked 3 v →
    s.changeFault t c = 0 → (s.team t).running = some r → tw = (match r.card with
      | some k => k.traverseWm
      | none => 0) → s.planMove t c.target s.changeWm tw = some u →
    exec (.teamTraverse v) s = .next ((u.setTeam t { u.team t with change := some c }).changeStatus 1 0 s.changeWm)) ∧
  -- a join comes into force at its waymark
  (∀ (p : Fin 64) (c : Change) (s u : State), (s.team p.val).change = some c → c.w ≤ s.time.count → c.started = false → c.landed = false → c.op = 1 →
    s.changeFault p.val c = 0 → u = s.setTeam p.val { s.team p.val with change := none } →
    exec (.teamChangeApply p) s = .next ((u.joinTeam p.val c.part).changeStatus 2 0 c.w)) ∧
  -- a tenant's register is written unless the write would move a tenant in use
  (∀ (t : Fin 4096) (v : Word) (s : State), s.tenantIdle t.val = true → exec (.admTenantWrite t v) s = .next (s.writeRw (R.ADM_TENANT t.val) v)) ∧
  (∀ (t : Fin 4096) (v : Word) (s : State), s.tenantIdle t.val = false →
    s.fld (R.ADM_TENANT t.val) F.ADM_TENANT_PARTITION ≠ getF v F.ADM_TENANT_PARTITION →
    exec (.admTenantWrite t v) s = .next (s.setFld R.ADM_CTRL F.ADM_CTRL_MAP_REJECTED 1)) ∧
  -- shares are written where no engine whose part changes holds a booking
  (∀ (a : BitVec 48) (v : Word) (s : State), R.ADM_NT_SHARE 0 ≤ a.toNat → a.toNat < R.ADM_NT_SHARE 0 + 0x80 → a.toNat % 8 = 0 →
    getF v F.ADM_NT_SHARE_REJECTED = 0 → getF v F.ADM_NT_SHARE_SPLIT_A ≤ 256 →
    (∀ e < 8, shareFrac (s.reg a.toNat) e ≠ shareFrac v e → s.engineHolds e ((a.toNat - R.ADM_NT_SHARE 0) / 8) = false) →
    exec (.admShareWrite a v) s = .next (s.writeRw a.toNat v))

/-! ### Controllers, cores and coherence (files 12 and 13) -/

/-- O31. R330 to R334: the instructions of extension Xscg, and the posting of a group. The model chose what assumptions 91, 102, 109 say. -/
def Obligations.DispatchCommandsComplete : Prop :=
  (∀ (g : Fin 256) (rs1 rs2 : Word) (rd : Fin 32) (s : State) (j : Nat) (ps : List Nat), (s.clu g.val).ctl.canRun = true →
    rs1.toNat < 2 ^ 19 → rs2.toNat < 2 ^ 13 → j = bitsOf rs1.toNat 18 16 → ps = positions (rs1.toNat % 65536) →
    (∀ p ∈ ps, ∀ e ∈ nthD (s.clu g.val).openG j [], e.1 ≠ p) → s.jobBound g.val j = true →
    exec (.xGrp g rs1 rs2 rd) s = .next ((s.setClu g.val { s.clu g.val with
      openG := (s.clu g.val).openG.set j (nthD (s.clu g.val).openG j [] ++ ps.map (fun p => (p, rs2.toNat))) }).ctlDone g.val rd.val (some 0))) ∧
  (∀ (g : Fin 256) (rs1 : Word) (rd : Fin 32) (s : State) (j : Nat), (s.clu g.val).ctl.canRun = true → j = rs1.toNat → j < 8 →
    s.jobBound g.val j = true → nthD (s.clu g.val).openG j [] ≠ [] → (nthD (s.clu g.val).ready j []).length < 8 →
    exec (.xDisp g rs1 rd) s = .next ((s.setClu g.val { s.clu g.val with
      openG := (s.clu g.val).openG.set j [],
      ready := (s.clu g.val).ready.set j (nthD (s.clu g.val).ready j [] ++ [nthD (s.clu g.val).openG j []]) }).ctlDone g.val rd.val (some 0))) ∧
  (∀ (g : Fin 256) (rs1 : Word) (s : State), (s.clu g.val).ctl.canRun = true → rs1.toNat < 8 →
    exec (.xDrop g rs1) s = .next ((s.setClu g.val { s.clu g.val with openG := (s.clu g.val).openG.set rs1.toNat [] }).ctlDone g.val 0 none)) ∧
  (∀ (g : Fin 256) (rs1 rs2 : Word) (s : State) (b : Nat) (ps : List Nat), (s.clu g.val).ctl.canRun = true → rs1.toNat < 2 ^ 18 → rs2.toNat < 2 ^ 48 →
    b = bitsOf rs1.toNat 17 16 → ps = positions (rs1.toNat % 65536) →
    exec (.xLbase g rs1 rs2) s = .next ((s.setClu g.val { s.clu g.val with
      lbase := (s.clu g.val).lbase.filter (fun x => !(ps.contains x.1 && decide (x.2.1 = b))) ++ ps.map (fun p => (p, b, rs2.toNat)) }).ctlDone
        g.val 0 none)) ∧
  -- the oldest summary is copied to the data RAM; without one X.SUMRD answers 0 and X.SUMWT waits
  (∀ (g : Fin 256) (rs1 : Word) (rd : Fin 32) (r : SumRec) (rest : List SumRec) (s : State), (s.clu g.val).ctl.canRun = true →
    rs1.toNat % 32 = 0 → 0x40000 ≤ rs1.toNat → rs1.toNat + 32 ≤ 0x50000 → (s.clu g.val).sums = r :: rest →
    exec (.xSumrd g rs1 rd) s = .next (s.sumCopy g.val rs1.toNat rd.val r rest) ∧
    exec (.xSumwt g rs1 rd) s = .next (s.sumCopy g.val rs1.toNat rd.val r rest)) ∧
  (∀ (g : Fin 256) (rs1 : Word) (rd : Fin 32) (s : State), (s.clu g.val).ctl.canRun = true →
    rs1.toNat % 32 = 0 → 0x40000 ≤ rs1.toNat → rs1.toNat + 32 ≤ 0x50000 → (s.clu g.val).sums = [] →
    exec (.xSumrd g rs1 rd) s = .next (s.ctlDone g.val rd.val (some 0)) ∧
    exec (.xSumwt g rs1 rd) s = .next (s.setClu g.val { s.clu g.val with
      ctl := { (s.clu g.val).ctl with wait := .summary rs1.toNat rd.val } })) ∧
  -- an anchor form sends its operation and waits for the answer; S.CAS expects scgexp
  (∀ (g : Fin 256) (rs1 v : Word) (rd : Fin 32) (s : State) (snd : Nat → Word → State), (s.clu g.val).ctl.canRun = true → rs1.toNat < 32768 →
    (∀ op e, snd op e = (s.setClu g.val { s.clu g.val with ctl := { (s.clu g.val).ctl with
        wait := .anchor op rd.val v (s.clu g.val).ctl.ancReqs, ancReqs := (s.clu g.val).ctl.ancReqs + 1 } }).send
      { pkt := .ancOp op rs1.toNat v e, dest := ancEp rs1.toNat, src := ⟨g.val, 16⟩, sender := .cluster g.val, req := (s.clu g.val).ctl.ancReqs }) →
    exec (.ctlSAdd g rs1 v rd) s = .next (snd 0x60 0) ∧ exec (.ctlSSub g rs1 v rd) s = .next (snd 0x61 0) ∧
    exec (.ctlSSet g rs1 v rd) s = .next (snd 0x62 0) ∧ exec (.ctlSCas g rs1 v rd) s = .next (snd 0x63 (s.clu g.val).ctl.scgexp) ∧
    exec (.ctlSWait g rs1 v rd) s = .next (snd 0x64 0)) ∧
  -- the section program ends: a user program then waits for the switch
  (∀ (g : Fin 256) (s : State), (s.clu g.val).ctl.st = .user → (s.clu g.val).ctl.wait = .none →
    exec (.xSectend g) s = .next ((s.setClu g.val { s.clu g.val with ctl := { (s.clu g.val).ctl with st := .ended } }).ctlDone g.val 0 none)) ∧
  -- the arbiter serves a job whose oldest group has room in every mailbox: each entry is posted with the pending bases of its cell
  (∀ (g : Fin 256) (j : Fin 8) (l : List (Nat × Nat)) (s : State), s.arbiter g.val = some j.val → s.groupDue g.val j.val = some l →
    exec (.groupPost g j) s = .next (l.foldl (fun s e => s.setCell (s.cellAt g.val e.1) { s.cell (s.cellAt g.val e.1) with
      mbox := (s.cell (s.cellAt g.val e.1)).mbox ++
        [⟨e.2, j.val, (((s.clu g.val).lbase.filter (fun y => decide (y.1 = e.1))).map (fun y => (y.2.1, y.2.2)))⟩] })
      (s.setClu g.val { s.clu g.val with
        ready := (s.clu g.val).ready.set j.val ((nthD (s.clu g.val).ready j.val []).drop 1), round := ((s.clu g.val).round + 1) % 16,
        lbase := (s.clu g.val).lbase.filter (fun x => !l.any (fun e => decide (e.1 = x.1))) })))

/-- O32. R326 to R328, R335: traps, interrupts, loads and stores of controllers. The model chose what assumptions 90, 92, 102, 110 say. -/
def Obligations.ControllerTrapsAndAccessesComplete : Prop :=
  -- ECALL enters M mode; any other exception of U mode stops the section program and records cause and pc
  (∀ (g : Fin 256) (s : State), (s.clu g.val).ctl.canRun = true → (s.clu g.val).ctl.umode = true →
    exec (.ctlTrap g 8) s = .next (s.ctlEnter g.val 8 false)) ∧
  (∀ (g : Fin 256) (cause : BitVec 8) (s : State), (s.clu g.val).ctl.canRun = true → (s.clu g.val).ctl.umode = true → cause ≠ 8 →
    exec (.ctlTrap g cause) s = .next ((((s.setFld (R.CLU_CTL_STATUS g.val) F.CLU_CTL_STATUS_CAUSE cause.toNat).setFld (R.CLU_CTL_STATUS g.val)
      F.CLU_CTL_STATUS_UPC (s.clu g.val).ctl.pc).leaveU g.val .stopped).faultAgent
        (((s.setFld (R.CLU_CTL_STATUS g.val) F.CLU_CTL_STATUS_CAUSE cause.toNat).setFld (R.CLU_CTL_STATUS g.val)
          F.CLU_CTL_STATUS_UPC (s.clu g.val).ctl.pc).leaveU g.val .stopped |>.teamOfClu g.val)
        (((s.setFld (R.CLU_CTL_STATUS g.val) F.CLU_CTL_STATUS_CAUSE cause.toNat).setFld (R.CLU_CTL_STATUS g.val)
          F.CLU_CTL_STATUS_UPC (s.clu g.val).ctl.pc).leaveU g.val .stopped |>.partOf g.val).1 2 g.val 0x3190 0)) ∧
  -- an enabled interrupt whose line is set enters M mode at the vector of MTVEC
  (∀ (g : Fin 256) (s : State), (s.clu g.val).ctl.interruptible = true → (s.clu g.val).ctl.mtie = true → s.mtip g.val = true →
    exec (.ctlTimerInterrupt g) s = .next (s.ctlEnter g.val 7 true)) ∧
  (∀ (g : Fin 256) (s : State), (s.clu g.val).ctl.interruptible = true → (s.clu g.val).ctl.meie = true → s.meip g.val = true →
    exec (.ctlExternalInterrupt g) s = .next (s.ctlEnter g.val 11 true)) ∧
  -- a step runs the instruction that stands at the pc
  (∀ (g : Fin 256) (a : BitVec 48) (v : Word) (rd : Fin 32) (i : RvOp) (len : Nat) (s : State), (s.clu g.val).ctl.canRun = true →
    s.upsets.contains (.ctlMem g.val 1) = false → s.ctlFetch g.val (s.clu g.val).ctl.pc = some (i, len) →
    exec (.ctlLoadStore g .step a v rd) s = .next (s.ctlRun g.val i len)) ∧
  -- ECALL enters M mode from either mode; MRET in M mode returns to the saved pc and mode
  (∀ (g : Fin 256) (a : BitVec 48) (v : Word) (rd : Fin 32) (s : State), (s.clu g.val).ctl.canRun = true →
    s.upsets.contains (.ctlMem g.val 1) = false →
    exec (.ctlLoadStore g .ecall a v rd) s = .next (s.ctlEnter g.val (if (s.clu g.val).ctl.umode then 8 else 11) false) ∧
    ((s.clu g.val).ctl.umode = false → exec (.ctlLoadStore g .mret a v rd) s = .next (s.setClu g.val { s.clu g.val with
      ctl := { (s.clu g.val).ctl.mret with minstret := (s.clu g.val).ctl.minstret + 1 } }))) ∧
  -- cache-block operations drop the line from the controller's cache, but for a clean
  (∀ (g : Fin 256) (a : BitVec 48) (v : Word) (rd : Fin 32) (s : State), (s.clu g.val).ctl.canRun = true →
    s.upsets.contains (.ctlMem g.val 1) = false →
    exec (.ctlLoadStore g .clean a v rd) s = .next (s.ctlDone g.val 0 none) ∧
    exec (.ctlLoadStore g .inval a v rd) s = .next ((s.updCtl g.val (·.dropLine a.toNat)).ctlDone g.val 0 none) ∧
    exec (.ctlLoadStore g .flush a v rd) s = .next ((s.updCtl g.val (·.dropLine a.toNat)).ctlDone g.val 0 none)) ∧
  -- loads of 1, 2, 4 or 8 bytes, signed or not, and stores, from a place that Table 175 gives
  (∀ (g : Fin 256) (k : Fin 4) (sg : Bool) (a : BitVec 48) (v : Word) (rd : Fin 32) (m : CtlMem) (b : List Byte) (s u : State),
    (s.clu g.val).ctl.canRun = true → s.upsets.contains (.ctlMem g.val 1) = false →
    a.toNat % 2 ^ k.val = 0 → s.ctlMem g.val a.toNat (2 ^ k.val) (s.clu g.val).ctl.dataU false false = some m →
    s.ctlRead g.val a.toNat (2 ^ k.val) m = (u, b) →
    exec (.ctlLoadStore g (.load k sg) a v rd) s = .next (u.ctlDone g.val rd.val
      (some (if sg then BitVec.ofInt 64 (sxt (8 * 2 ^ k.val) (leNat b)) else BitVec.ofNat 64 (leNat b))))) ∧
  (∀ (g : Fin 256) (k : Fin 4) (a : BitVec 48) (v : Word) (rd : Fin 32) (m : CtlMem) (s : State), (s.clu g.val).ctl.canRun = true →
    s.upsets.contains (.ctlMem g.val 1) = false →
    a.toNat % 2 ^ k.val = 0 → s.ctlMem g.val a.toNat (2 ^ k.val) (s.clu g.val).ctl.dataU true false = some m →
    exec (.ctlLoadStore g (.store k) a v rd) s =
      .next ((s.ctlWrite g.val a.toNat (sliceB (leBytes 8 v.toNat) 0 (2 ^ k.val)) m).ctlDone g.val 0 none)) ∧
  -- a misaligned one, or one that the table does not permit, is an exception
  (∀ (g : Fin 256) (k : Fin 4) (sg : Bool) (a : BitVec 48) (v : Word) (rd : Fin 32) (s : State), (s.clu g.val).ctl.canRun = true →
    s.upsets.contains (.ctlMem g.val 1) = false → a.toNat % 2 ^ k.val ≠ 0 → exec (.ctlLoadStore g (.load k sg) a v rd) s = .next (s.ctlExc g.val 4) ∧
      exec (.ctlLoadStore g (.store k) a v rd) s = .next (s.ctlExc g.val 6)) ∧
  (∀ (g : Fin 256) (k : Fin 4) (sg : Bool) (a : BitVec 48) (v : Word) (rd : Fin 32) (s : State), (s.clu g.val).ctl.canRun = true →
    s.upsets.contains (.ctlMem g.val 1) = false → a.toNat % 2 ^ k.val = 0 →
    s.ctlMem g.val a.toNat (2 ^ k.val) (s.clu g.val).ctl.dataU false false = none →
    exec (.ctlLoadStore g (.load k sg) a v rd) s = .next (s.ctlHole g.val a.toNat 5))

/-- O33. R279, R336, R339, R340, R346: accesses of the application cores and the host to registers, main memory, scratch and anchors, and a core's own
instructions. The model chose what assumptions 84 to 88, 102, 122, 123 say. -/
def Obligations.CoreAndHostAccessesComplete : Prop :=
  -- whole-word accesses of a core to registers
  (∀ (h : Fin 16) (a : BitVec 48) (v : Word) (b : Blk) (k o : Nat) (s : State), s.coresRun = true → (s.core h.val).wait = none →
    s.coreBusy h.val = false → blockOf a.toNat = some (b, k, o) → irqFile b o = false → o % 8 = 0 →
    exec (.coreIoAccess h (.io a) 8 (some v)) s = .next ((s.coreFault h.val false).regWrite 64 b k o v) ∧
    exec (.coreIoAccess h (.io a) 8 none) s = .next { ((s.coreFault h.val false).regRead b k o).1 with
      readVal := ((s.coreFault h.val false).regRead b k o).2 }) ∧
  -- an aligned four-byte write to an interrupt file
  (∀ (h : Fin 16) (a : BitVec 48) (v : BitVec 32) (b : Blk) (k o : Nat) (s : State), s.coresRun = true → (s.core h.val).wait = none →
    s.coreBusy h.val = false → blockOf a.toNat = some (b, k, o) → irqFile b o = true → o % 4 = 0 →
    exec (.coreIoAccess h (.io a) 4 (some (v.zeroExtend 64))) s = .next ((s.coreFault h.val false).imsicAccess o (some (v.zeroExtend 64)))) ∧
  -- to scratchpads and memory tiles, by a request to their cluster; a read waits for its answer
  (∀ (h : Fin 16) (a : BitVec 48) (size : Nat) (v : Word) (s : State), s.coresRun = true → (s.core h.val).wait = none → s.coreBusy h.val = false →
    isTier a.toNat = false → blockOf a.toNat = none → (s.coreFault h.val false).backed a.toNat = true → isAnchor a.toNat = false →
    (size = 1 ∨ size = 2 ∨ size = 4 ∨ size = 8) → a.toNat % size = 0 →
    exec (.coreIoAccess h (.io a) size (some v)) s =
      .next ((s.coreFault h.val false).coreSend h.val a.toNat size (some (BitVec.ofNat 64 (leNat (wordBytes v size))))) ∧
    exec (.coreIoAccess h (.io a) size none) s =
      .next (((s.coreFault h.val false).coreSend h.val a.toNat size none).updCore h.val (fun c => { c with wait := some .plain }))) ∧
  -- a store to main memory goes into the core's store buffer; it leaves the buffer once the core owns its line
  (∀ (h : Fin 16) (a : BitVec 48) (v : Word) (s : State), s.coresRun = true → (s.core h.val).wait = none → isTier a.toNat = true →
    s.lineOk (a.toNat / 64) = true → a.toNat % 8 = 0 →
    exec (.coreIoAccess h (.io a) 8 (some v)) s =
      .next ((s.coreFault h.val false).updCore h.val (fun c => { c with sb := c.sb ++ [(a.toNat, wordBytes v 8)] }))) ∧
  (∀ (h : Fin 16) (size a : Nat) (wr : Option Word) (b : List Byte) (r : List (Nat × List Byte)) (s u : State), s.coresRun = true →
    (s.core h.val).sb = (a, b) :: r →
    (s.core h.val).want = none → s.ownNow h.val (a / 64) = (u, true) →
    exec (.coreIoAccess h (.drain 0) size wr) s = .next ((u.lineSet h.val a b).updCore h.val (fun c => { c with sb := c.sb.eraseIdx 0 }))) ∧
  -- a step runs the instruction that the core fetches, when no interrupt is taken, or takes the trap of the fetch
  (∀ (h : Fin 16) (i : ApOp) (w len size : Nat) (wr : Option Word) (s u : State), s.coresRun = true → (s.core h.val).wait = none → s.coreIrq h.val = none →
    s.apFetch h.val = (u, .ok (i, w, len)) → exec (.coreIoAccess h .step size wr) s = .next (u.apRun h.val i w len)) ∧
  (∀ (h : Fin 16) (t : Trap) (size : Nat) (wr : Option Word) (s u : State), s.coresRun = true → (s.core h.val).wait = none → s.coreIrq h.val = none →
    s.apFetch h.val = (u, .trap t) → exec (.coreIoAccess h .step size wr) s = .next (u.coreTrap h.val t)) ∧
  -- anchors: a read, a write by OP 0x6F of ANC_OP, and the atomic operations, each with its answer in the same command
  (∀ (h : Fin 16) (a : Fin 32768) (v : Word) (s : State), s.coresRun = true →
    exec (.coreAnchorAmo h .load a v) s = .next { s.coreFault h.val false with readVal := (s.coreFault h.val false).anchor a.val } ∧
    exec (.coreAnchorAmo h .store a v) s = .next ((s.coreFault h.val false).hubAnc 0x6F a.val v).1) ∧
  (∀ (h : Fin 16) (a : Fin 32768) (v old : Word) (s u : State), s.coresRun = true →
    ((s.coreFault h.val false).hubAnc 0x60 a.val v = (u, 0, old) → exec (.coreAnchorAmo h .amoadd a v) s = .next { u with readVal := old }) ∧
    ((s.coreFault h.val false).hubAnc 0x62 a.val v = (u, 0, old) → exec (.coreAnchorAmo h .amoswap a v) s = .next { u with readVal := old })) ∧
  -- a whole-word write of the host to an anchor that its function is shown
  (∀ (f : Fin 65) (a : Fin 32768) (v : Word) (s : State), s.ready = true → s.fnLive f.val = true → s.anchorShown f.val a.val = true →
    exec (.hostAnchorWrite f a v 0xFF) s = .next (s.hubAnc 0x6F a.val v).1)

/-- O34. R344, R345: coherence of the application cores. The model chose what assumptions 39, 89, 122 say. -/
def Obligations.CoherenceCommandsComplete : Prop :=
  -- GetS: an unowned, unshared line is granted in E, a shared one in S, an owned one is forwarded
  (∀ (h : Fin 16) (a : BitVec 48) (k : Nat) (s : State), s.coresRun = true → k = a.toNat / 64 → isTier a.toNat = true → s.lineOk k = true →
    (s.core h.val).line k = none → (s.dirLine k).busy = none →
    (∀ u l, (s.dirLine k).owner = none → (s.dirLine k).sharers = 0 → (s.coreFault h.val false).lineRead k .e = (u, l) →
      exec (.gets h a) s = .next ((u.setL2 h.val k (some l)).setDir k { owner := some h.val })) ∧
    (∀ u l, (s.dirLine k).owner = none → (s.dirLine k).sharers ≠ 0 → (s.coreFault h.val false).lineRead k .s = (u, l) →
      exec (.gets h a) s = .next ((u.setL2 h.val k (some l)).setDir k { s.dirLine k with sharers := (s.dirLine k).sharers ||| 2 ^ h.val })) ∧
    (∀ o, (s.dirLine k).owner = some o →
      exec (.gets h a) s = .next ((s.coreFault h.val false).setDir k { s.dirLine k with busy := some (.fwd h.val false none) }))) ∧
  -- GetM: a line that no other core shares is granted in M at once, a shared one after the invalidations
  (∀ (h : Fin 16) (a : BitVec 48) (v : Option (BitVec 6 × Byte)) (k : Nat) (s : State), s.coresRun = true → k = a.toNat / 64 → isTier a.toNat = true →
    s.lineOk k = true → s.ownsLine h.val k = false → SMap.find? (s.core h.val).wb k = none → (s.dirLine k).busy = none →
    (s.dirLine k).owner = none →
    (∀ u l, (s.dirLine k).sharers &&& (65535 - 2 ^ h.val) = 0 → (s.coreFault h.val false).lineOwn h.val k = (u, l) →
      exec (.getm h a v) s = .next (u.grantM h.val k l (v.map (fun x => (x.1.toNat, x.2))))) ∧
    ((s.dirLine k).sharers &&& (65535 - 2 ^ h.val) ≠ 0 →
      exec (.getm h a v) s = .next ((s.coreFault h.val false).setDir k { s.dirLine k with
        busy := some (.inv h.val (v.map (fun x => (x.1.toNat, x.2))) ((s.dirLine k).sharers &&& (65535 - 2 ^ h.val))) }))) ∧
  -- a store to a line that the core owns makes it M, with no message
  (∀ (h : Fin 16) (a : BitVec 48) (o : BitVec 6) (b : Byte) (k : Nat) (l : Line) (s : State), s.coresRun = true → k = a.toNat / 64 →
    isTier a.toNat = true → s.lineOk k = true → SMap.find? (s.core h.val).l2 k = some l → l.st ≠ .s →
    exec (.getm h a (some (o, b))) s = .next ((s.coreFault h.val false).setL2 h.val k (some { l with
      st := .m, bytes := l.bytes.set o.toNat b }))) ∧
  -- Puts: a line leaves the L2, a modified one is written back
  (∀ (h : Fin 16) (a : BitVec 48) (k : Nat) (l : Line) (s : State), s.coresRun = true → k = a.toNat / 64 → SMap.find? (s.core h.val).l2 k = some l →
    (s.dirLine k).busy = none →
    (l.st = .m → s.upsets.contains (.cache h.val k) = false →
      exec (.putm h a) s = .next (((s.lineWrite k l).setL2 h.val k none).setDir k { s.dirLine k with owner := none })) ∧
    (l.st = .e → exec (.pute h a) s = .next ((s.setL2 h.val k none).setDir k { s.dirLine k with owner := none })) ∧
    (l.st = .s → exec (.puts h a) s = .next ((s.setL2 h.val k none).setDir k { s.dirLine k with
      sharers := (s.dirLine k).sharers &&& (65535 - 2 ^ h.val) }))) ∧
  -- forwards at the owner: of a GetS with a clean line it holds, and of a GetM
  (∀ (h : Fin 16) (a : BitVec 48) (k r : Nat) (st : LineStore) (l : Line) (s : State), s.coresRun = true → k = a.toNat / 64 →
    (s.dirLine k).busy = some (.fwd r false st) → (s.dirLine k).owner = some h.val → SMap.find? (s.core h.val).l2 k = some l → l.st = .e →
    (s.core h.val).want ≠ some k →
    exec (.fwdGets h a) s = .next (((s.setL2 h.val k (some { l with st := .s })).setL2 r k (some { l with st := .s })).setDir k
      { sharers := 2 ^ r ||| 2 ^ h.val })) ∧
  (∀ (h : Fin 16) (a : BitVec 48) (k r : Nat) (st : LineStore) (l : Line) (s : State), s.coresRun = true → k = a.toNat / 64 →
    (s.dirLine k).busy = some (.fwd r true st) → (s.dirLine k).owner = some h.val → (s.core h.val).line k = some l →
    (s.core h.val).want ≠ some k → s.upsets.contains (.cache h.val k) = false →
    exec (.fwdGetm h a) s = .next ((s.setL2 h.val k none).grantM r k l st)) ∧
  -- an invalidated sharer drops its line; the last one lets the GetM complete
  (∀ (h : Fin 16) (a : BitVec 48) (k r n : Nat) (st : LineStore) (s : State), s.coresRun = true → k = a.toNat / 64 →
    (s.dirLine k).busy = some (.inv r st n) → n.testBit h.val = true →
    (n &&& (65535 - 2 ^ h.val) ≠ 0 → exec (.inv h a) s = .next ((s.setL2 h.val k none).setDir k { s.dirLine k with
      busy := some (.inv r st (n &&& (65535 - 2 ^ h.val))) })) ∧
    (∀ u l, n &&& (65535 - 2 ^ h.val) = 0 → (s.setL2 h.val k none).lineOwn r k = (u, l) → exec (.inv h a) s = .next (u.grantM r k l st)))

/-! ### Update units, exports and the Camley network (files 16 and 17) -/

/-- O35. R401 to R409, R413: update descriptors, seals, export and import of a shard. The model chose what assumptions 34, 35, 82 say. -/
def Obligations.UpdateUnitCommandsComplete : Prop :=
  (∀ (g : Fin 256) (v : Word) (s : State), s.hasUpd = true → (s.clu g.val).updQ.length + (s.clu g.val).upd.toList.length < 8 →
    exec (.updSubmit g v) s = .next (s.setClu g.val { s.clu g.val with
      updQ := (s.clu g.val).updQ ++ [getF v F.CLU_UPD_SUBMIT_DESC_ADDR * 256] })) ∧
  (∀ (g : Fin 256) (v : Word) (s : State), s.hasUpd = true → 8 ≤ (s.clu g.val).updQ.length + (s.clu g.val).upd.toList.length →
    exec (.updSubmit g v) s = .next (s.setFld (R.CLU_UPD_STATUS g.val) F.CLU_UPD_STATUS_DROPPED 1)) ∧
  -- the oldest descriptor is read with its program, checked, and its first pieces are asked for
  (∀ (g : Fin 256) (a len pa : Nat) (q : List Nat) (b pb : List Byte) (x y : List Nat) (s u v w : State), s.hasUpd = true →
    (s.clu g.val).updQ = a :: q → (s.clu g.val).upd = none → inOwnTiles g.val a 256 = true →
    (s.setClu g.val { s.clu g.val with updQ := q }).deliver 2 g.val 1 20 a 256 = (u, b, x) → len = numAt b 0 1 → pa = numAt b 8 8 →
    1 ≤ len → len ≤ 32 → pa % 128 = 0 → inOwnTiles g.val pa (4 * len) = true → u.deliver 2 g.val 1 20 pa (4 * len) = (v, pb, y) →
    uCheck g.val b (chunkWords len 4 pb) = true → v.uSealed g.val (numAt b 1 1) b = (w, true) →
    exec (.updDescriptorStart g) s = .next ((w.updClu g.val (fun c => { c with upd := some {
      addr := a, desc := b, prog := chunkWords len 4 pb, job := numAt b 1 1, todo := uAllPieces b false,
      bufs := (uStreams b).map (fun x => match x with
        | some x => List.replicate (x.len (uN b)) (0 : Byte)
        | none => []),
      bad := List.replicate 8 [], outs := w.uOuts g.val (numAt b 1 1) b } })).updGo g.val)) ∧
  -- a descriptor outside the cluster's memory tiles is faulty
  (∀ (g : Fin 256) (a : Nat) (q : List Nat) (s u : State), s.hasUpd = true → (s.clu g.val).updQ = a :: q → (s.clu g.val).upd = none →
    inOwnTiles g.val a 256 = false → u = s.setClu g.val { s.clu g.val with updQ := q } →
    exec (.updDescriptorStart g) s = .next (u.faultAgent (u.teamOfClu g.val) (u.partOf g.val).1 2 g.val 0x3210 0 (some a))) ∧
  -- a descriptor without a digest whose writes are through raises its anchor
  (∀ (g : Fin 256) (x : UpdRun) (s : State), (s.clu g.val).upd = some x → x.writing = true → x.todo = [] →
    (s.clu g.val).updTags.any (fun t => t.put && decide (t.job = x.job)) = false → uDigest x.desc = false →
    exec (.updDescriptorDone g) s = .next ((s.setClu g.val { s.clu g.val with upd := none }).ancDone g.val (numAt x.desc 20 4))) ∧
  -- with a digest it is stored first: the Cairn root of the stream it names
  (∀ (g : Fin 256) (x : UpdRun) (s : State), (s.clu g.val).upd = some x → x.writing = true → x.todo = [] →
    (s.clu g.val).updTags.any (fun t => t.put && decide (t.job = x.job)) = false → uDigest x.desc = true →
    exec (.updDescriptorDone g) s = .next (((s.setClu g.val { s.clu g.val with upd := none }).tileWr (numAt x.desc 24 8)
      (leBytes 8 (cairnRoot (nthD x.bufs (uDstream x.desc) [])).1.toNat ++ leBytes 8 (cairnRoot (nthD x.bufs (uDstream x.desc) [])).2.toNat) []).ancDone
        g.val (numAt x.desc 20 4))) ∧
  -- a seal is written while no update runs or waits; a change of it meanwhile is rejected
  (∀ (i : Fin 8) (v w : Word) (s : State), w = setF (setF (setF 0 F.UPD_SEAL_VALID (getF v F.UPD_SEAL_VALID))
      F.UPD_SEAL_BASE_2M (getF v F.UPD_SEAL_BASE_2M)) F.UPD_SEAL_LEN_2M (getF v F.UPD_SEAL_LEN_2M) →
    (s.clus.any (fun x => !x.2.updQ.isEmpty || x.2.upd.isSome) = false →
      exec (.updSealWrite i v) s = .next (s.setReg (R.UPD_SEAL i.val) (setF w F.UPD_SEAL_REJECTED
        (if getF v F.UPD_SEAL_REJECTED = 1 then 0 else getF (s.reg (R.UPD_SEAL i.val)) F.UPD_SEAL_REJECTED)))) ∧
    (s.clus.any (fun x => !x.2.updQ.isEmpty || x.2.upd.isSome) = true → setF (s.reg (R.UPD_SEAL i.val)) F.UPD_SEAL_REJECTED 0 ≠ w →
      exec (.updSealWrite i v) s = .next (s.setFld (R.UPD_SEAL i.val) F.UPD_SEAL_REJECTED 1))) ∧
  -- GO starts the engine, which stays busy until the operation is done and its STATUS stands
  (∀ (v : Word) (s u : State), getF v F.UPD_EXPORT_CTRL_GO = 1 → s.exporting = none →
    u = s.setFld R.UPD_EXPORT_CTRL F.UPD_EXPORT_CTRL_OP (getF v F.UPD_EXPORT_CTRL_OP) →
    (getF v F.UPD_EXPORT_CTRL_OP = 0 → exec (.shardExport v) s = .next { u with
      exporting := some (false, u.fld R.UPD_EXPORT_SRC F.UPD_EXPORT_SRC_ADDR * 32, u.fld R.UPD_EXPORT_DST F.UPD_EXPORT_DST_ADDR * 32) }) ∧
    (getF v F.UPD_EXPORT_CTRL_OP = 1 → exec (.shardImport v) s = .next { u with
      exporting := some (true, u.fld R.UPD_EXPORT_SRC F.UPD_EXPORT_SRC_ADDR * 32, u.fld R.UPD_EXPORT_DST F.UPD_EXPORT_DST_ADDR * 32) })) ∧
  (∀ (imp : Bool) (src dst st : Nat) (s u : State), s.exporting = some (imp, src, dst) →
    (if imp then s.shardImport src dst s.mayExport else s.shardExport src dst s.mayExport) = (u, st) →
    exec .exportEngineDone s = .next ({ u with exporting := none }.setFld R.UPD_EXPORT_CTRL F.UPD_EXPORT_CTRL_STATUS st))

/-- O36. R433 to R442: packs, frames, ports and streams of the Camley network. The model chose what assumptions 44, 45, 115, 120 say. -/
def Obligations.CamleyCommandsComplete : Prop :=
  -- a pack whose frames pass their CRC adds them to the frames received
  (∀ (p : Fin 16) (b : List Byte) (l : List (List Byte)) (s : State), ((s.port p.val).st = 3 ∨ (s.port p.val).st = 4) →
    (s.port p.val).unpack p.val b = some l → (∀ f ∈ l, camCrcOk f = true) →
    exec (.camleyPack p b) s = .next (l.foldl (fun s f => s.setPort p.val { s.port p.val with rx := (s.port p.val).rx ++ [f] }) s)) ∧
  -- DATA and CREDIT of the LSEQ expected are acknowledged and act
  (∀ (p : Fin 16) (f : List Byte) (s u : State), s.takesFrame p.val 1 f u → (u.port p.val).st = 4 → numAt f 0x0E 2 = (u.port p.val).rxSeq →
    exec (.data p) s = .next (((u.setPort p.val { u.port p.val with rxSeq := ((u.port p.val).rxSeq + 1) % 65536, gap := false }).camControl
      p.val 3 (u.port p.val).rxSeq).camData p.val f)) ∧
  (∀ (p : Fin 16) (f : List Byte) (n : Nat) (s u v : State), s.takesFrame p.val 2 f u → (u.port p.val).st = 4 →
    numAt f 0x0E 2 = (u.port p.val).rxSeq → n = numAt f 0x0C 2 → v = (u.setPort p.val { u.port p.val with
      rxSeq := ((u.port p.val).rxSeq + 1) % 65536, gap := false }).camControl p.val 3 (u.port p.val).rxSeq →
    n < 4096 → (v.stream n).enabled = true → (v.stream n).recv = false → (v.stream n).port = p.val → (v.stream n).peerModule = numAt f 8 2 →
    exec (.credit p) s = .next (v.setStream n { v.stream n with credit := numAt f 0x10 8 })) ∧
  -- one that was taken before is acknowledged again, up to the last that was taken in order (assumption 120)
  (∀ (p : Fin 16) (f : List Byte) (s u : State), s.takesFrame p.val 1 f u → (u.port p.val).st = 4 →
    32768 ≤ (numAt f 0x0E 2 + 65536 - (u.port p.val).rxSeq) % 65536 → numAt f 0x0E 2 ≠ (u.port p.val).rxSeq →
    exec (.data p) s = .next (u.camControl p.val 3 (((u.port p.val).rxSeq + 65535) % 65536))) ∧
  -- a later one is a gap: one NAK, and nothing else of the frame
  (∀ (p : Fin 16) (f : List Byte) (s u : State), s.takesFrame p.val 1 f u → (u.port p.val).st = 4 → numAt f 0x0E 2 ≠ (u.port p.val).rxSeq →
    (numAt f 0x0E 2 + 65536 - (u.port p.val).rxSeq) % 65536 < 32768 → (u.port p.val).gap = false →
    exec (.data p) s = .next ((u.setPort p.val { u.port p.val with gap := true }).camControl p.val 4 (u.port p.val).rxSeq)) ∧
  -- an ACK retires the frames up to its LSEQ: each frees its slot through ANCHOR_FREE, and the CREDIT frames that waited for room are sent
  (∀ (p : Fin 16) (f : List Byte) (i : Nat) (s u v : State), s.takesFrame p.val 3 f u →
    (u.port p.val).unacked.findIdx? (fun x => decide (x.lseq = numAt f 0x10 2)) = some i →
    v = ((u.port p.val).unacked.take (i + 1)).foldl (fun s f =>
      if f.stream < 4096 ∧ ((s.stream f.stream).enabled = true ∨ s.link.disabling = some f.stream) then
        (s.ancApply 0x60 (s.stream f.stream).ancFree 1 0 true true).1 else s)
      (u.setPort p.val { u.port p.val with unacked := (u.port p.val).unacked.drop (i + 1), ackWm := u.time.count }) →
    exec (.ack p) s = .next ((v.link.streams.filter (fun (y : Nat × CamStream) => y.2.owes && decide (y.2.port = p.val))).foldl
      (fun s y => s.camCredit y.1) v).settleDisable) ∧
  (∀ (p : Fin 16) (f : List Byte) (i : Nat) (s u : State), s.takesFrame p.val 4 f u →
    (u.port p.val).unacked.findIdx? (fun x => decide (x.lseq = numAt f 0x10 2)) = some i → exec (.nak p) s = .next (u.camResend p.val i)) ∧
  -- a HELLO of the peer brings the port up at the lower of the two versions
  (∀ (p : Fin 16) (f : List Byte) (v : Nat) (s u : State), s.takesFrame p.val 5 f u → (u.port p.val).st = 3 →
    v = min (u.port p.val).maxVer (numAt f 0 1) → numAt f 8 2 = (u.port p.val).peer → 0 < v →
    ((u.port p.val).mode = 2 → v ≠ 1 ∧ (numAt f 0x10 8).testBit 8 = true) →
    exec (.hello p) s = .next (((u.setPort p.val { u.port p.val with st := 4, ver := v, heard := true, reason := 0 }).link.streams.filter
      (fun (y : Nat × CamStream) => decide (y.2.port = p.val))).foldl (fun s y => s.camCredit y.1)
      (u.setPort p.val { u.port p.val with st := 4, ver := v, heard := true, reason := 0 }))) ∧
  (∀ (p : Fin 16) (s : State), (s.port p.val).st = 4 → (s.port p.val).unacked ≠ [] → (s.port p.val).ackWm + (s.port p.val).retx ≤ s.time.count →
    exec (.camleyResendTimeout p) s = .next (s.camResend p.val 0)) ∧
  -- a unit is read from the stream's buffer and sent in the next DATA frame
  (∀ (n : Fin 4096) (x : CamStream) (b : List Byte) (bad : List Nat) (s u : State), x = s.stream n.val → s.unitReady x = true →
    (x.gs = true ∨ ∀ y ∈ s.link.streams, y.2.port = x.port → y.2.gs = true → s.unitReady y.2 = false) →
    s.tierRead (x.buf + 256 * (x.next % x.units)) 256 = (u, b, bad) →
    exec (.unitSend n) s = .next ((u.setStream n.val { x with
      next := x.next + 1, sentWm := (if x.paceWm = u.time.count then x.sentWm else 0) + 256, paceWm := u.time.count }).camSeq x.port n.val
        { u.camHdr x.port 1 with
          flags := (u.camHdr x.port 1).flags + b2n x.gs,
          poison := ((List.range 4).filter (fun i => bad.contains ((x.buf + 256 * (x.next % x.units)) / 64 + i))).foldl (fun m i => m + 2 ^ i) 0,
          due := (u.time.count + x.lead) % 2 ^ 32, stream := x.peerStream, unit := x.next } b)) ∧
  -- the next unit in order is delivered at its waymark through ANCHOR_DATA
  (∀ (n : Fin 4096) (x : CamStream) (w : DueUnit) (s : State), x = s.stream n.val → x.arrived.find? (fun u => decide (u.n = x.next)) = some w →
    x.enabled = true → x.recv = true → w.due ≤ s.time.count →
    exec (.unitDelivery n) s = .next ((s.setStream n.val { x with
      next := x.next + 1, arrived := x.arrived.filter (fun y => decide (y.n ≠ w.n)) }).ancApply 0x60 x.ancData 1 0 true true).1) ∧
  -- a trained port says HELLO, with its number and the version it allows
  (∀ (p : Fin 16) (half : Bool) (s : State), (s.port p.val).st = 2 → exec (.camleyPortTrained p half) s = .next ((s.setPort p.val { s.port p.val with
    st := 3, half := half }).camControl p.val 5 (p.val +
      256 * b2n (decide (((s.setPort p.val { s.port p.val with st := 3, half := half }).port p.val).maxVer = 2))))) ∧
  -- ports and streams enabled and disabled by LINK_CMD
  (∀ (v : Word) (tg : Nat) (b : List Byte) (bad : List Nat) (s u w : State), s.linkCommand v 1 tg u → tg < 16 → u.portPresent tg = true →
    (u.port tg).on = false → u.tierRead (u.camTable + 64 * tg) 64 = (w, b, bad) → portRecordBad b = false →
    exec (.portEnable v) s = .next ((w.setPort tg { st := 2, record := b }).linkStatus 0)) ∧
  (∀ (v : Word) (tg : Nat) (s u : State), s.linkCommand v 2 tg u → tg < 16 → u.portPresent tg = true → (u.port tg).st ≠ 1 →
    exec (.portDisable v) s = .next (((u.dropStreams tg).setPort tg {}).settleDisable.linkStatus 0)) ∧
  (∀ (v : Word) (tg t : Nat) (b : List Byte) (bad : List Nat) (x : CamStream) (s u w : State), s.linkCommand v 3 tg u → (u.stream tg).enabled = false →
    u.tierRead (u.camTable + 1024 + 64 * tg) 64 = (w, b, bad) → streamEntryBad b = false → x = { enabled := true, entry := b } → t = w.teamId x.part →
    (w.port x.port).on = true → x.buf + 256 * x.units ≤ 0x8000000000 → w.granted t x.buf (256 * x.units) x.recv = true →
    w.isSealed x.buf (256 * x.units) = false → x.ancData < 32768 → w.teamOfClu (x.ancData / 128) = t → x.ancFree < 32768 →
    w.teamOfClu (x.ancFree / 128) = t →
    exec (.streamEnable v) s = .next (((((w.ancApply 0x62 x.ancData 0 0 true false).1.ancApply 0x62 x.ancFree 0 0 true false).1.setStream tg x).camCredit
      tg).linkStatus 0)) ∧
  (∀ (v : Word) (tg : Nat) (s u w : State), s.linkCommand v 4 tg u → (u.stream tg).enabled = true →
    w = u.setStream tg { u.stream tg with enabled := false } →
    exec (.streamDisable v) s = .next { w with link := { w.link with disabling := some tg } }.settleDisable)

/-! ### Security and attestation (file 18) -/

/-- O37. R445, R453, R458, R467, R469, R471: directives, tokens, zeroisation and scan. The model chose what assumption 56 says. -/
def Obligations.SecureCommandsComplete : Prop :=
  -- GO with a directive runs its checks: the work and STATUS they give stand until the command completes
  (∀ (s u : State) (r : SecRun), s.secFree = true → s.checkDirective (s.secBytes 648) = (u, r) →
    (numAt (s.secBytes 648) 4 1 ≠ 2 → exec .directiveFuseProgram s = .next { u with sec := { u.sec with run := some r } }) ∧
    (numAt (s.secBytes 648) 4 1 = 2 → exec .directiveKeyWrite s = .next { u with sec := { u.sec with run := some r } })) ∧
  -- one that is malformed has STATUS 1 and no work
  (∀ s : State, s.secFree = true → dirForm (s.secBytes 648) = false → numAt (s.secBytes 648) 4 1 ≠ 2 →
    exec .directiveFuseProgram s = .next { s with sec := { s.sec with run := some ⟨.none, 1⟩ } }) ∧
  (∀ s : State, s.secFree = true →
    exec .debugToken s = .next { s with sec := { s.sec with run := some (s.sec.checkToken (s.secBytes 264)) } }) ∧
  -- a key slot is zeroised at once; the command then completes with SUCCESS
  (∀ (k : Nat) (s : State), s.secFree = true → k = s.fld R.SEC_CMD F.SEC_CMD_SLOT →
    exec .zeroiseKeySlot s = .next { s with sec := { s.sec with keys := SMap.del k s.sec.keys, run := some ⟨.zero k, 0⟩ } }) ∧
  -- an operation of no work ends at once with STATUS 1, a new nonce and the event of a refusal
  (∀ s : State, s.secFree = true →
    exec .secCmdNoOp s = .next (({ s with sec := s.sec.draw }.setFld R.SEC_CMD F.SEC_CMD_STATUS 1).raise { code := 0x6404 })) ∧
  -- completion: the fuse is programmed, the key written, the grants given; a check that failed gives its STATUS
  (∀ (f v n : Nat) (s u : State), s.sec.run = some ⟨.fuse f v, 0⟩ → s.boot.wait = none →
    { s with sec := { s.sec with run := none } }.program f v = (u, n) → u.boot.wait = none →
    exec .secCmdComplete s = .next (if n = 0 then { u.raise { code := 0x6401 } with
        sec := (u.raise { code := 0x6401 }).sec.draw }.setFld R.SEC_CMD F.SEC_CMD_STATUS 0
      else ({ u with sec := u.sec.draw }.setFld R.SEC_CMD F.SEC_CMD_STATUS n).raise { code := 0x6404 })) ∧
  (∀ (w : SecWork) (n : Nat) (s u : State), s.sec.run = some ⟨w, n⟩ → n ≠ 0 → s.boot.wait = none → u = { s with sec := { s.sec with run := none } } →
    exec .secCmdComplete s = .next (({ u with sec := u.sec.draw }.setFld R.SEC_CMD F.SEC_CMD_STATUS n).raise { code := 0x6404 })) ∧
  -- scan: with its grant, keyed loads end, the identity and the keys of the engine are gone
  (∀ s : State, s.pwr.aux = true → s.sec.grants.testBit 2 = true → s.sec.scan = false → (∀ x ∈ s.teams, ∀ l, x.2.load = some l → l.keySrc = none) →
    exec .scanEnable s = .next { s with sec := { s.sec with identity := false, isolated := true, zeroised := true, scan := true } })

/-- O38. R460 to R465, R470, R515, R516: SPDM requests, PLDM effecters and sensors. The model chose what assumptions 3, 48, 50, 61, 121 say. -/
def Obligations.SpdmAndPldmComplete : Prop :=
  (∀ (b : List Byte) (s : State), s.pwr.aux = true → exec (.getVersion b) s =
    .next ((s.setSpdm { transcript := b ++ [0x10, 0x04, 0, 0, 0, 2, 0x00, 0x12, 0x00, 0x13] }).spdmSay [0x10, 0x04, 0, 0, 0, 2, 0x00, 0x12, 0x00, 0x13])) ∧
  (∀ (b r : List Byte) (s : State), s.pwr.aux = true → s.spdmBar b .version 12 = none →
    r = b.take 1 ++ [0x61, 0, 0, 0, 19, 0, 0] ++ leBytes 4 0x16 ++ leBytes 4 0x1000 ++ leBytes 4 0x1000 →
    exec (.getCapabilities b) s = .next ((s.setSpdm { s.sec.spdm with
      version := numAt b 0 1, caps := true, transcript := s.sec.spdm.transcript ++ b ++ r }).spdmSay r)) ∧
  -- a requester that offers ECDSA P-384 and SHA-384 is answered with both
  (∀ (b : List Byte) (s : State), s.pwr.aux = true → s.spdmBar b .caps 32 = none → (numAt b 8 4).testBit 7 = true → (numAt b 12 4).testBit 1 = true →
    ∃ r : List Byte, exec (.negotiateAlgorithms b) s = .next ((s.setSpdm { s.sec.spdm with
        algs := true, transcript := s.sec.spdm.transcript ++ b ++ r }).spdmSay r) ∧
      sliceB r 12 4 = leBytes 4 0x80 ∧ sliceB r 16 4 = leBytes 4 2) ∧
  (∀ (b r : List Byte) (s : State), s.pwr.aux = true → s.spdmBar b .algs 4 = none →
    r = b.take 1 ++ [0x01, if s.sec.spdm.version = 0x13 then 1 else 0, 1] ++ sha384 s.flash.chain →
    exec (.getDigests b) s = .next ((s.setSpdm { s.sec.spdm with certs := s.sec.spdm.certs ++ b ++ r }).spdmSay r)) ∧
  (∀ (b r c : List Byte) (s : State), s.pwr.aux = true → s.spdmBar b .algs 8 = none → numAt b 2 1 % 16 = 0 → numAt b 4 2 < s.flash.chain.length →
    c = (s.flash.chain.drop (numAt b 4 2)).take (numAt b 6 2) →
    r = b.take 1 ++ [0x02, 0, 0] ++ leBytes 2 c.length ++ leBytes 2 (s.flash.chain.length - numAt b 4 2 - c.length) ++ c →
    exec (.getCertificate b) s = .next ((s.setSpdm { s.sec.spdm with certs := s.sec.spdm.certs ++ b ++ r }).spdmSay r)) ∧
  -- a challenge is signed with the identity key over the messages before it
  (∀ (b r sig : List Byte) (d : Nat) (s u v : State), s.pwr.aux = true → s.spdmBar b .algs 36 = none → s.sec.identityKey = some d → numAt b 2 1 = 0 →
    u = { s with draws := s.draws + 1 } → r = b.take 1 ++ [0x03, 0, 1] ++ sha384 s.flash.chain ++ (List.range 32).map (Config.freeByte s.draws) ++
      s.sec.summary (numAt b 3 1) ++ [0, 0] ++ (if s.sec.spdm.version = 0x13 then sliceB b 36 8 else []) →
    u.spdmSign d (spdmMessage s.sec.spdm.version challengeText (s.sec.spdm.transcript ++ s.sec.spdm.certs ++ b ++ r)) = (v, sig) →
    exec (.challenge b) s = .next ((v.setSpdm { s.sec.spdm with certs := [] }).spdmSay (r ++ sig))) ∧
  -- a measurement without a signature
  (∀ (b r : List Byte) (s u : State), s.pwr.aux = true → s.spdmBar b .algs 4 = none → numAt b 2 1 % 2 = 0 → numAt b 3 1 = 0 →
    u = { s with draws := s.draws + 1 } → r = b.take 1 ++ [0x60] ++
      leBytes 1 (([1, 2, 3, 4, 5, 6, 7] : List Nat).filterMap s.sec.block).length ++ [0] ++ leBytes 1 0 ++ leBytes 3 0 ++
      (List.range 32).map (Config.freeByte s.draws) ++ [0, 0] ++ (if s.sec.spdm.version = 0x13 then sliceB b 4 8 else []) →
    exec (.getMeasurements b) s = .next ((u.setSpdm { s.sec.spdm with measLog := s.sec.spdm.measLog ++ b ++ r }).spdmSay r)) ∧
  -- the power cap by effecter 30, within its range
  (∀ (v : Nat) (s : State), s.pwr.aux = true → 2900 ≤ v → v ≤ 3600 → exec (.setNumericEffecterValue 30 v) s = .next
    ({ s with pwr := { s.pwr with pldm := .value 30 (some v) :: s.pwr.pldm } }.setFld R.PWR_INPUT F.PWR_INPUT_CAP_W v)) ∧
  -- the answers of PLDM: a sensor as refreshed, the cap in force, and the n-th record that the flash keeps
  (∀ (id n : Nat) (s : State), s.pwr.aux = true →
    ((id = 1 ∨ id = 3 ∨ id = 5) → exec (.pldmSensorRead (.value id)) s =
      .next { s with pwr := { s.pwr with pldm := .value id (some (SMap.get 0 s.pwr.sensors id)) :: s.pwr.pldm } }) ∧
    exec (.pldmSensorRead (.value 30)) s =
      .next { s with pwr := { s.pwr with pldm := .value 30 (some (s.fld R.PWR_INPUT F.PWR_INPUT_CAP_W)) :: s.pwr.pldm } } ∧
    exec (.pldmSensorRead (.flashLog n)) s = .next { s with pwr := { s.pwr with pldm := .record n s.flash.logs[n]? :: s.pwr.pldm } }) ∧
  -- a refresh measures the bank, the main supply, the power and the free readings
  (∀ (s u : State) (v : Nat), s.pwr.aux = true → s.measureBank = (u, v) → ∃ w : State, exec .sensorRefresh s = .next w ∧
    SMap.get 0 w.pwr.sensors 1 = u.pwr.mainMv / 10 ∧ SMap.get 0 w.pwr.sensors 3 = u.fld R.PWR_INPUT F.PWR_INPUT_POWER_W ∧
    SMap.get 0 w.pwr.sensors 5 = v ∧ w.draws = u.draws + freeSensors.length)

/-! ### Resets (file 19) -/

/-- O39. R426, R473 to R489: resets of every level, their end, PERST_N and function-level resets. The model chose what assumptions 52, 54, 71 say. -/
def Obligations.ResetCommandsComplete : Prop :=
  (∀ (f : Fin 65) (s : State), s.linkUp = true → f.val < 64 → f.val < s.host.numVFs →
    exec (.functionLevelReset f) s = .next (s.resetVf f.val)) ∧
  -- the physical function: every virtual function, then the tenants of its own ring pages, its version and the admission's ENABLE
  (∀ s u : State, s.linkUp = true → u = (List.range 64).foldl (fun s p => s.resetVf p) s → exec (.functionLevelReset 64) s = .next
    (((u.host.pages.foldl (fun (s : State) (x : Nat × RingPage) => s.resetTenant x.1) u).clearRegs
      (fun a => decide (a = R.HOST_FOCIA_VER))).setFld R.ADM_CTRL F.ADM_CTRL_ENABLE 0)) ∧
  (∀ s : State, s.boot.perst = false → s.pwr.aux = true → exec .perstNAssert s = .next ({ s with boot := { s.boot with perst := true } }.moduleReset
    (decide (s.fld R.BOOT_CTRL F.BOOT_CTRL_PERST_COLD = 1)) false)) ∧
  (∀ s u : State, s.boot.perst = true → s.pwr.aux = true → u = { s with boot := { s.boot with perst := false } } →
    exec .perstNDeassert s = .next (if 4 ≤ s.stage then u.trainHost else u)) ∧
  -- a module reset: cold where it is asked for, in STOP or before the first READY; the host's commands are answered first
  (∀ (s u : State), s.pwr.aux = true → s.supply ≠ 3 → s.boot.testMode = false → s.sec.storing = false →
    u = (if s.linkUp then s.postAll stReset else s).dropCommands →
    exec .mgmtColdReset s = .next (u.enterReset true) ∧
    (s.stage ≠ 8 → s.boot.ready = true → exec .mgmtWarmReset s = .next (u.enterReset false).warmVerify)) ∧
  -- RESET_CMD starts a reset of the level and target it names, when none is in progress
  (∀ (v : Word) (s u : State), s.pwr.aux = true → getF v F.RESET_CMD_GO = 1 →
    u = (s.setFld R.RESET_CMD F.RESET_CMD_LEVEL (getF v F.RESET_CMD_LEVEL)).setFld R.RESET_CMD F.RESET_CMD_TARGET (getF v F.RESET_CMD_TARGET) →
    u.resetBusy = false →
    (u.resetTarget (getF v F.RESET_CMD_LEVEL) (getF v F.RESET_CMD_TARGET) = true →
      (getF v F.RESET_CMD_LEVEL = 1 → exec (.cellReset v) s = .next (u.startReset { level := 1, target := getF v F.RESET_CMD_TARGET, cmd := true })) ∧
      (getF v F.RESET_CMD_LEVEL = 2 → exec (.clusterReset v) s = .next (u.startReset { level := 2, target := getF v F.RESET_CMD_TARGET, cmd := true })) ∧
      (getF v F.RESET_CMD_LEVEL = 3 → exec (.partitionReset v) s = .next (u.startReset { level := 3, target := getF v F.RESET_CMD_TARGET, cmd := true }))) ∧
    (getF v F.RESET_CMD_LEVEL = 4 → exec (.moduleWarmReset v) s = .next (u.moduleReset false true)) ∧
    (getF v F.RESET_CMD_LEVEL = 5 → exec (.moduleColdReset v) s = .next (u.moduleReset true true))) ∧
  -- a reset whose scope has drained takes place and is logged
  (∀ (r : PReset) (s u : State), s.boot.resets.find? s.resetReady = some r → r.level ≠ 3 → u = s.resetScope r → u.boot.absorbed = none →
    exec .resetDone s = .next (let w : State := { u with boot := { u.boot with resets := u.boot.resets.erase r, absorbed := none } }
      (if r.cmd then w.setFld R.RESET_CMD F.RESET_CMD_STATUS 0 else w).raise { code := 0x6503, detail := r.level + 256 * r.target }))

/-! ### Bring-up, power, heat and the test port (files 19 and 20) -/

/-- O40. R461, R475 to R482, R495, R496: the steps of a boot and the auxiliary supply. The model chose what assumptions 8, 50, 51, 53, 55, 60 say. -/
def Obligations.BootCommandsComplete : Prop :=
  -- the ROM votes its fields, takes its identity, verifies the firmware and reaches stage 1; the fuses follow
  (∀ s u v : State, s.pwr.aux = true → s.supply ≠ 3 → s.stage = 0 → s.boot.testMode = false →
    { s with sec := s.sec.draw }.voteFields romFields = (u, true) → { u with sec := { u.sec with identity := true } }.verifyBoot 0 = (v, true) →
    exec .coldBoot s = .next (v.setStage 1).loadFuses) ∧
  -- the self-test leaves every SRAM zero, unless a hub domain fails
  (∀ s : State, s.stage = 2 → (bistDies s.upsets).find? (fun x => decide (x.1 = 8)) = none → exec .selfTestDone s = .next (s.clearSram.setStage 3)) ∧
  -- training on a warm boot with every die's links up
  (∀ s : State, s.stage = 3 → (∀ d < 8, s.upsets.contains (.trainDie d) = false) → s.fld R.BOOT_STATUS F.BOOT_STATUS_PATH ≠ 0 → s.trainHost.stage ≠ 8 →
    exec .trainingDone s = .next (s.trainHost.trainHbm.mapFar.startFetch.setStage 4)) ∧
  -- on a cold boot without a defect of the dies the near tier is zeroed
  (∀ s : State, s.stage = 3 → (∀ d < 8, s.upsets.contains (.trainDie d) = false) → s.fld R.BOOT_STATUS F.BOOT_STATUS_PATH = 0 →
    s.collectBist.trainHost.stage ≠ 8 →
    exec .trainingDone s = .next (s.collectBist.trainHost.trainHbm.mapFar.zeroNear.startFetch.setStage 4)) ∧
  -- a link of a die that does not train is fatal
  (∀ (d : Nat) (s : State), s.stage = 3 → (List.range 8).find? (fun d => s.upsets.contains (.trainDie d)) = some d →
    exec .trainingDone s = .next ((s.setFld (R.BOOT_DIE d) F.BOOT_DIE_D2D_FAIL 1).fatal { code := 0x5202, kind := 3, src := d, detail := d } 4)) ∧
  -- a controller takes its firmware and enters M mode at offset 0; its digest is measurement 3
  (∀ (g : Fin 256) (b : List Byte) (s : State), (s.clu g.val).ctl.st = .fetch → s.boot.fetched.contains g.val = false → s.cluOut g.val = false →
    4 ≤ s.stage → s.stage ≠ 8 → s.fetchBytes (g.val / 32) = some b →
    ∃ u : State, u = s.setClu g.val { s.clu g.val with ctl := { (s.clu g.val).ctl with st := .firmware, umode := false, pc := 0, fw := sparse b } } ∧
      exec (.firmwareFetchDone g) s = .next { u with
        boot := { u.boot with fetched := insNat g.val u.boot.fetched }, sec := { u.sec with measure := SMap.ins 3 (sha384 b) u.sec.measure } }) ∧
  -- the known-answer test without a failure or a retirement list reaches stage 6
  (∀ s : State, s.stage = 4 → s.fld R.BOOT_STATUS F.BOOT_STATUS_PATH = 0 → s.allFetched = true → kaSlots s.upsets = [] → kaClus s.upsets = [] →
    s.flash.retired = [] → exec .knownAnswerDone s = .next (s.setStage 6)) ∧
  -- READY: the stage, the time taken (a free value) and the event
  (∀ (warm : Nat) (s : State), warm = s.fld R.BOOT_STATUS F.BOOT_STATUS_PATH → (warm = 0 ∧ s.stage = 6 ∨ warm = 1 ∧ s.stage = 4 ∧ s.allFetched = true) →
    ∃ ms, ms = (Config.freeWord s.draws).toNat % 65536 ∧ exec .bootReady s =
      .next (((({ s with draws := s.draws + 1, boot := { s.boot with ready := true } }).setStage 7).setFld R.BOOT_STATUS F.BOOT_STATUS_LAST_MS ms).raise
        { code := 0x6502, detail := ms + 65536 * warm })) ∧
  -- the auxiliary supply comes: everything of the always-on domain is at reset and the straps are sampled
  (∀ (tm : Bool) (ma : Fin 8) (s u : State), s.pwr.aux = false → s.upsets.contains .vbatt = false → u = s.auxReset true →
    exec (.auxPowerOn tm ma) s = .next (if tm then State.enterSafe { u with boot := { u.boot with testMode := true, mgmtAddr := ma.val } } 3
      else { u with boot := { u.boot with testMode := false, mgmtAddr := ma.val } })) ∧
  (∀ s : State, s.pwr.aux = true → exec .auxPowerLoss s = .next (s.auxReset false)) ∧
  (∀ s : State, s.pwr.aux = true → s.supply = 3 → supplyClass s.pwr.mainMv = 0 → s.boot.testMode = false →
    exec .mainInputGood s = .next ((s.setFld R.PWR_STATE F.PWR_STATE_SUPPLY 0).enterReset true))

/-- O41. R493, R497 to R500, R514, R523: the supplies, droop, the power cap and heat. The model chose what assumptions 37, 42, 47 say. -/
def Obligations.PowerCommandsComplete : Prop :=
  (∀ s : State, s.pwr.aux = true → s.supply ≠ 3 → exec .auxInputLow s = .next s.orderedStop) ∧
  -- a sample of the main input: its class, and the low events
  (∀ (mv : Nat) (s u : State), s.pwr.aux = true → u = { s with pwr := { s.pwr with mainMv := mv } } → u.supply ≠ 3 → u.supply ≠ supplyClass mv →
    (supplyClass mv = 0 → exec (.supplySample mv) s = .next (u.setFld R.PWR_STATE F.PWR_STATE_SUPPLY 0)) ∧
    (supplyClass mv = 1 → exec (.supplySample mv) s =
      .next (((u.setFld R.PWR_STATE F.PWR_STATE_SUPPLY 1).bump R.PWR_STATE F.PWR_STATE_LOW_EVENTS 1).raise { code := 0x6600 })) ∧
    (supplyClass mv = 2 → exec (.supplySample mv) s = .next ((u.setFld R.PWR_STATE F.PWR_STATE_SUPPLY 2).bump R.PWR_STATE F.PWR_STATE_LOW_EVENTS 1))) ∧
  -- the limits of BROWNOUT end in an ordered stop
  (∀ s : State, s.pwr.aux = true → s.supply = 2 → (s.pwr.mainMv < 38000 → exec .brownoutTimeout s = .next s.orderedStop) ∧
    (s.pwr.mainMv < 34000 → exec .undervoltageStop s = .next s.orderedStop) ∧
    (60000 < s.pwr.mainMv → exec .overvoltageStop s = .next s.orderedStop)) ∧
  (∀ (d : Fin 8) (s : State), exec (.coreDroop d) s = .next { s with pwr := { s.pwr with
      stretching := s.pwr.stretching.set d.val true, stretched := s.pwr.stretched.set d.val true } } ∧
    exec (.droopRecovered d) s = .next { s with pwr := { s.pwr with stretching := s.pwr.stretching.set d.val false } }) ∧
  (∀ (d : Fin 8) (s : State), s.stage ≠ 8 → s.supply ≠ 3 → exec (.coreUndervolt d) s = .next (s.fatal { code := 0x5601, kind := 3, src := d.val })) ∧
  -- the cap loop: the power measured stands, and the target moves by 8 between 1,440 and 1,600
  (∀ (w : Nat) (s u : State), s.supply ≠ 3 → u = s.setFld R.PWR_INPUT F.PWR_INPUT_POWER_W (min w 65535) →
    ∃ t, t = (if u.fld R.PWR_INPUT F.PWR_INPUT_CAP_W < w then max 1440 (u.pwr.target - 8)
        else if w < u.fld R.PWR_INPUT F.PWR_INPUT_CAP_W then min 1600 (u.pwr.target + 8) else u.pwr.target) ∧
      exec (.capStep w) s = .next (if t < 1600 ∧ u.pwr.capLogged = false then
          State.raise { u with pwr := { u.pwr with target := t, capLogged := true } } { code := 0x6601 }
        else { u with pwr := { u.pwr with target := t } })) ∧
  -- a die or a stack reaches its limit, once per crossing, and leaves it
  (∀ (d : Fin 8) (s : State), s.supply ≠ 3 →
    (nthD s.pwr.hot d.val false = false → exec (.thermalLimit d false) s =
      .next (State.raise { s with pwr := { s.pwr with hot := s.pwr.hot.set d.val true } } { code := 0x6602, kind := 3, src := d.val })) ∧
    (nthD s.pwr.hotStack d.val false = false → exec (.thermalLimit d true) s =
      .next (State.raise { s with pwr := { s.pwr with hotStack := s.pwr.hotStack.set d.val true } } { code := 0x6602, kind := 4, src := d.val }))) ∧
  (∀ (d : Fin 8) (s : State), exec (.thermalLimitEnd d false) s = .next { s with pwr := { s.pwr with hot := s.pwr.hot.set d.val false } } ∧
    exec (.thermalLimitEnd d true) s = .next { s with pwr := { s.pwr with hotStack := s.pwr.hotStack.set d.val false } }) ∧
  -- a trip of a die or of a stack, outside the safe state, and of the hub die in every state with the auxiliary supply
  (∀ (d : Fin 8) (s : State), s.pwr.aux = true → s.stage ≠ 8 → s.supply ≠ 3 →
    exec (.thermalTrip ⟨d.val, Nat.lt_succ_of_lt d.isLt⟩ false) s = .next (State.fatal { s with pwr := { s.pwr with trip := true } }
      { code := 0x5602, kind := 3, src := d.val }) ∧
    exec (.thermalTrip ⟨d.val, Nat.lt_succ_of_lt d.isLt⟩ true) s = .next (State.fatal { s with pwr := { s.pwr with trip := true } }
      { code := 0x5602, kind := 4, src := d.val })) ∧
  (∀ s : State, s.pwr.aux = true →
    exec (.thermalTrip 8 false) s = .next (State.fatal { s with pwr := { s.pwr with trip := true } } { code := 0x5602 }))

/-- O42. R414, R515: configuration requests and the test access port. The model chose what assumptions 93, 94 say. -/
def Obligations.ConfigurationAndTestPortComplete : Prop :=
  -- NumVFs is written and read; what the rest of configuration space holds is open: a read of it gives a free value (the model's choice)
  (∀ (v : BitVec 32) (s : State), s.linkUp = true →
    (v.toNat % 65536 ≤ 64 → exec (.configurationRequest 64 true Config.numVFsOffset v) s = .next { s with host := { s.host with
      numVFs := v.toNat % 65536 } }) ∧
    exec (.configurationRequest 64 false Config.numVFsOffset v) s = .next { s with readVal := BitVec.ofNat 64 s.host.numVFs }) ∧
  (∀ (f : Fin 65) (off : BitVec 12) (v : BitVec 32) (s : State), s.linkUp = true → off ≠ Config.numVFsOffset →
    exec (.configurationRequest f false off v) s = .next { s with draws := s.draws + 1, readVal := Config.freeWord s.draws % 2 ^ 32 } ∧
    exec (.configurationRequest f true off v) s = .next s) ∧
  -- one TCK cycle: capture or shift in the present state, then the next state by TMS and what its falling edge does
  (∀ (tms tdi : Bool) (s : State), s.pwr.aux = true →
    exec (.testAccessPort (.tck tms) tdi) s = .next { s with tap := ({ s.tapRise tdi with st := (s.tapRise tdi).st.next tms } : TapPort).fall }) ∧
  -- TRST_N low: Test-Logic-Reset at once
  (∀ (tdi : Bool) (s : State), s.pwr.aux = true → ∃ t : State, exec (.testAccessPort .trst tdi) s = .next t ∧
    t.tap.st = .reset ∧ t.tap.ir = 0xFF ∧ t = { s with tap := t.tap })

/-! ## The step, reset and the cell's words -/

/-- O43. The command at the front of the queue acts on the state with the queue's rest; an empty queue idles (the model's choice, assumption 2). -/
def Obligations.StepRunsTheFrontCommand : Prop :=
  (∀ (c : Instr) (rest : List Instr) (s : State), s.pending = c :: rest → step s = exec c { s with pending := rest }) ∧
  (∀ s : State, s.pending = [] → step s = .next s)

namespace Sys2Proof.Machine

/-- Fields whose reset value depends on the unit: TEAM_ID of a partition (Table 49) and the engines of a share (Table 169). -/
def ownReset (d : RegDesc) (f : Fld) : Bool :=
  (decide (d.blk = .part ∧ d.off = 0x120) && decide (f = F.SECT_TEAM_TEAM_ID)) ||
    (decide (d.blk = .adm ∧ (d.off = 0x100 ∨ d.off = 0x140)) && decide (f = F.ADM_NT_SHARE_ENGINE_A ∨ f = F.ADM_NT_SHARE_ENGINE_B))

end Sys2Proof.Machine

/-- O44. Tables 2 to 286: every field of every register holds its table's reset value; TEAM_ID is the partition's own number. -/
def Obligations.ResetHoldsTheTablesValues : Prop :=
  (∀ (a u : Nat) (d : RegDesc) (f : RField), regDescAt a = some (d, u) → f ∈ d.fields → ownReset d f.f = false → State.reset.fld a f.f = f.rst) ∧
  (∀ p < 64, State.reset.teamId p = p) ∧
  State.reset.time.st = .acquire ∧ State.reset.time.interval = 1000 ∧ State.reset.tap.st = .reset

/-- O45. Reset has memory in canonical form, no command waiting, and one writer per line. The model chose what assumption 4 says. -/
def Obligations.ResetMeetsTheInvariants : Prop :=
  Memory.wf State.reset.mem = true ∧ State.reset.pending = [] ∧ State.reset.coherent ∧ State.reset.poison = [] ∧
    (∀ a : Nat, memRead State.reset.mem a = 0)

/-- O46. R106, Tables 53, 54, 56, 84, 124, 142 and 151: the word of every cell instruction decodes to it with every operand, and a word that decodes is the word
of what it decodes to, so that a reserved opcode or a non-zero bit outside the fields decodes to nothing. -/
def Obligations.CellWordsDecodeAndEncodeAgree : Prop :=
  (∀ i : CellInstr, CellInstr.decode i.encode = some i) ∧
  (∀ (x : Word) (i : CellInstr), CellInstr.decode x = some i → i.encode = x) ∧
  (∀ i j : CellInstr, i.encode = j.encode → i = j)

/-- O47. R526, R31, R32: the flywheel's interval I and prediction p after every kind of edge and of waymark. The state meant is the one after the frame test that
is due first. -/
def Obligations.SteeringFollowsTheLaw : Prop :=
  State.reset.time.interval = 1000 ∧
  -- a steering edge: any valid edge in LOCKED, and in ACQUIRE once I has been learned
  (∀ (t : Rat) (b : Bool) (s u : State), s.pwr.aux = true → s.time.now ≤ t → u = s.testFrame →
    (u.time.st = .locked ∧ u.time.pred - 50 ≤ t ∧ t ≤ u.time.pred + 50 ∨
      u.time.st = .acquire ∧ u.time.acq = .steering ∧ u.time.edgeSeen = true ∧ u.time.windows < 8 ∧
        u.time.lastEdge + (u.time.windows + 1 : Nat) * 1000 - 50 ≤ t ∧ t ≤ u.time.lastEdge + (u.time.windows + 1 : Nat) * 1000 + 50) →
    ∃ v : State, exec (.waymarkEdge t b) s = .next v ∧ v.time.interval = u.time.interval + (t - u.time.pred) / 1024 ∧
      v.time.pred = u.time.pred + v.time.interval + max (-2) (min 2 ((t - u.time.pred) / 8))) ∧
  -- the first valid edge of a series in ACQUIRE, and the next one in the first window
  (∀ (t : Rat) (b : Bool) (s u : State), s.pwr.aux = true → s.time.now ≤ t → u = s.testFrame → u.time.st = .acquire →
    (u.time.edgeSeen = false ∨ 8 ≤ u.time.windows) →
    ∃ v : State, exec (.waymarkEdge t b) s = .next v ∧ v.time.interval = u.time.interval ∧ v.time.pred = t + u.time.interval) ∧
  (∀ (t : Rat) (b : Bool) (s u : State), s.pwr.aux = true → s.time.now ≤ t → u = s.testFrame → u.time.st = .acquire → u.time.acq = .first →
    u.time.edgeSeen = true → u.time.windows = 0 → u.time.lastEdge + 950 ≤ t → t ≤ u.time.lastEdge + 1050 →
    ∃ v : State, exec (.waymarkEdge t b) s = .next v ∧ v.time.interval = t - u.time.lastEdge ∧ v.time.pred = t + (t - u.time.lastEdge)) ∧
  -- a waymark without a steering edge: p advances by I alone, in LOCKED and ACQUIRE at the end of the window
  (∀ s u : State, s.pwr.aux = true → u = s.testFrame → u.time.tickWait = none →
    (u.time.st = .locked ∧ u.time.missRun < 3 ∨ u.time.st = .acquire ∧ u.time.edgeSeen = true ∧ u.time.windows < 8) →
    ∃ v : State, exec .wmkMissed s = .next v ∧ v.time.interval = u.time.interval ∧ v.time.pred = u.time.pred + u.time.interval) ∧
  -- and in HOLDOVER, DEGRADED and FREE, whose edges leave I and p, at the tick
  (∀ (t : Rat) (b : Bool) (s u : State), s.pwr.aux = true → s.time.now ≤ t → u = s.testFrame → u.time.st ≠ .locked → u.time.st ≠ .acquire →
    (u.time.edgeSeen = false ∨ 8 ≤ u.time.windows ∨ t ≤ u.time.lastEdge + (u.time.windows + 1 : Nat) * 1000 + 50) →
    ∃ v : State, exec (.waymarkEdge t b) s = .next v ∧ v.time.interval = u.time.interval ∧ v.time.pred = u.time.pred) ∧
  (∀ (t : Rat) (s : State), s.pwr.aux = true → s.time.st ≠ .locked → s.time.st ≠ .acquire → s.time.tickWait = none → s.time.ticked = false →
    s.time.tickOk t (s.time.pred + s.time.slew) = true →
    ∃ v : State, exec (.internalTick t) s = .next v ∧ v.time.interval = s.time.interval ∧ v.time.pred = s.time.pred + s.time.interval) ∧
  -- the hub issues a tick 44 to 52 ns after the prediction
  (∀ (t : Rat) (s v : State), exec (.internalTick t) s = .next v → v.time.ticks ≠ s.time.ticks →
    44 ≤ t - s.time.tickWait.getD (s.time.pred + s.time.slew) ∧ t - s.time.tickWait.getD (s.time.pred + s.time.slew) ≤ 52)

/-! ## Registers, memory and packets -/

/-- O48. R344, R345: the coherence commands keep one writer: a core with a line in M or E is its owner, an owned line has no sharer, every core with a line in S
stands in the sharer vector, and a GetM that waits has no owner beside it and waits for every other holder. The model chose what assumption 89 says. -/
def Obligations.CoherenceKeepsOneWriter : Prop :=
  ∀ (c : Instr) (rest : List Instr) (s t : State), s.pending = c :: rest →
    (∃ (h : Fin 16) (a : BitVec 48) (v : Option (BitVec 6 × Byte)),
      c ∈ [.gets h a, .getm h a v, .putm h a, .pute h a, .puts h a, .fwdGets h a, .fwdGetm h a, .inv h a]) →
    s.coherent → step s = .next t → t.coherent

/-- O49. R212, R220, R221: a write packet stores its bytes at its address and nowhere else; every other byte, the anchors, the cells and the time base stay. -/
def Obligations.WritePacketsStoreTheirBytes : Prop :=
  (∀ (xb : Bool) (n : Nat) (p : Packet) (t : Bool) (r : MemReq) (b : List Byte) (bad : List Nat) (s u : State), s.reaches xb 0x21 n p u →
    p.pkt = .memWrite t r b bad → ∃ v : State, exec (.mtWrite ⟨xb, n⟩) s = .next v ∧
      (∀ i < b.length, memRead v.mem (r.addr + i) = nthD b i 0) ∧
      (∀ a, (a < r.addr ∨ r.addr + b.length ≤ a) → memRead v.mem a = memRead s.mem a) ∧
      (∀ k, bad.contains k = false → r.addr ≤ 64 * k → 64 * k + 64 ≤ r.addr + b.length → v.poison.contains k = false) ∧
      v.anchors = s.anchors ∧ v.cells = s.cells ∧ v.clus = s.clus ∧ v.teams = s.teams ∧ v.adm = s.adm ∧ v.time = s.time ∧ v.evt = u.evt ∧
      (s.upsets = [] → v.evt = s.evt)) ∧
  (∀ (n : Nat) (p : Packet) (t : Bool) (r : MemReq) (b : List Byte) (bad : List Nat) (s u : State), s.arrives 0x31 n p u →
    p.pkt = .memWrite t r b bad → u.farFailed r.addr = false → ∃ v : State, exec (.tierWrite n) s = .next v ∧
      (∀ i < b.length, memRead v.mem (r.addr + i) = nthD b i 0) ∧
      (∀ a, (a < r.addr ∨ r.addr + b.length ≤ a) → memRead v.mem a = memRead s.mem a) ∧
      v.anchors = s.anchors ∧ v.cells = s.cells ∧ v.clus = s.clus ∧ v.teams = s.teams ∧ v.adm = s.adm ∧ v.time = s.time ∧ v.evt = u.evt ∧
      (s.upsets = [] → v.evt = s.evt))

/-- O50. R14, R15: a register that acts by its access types alone: each field takes what its type says, a reserved bit is ignored, every other register and all
other state stay. -/
def Obligations.RegisterWritesFollowTheirAccessTypes : Prop :=
  (∀ (a u : Nat) (d : RegDesc) (f : RField) (v : Word) (s : State), regDescAt a = some (d, u) → f ∈ d.fields →
    (f.acc = .rw → (s.writeFlds a v).fld a f.f = getF v f.f) ∧
    (f.acc = .w1c → (s.writeFlds a v).fld a f.f = s.fld a f.f - (s.fld a f.f &&& getF v f.f)) ∧
    (f.acc = .ro ∨ f.acc = .rc ∨ f.acc = .wo → (s.writeFlds a v).fld a f.f = s.fld a f.f)) ∧
  -- no register of the module is of type W1S; what a write would leave of such a field
  (∀ old v : Nat, fieldWrite .w1s old v = old ||| v) ∧
  (∀ (a : Nat) (v w : Word) (s : State), (∀ u d, regDescAt a = some (d, u) → ∀ f ∈ d.fields, getF v f.f = getF w f.f) →
    s.writeFlds a v = s.writeFlds a w) ∧
  (∀ (a b : Nat) (v : Word) (s : State), b ≠ a → (s.writeFlds a v).reg b = s.reg b) ∧
  (∀ (a : Nat) (v : Word) (s : State), s.writeFlds a v = { s with regs := (s.writeFlds a v).regs })

/-- O51. R515 (IEEE 1149.1): from every state of the test access port, five TCK cycles with TMS high reach Test-Logic-Reset with BYPASS in force; memory and the
rest of the block stay. The model chose what assumption 93 says. -/
def Obligations.TestPortResetsInFiveCycles : Prop :=
  ∀ (d1 d2 d3 d4 d5 : Bool) (s : State), s.pwr.aux = true →
    s.pending = [.testAccessPort (.tck true) d1, .testAccessPort (.tck true) d2, .testAccessPort (.tck true) d3, .testAccessPort (.tck true) d4,
      .testAccessPort (.tck true) d5] →
    ∃ t : State, Reaches 5 s t ∧ t.tap.st = .reset ∧ t.tap.ir = 0xFF ∧ t = { s with pending := [], tap := t.tap }

/-- O52. R274, Table 152: what the anchor agent does to a word that is not poisoned, and that an operation in error leaves the word and replies with its status. -/
def Obligations.AnchorOperations : Prop :=
  (∀ (a : Nat) (v e w : Word) (log : Bool) (s : State), w = s.anchor a → s.ancPois.contains a = false →
    (w.toNat + v.toNat < 2 ^ 64 → ∃ u : State, s.ancApply 0x60 a v e true log = (u, 0, w) ∧ u.anchor a = w + v ∧ u.mem = s.mem) ∧
    (2 ^ 64 ≤ w.toNat + v.toNat → (s.ancApply 0x60 a v e true false).2 = (2, w) ∧ (s.ancApply 0x60 a v e true false).1.anchor a = w) ∧
    (v.toNat ≤ w.toNat → ∃ u : State, s.ancApply 0x61 a v e true log = (u, 0, w) ∧ u.anchor a = w - v ∧ u.mem = s.mem) ∧
    (w.toNat < v.toNat → (s.ancApply 0x61 a v e true false).2 = (1, w) ∧ (s.ancApply 0x61 a v e true false).1.anchor a = w) ∧
    (∃ u : State, s.ancApply 0x63 a v e true log = (u, 0, w) ∧ u.anchor a = (if w = e then v else w) ∧ u.mem = s.mem) ∧
    (∃ u : State, s.ancApply 0x64 a v e true log = (u, 0, w) ∧ u.anchor a = w ∧ u.mem = s.mem)) ∧
  -- S.SET writes and clears poison; a poisoned word refuses the others
  (∀ (a : Nat) (v e : Word) (log : Bool) (s : State),
    (∃ u : State, s.ancApply 0x62 a v e true log = (u, 0, s.anchor a) ∧ u.anchor a = v ∧ u.ancPois.contains a = false) ∧
    (s.ancPois.contains a = true → ∀ op, op = 0x60 ∨ op = 0x61 ∨ op = 0x63 ∨ op = 0x64 →
      (s.ancApply op a v e true log).2 = (4, s.anchor a) ∧ (s.ancApply op a v e true log).1.anchor a = s.anchor a)) ∧
  -- an operation on one anchor leaves every other word
  (∀ (op a b : Nat) (v e : Word) (own : Bool) (s : State), b ≠ a → (s.ancApply op a v e own false).1.anchor b = s.anchor b)

/-- O53. Tables 29, 30, 83, 111, 140 and the others with counters: a counter field stops at its largest value, and counting leaves every other field and register. -/
def Obligations.CountersSaturate : Prop :=
  (∀ (a n : Nat) (f : Fld) (s : State), f.lo ≤ f.hi → f.hi < 64 →
    (s.bump a f n).fld a f = min (2 ^ (f.hi + 1 - f.lo) - 1) (s.fld a f + n) ∧ s.fld a f ≤ (s.bump a f n).fld a f) ∧
  (∀ (a n : Nat) (f k : Fld) (s : State), f.lo ≤ f.hi → f.hi < 64 → k.lo ≤ k.hi → k.hi < 64 → (f.hi < k.lo ∨ k.hi < f.lo) →
    (s.bump a f n).fld a k = s.fld a k) ∧
  (∀ (a b n : Nat) (f : Fld) (s : State), b ≠ a → (s.bump a f n).reg b = s.reg b) ∧
  (∀ (a n : Nat) (f : Fld) (s : State), s.bump a f n = { s with regs := (s.bump a f n).regs })

/-- O54. R100, R103, R109: the frame of the sequencer's own instructions and of an issue: memory, anchors, packets, teams, requests, clusters, events and every
other cell stay, and no register but the cell's count of words changes. -/
def Obligations.SequencerFrame : Prop :=
  ∀ (c : Fin 4096) (x : Instr) (i : CellInstr) (s t : State), x ∈ [.qNop c, .qSetx c, .qAddx c, .instructionIssue c] → s.issuesNow c.val i →
    (loopNext (s.cell c.val).loops (s.cell c.val).pc).2 < 8192 → exec x s = .next t →
    t.mem = s.mem ∧ t.poison = s.poison ∧ t.anchors = s.anchors ∧ t.net = s.net ∧ t.nbr = s.nbr ∧ t.clus = s.clus ∧ t.teams = s.teams ∧ t.adm = s.adm ∧
      t.evt = s.evt ∧ t.time = s.time ∧ t.pending = s.pending ∧ (∀ L, L ≠ c.val → t.cell L = s.cell L) ∧
      (∀ a, a ≠ R.CELL_CNT c.val 1 → t.reg a = s.reg a)

/-! ## Time, stamps, epochs, events and numbers -/

/-- O55. R39: a short stamp is extended to the count nearest to the receiver's own with its low 32 bits; the receiver of a DATA frame gives the unit the extended
DUE of the frame. -/
def Obligations.ShortStampsExtendToTheNearestCount : Prop :=
  (∀ now w : Nat, w < 2 ^ 32 → extendWs now w % 2 ^ 32 = w ∧
    ∀ c : Nat, c % 2 ^ 32 = w → ((extendWs now w : Int) - now).natAbs ≤ ((c : Int) - now).natAbs) ∧
  (∀ now c : Nat, now ≤ c + (2 ^ 31 - 1) → c ≤ now + (2 ^ 31 - 1) → extendWs now (c % 2 ^ 32) = c) ∧
  (∀ (p n : Nat) (f : List Byte) (x : CamStream) (s : State), n = numAt f 0x0C 2 → x = s.stream n → n < 4096 → x.enabled = true → x.recv = true →
    x.port = p → x.peerModule = numAt f 8 2 → s.time.count < extendWs s.time.count (numAt f 4 4) →
    ((s.camData p f).stream n).arrived = x.arrived ++ [⟨numAt f 0x10 8, extendWs s.time.count (numAt f 4 4), false⟩])

namespace Sys2Proof.Machine

/-- Type and number of the packet that a command ejects. -/
def packetOf : Instr → Option (Nat × Nat)
  | .chTile n => some (0x01, n)
  | .chMarker n => some (0x02, n)
  | .chCredit n => some (0x03, n)
  | .chTap n => some (0x04, n)
  | .chTapDigest n => some (0x05, n)
  | .ancOp n => some (0x10, n)
  | .ancReply n => some (0x11, n)
  | .ancWake n => some (0x12, n)
  | .ancNotyet n => some (0x13, n)
  | .barArrive n => some (0x18, n)
  | .barDone n => some (0x19, n)
  | .mtRead ⟨false, n⟩ => some (0x20, n)
  | .mtWrite ⟨false, n⟩ => some (0x21, n)
  | .mtData ⟨⟨n, _, _⟩, false⟩ => some (0x22, n)
  | .mtAck ⟨false, n⟩ => some (0x23, n)
  | .tierRead n => some (0x30, n)
  | .tierWrite n => some (0x31, n)
  | .tierData q => some (0x32, q.n)
  | .tierAck n => some (0x33, n)
  | .hubReq n => some (0x40, n)
  | .hubResp n => some (0x41, n)
  | .epochSet n => some (0x60, n)
  | _ => none

/-- The packets that a command counts to its number: those of its type, but for the taps that wait for room in their check store (R373). -/
def State.counts (s : State) (type : Nat) (p : Packet) : Bool := decide (p.pkt.type = type) && !(decide (type = 0x04) && s.tapWaits p)

/-- The beats of a haul ring that a command drains beside its packet. -/
def State.drains (s : State) : Instr → State
  | .tierData q => s.leadDrain q.cell.val q.beats
  | .mtData q => s.leadDrain q.cell.val q.beats
  | _ => s

end Sys2Proof.Machine

/-- O56. R260: a packet whose epoch is not the one its destination's router holds for its sender is discarded whole and counted in STALE. Nothing else changes: no
event is logged and nothing is sent. A command that also drains beats of a haul ring drains them. -/
def Obligations.StalePacketsAreDiscarded : Prop :=
  ∀ (c : Instr) (type n e : Nat) (p : Packet) (s u : State), packetOf c = some (type, n) →
    s.takePkt (s.counts type) n = some (u, p) → u.headerFails p = none →
    (p.dest.code < 16 → u.fenced p.dest.cluster p.dest.code = false) → u.routerEpoch p.dest.cluster p.sender = some e → e ≠ p.epoch →
    exec c s = .next ((u.bump (R.CLU_RTR_DROP p.dest.cluster) F.CLU_RTR_DROP_STALE 1).drains c) ∧
      u = { s with net := u.net } ∧ u.net.length + 1 = s.net.length

/-- O57. R357: a record is written at slot HEAD mod 4,096 while its class has room, HEAD advances, and LOST_BEFORE tells of records lost; one without room is
counted in LOST and leaves every slot. Slot i reads at EVT offset 0x1_0000 + 64 × i, and a write of EVT_LOG_TAIL moves the tail past records that are held. -/
def Obligations.LogWritesFollowTheReserveRule : Prop :=
  (∀ (r : EvtRec) (g : EvtRing) (need free : Nat) (s : State), g = s.evt.ring → free = 4096 - (g.head + 8192 - g.tail) % 8192 →
    need = (if r.evt.code / 4096 = 1 ∨ r.evt.code / 4096 = 2 ∨ r.evt.code / 4096 = 6 then 65 else 1) →
    (s.writeRec r).evt.seq = s.evt.seq + 1 ∧ (s.writeRec r).evt.pend = s.evt.pend ∧
    (need ≤ free → (s.writeRec r).evt.ring = { g with
      head := (g.head + 1) % 8192, lostBefore := false,
      slots := SMap.ins (g.head % 4096) { r with seq := s.evt.seq, lostBefore := g.lostBefore } g.slots }) ∧
    (free < need → (s.writeRec r).evt.ring = { g with lostBefore := true } ∧
      (s.writeRec r).fld R.EVT_LOG_HEAD F.EVT_LOG_HEAD_LOST =
        min (2 ^ (F.EVT_LOG_HEAD_LOST.hi + 1 - F.EVT_LOG_HEAD_LOST.lo) - 1) (s.fld R.EVT_LOG_HEAD F.EVT_LOG_HEAD_LOST + 1)) ∧
    (s.writeRec r).mem = s.mem ∧ (s.writeRec r).cells = s.cells ∧ (s.writeRec r).anchors = s.anchors ∧ (s.writeRec r).time = s.time) ∧
  -- the ring in the hub's memory: word j of record slot i, 0 where the slot has never been written, and the two counts
  (∀ (i j : Nat) (s : State), i < 4096 → j < 8 → (s.regRead .evt 0 (0x10000 + 64 * i + 8 * j)).2 =
    (match SMap.find? s.evt.ring.slots i with
    | some r => BitVec.ofNat 64 (numAt r.bytes (8 * j) 8)
    | none => 0)) ∧
  (∀ s : State, getF (s.regRead .evt 0 0).2 F.EVT_LOG_HEAD_HEAD = s.evt.ring.head % 8192 ∧
    getF (s.regRead .evt 0 8).2 F.EVT_LOG_TAIL_TAIL = s.evt.ring.tail % 8192) ∧
  -- the tail advances over records the log holds
  (∀ (v : Word) (k : Nat) (s : State), k ≤ (s.evt.ring.head + 8192 - s.evt.ring.tail) % 8192 → s.evt.ring.head < 8192 → s.evt.ring.tail < 8192 →
    (s.evt.ring.head + 8192 - s.evt.ring.tail) % 8192 ≤ 4096 → getF v F.EVT_LOG_TAIL_TAIL = (s.evt.ring.tail + k) % 8192 →
    exec (.evtLogTailWrite v) s = .next { s with evt := { s.evt with ring := { s.evt.ring with tail := (s.evt.ring.tail + k) % 8192 } } })

/-- O58. R45: module resets and partial resets leave the time base; the auxiliary supply's loss returns it to ACQUIRE. -/
def Obligations.TimeOutlivesResets : Prop :=
  (∀ (cold : Bool) (s : State), (s.enterReset cold).time = s.time) ∧
  (∀ (r : PReset) (s : State), (s.resetScope r).time = s.time) ∧
  (∀ s : State, s.pwr.aux = true → ∃ t : State, exec .auxPowerLoss s = .next t ∧ t.time = State.reset.time ∧ t.time.st = .acquire ∧ t.pwr.aux = false)

/-- O59. R129, R131, R135, Tables 71 and 73: a finite code of a format, read and rounded back, is the same code without a flag, and E2M1 expands exactly. -/
def Obligations.NumbersThatFitAreExact : Prop :=
  (∀ (f : Fmt) (x : FSpec) (mag : Nat), f.spec = some x → mag ≤ x.maxCode →
    ∃ m e, x.dec false mag = .fin false m e ∧ (x.round m e).code = mag ∧ (x.round m e).inexact = false) ∧
  (∀ c < 16, ∃ m n e k, Fmt.e2m1.dec c = .fin (c.testBit 3) m e ∧ Fmt.e4m3.dec (expandE2m1 c) = .fin (c.testBit 3) n k ∧
    (m : Rat) * (2 : Rat) ^ e = (n : Rat) * (2 : Rat) ^ k) ∧
  -- every code of the small formats is finite, every NaN of E4M3 and E5M2 is quiet
  (∀ (f : Fmt) (code : Nat), f = .e2m3 ∨ f = .e3m2 ∨ f = .e2m1 ∨ f = .int8 ∨ f = .int4 → ∃ n m e, f.dec code = .fin n m e) ∧
  (∀ (f : Fmt) (code frac : Nat) (n sig : Bool), f = .e4m3 ∨ f = .e5m2 → f.dec code = .nan n frac sig → sig = false)

/-- O60. R497, R500, R515, R516, R523: the frame of the commands on droop, heat, sensors and the test port: memory, anchors, cells, packets, requests, teams and the
time base stay. The model chose what assumption 93 says. -/
def Obligations.ManagementFrame : Prop :=
  ∀ (x : Instr) (s t : State), (∃ (d : Fin 8) (h b : Bool) (a : TapPins) (id v : Nat) (q : PldmReq), x ∈ [.coreDroop d, .droopRecovered d, .thermalLimitEnd d h,
      .pldmSensorRead q, .setNumericEffecterValue id v, .sensorRefresh, .testAccessPort a b, .thermalLimit d h]) → exec x s = .next t →
    t.mem = s.mem ∧ t.poison = s.poison ∧ t.anchors = s.anchors ∧ t.cells = s.cells ∧ t.clus = s.clus ∧ t.net = s.net ∧ t.nbr = s.nbr ∧ t.adm = s.adm ∧
      t.teams = s.teams ∧ t.time = s.time ∧ t.cores = s.cores ∧ t.dir = s.dir ∧ t.link = s.link ∧ t.sec = s.sec ∧ t.boot = s.boot ∧ t.pending = s.pending
end

