-- ==== Sys2Proof/Laws/Bits.lean ====
section
/-! SUPPORT. Laws of sparse tables (reading after listing a value, and listing twice) and of the fields of a register. -/

namespace Sys2Proof.Machine

variable {α : Type}

/-- Reading with a default is looking up. -/
theorem SMap.get_eq (d : α) (k : Nat) : ∀ m : SMap α, SMap.get d m k = (SMap.find? m k).getD d
  | [] => rfl
  | (j, v) :: m => by rw [SMap.get, SMap.find?]; by_cases h : j = k <;> simp only [h, if_true, if_false, Option.getD_some, SMap.get_eq d k m]

/-- What a table holds after a value has been listed. -/
theorem SMap.find_ins (x : α) (k j : Nat) : ∀ m : SMap α, SMap.find? (SMap.ins k x m) j = if j = k then some x else SMap.find? m j
  | [] => by simp only [SMap.ins, SMap.find?, eq_comm]
  | (i, v) :: m => by
    rcases Nat.lt_trichotomy i k with h | rfl | h
    · rw [SMap.ins, if_neg (by omega), if_neg (by omega), SMap.find?, SMap.find?, SMap.find_ins x k j m]
      by_cases e : i = j
      · rw [if_pos e, if_pos e, if_neg (by omega)]
      · rw [if_neg e, if_neg e]
    · rw [SMap.ins, if_pos rfl, SMap.find?, SMap.find?]; by_cases e : j = i
      · rw [if_pos e.symm, if_pos e]
      · rw [if_neg (Ne.symm e), if_neg e, if_neg (Ne.symm e)]
    · rw [SMap.ins, if_neg (by omega), if_pos h, SMap.find?]; simp only [eq_comm]

/-- What it holds after a key has been dropped. -/
theorem SMap.find_del (k j : Nat) : ∀ m : SMap α, SMap.find? (SMap.del k m) j = if j = k then none else SMap.find? m j
  | [] => by rw [SMap.del, List.filter_nil, SMap.find?, ite_self]
  | (i, v) :: m => by
    have ih := SMap.find_del k j m
    unfold SMap.del at ih ⊢
    by_cases h : i = k
    · rw [List.filter_cons_of_neg (by simp [h]), ih, SMap.find?, h]; by_cases e : j = k
      · rw [if_pos e, if_pos e]
      · rw [if_neg e, if_neg e, if_neg (Ne.symm e)]
    · rw [List.filter_cons_of_pos (by simpa using h), SMap.find?, SMap.find?, ih]; by_cases e : i = j
      · rw [if_pos e, if_pos e, if_neg (e ▸ h)]
      · rw [if_neg e, if_neg e]

@[simp] theorem SMap.find_ins_self (x : α) (k : Nat) (m : SMap α) : SMap.find? (SMap.ins k x m) k = some x := (SMap.find_ins x k k m).trans (if_pos rfl)

theorem SMap.find_ins_ne (x : α) {k j : Nat} (h : j ≠ k) (m : SMap α) : SMap.find? (SMap.ins k x m) j = SMap.find? m j :=
  (SMap.find_ins x k j m).trans (if_neg h)

@[simp] theorem SMap.get_nil (d : α) (k : Nat) : SMap.get d [] k = d := rfl

@[simp] theorem SMap.get_ins_self (d x : α) (k : Nat) (m : SMap α) : SMap.get d (SMap.ins k x m) k = x := by rw [SMap.get_eq, SMap.find_ins_self]; rfl

theorem SMap.get_ins_ne (d x : α) {k j : Nat} (h : j ≠ k) (m : SMap α) : SMap.get d (SMap.ins k x m) j = SMap.get d m j := by
  rw [SMap.get_eq, SMap.get_eq, SMap.find_ins_ne x h]

theorem SMap.get_del (d : α) (k j : Nat) (m : SMap α) : SMap.get d (SMap.del k m) j = if j = k then d else SMap.get d m j := by
  rw [SMap.get_eq, SMap.get_eq, SMap.find_del, apply_ite (fun o : Option α => o.getD d)]; rfl

@[simp] theorem SMap.ins_ins (x y : α) (k : Nat) : ∀ m : SMap α, SMap.ins k y (SMap.ins k x m) = SMap.ins k y m
  | [] => by simp only [SMap.ins, if_true]
  | (i, v) :: m => by
    rcases Nat.lt_trichotomy i k with h | rfl | h
    · have h1 : i ≠ k := by omega
      have h2 : ¬ k < i := by omega
      simp only [SMap.ins, h1, h2, if_false, SMap.ins_ins x y k m]
    · simp only [SMap.ins, if_true]
    · have h1 : i ≠ k := by omega
      simp only [SMap.ins, h1, h, if_false, if_true]

/-! ### Fields of registers -/

/-- Bits of a register with one field replaced. -/
theorem testBit_setF (w : Word) (f : Fld) (v i : Nat) (h1 : f.lo ≤ f.hi) (h2 : f.hi < 64) :
    (setF w f v).toNat.testBit i = if f.lo ≤ i ∧ i ≤ f.hi then v.testBit (i - f.lo) else w.toNat.testBit i := by
  obtain ⟨hi, lo⟩ := f
  simp only at h1 h2
  obtain ⟨k, rfl⟩ : ∃ k, hi = lo + k := ⟨hi - lo, by omega⟩
  have ek : lo + k + 1 - lo = k + 1 := by omega
  have hw : w.toNat < 2 ^ 64 := w.isLt
  have d1 : w.toNat = 2 ^ lo * (2 ^ (k + 1) * (w.toNat / 2 ^ lo / 2 ^ (k + 1)) + w.toNat / 2 ^ lo % 2 ^ (k + 1)) + w.toNat % 2 ^ lo := by
    rw [Nat.div_add_mod, Nat.div_add_mod]
  have hr : w.toNat % 2 ^ lo < 2 ^ lo := Nat.mod_lt _ (Nat.two_pow_pos _)
  have hg : w.toNat / 2 ^ lo % 2 ^ (k + 1) < 2 ^ (k + 1) := Nat.mod_lt _ (Nat.two_pow_pos _)
  have hv : v % 2 ^ (k + 1) < 2 ^ (k + 1) := Nat.mod_lt _ (Nat.two_pow_pos _)
  have hn : (setF w ⟨lo + k, lo⟩ v).toNat =
      2 ^ lo * (2 ^ (k + 1) * (w.toNat / 2 ^ lo / 2 ^ (k + 1)) + v % 2 ^ (k + 1)) + w.toNat % 2 ^ lo := by
    simp only [setF, getF, bitsOf, ek, BitVec.toNat_ofNat, Nat.shiftRight_eq_div_pow]
    generalize hA : w.toNat / 2 ^ lo / 2 ^ (k + 1) = A at *
    generalize w.toNat / 2 ^ lo % 2 ^ (k + 1) = g at *
    generalize v % 2 ^ (k + 1) = x at *
    generalize w.toNat % 2 ^ lo = r at *
    have e : w.toNat - g * 2 ^ lo + x * 2 ^ lo = 2 ^ lo * (2 ^ (k + 1) * A + x) + r := by
      have h3 : w.toNat = 2 ^ lo * (2 ^ (k + 1) * A) + g * 2 ^ lo + r := by rw [d1, Nat.mul_add, Nat.mul_comm g]
      rw [Nat.mul_add, Nat.mul_comm (2 ^ lo) x]; omega
    rw [e]; apply Nat.mod_eq_of_lt
    have hA' : A < 2 ^ (63 - (lo + k)) := by
      rw [← hA, Nat.div_div_eq_div_mul, ← Nat.pow_add]
      apply Nat.div_lt_of_lt_mul; rw [← Nat.pow_add]
      have : lo + (k + 1) + (63 - (lo + k)) = 64 := by omega
      rw [this]; exact hw
    have h4 : 2 ^ (k + 1) * A + x < 2 ^ (k + 1) * 2 ^ (63 - (lo + k)) := by
      have : 2 ^ (k + 1) * (A + 1) ≤ 2 ^ (k + 1) * 2 ^ (63 - (lo + k)) := Nat.mul_le_mul_left _ hA'
      rw [Nat.mul_add] at this; omega
    have h5 : 2 ^ lo * (2 ^ (k + 1) * A + x + 1) ≤ 2 ^ lo * (2 ^ (k + 1) * 2 ^ (63 - (lo + k))) := Nat.mul_le_mul_left _ h4
    have h6 : 2 ^ lo * (2 ^ (k + 1) * 2 ^ (63 - (lo + k))) = 2 ^ 64 := by
      rw [← Nat.pow_add, ← Nat.pow_add]; congr 1; omega
    rw [h6, Nat.mul_add] at h5; omega
  rw [hn, Nat.testBit_two_pow_mul_add _ hr]
  conv => rhs; rw [d1]
  rw [Nat.testBit_two_pow_mul_add _ hr]
  dsimp only
  by_cases c1 : i < lo
  · simp [c1] <;> omega
  · rw [if_neg c1, if_neg c1, Nat.testBit_two_pow_mul_add _ hv, Nat.testBit_two_pow_mul_add _ hg]
    by_cases c2 : i - lo < k + 1
    · rw [if_pos c2, if_pos ⟨by omega, by omega⟩, Nat.testBit_mod_two_pow]; simp [c2]
    · rw [if_neg c2, if_neg c2, if_neg (by omega)]

theorem testBit_getF (w : Word) (f : Fld) (i : Nat) : (getF w f).testBit i = (decide (i < f.hi + 1 - f.lo) && w.toNat.testBit (f.lo + i)) := by
  simp [getF, bitsOf, Nat.testBit_mod_two_pow, Nat.add_comm]

/-- The value just put into a field, cut to its width. -/
theorem getF_setF_self (w : Word) (f : Fld) (v : Nat) (h1 : f.lo ≤ f.hi) (h2 : f.hi < 64) :
    getF (setF w f v) f = v % 2 ^ (f.hi + 1 - f.lo) := by
  apply Nat.eq_of_testBit_eq; intro i
  rw [testBit_getF, testBit_setF _ _ _ _ h1 h2, Nat.testBit_mod_two_pow]
  by_cases c : i < f.hi + 1 - f.lo
  · rw [if_pos ⟨by omega, by omega⟩]; simp
  · simp [c]

/-- A field that shares no bit with the one replaced. -/
theorem getF_setF_apart (w : Word) (f k : Fld) (v : Nat) (h1 : f.lo ≤ f.hi) (h2 : f.hi < 64) (h : f.hi < k.lo ∨ k.hi < f.lo) :
    getF (setF w f v) k = getF w k := by
  apply Nat.eq_of_testBit_eq; intro i
  rw [testBit_getF, testBit_getF, testBit_setF _ _ _ _ h1 h2]
  by_cases c : i < k.hi + 1 - k.lo
  · rw [if_neg (by omega)]
  · simp [c]

theorem getF_lt (w : Word) (f : Fld) : getF w f < 2 ^ (f.hi + 1 - f.lo) := Nat.mod_lt _ (Nat.two_pow_pos _)

end Sys2Proof.Machine
end

