-- ==== Sys2Proof/Laws/State.lean ====
section
/-! SUPPORT. What each field of the state holds after each of the basic updates: by definition, and never unfolded again. -/

namespace Sys2Proof.Machine

@[simp] theorem State.setReg_pending (s : State) (a : Nat) (v : Word) : (s.setReg a v).pending = s.pending := rfl
@[simp] theorem State.setReg_part (s : State) (a : Nat) (v : Word) : (s.setReg a v).part = s.part := rfl
@[simp] theorem State.setReg_draws (s : State) (a : Nat) (v : Word) : (s.setReg a v).draws = s.draws := rfl
@[simp] theorem State.setReg_readVal (s : State) (a : Nat) (v : Word) : (s.setReg a v).readVal = s.readVal := rfl
@[simp] theorem State.setReg_readData (s : State) (a : Nat) (v : Word) : (s.setReg a v).readData = s.readData := rfl
@[simp] theorem State.setReg_regs (s : State) (a : Nat) (v : Word) : (s.setReg a v).regs = SMap.ins a v s.regs := rfl
@[simp] theorem State.setReg_mem (s : State) (a : Nat) (v : Word) : (s.setReg a v).mem = s.mem := rfl
@[simp] theorem State.setReg_poison (s : State) (a : Nat) (v : Word) : (s.setReg a v).poison = s.poison := rfl
@[simp] theorem State.setReg_upsets (s : State) (a : Nat) (v : Word) : (s.setReg a v).upsets = s.upsets := rfl
@[simp] theorem State.setReg_time (s : State) (a : Nat) (v : Word) : (s.setReg a v).time = s.time := rfl
@[simp] theorem State.setReg_evt (s : State) (a : Nat) (v : Word) : (s.setReg a v).evt = s.evt := rfl
@[simp] theorem State.setReg_partEvt (s : State) (a : Nat) (v : Word) : (s.setReg a v).partEvt = s.partEvt := rfl
@[simp] theorem State.setReg_badReg (s : State) (a : Nat) (v : Word) : (s.setReg a v).badReg = s.badReg := rfl
@[simp] theorem State.setReg_teams (s : State) (a : Nat) (v : Word) : (s.setReg a v).teams = s.teams := rfl
@[simp] theorem State.setReg_adm (s : State) (a : Nat) (v : Word) : (s.setReg a v).adm = s.adm := rfl
@[simp] theorem State.setReg_host (s : State) (a : Nat) (v : Word) : (s.setReg a v).host = s.host := rfl
@[simp] theorem State.setReg_cells (s : State) (a : Nat) (v : Word) : (s.setReg a v).cells = s.cells := rfl
@[simp] theorem State.setReg_clus (s : State) (a : Nat) (v : Word) : (s.setReg a v).clus = s.clus := rfl
@[simp] theorem State.setReg_net (s : State) (a : Nat) (v : Word) : (s.setReg a v).net = s.net := rfl
@[simp] theorem State.setReg_xbar (s : State) (a : Nat) (v : Word) : (s.setReg a v).xbar = s.xbar := rfl
@[simp] theorem State.setReg_links (s : State) (a : Nat) (v : Word) : (s.setReg a v).links = s.links := rfl
@[simp] theorem State.setReg_nbr (s : State) (a : Nat) (v : Word) : (s.setReg a v).nbr = s.nbr := rfl
@[simp] theorem State.setReg_anchors (s : State) (a : Nat) (v : Word) : (s.setReg a v).anchors = s.anchors := rfl
@[simp] theorem State.setReg_ancPois (s : State) (a : Nat) (v : Word) : (s.setReg a v).ancPois = s.ancPois := rfl
@[simp] theorem State.setReg_bars (s : State) (a : Nat) (v : Word) : (s.setReg a v).bars = s.bars := rfl
@[simp] theorem State.setReg_tlbBusy (s : State) (a : Nat) (v : Word) : (s.setReg a v).tlbBusy = s.tlbBusy := rfl
@[simp] theorem State.setReg_layout (s : State) (a : Nat) (v : Word) : (s.setReg a v).layout = s.layout := rfl
@[simp] theorem State.setReg_imsic (s : State) (a : Nat) (v : Word) : (s.setReg a v).imsic = s.imsic := rfl
@[simp] theorem State.setReg_sec (s : State) (a : Nat) (v : Word) : (s.setReg a v).sec = s.sec := rfl
@[simp] theorem State.setReg_flash (s : State) (a : Nat) (v : Word) : (s.setReg a v).flash = s.flash := rfl
@[simp] theorem State.setReg_pwr (s : State) (a : Nat) (v : Word) : (s.setReg a v).pwr = s.pwr := rfl
@[simp] theorem State.setReg_boot (s : State) (a : Nat) (v : Word) : (s.setReg a v).boot = s.boot := rfl
@[simp] theorem State.setReg_tap (s : State) (a : Nat) (v : Word) : (s.setReg a v).tap = s.tap := rfl
@[simp] theorem State.setReg_integ (s : State) (a : Nat) (v : Word) : (s.setReg a v).integ = s.integ := rfl
@[simp] theorem State.setReg_cxl (s : State) (a : Nat) (v : Word) : (s.setReg a v).cxl = s.cxl := rfl
@[simp] theorem State.setReg_cores (s : State) (a : Nat) (v : Word) : (s.setReg a v).cores = s.cores := rfl
@[simp] theorem State.setReg_dir (s : State) (a : Nat) (v : Word) : (s.setReg a v).dir = s.dir := rfl
@[simp] theorem State.setReg_link (s : State) (a : Nat) (v : Word) : (s.setReg a v).link = s.link := rfl
@[simp] theorem State.setReg_exporting (s : State) (a : Nat) (v : Word) : (s.setReg a v).exporting = s.exporting := rfl

@[simp] theorem State.setFld_pending (s : State) (a : Nat) (f : Fld) (v : Nat) : (s.setFld a f v).pending = s.pending := rfl
@[simp] theorem State.setFld_part (s : State) (a : Nat) (f : Fld) (v : Nat) : (s.setFld a f v).part = s.part := rfl
@[simp] theorem State.setFld_draws (s : State) (a : Nat) (f : Fld) (v : Nat) : (s.setFld a f v).draws = s.draws := rfl
@[simp] theorem State.setFld_readVal (s : State) (a : Nat) (f : Fld) (v : Nat) : (s.setFld a f v).readVal = s.readVal := rfl
@[simp] theorem State.setFld_readData (s : State) (a : Nat) (f : Fld) (v : Nat) : (s.setFld a f v).readData = s.readData := rfl
@[simp] theorem State.setFld_regs (s : State) (a : Nat) (f : Fld) (v : Nat) : (s.setFld a f v).regs = SMap.ins a (setF (s.reg a) f v) s.regs := rfl
@[simp] theorem State.setFld_mem (s : State) (a : Nat) (f : Fld) (v : Nat) : (s.setFld a f v).mem = s.mem := rfl
@[simp] theorem State.setFld_poison (s : State) (a : Nat) (f : Fld) (v : Nat) : (s.setFld a f v).poison = s.poison := rfl
@[simp] theorem State.setFld_upsets (s : State) (a : Nat) (f : Fld) (v : Nat) : (s.setFld a f v).upsets = s.upsets := rfl
@[simp] theorem State.setFld_time (s : State) (a : Nat) (f : Fld) (v : Nat) : (s.setFld a f v).time = s.time := rfl
@[simp] theorem State.setFld_evt (s : State) (a : Nat) (f : Fld) (v : Nat) : (s.setFld a f v).evt = s.evt := rfl
@[simp] theorem State.setFld_partEvt (s : State) (a : Nat) (f : Fld) (v : Nat) : (s.setFld a f v).partEvt = s.partEvt := rfl
@[simp] theorem State.setFld_badReg (s : State) (a : Nat) (f : Fld) (v : Nat) : (s.setFld a f v).badReg = s.badReg := rfl
@[simp] theorem State.setFld_teams (s : State) (a : Nat) (f : Fld) (v : Nat) : (s.setFld a f v).teams = s.teams := rfl
@[simp] theorem State.setFld_adm (s : State) (a : Nat) (f : Fld) (v : Nat) : (s.setFld a f v).adm = s.adm := rfl
@[simp] theorem State.setFld_host (s : State) (a : Nat) (f : Fld) (v : Nat) : (s.setFld a f v).host = s.host := rfl
@[simp] theorem State.setFld_cells (s : State) (a : Nat) (f : Fld) (v : Nat) : (s.setFld a f v).cells = s.cells := rfl
@[simp] theorem State.setFld_clus (s : State) (a : Nat) (f : Fld) (v : Nat) : (s.setFld a f v).clus = s.clus := rfl
@[simp] theorem State.setFld_net (s : State) (a : Nat) (f : Fld) (v : Nat) : (s.setFld a f v).net = s.net := rfl
@[simp] theorem State.setFld_xbar (s : State) (a : Nat) (f : Fld) (v : Nat) : (s.setFld a f v).xbar = s.xbar := rfl
@[simp] theorem State.setFld_links (s : State) (a : Nat) (f : Fld) (v : Nat) : (s.setFld a f v).links = s.links := rfl
@[simp] theorem State.setFld_nbr (s : State) (a : Nat) (f : Fld) (v : Nat) : (s.setFld a f v).nbr = s.nbr := rfl
@[simp] theorem State.setFld_anchors (s : State) (a : Nat) (f : Fld) (v : Nat) : (s.setFld a f v).anchors = s.anchors := rfl
@[simp] theorem State.setFld_ancPois (s : State) (a : Nat) (f : Fld) (v : Nat) : (s.setFld a f v).ancPois = s.ancPois := rfl
@[simp] theorem State.setFld_bars (s : State) (a : Nat) (f : Fld) (v : Nat) : (s.setFld a f v).bars = s.bars := rfl
@[simp] theorem State.setFld_tlbBusy (s : State) (a : Nat) (f : Fld) (v : Nat) : (s.setFld a f v).tlbBusy = s.tlbBusy := rfl
@[simp] theorem State.setFld_layout (s : State) (a : Nat) (f : Fld) (v : Nat) : (s.setFld a f v).layout = s.layout := rfl
@[simp] theorem State.setFld_imsic (s : State) (a : Nat) (f : Fld) (v : Nat) : (s.setFld a f v).imsic = s.imsic := rfl
@[simp] theorem State.setFld_sec (s : State) (a : Nat) (f : Fld) (v : Nat) : (s.setFld a f v).sec = s.sec := rfl
@[simp] theorem State.setFld_flash (s : State) (a : Nat) (f : Fld) (v : Nat) : (s.setFld a f v).flash = s.flash := rfl
@[simp] theorem State.setFld_pwr (s : State) (a : Nat) (f : Fld) (v : Nat) : (s.setFld a f v).pwr = s.pwr := rfl
@[simp] theorem State.setFld_boot (s : State) (a : Nat) (f : Fld) (v : Nat) : (s.setFld a f v).boot = s.boot := rfl
@[simp] theorem State.setFld_tap (s : State) (a : Nat) (f : Fld) (v : Nat) : (s.setFld a f v).tap = s.tap := rfl
@[simp] theorem State.setFld_integ (s : State) (a : Nat) (f : Fld) (v : Nat) : (s.setFld a f v).integ = s.integ := rfl
@[simp] theorem State.setFld_cxl (s : State) (a : Nat) (f : Fld) (v : Nat) : (s.setFld a f v).cxl = s.cxl := rfl
@[simp] theorem State.setFld_cores (s : State) (a : Nat) (f : Fld) (v : Nat) : (s.setFld a f v).cores = s.cores := rfl
@[simp] theorem State.setFld_dir (s : State) (a : Nat) (f : Fld) (v : Nat) : (s.setFld a f v).dir = s.dir := rfl
@[simp] theorem State.setFld_link (s : State) (a : Nat) (f : Fld) (v : Nat) : (s.setFld a f v).link = s.link := rfl
@[simp] theorem State.setFld_exporting (s : State) (a : Nat) (f : Fld) (v : Nat) : (s.setFld a f v).exporting = s.exporting := rfl

@[simp] theorem State.clearRegs_pending (s : State) (p : Nat → Bool) : (s.clearRegs p).pending = s.pending := rfl
@[simp] theorem State.clearRegs_part (s : State) (p : Nat → Bool) : (s.clearRegs p).part = s.part := rfl
@[simp] theorem State.clearRegs_draws (s : State) (p : Nat → Bool) : (s.clearRegs p).draws = s.draws := rfl
@[simp] theorem State.clearRegs_readVal (s : State) (p : Nat → Bool) : (s.clearRegs p).readVal = s.readVal := rfl
@[simp] theorem State.clearRegs_readData (s : State) (p : Nat → Bool) : (s.clearRegs p).readData = s.readData := rfl
@[simp] theorem State.clearRegs_regs (s : State) (p : Nat → Bool) : (s.clearRegs p).regs = s.regs.filter (fun r => !p r.1) := rfl
@[simp] theorem State.clearRegs_mem (s : State) (p : Nat → Bool) : (s.clearRegs p).mem = s.mem := rfl
@[simp] theorem State.clearRegs_poison (s : State) (p : Nat → Bool) : (s.clearRegs p).poison = s.poison := rfl
@[simp] theorem State.clearRegs_upsets (s : State) (p : Nat → Bool) : (s.clearRegs p).upsets = s.upsets := rfl
@[simp] theorem State.clearRegs_time (s : State) (p : Nat → Bool) : (s.clearRegs p).time = s.time := rfl
@[simp] theorem State.clearRegs_evt (s : State) (p : Nat → Bool) : (s.clearRegs p).evt = s.evt := rfl
@[simp] theorem State.clearRegs_partEvt (s : State) (p : Nat → Bool) : (s.clearRegs p).partEvt = s.partEvt := rfl
@[simp] theorem State.clearRegs_badReg (s : State) (p : Nat → Bool) : (s.clearRegs p).badReg = s.badReg := rfl
@[simp] theorem State.clearRegs_teams (s : State) (p : Nat → Bool) : (s.clearRegs p).teams = s.teams := rfl
@[simp] theorem State.clearRegs_adm (s : State) (p : Nat → Bool) : (s.clearRegs p).adm = s.adm := rfl
@[simp] theorem State.clearRegs_host (s : State) (p : Nat → Bool) : (s.clearRegs p).host = s.host := rfl
@[simp] theorem State.clearRegs_cells (s : State) (p : Nat → Bool) : (s.clearRegs p).cells = s.cells := rfl
@[simp] theorem State.clearRegs_clus (s : State) (p : Nat → Bool) : (s.clearRegs p).clus = s.clus := rfl
@[simp] theorem State.clearRegs_net (s : State) (p : Nat → Bool) : (s.clearRegs p).net = s.net := rfl
@[simp] theorem State.clearRegs_xbar (s : State) (p : Nat → Bool) : (s.clearRegs p).xbar = s.xbar := rfl
@[simp] theorem State.clearRegs_links (s : State) (p : Nat → Bool) : (s.clearRegs p).links = s.links := rfl
@[simp] theorem State.clearRegs_nbr (s : State) (p : Nat → Bool) : (s.clearRegs p).nbr = s.nbr := rfl
@[simp] theorem State.clearRegs_anchors (s : State) (p : Nat → Bool) : (s.clearRegs p).anchors = s.anchors := rfl
@[simp] theorem State.clearRegs_ancPois (s : State) (p : Nat → Bool) : (s.clearRegs p).ancPois = s.ancPois := rfl
@[simp] theorem State.clearRegs_bars (s : State) (p : Nat → Bool) : (s.clearRegs p).bars = s.bars := rfl
@[simp] theorem State.clearRegs_tlbBusy (s : State) (p : Nat → Bool) : (s.clearRegs p).tlbBusy = s.tlbBusy := rfl
@[simp] theorem State.clearRegs_layout (s : State) (p : Nat → Bool) : (s.clearRegs p).layout = s.layout := rfl
@[simp] theorem State.clearRegs_imsic (s : State) (p : Nat → Bool) : (s.clearRegs p).imsic = s.imsic := rfl
@[simp] theorem State.clearRegs_sec (s : State) (p : Nat → Bool) : (s.clearRegs p).sec = s.sec := rfl
@[simp] theorem State.clearRegs_flash (s : State) (p : Nat → Bool) : (s.clearRegs p).flash = s.flash := rfl
@[simp] theorem State.clearRegs_pwr (s : State) (p : Nat → Bool) : (s.clearRegs p).pwr = s.pwr := rfl
@[simp] theorem State.clearRegs_boot (s : State) (p : Nat → Bool) : (s.clearRegs p).boot = s.boot := rfl
@[simp] theorem State.clearRegs_tap (s : State) (p : Nat → Bool) : (s.clearRegs p).tap = s.tap := rfl
@[simp] theorem State.clearRegs_integ (s : State) (p : Nat → Bool) : (s.clearRegs p).integ = s.integ := rfl
@[simp] theorem State.clearRegs_cxl (s : State) (p : Nat → Bool) : (s.clearRegs p).cxl = s.cxl := rfl
@[simp] theorem State.clearRegs_cores (s : State) (p : Nat → Bool) : (s.clearRegs p).cores = s.cores := rfl
@[simp] theorem State.clearRegs_dir (s : State) (p : Nat → Bool) : (s.clearRegs p).dir = s.dir := rfl
@[simp] theorem State.clearRegs_link (s : State) (p : Nat → Bool) : (s.clearRegs p).link = s.link := rfl
@[simp] theorem State.clearRegs_exporting (s : State) (p : Nat → Bool) : (s.clearRegs p).exporting = s.exporting := rfl

@[simp] theorem State.setCell_pending (s : State) (L : Nat) (c : Cell) : (s.setCell L c).pending = s.pending := rfl
@[simp] theorem State.setCell_part (s : State) (L : Nat) (c : Cell) : (s.setCell L c).part = s.part := rfl
@[simp] theorem State.setCell_draws (s : State) (L : Nat) (c : Cell) : (s.setCell L c).draws = s.draws := rfl
@[simp] theorem State.setCell_readVal (s : State) (L : Nat) (c : Cell) : (s.setCell L c).readVal = s.readVal := rfl
@[simp] theorem State.setCell_readData (s : State) (L : Nat) (c : Cell) : (s.setCell L c).readData = s.readData := rfl
@[simp] theorem State.setCell_regs (s : State) (L : Nat) (c : Cell) : (s.setCell L c).regs = s.regs := rfl
@[simp] theorem State.setCell_mem (s : State) (L : Nat) (c : Cell) : (s.setCell L c).mem = s.mem := rfl
@[simp] theorem State.setCell_poison (s : State) (L : Nat) (c : Cell) : (s.setCell L c).poison = s.poison := rfl
@[simp] theorem State.setCell_upsets (s : State) (L : Nat) (c : Cell) : (s.setCell L c).upsets = s.upsets := rfl
@[simp] theorem State.setCell_time (s : State) (L : Nat) (c : Cell) : (s.setCell L c).time = s.time := rfl
@[simp] theorem State.setCell_evt (s : State) (L : Nat) (c : Cell) : (s.setCell L c).evt = s.evt := rfl
@[simp] theorem State.setCell_partEvt (s : State) (L : Nat) (c : Cell) : (s.setCell L c).partEvt = s.partEvt := rfl
@[simp] theorem State.setCell_badReg (s : State) (L : Nat) (c : Cell) : (s.setCell L c).badReg = s.badReg := rfl
@[simp] theorem State.setCell_teams (s : State) (L : Nat) (c : Cell) : (s.setCell L c).teams = s.teams := rfl
@[simp] theorem State.setCell_adm (s : State) (L : Nat) (c : Cell) : (s.setCell L c).adm = s.adm := rfl
@[simp] theorem State.setCell_host (s : State) (L : Nat) (c : Cell) : (s.setCell L c).host = s.host := rfl
@[simp] theorem State.setCell_cells (s : State) (L : Nat) (c : Cell) : (s.setCell L c).cells = SMap.ins L c s.cells := rfl
@[simp] theorem State.setCell_clus (s : State) (L : Nat) (c : Cell) : (s.setCell L c).clus = s.clus := rfl
@[simp] theorem State.setCell_net (s : State) (L : Nat) (c : Cell) : (s.setCell L c).net = s.net := rfl
@[simp] theorem State.setCell_xbar (s : State) (L : Nat) (c : Cell) : (s.setCell L c).xbar = s.xbar := rfl
@[simp] theorem State.setCell_links (s : State) (L : Nat) (c : Cell) : (s.setCell L c).links = s.links := rfl
@[simp] theorem State.setCell_nbr (s : State) (L : Nat) (c : Cell) : (s.setCell L c).nbr = s.nbr := rfl
@[simp] theorem State.setCell_anchors (s : State) (L : Nat) (c : Cell) : (s.setCell L c).anchors = s.anchors := rfl
@[simp] theorem State.setCell_ancPois (s : State) (L : Nat) (c : Cell) : (s.setCell L c).ancPois = s.ancPois := rfl
@[simp] theorem State.setCell_bars (s : State) (L : Nat) (c : Cell) : (s.setCell L c).bars = s.bars := rfl
@[simp] theorem State.setCell_tlbBusy (s : State) (L : Nat) (c : Cell) : (s.setCell L c).tlbBusy = s.tlbBusy := rfl
@[simp] theorem State.setCell_layout (s : State) (L : Nat) (c : Cell) : (s.setCell L c).layout = s.layout := rfl
@[simp] theorem State.setCell_imsic (s : State) (L : Nat) (c : Cell) : (s.setCell L c).imsic = s.imsic := rfl
@[simp] theorem State.setCell_sec (s : State) (L : Nat) (c : Cell) : (s.setCell L c).sec = s.sec := rfl
@[simp] theorem State.setCell_flash (s : State) (L : Nat) (c : Cell) : (s.setCell L c).flash = s.flash := rfl
@[simp] theorem State.setCell_pwr (s : State) (L : Nat) (c : Cell) : (s.setCell L c).pwr = s.pwr := rfl
@[simp] theorem State.setCell_boot (s : State) (L : Nat) (c : Cell) : (s.setCell L c).boot = s.boot := rfl
@[simp] theorem State.setCell_tap (s : State) (L : Nat) (c : Cell) : (s.setCell L c).tap = s.tap := rfl
@[simp] theorem State.setCell_integ (s : State) (L : Nat) (c : Cell) : (s.setCell L c).integ = s.integ := rfl
@[simp] theorem State.setCell_cxl (s : State) (L : Nat) (c : Cell) : (s.setCell L c).cxl = s.cxl := rfl
@[simp] theorem State.setCell_cores (s : State) (L : Nat) (c : Cell) : (s.setCell L c).cores = s.cores := rfl
@[simp] theorem State.setCell_dir (s : State) (L : Nat) (c : Cell) : (s.setCell L c).dir = s.dir := rfl
@[simp] theorem State.setCell_link (s : State) (L : Nat) (c : Cell) : (s.setCell L c).link = s.link := rfl
@[simp] theorem State.setCell_exporting (s : State) (L : Nat) (c : Cell) : (s.setCell L c).exporting = s.exporting := rfl

@[simp] theorem State.setClu_pending (s : State) (g : Nat) (c : Clu) : (s.setClu g c).pending = s.pending := rfl
@[simp] theorem State.setClu_part (s : State) (g : Nat) (c : Clu) : (s.setClu g c).part = s.part := rfl
@[simp] theorem State.setClu_draws (s : State) (g : Nat) (c : Clu) : (s.setClu g c).draws = s.draws := rfl
@[simp] theorem State.setClu_readVal (s : State) (g : Nat) (c : Clu) : (s.setClu g c).readVal = s.readVal := rfl
@[simp] theorem State.setClu_readData (s : State) (g : Nat) (c : Clu) : (s.setClu g c).readData = s.readData := rfl
@[simp] theorem State.setClu_regs (s : State) (g : Nat) (c : Clu) : (s.setClu g c).regs = s.regs := rfl
@[simp] theorem State.setClu_mem (s : State) (g : Nat) (c : Clu) : (s.setClu g c).mem = s.mem := rfl
@[simp] theorem State.setClu_poison (s : State) (g : Nat) (c : Clu) : (s.setClu g c).poison = s.poison := rfl
@[simp] theorem State.setClu_upsets (s : State) (g : Nat) (c : Clu) : (s.setClu g c).upsets = s.upsets := rfl
@[simp] theorem State.setClu_time (s : State) (g : Nat) (c : Clu) : (s.setClu g c).time = s.time := rfl
@[simp] theorem State.setClu_evt (s : State) (g : Nat) (c : Clu) : (s.setClu g c).evt = s.evt := rfl
@[simp] theorem State.setClu_partEvt (s : State) (g : Nat) (c : Clu) : (s.setClu g c).partEvt = s.partEvt := rfl
@[simp] theorem State.setClu_badReg (s : State) (g : Nat) (c : Clu) : (s.setClu g c).badReg = s.badReg := rfl
@[simp] theorem State.setClu_teams (s : State) (g : Nat) (c : Clu) : (s.setClu g c).teams = s.teams := rfl
@[simp] theorem State.setClu_adm (s : State) (g : Nat) (c : Clu) : (s.setClu g c).adm = s.adm := rfl
@[simp] theorem State.setClu_host (s : State) (g : Nat) (c : Clu) : (s.setClu g c).host = s.host := rfl
@[simp] theorem State.setClu_cells (s : State) (g : Nat) (c : Clu) : (s.setClu g c).cells = s.cells := rfl
@[simp] theorem State.setClu_clus (s : State) (g : Nat) (c : Clu) : (s.setClu g c).clus = SMap.ins g c s.clus := rfl
@[simp] theorem State.setClu_net (s : State) (g : Nat) (c : Clu) : (s.setClu g c).net = s.net := rfl
@[simp] theorem State.setClu_xbar (s : State) (g : Nat) (c : Clu) : (s.setClu g c).xbar = s.xbar := rfl
@[simp] theorem State.setClu_links (s : State) (g : Nat) (c : Clu) : (s.setClu g c).links = s.links := rfl
@[simp] theorem State.setClu_nbr (s : State) (g : Nat) (c : Clu) : (s.setClu g c).nbr = s.nbr := rfl
@[simp] theorem State.setClu_anchors (s : State) (g : Nat) (c : Clu) : (s.setClu g c).anchors = s.anchors := rfl
@[simp] theorem State.setClu_ancPois (s : State) (g : Nat) (c : Clu) : (s.setClu g c).ancPois = s.ancPois := rfl
@[simp] theorem State.setClu_bars (s : State) (g : Nat) (c : Clu) : (s.setClu g c).bars = s.bars := rfl
@[simp] theorem State.setClu_tlbBusy (s : State) (g : Nat) (c : Clu) : (s.setClu g c).tlbBusy = s.tlbBusy := rfl
@[simp] theorem State.setClu_layout (s : State) (g : Nat) (c : Clu) : (s.setClu g c).layout = s.layout := rfl
@[simp] theorem State.setClu_imsic (s : State) (g : Nat) (c : Clu) : (s.setClu g c).imsic = s.imsic := rfl
@[simp] theorem State.setClu_sec (s : State) (g : Nat) (c : Clu) : (s.setClu g c).sec = s.sec := rfl
@[simp] theorem State.setClu_flash (s : State) (g : Nat) (c : Clu) : (s.setClu g c).flash = s.flash := rfl
@[simp] theorem State.setClu_pwr (s : State) (g : Nat) (c : Clu) : (s.setClu g c).pwr = s.pwr := rfl
@[simp] theorem State.setClu_boot (s : State) (g : Nat) (c : Clu) : (s.setClu g c).boot = s.boot := rfl
@[simp] theorem State.setClu_tap (s : State) (g : Nat) (c : Clu) : (s.setClu g c).tap = s.tap := rfl
@[simp] theorem State.setClu_integ (s : State) (g : Nat) (c : Clu) : (s.setClu g c).integ = s.integ := rfl
@[simp] theorem State.setClu_cxl (s : State) (g : Nat) (c : Clu) : (s.setClu g c).cxl = s.cxl := rfl
@[simp] theorem State.setClu_cores (s : State) (g : Nat) (c : Clu) : (s.setClu g c).cores = s.cores := rfl
@[simp] theorem State.setClu_dir (s : State) (g : Nat) (c : Clu) : (s.setClu g c).dir = s.dir := rfl
@[simp] theorem State.setClu_link (s : State) (g : Nat) (c : Clu) : (s.setClu g c).link = s.link := rfl
@[simp] theorem State.setClu_exporting (s : State) (g : Nat) (c : Clu) : (s.setClu g c).exporting = s.exporting := rfl

@[simp] theorem State.setTeam_pending (s : State) (t : Nat) (x : Team) : (s.setTeam t x).pending = s.pending := rfl
@[simp] theorem State.setTeam_part (s : State) (t : Nat) (x : Team) : (s.setTeam t x).part = s.part := rfl
@[simp] theorem State.setTeam_draws (s : State) (t : Nat) (x : Team) : (s.setTeam t x).draws = s.draws := rfl
@[simp] theorem State.setTeam_readVal (s : State) (t : Nat) (x : Team) : (s.setTeam t x).readVal = s.readVal := rfl
@[simp] theorem State.setTeam_readData (s : State) (t : Nat) (x : Team) : (s.setTeam t x).readData = s.readData := rfl
@[simp] theorem State.setTeam_regs (s : State) (t : Nat) (x : Team) : (s.setTeam t x).regs = s.regs := rfl
@[simp] theorem State.setTeam_mem (s : State) (t : Nat) (x : Team) : (s.setTeam t x).mem = s.mem := rfl
@[simp] theorem State.setTeam_poison (s : State) (t : Nat) (x : Team) : (s.setTeam t x).poison = s.poison := rfl
@[simp] theorem State.setTeam_upsets (s : State) (t : Nat) (x : Team) : (s.setTeam t x).upsets = s.upsets := rfl
@[simp] theorem State.setTeam_time (s : State) (t : Nat) (x : Team) : (s.setTeam t x).time = s.time := rfl
@[simp] theorem State.setTeam_evt (s : State) (t : Nat) (x : Team) : (s.setTeam t x).evt = s.evt := rfl
@[simp] theorem State.setTeam_partEvt (s : State) (t : Nat) (x : Team) : (s.setTeam t x).partEvt = s.partEvt := rfl
@[simp] theorem State.setTeam_badReg (s : State) (t : Nat) (x : Team) : (s.setTeam t x).badReg = s.badReg := rfl
@[simp] theorem State.setTeam_teams (s : State) (t : Nat) (x : Team) : (s.setTeam t x).teams = SMap.ins t x s.teams := rfl
@[simp] theorem State.setTeam_adm (s : State) (t : Nat) (x : Team) : (s.setTeam t x).adm = s.adm := rfl
@[simp] theorem State.setTeam_host (s : State) (t : Nat) (x : Team) : (s.setTeam t x).host = s.host := rfl
@[simp] theorem State.setTeam_cells (s : State) (t : Nat) (x : Team) : (s.setTeam t x).cells = s.cells := rfl
@[simp] theorem State.setTeam_clus (s : State) (t : Nat) (x : Team) : (s.setTeam t x).clus = s.clus := rfl
@[simp] theorem State.setTeam_net (s : State) (t : Nat) (x : Team) : (s.setTeam t x).net = s.net := rfl
@[simp] theorem State.setTeam_xbar (s : State) (t : Nat) (x : Team) : (s.setTeam t x).xbar = s.xbar := rfl
@[simp] theorem State.setTeam_links (s : State) (t : Nat) (x : Team) : (s.setTeam t x).links = s.links := rfl
@[simp] theorem State.setTeam_nbr (s : State) (t : Nat) (x : Team) : (s.setTeam t x).nbr = s.nbr := rfl
@[simp] theorem State.setTeam_anchors (s : State) (t : Nat) (x : Team) : (s.setTeam t x).anchors = s.anchors := rfl
@[simp] theorem State.setTeam_ancPois (s : State) (t : Nat) (x : Team) : (s.setTeam t x).ancPois = s.ancPois := rfl
@[simp] theorem State.setTeam_bars (s : State) (t : Nat) (x : Team) : (s.setTeam t x).bars = s.bars := rfl
@[simp] theorem State.setTeam_tlbBusy (s : State) (t : Nat) (x : Team) : (s.setTeam t x).tlbBusy = s.tlbBusy := rfl
@[simp] theorem State.setTeam_layout (s : State) (t : Nat) (x : Team) : (s.setTeam t x).layout = s.layout := rfl
@[simp] theorem State.setTeam_imsic (s : State) (t : Nat) (x : Team) : (s.setTeam t x).imsic = s.imsic := rfl
@[simp] theorem State.setTeam_sec (s : State) (t : Nat) (x : Team) : (s.setTeam t x).sec = s.sec := rfl
@[simp] theorem State.setTeam_flash (s : State) (t : Nat) (x : Team) : (s.setTeam t x).flash = s.flash := rfl
@[simp] theorem State.setTeam_pwr (s : State) (t : Nat) (x : Team) : (s.setTeam t x).pwr = s.pwr := rfl
@[simp] theorem State.setTeam_boot (s : State) (t : Nat) (x : Team) : (s.setTeam t x).boot = s.boot := rfl
@[simp] theorem State.setTeam_tap (s : State) (t : Nat) (x : Team) : (s.setTeam t x).tap = s.tap := rfl
@[simp] theorem State.setTeam_integ (s : State) (t : Nat) (x : Team) : (s.setTeam t x).integ = s.integ := rfl
@[simp] theorem State.setTeam_cxl (s : State) (t : Nat) (x : Team) : (s.setTeam t x).cxl = s.cxl := rfl
@[simp] theorem State.setTeam_cores (s : State) (t : Nat) (x : Team) : (s.setTeam t x).cores = s.cores := rfl
@[simp] theorem State.setTeam_dir (s : State) (t : Nat) (x : Team) : (s.setTeam t x).dir = s.dir := rfl
@[simp] theorem State.setTeam_link (s : State) (t : Nat) (x : Team) : (s.setTeam t x).link = s.link := rfl
@[simp] theorem State.setTeam_exporting (s : State) (t : Nat) (x : Team) : (s.setTeam t x).exporting = s.exporting := rfl

@[simp] theorem State.wr_pending (s : State) (a : Nat) (bs : List Byte) (bad : List Nat) : (s.wr a bs bad).pending = s.pending := rfl
@[simp] theorem State.wr_part (s : State) (a : Nat) (bs : List Byte) (bad : List Nat) : (s.wr a bs bad).part = s.part := rfl
@[simp] theorem State.wr_draws (s : State) (a : Nat) (bs : List Byte) (bad : List Nat) : (s.wr a bs bad).draws = s.draws := rfl
@[simp] theorem State.wr_readVal (s : State) (a : Nat) (bs : List Byte) (bad : List Nat) : (s.wr a bs bad).readVal = s.readVal := rfl
@[simp] theorem State.wr_readData (s : State) (a : Nat) (bs : List Byte) (bad : List Nat) : (s.wr a bs bad).readData = s.readData := rfl
@[simp] theorem State.wr_regs (s : State) (a : Nat) (bs : List Byte) (bad : List Nat) : (s.wr a bs bad).regs = s.regs := rfl
@[simp] theorem State.wr_mem (s : State) (a : Nat) (bs : List Byte) (bad : List Nat) : (s.wr a bs bad).mem = memWriteN s.mem a bs := rfl
@[simp] theorem State.wr_poison (s : State) (a : Nat) (bs : List Byte) (bad : List Nat) : (s.wr a bs bad).poison = poisonAfter s.poison a bs.length bad := rfl
@[simp] theorem State.wr_upsets (s : State) (a : Nat) (bs : List Byte) (bad : List Nat) : (s.wr a bs bad).upsets = s.upsets := rfl
@[simp] theorem State.wr_time (s : State) (a : Nat) (bs : List Byte) (bad : List Nat) : (s.wr a bs bad).time = s.time := rfl
@[simp] theorem State.wr_evt (s : State) (a : Nat) (bs : List Byte) (bad : List Nat) : (s.wr a bs bad).evt = s.evt := rfl
@[simp] theorem State.wr_partEvt (s : State) (a : Nat) (bs : List Byte) (bad : List Nat) : (s.wr a bs bad).partEvt = s.partEvt := rfl
@[simp] theorem State.wr_badReg (s : State) (a : Nat) (bs : List Byte) (bad : List Nat) : (s.wr a bs bad).badReg = s.badReg := rfl
@[simp] theorem State.wr_teams (s : State) (a : Nat) (bs : List Byte) (bad : List Nat) : (s.wr a bs bad).teams = s.teams := rfl
@[simp] theorem State.wr_adm (s : State) (a : Nat) (bs : List Byte) (bad : List Nat) : (s.wr a bs bad).adm = s.adm := rfl
@[simp] theorem State.wr_host (s : State) (a : Nat) (bs : List Byte) (bad : List Nat) : (s.wr a bs bad).host = s.host := rfl
@[simp] theorem State.wr_cells (s : State) (a : Nat) (bs : List Byte) (bad : List Nat) : (s.wr a bs bad).cells = s.cells := rfl
@[simp] theorem State.wr_clus (s : State) (a : Nat) (bs : List Byte) (bad : List Nat) : (s.wr a bs bad).clus = s.clus := rfl
@[simp] theorem State.wr_net (s : State) (a : Nat) (bs : List Byte) (bad : List Nat) : (s.wr a bs bad).net = s.net := rfl
@[simp] theorem State.wr_xbar (s : State) (a : Nat) (bs : List Byte) (bad : List Nat) : (s.wr a bs bad).xbar = s.xbar := rfl
@[simp] theorem State.wr_links (s : State) (a : Nat) (bs : List Byte) (bad : List Nat) : (s.wr a bs bad).links = s.links := rfl
@[simp] theorem State.wr_nbr (s : State) (a : Nat) (bs : List Byte) (bad : List Nat) : (s.wr a bs bad).nbr = s.nbr := rfl
@[simp] theorem State.wr_anchors (s : State) (a : Nat) (bs : List Byte) (bad : List Nat) : (s.wr a bs bad).anchors = s.anchors := rfl
@[simp] theorem State.wr_ancPois (s : State) (a : Nat) (bs : List Byte) (bad : List Nat) : (s.wr a bs bad).ancPois = s.ancPois := rfl
@[simp] theorem State.wr_bars (s : State) (a : Nat) (bs : List Byte) (bad : List Nat) : (s.wr a bs bad).bars = s.bars := rfl
@[simp] theorem State.wr_tlbBusy (s : State) (a : Nat) (bs : List Byte) (bad : List Nat) : (s.wr a bs bad).tlbBusy = s.tlbBusy := rfl
@[simp] theorem State.wr_layout (s : State) (a : Nat) (bs : List Byte) (bad : List Nat) : (s.wr a bs bad).layout = s.layout := rfl
@[simp] theorem State.wr_imsic (s : State) (a : Nat) (bs : List Byte) (bad : List Nat) : (s.wr a bs bad).imsic = s.imsic := rfl
@[simp] theorem State.wr_sec (s : State) (a : Nat) (bs : List Byte) (bad : List Nat) : (s.wr a bs bad).sec = s.sec := rfl
@[simp] theorem State.wr_flash (s : State) (a : Nat) (bs : List Byte) (bad : List Nat) : (s.wr a bs bad).flash = s.flash := rfl
@[simp] theorem State.wr_pwr (s : State) (a : Nat) (bs : List Byte) (bad : List Nat) : (s.wr a bs bad).pwr = s.pwr := rfl
@[simp] theorem State.wr_boot (s : State) (a : Nat) (bs : List Byte) (bad : List Nat) : (s.wr a bs bad).boot = s.boot := rfl
@[simp] theorem State.wr_tap (s : State) (a : Nat) (bs : List Byte) (bad : List Nat) : (s.wr a bs bad).tap = s.tap := rfl
@[simp] theorem State.wr_integ (s : State) (a : Nat) (bs : List Byte) (bad : List Nat) : (s.wr a bs bad).integ = s.integ := rfl
@[simp] theorem State.wr_cxl (s : State) (a : Nat) (bs : List Byte) (bad : List Nat) : (s.wr a bs bad).cxl = s.cxl := rfl
@[simp] theorem State.wr_cores (s : State) (a : Nat) (bs : List Byte) (bad : List Nat) : (s.wr a bs bad).cores = s.cores := rfl
@[simp] theorem State.wr_dir (s : State) (a : Nat) (bs : List Byte) (bad : List Nat) : (s.wr a bs bad).dir = s.dir := rfl
@[simp] theorem State.wr_link (s : State) (a : Nat) (bs : List Byte) (bad : List Nat) : (s.wr a bs bad).link = s.link := rfl
@[simp] theorem State.wr_exporting (s : State) (a : Nat) (bs : List Byte) (bad : List Nat) : (s.wr a bs bad).exporting = s.exporting := rfl

/-! ### Reading back -/

@[simp] theorem State.reg_setReg (s : State) (a : Nat) (v : Word) : (s.setReg a v).reg a = v := by simp [State.reg]

theorem State.reg_setReg_ne (s : State) {a b : Nat} (v : Word) (h : b ≠ a) : (s.setReg a v).reg b = s.reg b := by
  simp [State.reg, SMap.find_ins_ne v h]

@[simp] theorem State.reg_setFld (s : State) (a : Nat) (f : Fld) (v : Nat) : (s.setFld a f v).reg a = setF (s.reg a) f v := by simp [State.setFld]

theorem State.reg_setFld_ne (s : State) {a b : Nat} (f : Fld) (v : Nat) (h : b ≠ a) : (s.setFld a f v).reg b = s.reg b := by
  simp only [State.setFld]; exact State.reg_setReg_ne _ _ h

@[simp] theorem State.cell_setCell (s : State) (L : Nat) (c : Cell) : (s.setCell L c).cell L = c := SMap.get_ins_self _ _ _ _

theorem State.cell_setCell_ne (s : State) {L K : Nat} (c : Cell) (h : K ≠ L) : (s.setCell L c).cell K = s.cell K := SMap.get_ins_ne _ _ h _

@[simp] theorem State.setCell_setCell (s : State) (L : Nat) (c d : Cell) : (s.setCell L c).setCell L d = s.setCell L d := by simp [State.setCell]

@[simp] theorem State.clu_setClu (s : State) (g : Nat) (c : Clu) : (s.setClu g c).clu g = c := SMap.get_ins_self _ _ _ _

theorem State.clu_setClu_ne (s : State) {g h : Nat} (c : Clu) (e : h ≠ g) : (s.setClu g c).clu h = s.clu h := SMap.get_ins_ne _ _ e _

@[simp] theorem State.setClu_setClu (s : State) (g : Nat) (c d : Clu) : (s.setClu g c).setClu g d = s.setClu g d := by simp [State.setClu]

@[simp] theorem State.team_setTeam (s : State) (t : Nat) (x : Team) : (s.setTeam t x).team t = x := SMap.get_ins_self _ _ _ _

theorem State.team_setTeam_ne (s : State) {t u : Nat} (x : Team) (h : u ≠ t) : (s.setTeam t x).team u = s.team u := SMap.get_ins_ne _ _ h _

@[simp] theorem State.cell_setReg (s : State) (a : Nat) (v : Word) (L : Nat) : (s.setReg a v).cell L = s.cell L := (rfl)
@[simp] theorem State.cell_setFld (s : State) (a : Nat) (f : Fld) (v L : Nat) : (s.setFld a f v).cell L = s.cell L := (rfl)
@[simp] theorem State.cell_setClu (s : State) (g : Nat) (c : Clu) (L : Nat) : (s.setClu g c).cell L = s.cell L := (rfl)
@[simp] theorem State.cell_setTeam (s : State) (t : Nat) (x : Team) (L : Nat) : (s.setTeam t x).cell L = s.cell L := (rfl)
@[simp] theorem State.cell_wr (s : State) (a : Nat) (bs : List Byte) (bad : List Nat) (L : Nat) : (s.wr a bs bad).cell L = s.cell L := (rfl)
@[simp] theorem State.clu_setReg (s : State) (a : Nat) (v : Word) (g : Nat) : (s.setReg a v).clu g = s.clu g := (rfl)
@[simp] theorem State.clu_setFld (s : State) (a : Nat) (f : Fld) (v g : Nat) : (s.setFld a f v).clu g = s.clu g := (rfl)
@[simp] theorem State.clu_setCell (s : State) (L : Nat) (c : Cell) (g : Nat) : (s.setCell L c).clu g = s.clu g := (rfl)
@[simp] theorem State.clu_setTeam (s : State) (t : Nat) (x : Team) (g : Nat) : (s.setTeam t x).clu g = s.clu g := (rfl)
@[simp] theorem State.team_setReg (s : State) (a : Nat) (v : Word) (t : Nat) : (s.setReg a v).team t = s.team t := (rfl)
@[simp] theorem State.team_setFld (s : State) (a : Nat) (f : Fld) (v t : Nat) : (s.setFld a f v).team t = s.team t := (rfl)
@[simp] theorem State.team_setCell (s : State) (L : Nat) (c : Cell) (t : Nat) : (s.setCell L c).team t = s.team t := (rfl)
@[simp] theorem State.team_setClu (s : State) (g : Nat) (c : Clu) (t : Nat) : (s.setClu g c).team t = s.team t := (rfl)
@[simp] theorem State.reg_setCell (s : State) (L : Nat) (c : Cell) (a : Nat) : (s.setCell L c).reg a = s.reg a := (rfl)
@[simp] theorem State.reg_setClu (s : State) (g : Nat) (c : Clu) (a : Nat) : (s.setClu g c).reg a = s.reg a := (rfl)
@[simp] theorem State.reg_setTeam (s : State) (t : Nat) (x : Team) (a : Nat) : (s.setTeam t x).reg a = s.reg a := (rfl)
@[simp] theorem State.reg_wr (s : State) (b : Nat) (bs : List Byte) (bad : List Nat) (a : Nat) : (s.wr b bs bad).reg a = s.reg a := (rfl)
@[simp] theorem State.fld_setCell (s : State) (L : Nat) (c : Cell) (a : Nat) (f : Fld) : (s.setCell L c).fld a f = s.fld a f := (rfl)
@[simp] theorem State.fld_setClu (s : State) (g : Nat) (c : Clu) (a : Nat) (f : Fld) : (s.setClu g c).fld a f = s.fld a f := (rfl)
@[simp] theorem State.fld_setTeam (s : State) (t : Nat) (x : Team) (a : Nat) (f : Fld) : (s.setTeam t x).fld a f = s.fld a f := (rfl)
@[simp] theorem State.fld_wr (s : State) (b : Nat) (bs : List Byte) (bad : List Nat) (a : Nat) (f : Fld) : (s.wr b bs bad).fld a f = s.fld a f := (rfl)

end Sys2Proof.Machine
end

