-- ==== Sys2Proof/Laws/Cell.lean ====
section
/-! SUPPORT. Laws of the operations that the meanings of a cell's instructions share: counting, moving the PC, issuing a word, and running the head of a queue. -/

namespace Sys2Proof.Machine

/-- Counting touches the register store alone. -/
theorem State.count_frame (s : State) (L k n : Nat) : s.count L k n = { s with regs := (s.count L k n).regs } := by
  unfold State.count; split <;> rfl

@[simp] theorem State.cell_count (s : State) (L k n K : Nat) : (s.count L k n).cell K = s.cell K := by
  unfold State.count; split <;> rfl

/-- Counting and replacing a cell commute. -/
theorem State.count_setCell (s : State) (L k n K : Nat) (c : Cell) : (s.setCell K c).count L k n = (s.count L k n).setCell K c := by
  by_cases h : s.fld (R.CELL_CNT_CTRL L) F.CELL_CNT_CTRL_FREEZE = 1
  · have h' : (s.setCell K c).fld (R.CELL_CNT_CTRL L) F.CELL_CNT_CTRL_FREEZE = 1 := h
    rw [State.count, State.count, if_pos h, if_pos h']
  · have h' : ¬(s.setCell K c).fld (R.CELL_CNT_CTRL L) F.CELL_CNT_CTRL_FREEZE = 1 := h
    rw [State.count, State.count, if_neg h, if_neg h']; rfl

/-- Moving past a word whose successor stays in the bank (R105). -/
theorem State.advance_inside {s : State} {L op : Nat} (h : (loopNext (s.cell L).loops (s.cell L).pc).2 < 8192) :
    s.advance L op = s.setCell L { s.cell L with loops := (loopNext (s.cell L).loops (s.cell L).pc).1, pc := (loopNext (s.cell L).loops (s.cell L).pc).2 } := by
  simp [State.advance, h]

/-- A bank without an error has nothing to report. -/
theorem State.bankMeet_none {s : State} {L : Nat} (h : s.bankErr L = none) : s.bankMeet L = (s, true) := by
  unfold State.bankMeet; simp only [h]

/-- The word at the PC of a cell that issues goes to its meaning, counted as issued and started. -/
theorem State.seqStep_issues {s : State} {L : Nat} {i : CellInstr} {f : State → Cell → CellInstr → Option State} (h1 : (s.cell L).issues = true)
    (h2 : s.bankErr L = none) (h3 : (s.cell L).atPc = some i) :
    s.seqStep L f =
      (f (s.setCell L ({ s.cell L with issued := (s.cell L).issued + 1 }.begin
          ((s.cell L).entry i (s.cell L).incs .fresh)))
        ({ s.cell L with issued := (s.cell L).issued + 1 }.begin ((s.cell L).entry i (s.cell L).incs .fresh)) i).getD s := by
  unfold State.seqStep; simp only [h1, State.bankMeet_none h2, h3]; rfl

/-- A cell that does not issue is left as it is. -/
theorem State.seqStep_idle {s : State} {L : Nat} {f : State → Cell → CellInstr → Option State} (h : (s.cell L).issues = false) :
    s.seqStep L f = s := by
  unfold State.seqStep; simp only [h]; rfl

/-- A head that may start runs. -/
theorem State.atHead_some {s : State} {L : Nat} {e : Engine} {q : QInstr} {f : QInstr → State} (h : (s.cell L).head e = some q) :
    s.atHead L e f = f q := by
  simp only [State.atHead, h]

/-- With no head that may start, nothing happens. -/
theorem State.atHead_none {s : State} {L : Nat} {e : Engine} {f : QInstr → State} (h : (s.cell L).head e = none) : s.atHead L e f = s := by
  simp only [State.atHead, h]

end Sys2Proof.Machine
end

