-- ==== Sys2Proof/Laws/Mem.lean ====
section
/-! SUPPORT. Laws of device memory: reading after writing, and that every memory operation keeps the canonical form. -/

namespace Sys2Proof.Machine

/-! ### One byte -/

@[simp] theorem memRead_nil (a : Nat) : memRead [] a = 0 := rfl

theorem memRead_cons (k x : Nat) (v : Byte) (m : List Host.Cell) : memRead ((k, v) :: m) x = if x = k then v else memRead m x := by
  rw [memRead]; simp only [eq_comm]

theorem memRead_memIns (a x : Nat) (b : Byte) : ∀ m : List Host.Cell, memRead (memIns a b m) x = if x = a then b else memRead m x
  | [] => memRead_cons a x b []
  | (k, v) :: m => by
    rcases Nat.lt_trichotomy k a with h | rfl | h
    · rw [memIns, if_neg (by omega), if_neg (by omega), memRead_cons, memRead_cons, memRead_memIns a x b m]; by_cases e : x = k
      · rw [if_pos e, if_pos e, if_neg (by omega)]
      · rw [if_neg e, if_neg e]
    · rw [memIns, if_pos rfl, memRead_cons, memRead_cons]; by_cases e : x = k
      · rw [if_pos e, if_pos e]
      · rw [if_neg e, if_neg e, if_neg e]
    · rw [memIns, if_neg (by omega), if_pos h, memRead_cons]

theorem memRead_filter_ne (a x : Nat) : ∀ m : List Host.Cell, memRead (m.filter (fun c => c.1 != a)) x = if x = a then 0 else memRead m x
  | [] => (ite_self (0 : Byte)).symm
  | (k, v) :: m => by
    by_cases h : k = a
    · rw [List.filter_cons_of_neg (by simp [h]), memRead_filter_ne a x m, memRead_cons, h]; by_cases e : x = a
      · rw [if_pos e, if_pos e]
      · rw [if_neg e, if_neg e, if_neg e]
    · rw [List.filter_cons_of_pos (by simpa using h), memRead_cons, memRead_cons, memRead_filter_ne a x m]; by_cases e : x = k
      · rw [if_pos e, if_pos e, if_neg (e ▸ h)]
      · rw [if_neg e, if_neg e]

/-- Reading after a write of one byte: the value written at its address, the old one everywhere else. -/
theorem memRead_memWrite (m : List Host.Cell) (a x : Nat) (b : Byte) : memRead (memWrite m a b) x = if x = a then b else memRead m x := by
  unfold memWrite; split
  · rename_i h; rw [memRead_filter_ne, h]
  · exact memRead_memIns a x b m

/-! ### Runs of bytes -/

/-- Reading an address outside a written run. -/
theorem memRead_memWriteN_out (l : List Byte) (m : List Host.Cell) (a x : Nat) (h : x < a ∨ a + l.length ≤ x) :
    memRead (memWriteN m a l) x = memRead m x := by
  induction l generalizing m a with
  | nil => rfl
  | cons b l ih =>
    simp only [List.length_cons] at h
    rw [memWriteN, ih _ _ (by omega), memRead_memWrite, if_neg (by omega)]

/-- Reading inside a written run. -/
theorem memRead_memWriteN_in (l : List Byte) (m : List Host.Cell) (a i : Nat) (h : i < l.length) :
    memRead (memWriteN m a l) (a + i) = nthD l i 0 := by
  induction l generalizing m a i with
  | nil => simp at h
  | cons b l ih =>
    cases i with
    | zero => rw [memWriteN, memRead_memWriteN_out _ _ _ _ (by omega), memRead_memWrite]; simp [nthD]
    | succ i =>
      have e : a + (i + 1) = a + 1 + i := by omega
      rw [memWriteN, e, ih _ _ _ (by simpa using h)]; simp [nthD]

/-! ### The canonical form -/

theorem memWfFrom_cons (lo k : Nat) (v : Byte) (m : List Host.Cell) :
    memWfFrom lo ((k, v) :: m) = true ↔ lo ≤ k ∧ v ≠ 0 ∧ memWfFrom (k + 1) m = true := by simp [memWfFrom, and_assoc]

theorem memWfFrom_le : ∀ {m : List Host.Cell} {lo lo' : Nat}, memWfFrom lo m = true → lo' ≤ lo → memWfFrom lo' m = true
  | [], _, _, _, _ => rfl
  | (_, _) :: _, _, _, h, hl => (memWfFrom_cons ..).2 ((memWfFrom_cons ..).1 h |>.imp_left (Nat.le_trans hl))

theorem memWfFrom_filter (p : Host.Cell → Bool) : ∀ {m : List Host.Cell} {lo : Nat}, memWfFrom lo m = true → memWfFrom lo (m.filter p) = true
  | [], _, _ => rfl
  | (k, v) :: m, lo, h => by
    have ⟨a, b, t⟩ := (memWfFrom_cons ..).1 h
    cases e : p (k, v) with
    | true => rw [List.filter_cons_of_pos e]; exact (memWfFrom_cons ..).2 ⟨a, b, memWfFrom_filter p t⟩
    | false => rw [List.filter_cons_of_neg (by simp [e])]; exact memWfFrom_le (memWfFrom_filter p t) (Nat.le_trans a (Nat.le_succ k))

theorem memWfFrom_memIns {b : Byte} (hb : b ≠ 0) : ∀ {m : List Host.Cell} {lo a : Nat}, lo ≤ a → memWfFrom lo m = true → memWfFrom lo (memIns a b m) = true
  | [], _, _, ha, _ => (memWfFrom_cons ..).2 ⟨ha, hb, rfl⟩
  | (k, v) :: m, lo, a, ha, h => by
    have ⟨h1, h2, t⟩ := (memWfFrom_cons ..).1 h
    rcases Nat.lt_trichotomy k a with c | rfl | c
    · rw [memIns, if_neg (by omega), if_neg (by omega)]; exact (memWfFrom_cons ..).2 ⟨h1, h2, memWfFrom_memIns hb c t⟩
    · rw [memIns, if_pos rfl]; exact (memWfFrom_cons ..).2 ⟨ha, hb, t⟩
    · rw [memIns, if_neg (by omega), if_pos c]; exact (memWfFrom_cons ..).2 ⟨ha, hb, (memWfFrom_cons ..).2 ⟨c, h2, t⟩⟩

/-- Writing one byte keeps the canonical form. -/
theorem memWrite_wf {m : List Host.Cell} (a : Nat) (b : Byte) (h : Memory.wf m = true) : Memory.wf (memWrite m a b) = true := by
  unfold memWrite; split
  · exact memWfFrom_filter _ h
  · exact memWfFrom_memIns ‹_› (Nat.zero_le _) h

/-- Writing a run of bytes keeps the canonical form. -/
theorem memWriteN_wf (l : List Byte) {m : List Host.Cell} (a : Nat) (h : Memory.wf m = true) : Memory.wf (memWriteN m a l) = true := by
  induction l generalizing m a with
  | nil => exact h
  | cons b l ih => exact ih _ (memWrite_wf a b h)

/-- Dropping a part of memory (a reset of the ranges it clears) keeps the canonical form. -/
theorem Memory.wf_filter (p : Host.Cell → Bool) {m : List Host.Cell} (h : Memory.wf m = true) : Memory.wf (m.filter p) = true :=
  memWfFrom_filter p h

/-! ### The state's memory -/

/-- A write to device memory touches memory and poison alone. -/
theorem State.wr_frame (s : State) (a : Nat) (bs : List Byte) (bad : List Nat) :
    s.wr a bs bad = { s with mem := (s.wr a bs bad).mem, poison := (s.wr a bs bad).poison } := rfl

theorem State.wr_wf {s : State} (a : Nat) (bs : List Byte) (bad : List Nat) (h : Memory.wf s.mem = true) : Memory.wf (s.wr a bs bad).mem = true :=
  memWriteN_wf bs a h

/-- A byte read after a write. -/
theorem State.wr_read (s : State) (a x : Nat) (bs : List Byte) (bad : List Nat) :
    memRead (s.wr a bs bad).mem x = if a ≤ x ∧ x < a + bs.length then nthD bs (x - a) 0 else memRead s.mem x := by
  split
  · rename_i h
    have e : x = a + (x - a) := by omega
    rw [e]; simpa [State.wr, Nat.add_sub_cancel_left] using memRead_memWriteN_in bs s.mem a (x - a) (by omega)
  · exact memRead_memWriteN_out bs s.mem a x (by omega)

/-- Reading back the bytes just written. -/
theorem memReadN_memWriteN (l : List Byte) (m : List Host.Cell) (a : Nat) : memReadN (memWriteN m a l) a l.length = l := by
  apply List.ext_getElem (by simp [memReadN])
  intro i h1 h2
  simp only [memReadN, List.getElem_map, List.getElem_range]
  rw [memRead_memWriteN_in _ _ _ _ h2]; simp [nthD, h2]

end Sys2Proof.Machine
end

