-- ==== Sys2Proof/Laws/Ops.lean ====
section
/-! SUPPORT. Laws of the operations that every family shares. A frame law says all an operation can touch: the result is the old state with these fields and no
other changed, so any projection of it follows by rewriting with the law once. -/

namespace Sys2Proof.Machine

/-- What every step of a fold keeps, the fold keeps. -/
theorem foldl_keeps {α β γ : Type} (g : α → γ) (f : α → β → α) (h : ∀ s x, g (f s x) = g s) (l : List β) (s : α) : g (l.foldl f s) = g s := by
  induction l generalizing s with
  | nil => rfl
  | cons x l ih => exact (ih _).trans (h s x)

/-! ### Registers -/

theorem State.setFld_frame (s : State) (a : Nat) (f : Fld) (v : Nat) : s.setFld a f v = { s with regs := (s.setFld a f v).regs } := rfl

theorem State.bump_frame (s : State) (a : Nat) (f : Fld) (n : Nat) : s.bump a f n = { s with regs := (s.bump a f n).regs } := rfl

theorem State.wrap_frame (s : State) (a : Nat) (f : Fld) (n : Nat) : s.wrap a f n = { s with regs := (s.wrap a f n).regs } := rfl

theorem State.reg_bump_ne (s : State) {a b : Nat} (f : Fld) (n : Nat) (h : b ≠ a) : (s.bump a f n).reg b = s.reg b := State.reg_setFld_ne s f _ h

/-- A field just set reads as the value, cut to its width. -/
theorem State.fld_setFld_self (s : State) (a : Nat) (f : Fld) (v : Nat) (h1 : f.lo ≤ f.hi) (h2 : f.hi < 64) :
    (s.setFld a f v).fld a f = v % 2 ^ (f.hi + 1 - f.lo) := by
  simp only [State.fld, State.reg_setFld]; exact getF_setF_self _ _ _ h1 h2

/-- Setting a field leaves the other fields of its register. -/
theorem State.fld_setFld_apart (s : State) (a : Nat) (f k : Fld) (v : Nat) (h1 : f.lo ≤ f.hi) (h2 : f.hi < 64) (h : f.hi < k.lo ∨ k.hi < f.lo) :
    (s.setFld a f v).fld a k = s.fld a k := by
  simp only [State.fld, State.reg_setFld]; exact getF_setF_apart _ _ _ _ h1 h2 h

/-- Setting a field leaves every other register. -/
theorem State.fld_setFld_ne (s : State) {a b : Nat} (f k : Fld) (v : Nat) (h : b ≠ a) : (s.setFld a f v).fld b k = s.fld b k := by
  simp only [State.fld]; rw [State.reg_setFld_ne _ _ _ h]

/-- A change of one register after another touches the register store alone. -/
theorem foldl_regs {β : Type} (f : State → β → State) (h : ∀ s x, f s x = { s with regs := (f s x).regs }) (l : List β) (s : State) :
    l.foldl f s = { s with regs := (l.foldl f s).regs } := by
  induction l generalizing s with
  | nil => rfl
  | cons x l ih => rw [List.foldl_cons, ih, h s x]

theorem State.setMembers_frame (s : State) (ps : List Nat) (a : Nat → Nat) (f : Fld) (v : Nat) :
    s.setMembers ps a f v = { s with regs := (s.setMembers ps a f v).regs } := foldl_regs _ (fun _ _ => rfl) _ _

theorem State.suspect_frame (s : State) (g j : Nat) (f : Fld) (y : Bool) : s.suspect g j f y = { s with regs := (s.suspect g j f y).regs } := by
  unfold State.suspect; split <;> rfl

theorem State.writeFlds_frame (s : State) (a : Nat) (v : Word) : s.writeFlds a v = { s with regs := (s.writeFlds a v).regs } := by
  unfold State.writeFlds; split
  · exact foldl_regs _ (fun _ _ => rfl) _ _
  · rfl

/-! ### Events -/

theorem State.coreMsi_frame (s : State) (n : Nat) : s.coreMsi n = { s with imsic := (s.coreMsi n).imsic } := by
  unfold State.coreMsi; dsimp only; split <;> rfl

/-- All that the event log can touch: the log, the flash queue, the interrupts, the owner's ring and the counts of lost records. -/
def State.logsTo (s t : State) : Prop :=
  t = { s with evt := t.evt, host := t.host, pwr := t.pwr, regs := t.regs, imsic := t.imsic, partEvt := t.partEvt }

theorem State.logsTo_refl (s : State) : s.logsTo s := rfl

theorem State.logsTo_chain {s t u : State} (h : s.logsTo t) (h' : t.logsTo u) : s.logsTo u := by
  unfold State.logsTo at *; rw [h', h]

theorem State.logsTo_bump (s : State) (a : Nat) (f : Fld) (n : Nat) : s.logsTo (s.bump a f n) := rfl

theorem State.logsTo_coreMsi (s : State) (n : Nat) : s.logsTo (s.coreMsi n) := by
  unfold State.logsTo; rw [State.coreMsi_frame]

theorem State.writeRec_logs (s : State) (r : EvtRec) : s.logsTo (s.writeRec r) := by
  have ite_logs : ∀ (b : Bool) (x : State) (a : Nat) (f : Fld), x.logsTo (if b = true then x else x.bump a f 1) := by
    intro b x a f; cases b <;> rfl
  have own : ∀ (x : State) (m : SMap EvtRing) (h : HostIf), x.logsTo { x with partEvt := m, host := h } := fun _ _ _ => rfl
  unfold State.writeRec; dsimp only
  split
  · refine State.logsTo_chain (State.logsTo_chain ?_ (ite_logs _ _ _ _)) (State.logsTo_coreMsi _ _); rfl
  · refine State.logsTo_chain ?_ (ite_logs _ _ _ _)
    refine State.logsTo_chain ?_ (own _ _ _)
    refine State.logsTo_chain (State.logsTo_chain ?_ (ite_logs _ _ _ _)) (State.logsTo_coreMsi _ _); rfl

/-- Raising an event touches no more than writing a record. -/
theorem State.raise_logs (s : State) (e : Evt) : s.logsTo (s.raise e) := by
  unfold State.raise; dsimp only
  split
  · split
    · rfl
    · split <;> rfl
  · exact State.writeRec_logs _ _

theorem State.setMembers_logs (s : State) (ps : List Nat) (a : Nat → Nat) (f : Fld) (v : Nat) : s.logsTo (s.setMembers ps a f v) := by
  unfold State.logsTo; rw [State.setMembers_frame]

theorem State.lastEvent_logs (s : State) (t code : Nat) : s.logsTo (s.lastEvent t code) := by
  unfold State.lastEvent; split
  · exact State.setMembers_logs _ _ _ _ _
  · rfl

theorem State.raiseSect_logs (s : State) (t p k src c d : Nat) (a : Option Nat) : s.logsTo (s.raiseSect t p k src c d a) :=
  State.logsTo_chain (State.raise_logs _ _) (State.lastEvent_logs _ _ _)

theorem State.badAccess_logs (s : State) (w a n : Nat) (wr : Bool) :
    ∃ l, ({ s with badReg := l } : State).logsTo (s.badAccess w a n wr) := by
  unfold State.badAccess; split
  · exact ⟨_, rfl⟩
  · exact ⟨_, State.raise_logs _ _⟩

/-! ### Packets -/

/-- Passing the outputs of a route touches the registers and the outputs' flits. -/
theorem State.countLinks_frame (s : State) (p : Packet) : s.countLinks p = { s with regs := (s.countLinks p).regs, links := (s.countLinks p).links } := by
  suffices h : ∀ (l : List (Nat × Nat)) (x : State), ∃ r k, l.foldl (fun s h =>
      { s.bump (R.CLU_RTR_LINK h.1 h.2) (if p.gs then F.CLU_RTR_LINK_GS_FLITS else F.CLU_RTR_LINK_BE_FLITS) (1 + p.pkt.body) with
        links := SMap.upd {} (5 * h.1 + h.2) (fun t => t.push p) s.links }) x = { x with regs := r, links := k } by
    obtain ⟨r, k, e⟩ := h (routeOf 64 (meshXY p.src.cluster) (meshXY p.dest.cluster)) s
    rw [State.countLinks, e]
  intro l
  induction l with
  | nil => exact fun x => ⟨_, _, rfl⟩
  | cons _ l ih => exact fun x => ih _

/-- Sending adds one packet at the end of the network, or counts one at a fenced source. -/
theorem State.send_frame (s : State) (p : Packet) :
    s.send p = { s with regs := (s.send p).regs, net := (s.send p).net, links := (s.send p).links } := by
  by_cases h : p.src.code < 16 ∧ s.fenced p.src.cluster p.src.code
  · rw [State.send, if_pos h]; rfl
  · rw [State.send, if_neg h]
    exact congrArg (fun t : State => { t with net := s.net ++ [{ p with epoch := s.epochOf p.sender }] }) (State.countLinks_frame s { p with epoch := s.epochOf p.sender })

/-- The index picked is one of a packet that the selection admits. -/
theorem pickNth_some {sel : Packet → Bool} {i : Nat} : ∀ {l : List Packet} {n k : Nat}, pickNth sel l n k = some i → k ≤ i ∧ ∃ p, l[i - k]? = some p ∧ sel p = true
  | [], _, _, h => nomatch h
  | p :: l, n, k, h => by
    have next {m : Nat} (h : pickNth sel l m (k + 1) = some i) : k ≤ i ∧ ∃ q, (p :: l)[i - k]? = some q ∧ sel q = true := by
      have ⟨le, q, e, t⟩ := pickNth_some h
      refine ⟨by omega, q, ?_, t⟩
      rw [← e, show i - k = (i - (k + 1)) + 1 by omega]; rfl
    cases e : sel p with
    | false => exact next (m := n) (by simpa [pickNth, e] using h)
    | true =>
      match n, h with
      | 0, h =>
        have : k = i := by simpa [pickNth, e] using h
        exact this ▸ ⟨Nat.le_refl _, p, by simp, e⟩
      | m + 1, h => exact next (m := m) (by simpa only [pickNth, e, if_true] using h)

/-- Taking a packet removes it from the network and changes nothing else. -/
theorem State.takePkt_frame {s u : State} {sel : Packet → Bool} {n : Nat} {p : Packet} (h : s.takePkt sel n = some (u, p)) :
    u = { s with net := u.net } ∧ p ∈ s.net ∧ sel p = true ∧ u.net.length + 1 = s.net.length := by
  rw [State.takePkt] at h
  cases e : pickNth sel s.net n 0 with
  | none => simp only [e, reduceCtorEq] at h
  | some i =>
    obtain ⟨-, q, hq, t⟩ := pickNth_some e
    rw [Nat.sub_zero] at hq
    simp only [e, hq] at h
    by_cases b : (s.net.take i).any (samePath q) = true
    · simp only [b, if_true, reduceCtorEq] at h
    · rw [if_neg b] at h; cases h
      have lt : i < s.net.length := (List.getElem?_eq_some_iff.1 hq).1
      exact ⟨rfl, List.mem_of_getElem? hq, t, by simp only [List.length_eraseIdx, lt, if_true]; omega⟩

/-- Ejection takes one packet and, where it discards it, counts it. -/
theorem State.eject_frame {s u : State} {sel : Packet → Bool} {n : Nat} {p : Option Packet} (h : s.eject sel n = some (u, p)) :
    u = { s with net := u.net, regs := u.regs } := by
  cases e : s.takePkt sel n with
  | none => simp only [State.eject, e, reduceCtorEq] at h
  | some x =>
    have f := (State.takePkt_frame e).1
    have key : u = x.1 ∨ ∃ a b c, u = x.1.bump a b c := by
      simp only [State.eject, e] at h
      revert h; repeat' split
      all_goals intro h; cases h; first | exact .inl rfl | exact .inr ⟨_, _, _, rfl⟩
    rcases key with rfl | ⟨a, b, c, rfl⟩ <;> rw [f] <;> rfl

/-- A packet that arrives goes to its meaning. -/
theorem State.onPkt_some {s u : State} {sel : Packet → Bool} {n : Nat} {p : Packet} {f : State → Packet → State}
    (h : (∃ v x, s.takePkt sel n = some (v, x) ∧ v.headerFails x = none) ∧ s.eject sel n = some (u, some p)) :
    s.onPkt sel n f = f (u.payloadMeet p).1 (u.payloadMeet p).2 := by
  obtain ⟨⟨v, x, h1, h2⟩, h3⟩ := h
  simp only [State.onPkt, h1, h2, h3]

/-- A command of a packet that is not there does nothing. -/
theorem State.onPkt_none {s : State} {sel : Packet → Bool} {n : Nat} {f : State → Packet → State} (h : s.takePkt sel n = none) : s.onPkt sel n f = s := by
  simp only [State.onPkt, h]

/-! ### Neighbour links, ring commands and frames -/

theorem State.nbrSend_frame (s : State) (L d : Nat) (b : NbrBody) : s.nbrSend L d b = { s with nbr := s.nbr ++ [{ cell := L, dir := d, body := b }] } := rfl

theorem State.onNbr_some {s : State} {sel : NbrMsg → Bool} {n i L : Nat} {m : NbrMsg} {f : State → NbrMsg → Nat → Nat → State}
    (h1 : pickNbr sel s.nbr n 0 = some i) (h2 : s.nbr[i]? = some m)
    (h3 : (s.nbr.take i).any (fun x => decide (x.cell = m.cell) && decide (x.dir = m.dir)) = false)
    (h4 : ({ s with nbr := s.nbr.eraseIdx i } : State).neighbour m.cell m.dir = some L) :
    s.onNbr sel n f = f { s with nbr := s.nbr.eraseIdx i } m L (opposite m.dir) := by
  unfold State.onNbr; simp only [h1, h2, h3, h4]; rfl

theorem State.onCmd_some {s : State} {t op : Nat} {c : HostCmd} {rest : List HostCmd} {f : State → HostCmd → State}
    (h1 : (s.page t).inbox = c :: rest) (h2 : c.cmd.opcode = op) : s.onCmd t op f = f (s.setPage t { s.page t with inbox := rest }) c := by
  unfold State.onCmd; simp only [h1, h2, if_true]

theorem State.onFrame_some {s : State} {p type : Nat} {b : List Byte} {rest : List (List Byte)} {g : State → List Byte → State}
    (h1 : (s.port p).rx = b :: rest) (h2 : numAt b 1 1 = type) :
    s.onFrame p type g = g (s.setPort p { s.port p with rx := rest, unlocked := (numAt b 2 1).testBit 1 }) b := by
  unfold State.onFrame; simp only [h1, h2, if_true]

/-! ### Anchors -/

theorem State.wake_frame (s : State) (a st : Nat) (sel : Monitor → Bool) :
    s.wake a st sel = { s with
      clus := (s.wake a st sel).clus, net := (s.wake a st sel).net, regs := (s.wake a st sel).regs, links := (s.wake a st sel).links } := by
  have key : ∀ (p : Monitor → Packet) (l : List Monitor) (x : State), ∃ n r k, l.foldl (fun s m => s.send (p m)) x = { x with net := n, regs := r, links := k } := by
    intro p l
    induction l with
    | nil => exact fun _ => ⟨_, _, _, rfl⟩
    | cons m l ih =>
      intro x
      have ⟨n, r, k, e⟩ := ih (x.send (p m))
      exact ⟨n, r, k, by rw [List.foldl_cons, e, State.send_frame]⟩
  dsimp only [State.wake]
  generalize hx : s.setClu _ _ = x
  obtain ⟨n, r, k, e⟩ := key _ _ x
  rw [e, ← hx]; rfl

/-! ### Units read back -/

@[simp] theorem State.port_setPort (s : State) (p : Nat) (x : CamPort) : (s.setPort p x).port p = x := SMap.get_ins_self _ _ _ _
@[simp] theorem State.stream_setStream (s : State) (n : Nat) (x : CamStream) : (s.setStream n x).stream n = x := SMap.get_ins_self _ _ _ _
@[simp] theorem State.page_setPage (s : State) (t : Nat) (x : RingPage) : (s.setPage t x).page t = x := SMap.get_ins_self _ _ _ _
@[simp] theorem State.core_setCore (s : State) (h : Nat) (x : AppCore) : (s.setCore h x).core h = x := SMap.get_ins_self _ _ _ _
@[simp] theorem State.req_setReq (s : State) (r : Nat) (x : Request) : (s.setReq r x).req r = some x := SMap.find_ins_self _ _ _

theorem State.port_setPort_ne (s : State) {p q : Nat} (x : CamPort) (h : q ≠ p) : (s.setPort p x).port q = s.port q := SMap.get_ins_ne _ _ h _
theorem State.stream_setStream_ne (s : State) {n m : Nat} (x : CamStream) (h : m ≠ n) : (s.setStream n x).stream m = s.stream m := SMap.get_ins_ne _ _ h _
theorem State.page_setPage_ne (s : State) {t u : Nat} (x : RingPage) (h : u ≠ t) : (s.setPage t x).page u = s.page u := SMap.get_ins_ne _ _ h _
theorem State.core_setCore_ne (s : State) {h k : Nat} (x : AppCore) (e : k ≠ h) : (s.setCore h x).core k = s.core k := SMap.get_ins_ne _ _ e _
theorem State.req_setReq_ne (s : State) {r q : Nat} (x : Request) (h : q ≠ r) : (s.setReq r x).req q = s.req q := SMap.find_ins_ne _ h _

/-! ### The directory -/

theorem State.dirLine_setDir (s : State) (k j : Nat) (d : DirLine) : (s.setDir k d).dirLine j = if j = k then d else s.dirLine j := by
  by_cases h : d = {}
  · subst h; exact SMap.get_del _ _ _ _
  · simp only [State.dirLine, State.setDir, if_neg h, SMap.get_eq, SMap.find_ins]; split <;> rfl

@[simp] theorem State.core_setDir (s : State) (k h : Nat) (d : DirLine) : (s.setDir k d).core h = s.core h := rfl

@[simp] theorem State.dirLine_setL2 (s : State) (h k j : Nat) (l : Option Line) : (s.setL2 h k l).dirLine j = s.dirLine j := rfl

/-- A core's L2 after a line of some core has been put in or dropped. -/
theorem State.l2_setL2 (s : State) (h k g j : Nat) (l : Option Line) :
    SMap.find? ((s.setL2 h k l).core g).l2 j = if g = h ∧ j = k then l else SMap.find? (s.core g).l2 j := by
  by_cases e : g = h
  · subst e; cases l with
    | none => simp only [State.setL2, State.updCore, State.core_setCore, SMap.find_del, true_and]
    | some x => simp only [State.setL2, State.updCore, State.core_setCore, SMap.find_ins, true_and]
  · rw [if_neg (fun c => e c.1), State.setL2, State.updCore, State.core_setCore_ne _ _ e]

/-! ### Flits -/

theorem crc16Bit_lt (c : Nat) (b : Bool) : crc16Bit c b < 65536 := by
  have h : 2 * (c % 32768) < 2 ^ 16 := by omega
  unfold crc16Bit; split
  · exact Nat.xor_lt_two_pow h (by decide)
  · exact h

/-- LCRC fits its 16 bits. -/
theorem Flit.lcrc_lt (f : Flit) : f.lcrc < 65536 := by
  have h : ∀ (l : List Bool) (c : Nat), c < 65536 → l.foldl crc16Bit c < 65536 := fun l => by
    induction l with
    | nil => exact fun _ h => h
    | cons b l ih => exact fun c _ => ih _ (crc16Bit_lt c b)
  exact h _ _ (by decide)

theorem Flit.lcrc_word (f : Flit) : f.lcrc = (BitVec.ofNat 16 f.lcrc).toNat := by
  rw [BitVec.toNat_ofNat, Nat.mod_eq_of_lt f.lcrc_lt]

end Sys2Proof.Machine
end

