-- ==== Sys2Proof/Laws/Regs.lean ====
section
/-! SUPPORT. Laws of the register tables: every table's fields lie inside the register, apart from one another, and their reset values fit. -/

namespace Sys2Proof.Machine

/-- Fields of a table: in range, with a reset value that fits, and apart from one another. -/
def RegDesc.ok (d : RegDesc) : Bool :=
  d.fields.all (fun f => decide (f.f.lo ≤ f.f.hi) && decide (f.f.hi < 64) && decide (f.rst < 2 ^ (f.f.hi + 1 - f.f.lo))) &&
    decide (d.fields.Pairwise (fun f g => f.f.hi < g.f.lo ∨ g.f.hi < f.f.lo))

theorem Blk.regs_ok (b : Blk) : b.regs.all RegDesc.ok = true := by cases b <;> decide +kernel

/-- The fields of the table at an address meet its conditions. -/
theorem regDescAt_good {a u : Nat} {d : RegDesc} (h : regDescAt a = some (d, u)) : d.ok = true := by
  have key : ∀ b : Blk, ∀ o : Nat, b.regs.find? (fun d => decide (d.off ≤ o) && inDims (o - d.off) d.dims) = some d → d.ok = true :=
    fun b _ e => List.all_eq_true.1 (Blk.regs_ok b) d (List.mem_of_find?_eq_some e)
  cases e : blockOf a with
  | none => simp [regDescAt, e] at h
  | some x =>
    cases e' : x.1.regs.find? (fun d => decide (d.off ≤ x.2.2) && inDims (x.2.2 - d.off) d.dims) with
    | none => simp [regDescAt, e, e'] at h
    | some y =>
      have : y = d := by simp [regDescAt, e, e'] at h; exact h.1
      exact key _ _ (this ▸ e')

/-- A register's table is well formed. -/
theorem regDescAt_ok {a u : Nat} {d : RegDesc} (h : regDescAt a = some (d, u)) :
    (∀ f ∈ d.fields, f.f.lo ≤ f.f.hi ∧ f.f.hi < 64 ∧ f.rst < 2 ^ (f.f.hi + 1 - f.f.lo)) ∧
      d.fields.Pairwise (fun f g => f.f.hi < g.f.lo ∨ g.f.hi < f.f.lo) := by
  simpa [RegDesc.ok, and_assoc] using regDescAt_good h

/-- Two fields of one table are the same or share no bit. -/
theorem regDescAt_apart {a u : Nat} {d : RegDesc} (h : regDescAt a = some (d, u)) {f g : RField} (hf : f ∈ d.fields) (hg : g ∈ d.fields)
    (e : f ≠ g) : f.f.hi < g.f.lo ∨ g.f.hi < f.f.lo := by
  have w := (regDescAt_ok h).2
  obtain ⟨a, c, x⟩ := List.append_of_mem hf
  simp only [x, List.mem_append, List.mem_cons, e.symm, false_or] at hg
  simp only [x, List.pairwise_append, List.pairwise_cons] at w
  exact hg.elim (fun m => (w.2.2 g m f (by simp)).symm) (w.2.1.1 g)

/-- Putting values into the fields of a list that are apart: each reads as its own value, and a field apart from all of them is untouched. -/
theorem foldl_setF (val : RField → Nat) (l : List RField) (w : Word) (h1 : ∀ f ∈ l, f.f.lo ≤ f.f.hi ∧ f.f.hi < 64)
    (h2 : l.Pairwise (fun f g => f.f.hi < g.f.lo ∨ g.f.hi < f.f.lo)) :
    (∀ f ∈ l, getF (l.foldl (fun w f => setF w f.f (val f)) w) f.f = val f % 2 ^ (f.f.hi + 1 - f.f.lo)) ∧
      (∀ k : Fld, (∀ f ∈ l, f.f.hi < k.lo ∨ k.hi < f.f.lo) → getF (l.foldl (fun w f => setF w f.f (val f)) w) k = getF w k) := by
  have apart : ∀ (l : List RField) (w : Word) (k : Fld), (∀ f ∈ l, f.f.lo ≤ f.f.hi ∧ f.f.hi < 64) → (∀ f ∈ l, f.f.hi < k.lo ∨ k.hi < f.f.lo) →
      getF (l.foldl (fun w f => setF w f.f (val f)) w) k = getF w k := fun l w k b d =>
    List.foldlRecOn (motive := fun x => getF x k = getF w k) l _ rfl (fun x hx f hf => (getF_setF_apart x _ _ _ (b f hf).1 (b f hf).2 (d f hf)).trans hx)
  refine ⟨fun f hf => ?_, fun k hk => apart l w k h1 hk⟩
  obtain ⟨a, c, rfl⟩ := List.append_of_mem hf
  have ⟨_, hc, _⟩ := List.pairwise_append.1 h2
  rw [List.foldl_append, List.foldl_cons, apart c _ _ (fun g hg => h1 g (by simp [hg])) (fun g hg => ((List.pairwise_cons.1 hc).1 g hg).symm),
    getF_setF_self _ _ _ (h1 f hf).1 (h1 f hf).2]

/-- The reset word of a table holds each field's reset value. -/
theorem regDescAt_reset {a u : Nat} {d : RegDesc} (h : regDescAt a = some (d, u)) {f : RField} (hf : f ∈ d.fields) : getF d.reset f.f = f.rst := by
  obtain ⟨h1, h2⟩ := regDescAt_ok h
  have := (foldl_setF RField.rst d.fields 0 (fun g hg => ⟨(h1 g hg).1, (h1 g hg).2.1⟩) h2).1 f hf
  rw [RegDesc.reset, this, Nat.mod_eq_of_lt (h1 f hf).2.2]

end Sys2Proof.Machine
end

