-- ==== Sys2Proof/Tests/Slice0.lean ====
section
/-! SUPPORT. The model's own tests: for every obligation with hypotheses a state and operands that meet them, clause by clause; terms that WellFormed refuses; words of
cell instructions; worked examples of the spec; single steps. -/

open Sys2Proof Sys2Proof.Machine

namespace Sys2Proof.Tests

set_option Elab.async false

/-! ### Small states -/

/-- The reset state with cell 0 as given. -/
def cell0 (c : Cell) : State := State.reset.setCell 0 c

/-- A running cell with one word at its PC. -/
def atWord (w : Word) : Cell := { st := .running, store := { bank := [(0, w)], prog := [(0, 1)], bounds := wholeScratch } }

/-- An instruction as it stands in a queue. -/
def inQueue (i : CellInstr) : QInstr := { i := i, iaddr := 0, job := 0, seq := 0, xs := List.replicate 16 0 }

/-- A running cell with one instruction at the head of its engine's queue. -/
def atHead (e : Engine) (i : CellInstr) : Cell := { (atWord 0).setQueue e [inQueue i] with issued := 1 }

/-- The reset state with a time base. -/
def timeIs (t : TimeBase) : State := { State.reset with time := t }

/-- A time-code frame (Table 21): WM_COUNT 128, traceable, SOURCE_ID 7, its CRC in place. -/
def tcFrame : Nat :=
  let f := 0xF0F6 * 2 ^ 112 + 2 ^ 108 + 2 ^ 107 + 128 * 2 ^ 40 + 7 * 2 ^ 32
  f + crc32c (frameBytes f)

/-- The last 128 samples that spell a frame, newest first. -/
def samplesOf (f : Nat) : List (Option Bool) := (List.range 128).map (fun i => some (f.testBit i))

/-- The module has booted: stage READY, link up. -/
def booted : State :=
  { State.reset.setFld R.BOOT_STATUS F.BOOT_STATUS_STAGE 7 with boot := { State.reset.boot with ready := true, pcieUp := true } }

/-- The reset state with one team. -/
def teamIs (p : Nat) (x : Team) : State := State.reset.setTeam p x

/-- A section on partition 0 without a card. -/
def sect0 : Sect := { id := 7, image := 0, partitions := 1, reqCells := 64, strict := false, sat := false, binding := [0] }

/-- A command in the inbox of tenant t's ring: an opcode from a function, with 64 bytes. -/
def hostCmd (op fn : Nat) (b : List Byte) : HostCmd := { wm := 0, cmd := { tenant := 3, cmdId := 5, reqTag := 9, opcode := op, fn := fn }, bytes := b }

/-- A state with one command waiting in tenant 3's inbox. -/
def inboxIs (s : State) (c : HostCmd) : State := s.setPage 3 { s.page 3 with enable := true, inbox := [c] }

/-- A cell whose registers are all full, with a one-stage chain at word 0, at the head of an engine's queue. -/
def fullCell (e : Engine) (i : CellInstr) : Cell :=
  { atHead e i with
    tregs := List.replicate 16 { full := true, bytes := [] },
    store := { bank := [(2, 0x2000000000000000)], prog := [(0, 3)], bounds := [some ⟨0, 4194304, 0x17, 0, 0⟩] } }

/-- The accumulator a push leaves. -/
def pushed : Nat ⊕ Acc → Acc
  | .inr a => a
  | .inl _ => {}

/-- Partition 0 runs a section, with a cell as given. -/
def running0 (c : Cell) : State := (cell0 c).setTeam 0 { run := .running, running := some sect0 }

/-- A channel binding to channel 2 of cell 1. -/
def bind1 : ChanBind := ⟨true, 1, 2⟩

/-- A tile of one flit from channel 2 of cell 1. -/
def tile1 : ChTile := ⟨1, 2, 1, 9, 0, false, true, 0, List.replicate 256 5⟩

/-- A cell at an A.MERGE, with bytes at the start of its scratchpad. -/
def mergeState (b : List Byte) : State := (cell0 (fullCell .array (.aMerge 0 0 1 0))).wr (scratchAddr 0 0) b []

/-- The head of a frame in integer class with two slots. -/
def intHead : List Byte := [0x43, 0x41, 0x49, 0x52, 1, 2, 2, 0]

/-- The chain of `fullCell`, for one element. -/
def chain0 : Desc := ((Desc.read (fullCell .vector (.vSum 0 0)).store.num 0 1).getD
  { stages := [], w := false, fmtA := .e4m3, fmtB := .e4m3, fmtD := .e4m3, sclA := 0, sclB := 0, sclD := 0, layout := false, rnd := false, mask := 0,
    mstage := 0, preserve := false, dest := false, rowlen := 1, z := [], kmask := 0 })

/-- Pushes that all succeed leave their accumulators. -/
theorem all_pushed : ∀ l : List (Nat ⊕ Acc), l.all (·.isRight) = true → l = (l.map pushed).map .inr
  | [], _ => rfl
  | .inr a :: l, h => by
    have := all_pushed l (by simpa using h)
    simp only [List.map_cons, pushed]
    rw [← this]
  | .inl _ :: _, h => by simp at h

/-- A packet of a body to an endpoint of cluster 0. -/
def pktTo (code : Nat) (b : Pkt) : Packet := { pkt := b, dest := ⟨0, code⟩, src := ⟨0, 0⟩, sender := .cell 0 }

/-- The state with one packet in flight, to cluster 0. -/
def netIs (s : State) (code : Nat) (b : Pkt) : State := { s with net := [pktTo code b] }

/-- The reset state with one neighbour message from cell 0 to the east. -/
def nbrIs (s : State) (b : NbrBody) : State := { s with nbr := [⟨0, 2, b⟩] }

/-- A flit in a sender's buffer. -/
def flit0 : SentFlit := { pkt := pktTo 3 (.chMarker 2 7), idx := 0, lseq := 5 }

/-- A change of a team. -/
def chg (op part target w : Nat) : Change := { op := op, part := part, target := target, subValid := false, w := w }

/-- A request of team 0 with job 3. -/
def job3 : Request := { team := 0, job := some 3, sect := 7 }

/-- The reset state with request 0. -/
def reqIs (q : Request) : State := { State.reset with adm := { reqs := [(0, q)], nextReq := 1 } }

/-- A state with cluster 0 as given. -/
def cluIs (c : Clu) : State := State.reset.setClu 0 c

/-- A descriptor of an SFU tile: exponential of one FP32 element, at the start of cluster 0's tiles. -/
def sfuBytes : List Byte := [0x01, 0x18, 0x18, 0, 0, 0, 0, 0] ++ leBytes 4 1 ++ leBytes 4 0 ++ leBytes 8 (tileAddr 0 0) ++ leBytes 8 (tileAddr 0 0) ++
  List.replicate 20 0 ++ leBytes 4 0xFFFFFFFF ++ List.replicate 8 0

/-- That descriptor as read. -/
def sfuD : SfuDesc := (sfuRead sfuBytes).getD ⟨0, .fp32, .fp32, false, 0, 0, 0, 0, 0, 0, 0, 0, 0, 0, 0⟩

/-- A started lead instruction: L.FETCH of 32 bytes from address 0. -/
def lead0 : LeadInstr := { q := inQueue (.lFetch 1 0 0 0 2 0 0), x0 := [0, 0, 0], bases := [0, 0, 0, 0] }

/-- A lead tag of that instruction. -/
def tag0 (put : Bool) : LeadTag := { num := 63, ep := 0, ins := 0, job := 0, put := put, addr := 64, va := 64, space := 0, target := 0, len := 32, tenant := 0 }

/-- A request of 8 bytes at an address. -/
def reqAt (a n : Nat) : MemReq := ⟨a, n, 0, 0⟩

/-- A DMA descriptor: tier to local, 32 bytes. -/
def dmaBytes : List Byte := [0, 0, 0, 0] ++ leBytes 4 32 ++ leBytes 8 0 ++ leBytes 8 (tileAddr 0 64) ++ leBytes 4 0xFFFFFFFF ++ List.replicate 36 0

/-- A DMA descriptor in progress. -/
def dma0 : DmaRun := { id := 0, tier := false, job := 0, len := 32, va := 0, loc := tileAddr 0 64, anchor := 0xFFFFFFFF }

/-- A tapped unit without operands. -/
def tap0 : TapUnit := ⟨0, (0, 0), 3, 0, 0, 1, 1, false, false, false, [], []⟩

/-- The bytes of an entry for section 7 from tenant 3. -/
def entry3 (op : Byte) : List Byte := [op, 0, 3, 0] ++ List.replicate 12 0 ++ [7] ++ List.replicate 47 0

/-- Tenant 3 belongs to partition 0, which runs section 7; the time is LOCKED. -/
def admitting : State :=
  (((booted.setFld (R.ADM_TENANT 3) F.ADM_TENANT_VALID 1).setFld R.ADM_CTRL F.ADM_CTRL_ENABLE 1).setTeam 0 { run := .running, running := some sect0 }).setFld
    R.HOST_FOCIA_VER F.HOST_FOCIA_VER_AGREED 0x12

/-- That state with a time and a command waiting. -/
def asks (op : Byte) : State := inboxIs { admitting with time := { st := .locked, count := 50 } } (hostCmd op.toNat 64 (entry3 op))

/-- A page of the near tier for tenant 3, which the hub may write. -/
def paged : State :=
  (((((((((asks 1).wr 24 [1, 0x10] []).wr 4096 [1, 0x20] []).wr 8192 [1, 0x30] []).wr 12288 [1, 0x40] []).wr 16384 [15, 0, 2] []).setFld R.NT_PT_BASE
    F.NT_PT_BASE_VALID 1).setFld (R.PART_GRANT 0 0) F.PART_GRANT_VALID 1).setFld (R.PART_GRANT 0 0) F.PART_GRANT_WR 1).setFld (R.PART_GRANT 0 0)
      F.PART_GRANT_LEN_2M 1

/-- A copy of one byte to tenant 3's page. -/
def copy1 : StreamCopy := ⟨{ tenant := 3 }, 0, 0, 1, false⟩

/-- What the tests leave of a request of section 7. -/
def grantee0 : Grantee := ⟨0, sect0, false, none, 0, 0⟩

/-- A bivouacked request of tenant 3. -/
def biv3 : Request := { tenant := 3, tag := 9, sect := 7, st := .bivouacked, spillWm := 10, bivLen := 0 }

/-- What the hub knows of the first sector of the near tier. -/
def sectorI : SectorInfo := ((State.reset.sectorInfo 0).getD ({ cls := 0 }, 0, 0, none)).1

/-- A computation that answers y. -/
theorem ok_of {ε α : Type} {x : Except ε α} {y : α} (h : x.toOption = some y) : x = .ok y := by
  cases x <;> simp_all [Except.toOption]

/-- The error of a computation. -/
def errOf {ε α : Type} : Except ε α → Option ε
  | .error e => some e
  | .ok _ => none

/-- A computation that fails with e. -/
theorem error_of {ε α : Type} {x : Except ε α} {e : ε} (h : errOf x = some e) : x = .error e := by
  cases x <;> simp_all [errOf]

/-- A pair with a known second part. -/
theorem pair_of {α β : Type} {x : α × β} {b : β} (h : x.2 = b) : x = (x.1, b) := by
  cases h
  rfl

/-- What is there is some value. -/
theorem some_of {α : Type} {x : Option α} (h : x.isSome = true) : x = some (x.get h) := by
  cases x with
  | none => cases h
  | some a => rfl

/-- Cluster 0 with a controller as given. -/
def ctlIs (c : Ctl) : State := cluIs { ctl := c }

/-- A line of the coherent caches. -/
def line (st : LineSt) : Line := ⟨st, List.replicate 64 5, false⟩

/-- A booted state with core 0 holding line 1 in a state, and a directory entry for it. -/
def cohIs (st : LineSt) (d : DirLine) : State := { booted with cores := [(0, { l2 := [(1, line st)] })], dir := [(1, d)] }

/-- An update descriptor of one element that reads stream 0 in FP32, with its program behind it. -/
def updBytes : List Byte :=
  [1, 0, 0, 0] ++ leBytes 4 1 ++ leBytes 8 (tileAddr 0 256) ++ List.replicate 48 0 ++ (leBytes 8 0 ++ [0x18, 0x20]) ++ List.replicate 182 0 ++ leBytes 4 (2 ^ 26)

/-- An update descriptor that has written its results. -/
def upd1 (digest : Byte) : UpdRun := { addr := 0, desc := [1, 0, digest] ++ List.replicate 253 0, prog := [], job := 0, writing := true }

/-- A port record: mode 1, version 1, peer 0, resend time 1. -/
def portRec : List Byte := [1, 1] ++ List.replicate 38 0 ++ [1] ++ List.replicate 23 0

/-- A stream entry: flags, port 0, peer stream 0, 16 units at 2 MiB, anchors 5 and 6, lead 1. -/
def streamRec (fl : Byte) : List Byte :=
  [fl, 0, 0, 0, 0, 0, 0, 0] ++ leBytes 8 0x200000 ++ leBytes 4 16 ++ [5, 0, 6, 0] ++ leBytes 4 1 ++ leBytes 4 4096 ++ List.replicate 16 0

/-- Port 0 as given. -/
def portIs (x : CamPort) : State := { booted with link := { ports := [(0, x)] } }

/-- A Camley frame of a type, with its bytes 8 to 31. -/
def camFr (type : Byte) (b : List Byte) : List Byte := [1, type] ++ List.replicate 6 0 ++ b

/-- A state of LINK_CMD with a target, GO and an operation. -/
def linkGo (op tg : Nat) : Word := setF (setF (setF 0 F.LINK_CMD_OP op) F.LINK_CMD_GO 1) F.LINK_CMD_TARGET tg

/-- A Camley ACK frame with its CRC-32C. -/
def camBytes : List Byte := [1, 3] ++ List.replicate 26 0 ++ [189, 251, 159, 183]

/-- The Ethernet frame that carries it alone, with its FCS. -/
def ethBytes : List Byte := List.replicate 12 0 ++ [0x88, 0xB5, 1, 0, 0, 0] ++ camBytes ++ [234, 17, 22, 104]


/-- SPDM in version 1.2 with capabilities and algorithms agreed, on a module whose certificate chain has one byte. -/
def spdmIs : State :=
  { booted with
    flash := { chain := [7] },
    sec := { booted.sec with identity := true, spdm := { version := 0x12, caps := true, algs := true, transcript := [1] } } }

/-- A GET or NEGOTIATE message of SPDM 1.2 with n bytes after its version. -/
def spdmMsg (n : Nat) : List Byte := 0x12 :: List.replicate n 0

/-- The reset state with SEC_CMD's work in progress. -/
def secRuns (w : SecWork) (n : Nat) : State := { booted with sec := { booted.sec with run := some ⟨w, n⟩ } }

/-- The module in a boot stage, on main supply. -/
def stageIs (n : Nat) : State := (State.reset.setFld R.BOOT_STATUS F.BOOT_STATUS_STAGE n).setFld R.PWR_STATE F.PWR_STATE_SUPPLY 0

/-- A base-camp image with an empty body, signed with private scalar 1 and per-message scalar 1. -/
def bootImage : List Byte :=
  [0x42, 0x43, 0x4D, 0x50] ++ List.replicate 12 0 ++ sha384 [] ++ 4 :: (beBytes 48 p384gx ++ beBytes 48 p384gy) ++ List.replicate 7 0 ++ beBytes 48 p384gx ++
    beBytes 48 0x3C894C0EE417FBDE94A01847E527BA4D3DC31462F1C84C5F641A691F914AF293005A669B52E65202B1943B179FC42517

/-- The value of fuse field 0x10 that names that image's key. -/
def bootKey : Nat := 0x1DD5E1AFB0969CD83EDACD4C19820FC9A05BB4F440A2F442388CAFFB48D02F21E50D135A70067686EDF9B71224264F8C

/-- A module at power-on that holds the image and the hash of its key. -/
def signedBoot : State :=
  { stageIs 0 with flash := { images := [bootImage, []] }, sec := { State.reset.sec with fuses := [(0x10, [bootKey, bootKey, bootKey])] } }

/-- Without lines or directory entries every line has at most one writer. -/
theorem coherent_of_empty {s : State} (hc : s.cores = []) (hd : s.dir = []) : s.coherent := by
  intro k
  simp [State.dirLine, State.core, hc, hd, SMap.find?]

/-- A card with one profile of one phase of five waymarks. -/
def card1 : Card :=
  ⟨1, 1, 1, 100, 1, [], [], [], [⟨0, 1, true, false, 0, 0, 0, 0⟩], [⟨5, 1, false, true, false, 0, 1, [], [], []⟩], [], []⟩

/-- Team 0 runs section 7, with request 0 as given. -/
def jobIs (q : Request) : State :=
  { State.reset.setTeam 0 { run := .running, running := some { sect0 with card := some card1 } } with adm := { reqs := [(0, q)], nextReq := 1 } }

/-! ### What meets the hypotheses of the statements -/

/-- States and operands that meet the hypotheses of O1, clause by clause. -/
theorem test_time_base_commands_complete_hypotheses :
    (∃ (t : Rat) (s : State), s.pwr.aux = true ∧ s.time.testDue = false ∧ s.time.st = .locked ∧ s.time.now ≤ t ∧ s.time.pred - 50 ≤ t ∧ t ≤ s.time.pred + 50) ∧
    (∃ (t : Rat) (s : State), s.pwr.aux = true ∧ (s.time.tickWait = none → s.time.ticked = false) ∧ s.time.tickOk t (s.time.tickWait.getD (s.time.pred +
      s.time.slew)) = true) ∧
    (∃ s : State, s.pwr.aux = true ∧ s.time.testDue = false ∧ s.time.st = .locked ∧ s.time.tickWait = none ∧ s.time.missRun < 3) ∧
    (∃ (f : Nat) (s : State), s.time.testDue = true ∧ frameBits s.time.samples = some f ∧ frameOk f = true ∧ s.time.st = .locked ∧ ((bitsOf f 103 40 : Nat) :
      Int) + 127 = s.time.countOf s.time.lastTick) ∧
    (∃ s : State, s.time.st = .holdover ∧ s.time.holdEnd ≤ s.time.count) ∧
    (∃ s : State, s.time.st = .acquire ∧ s.time.anyFrame = false ∧ 10000000 ≤ s.time.ticks) :=
  ⟨⟨1950, timeIs { st := .locked, pred := 2000, now := 1900, interval := 1000, edgeSeen := true }, by decide +kernel⟩,
   ⟨1044, timeIs { pred := 1000, now := 1000, st := .locked }, by decide +kernel⟩,
   ⟨timeIs { st := .locked, missRun := 2 }, by decide +kernel⟩,
   ⟨tcFrame, timeIs { st := .locked, samples := samplesOf tcFrame, count := 299, ticks := 1000, lastTick := 956 }, by decide +kernel⟩,
   ⟨timeIs { st := .holdover, holdEnd := 77, count := 77 }, by decide +kernel⟩,
   ⟨timeIs { ticks := 10000000 }, by decide +kernel⟩⟩

/-- States and operands that meet the hypotheses of O2, clause by clause. -/
theorem test_steps_and_pitch_config_complete_hypotheses :
    (∃ (n : Nat) (s : State), s.time.ext = some n ∧ s.time.st ≠ .acquire ∧ s.time.stepPending = true ∧ s.guarHeld = false ∧ s.time.isBoundary n = true ∧
      s.time.edgeSeen = true ∧ s.time.windows = 0 ∧ s.time.now = s.time.lastEdge) ∧
    (∃ (v : Word) (s : State), s.time.st ≠ .acquire ∧ getF v F.TIME_CTRL_FORCE_STEP = 1) ∧
    (∃ (v : Word) (s : State), (s.time.st = .acquire ∨ getF v F.TIME_CTRL_FORCE_STEP = 0)) ∧
    (∃ (v : Word) (s : State), getF v F.PITCH_CFG_REJECTED = 0 ∧ 16 ≤ getF v F.PITCH_CFG_LEN ∧ getF v F.PITCH_CFG_LEN ≤ 4096 ∧ getF v F.PITCH_CFG_PHASE <
      getF v F.PITCH_CFG_LEN ∧ s.guarBooked = false) ∧
    (∃ (v : Word) (s : State), getF v F.PITCH_CFG_REJECTED = 0 ∧ (getF v F.PITCH_CFG_LEN < 16 ∨ 4096 < getF v F.PITCH_CFG_LEN ∨ getF v F.PITCH_CFG_LEN ≤
      getF v F.PITCH_CFG_PHASE ∨ s.guarBooked = true)) ∧
    (∃ (len ph k : Nat) (s : State), s.time.pendingCfg = some (len, ph, k) ∧ k < s.time.ticks ∧ s.time.st ≠ .acquire ∧ ((s.time.count : Int) - ph) % len =
      0) ∧
    (∃ (d : Fin 8) (w : Nat) (s : State), nthD s.time.holdUntil d.val none = some w ∧ w ≤ s.time.count) ∧
    (∃ (d : Fin 8) (fc : Nat) (s : State), 16 * (nthD s.time.floorDone d.val 0 + 1) + 1 ≤ s.time.ticks ∧ s.time.stepTick = none ∧ 22396 ≤ fc ∧ nthD
      s.pwr.stretched d.val false = false) :=
  ⟨⟨100, timeIs { ext := some 100, st := .locked, stepPending := true, edgeSeen := true, windows := 0, now := 5, lastEdge := 5 }, by decide +kernel⟩,
   ⟨1, timeIs { st := .free }, by decide +kernel⟩,
   ⟨0, timeIs { st := .free }, .inr (by decide +kernel)⟩,
   ⟨4096 + 4095 * 65536, State.reset, by decide +kernel⟩,
   ⟨15, State.reset, by decide +kernel⟩,
   ⟨16, 15, 8, timeIs { pendingCfg := some (16, 15, 8), ticks := 9, st := .locked, count := 31 }, by decide +kernel⟩,
   ⟨7, 9, timeIs { holdUntil := List.replicate 8 (some 9), count := 9 }, by decide +kernel⟩,
   ⟨7, 22396, timeIs { ticks := 17 }, by decide +kernel⟩⟩

/-- States and operands that meet the hypotheses of O3, clause by clause. -/
theorem test_pitch_boundary_completes_hypotheses :
    ∃ s : State, s.time.st ≠ .acquire ∧ s.time.isBoundary s.time.count = true ∧ s.time.lastBoundary ≠ some s.time.count :=
  ⟨timeIs { st := .locked, count := 100 }, by decide +kernel⟩

/-- States and operands that meet the hypotheses of O4, clause by clause. -/
theorem test_accesses_complete_hypotheses :
    (∃ (f : Fin 65) (a : BitVec 48) (s : State) (b : Blk) (u o : Nat), blockOf a.toNat = some (b, u, o) ∧ s.fnReach f.val b u = true ∧ irqFile b o = false ∧
      o % 8 = 0) ∧
    (∃ (f : Fin 65) (a : BitVec 48) (s : State) (b : Blk) (u o : Nat), blockOf a.toNat = some (b, u, o) ∧ s.fnReach f.val b u = true ∧ irqFile b o = false ∧
      o % 8 ≠ 0) ∧
    (∃ (h : Fin 16) (a : BitVec 48) (s : State) (b : Blk) (u o : Nat), s.coresRun = true ∧ (s.core h.val).wait = none ∧ s.coreBusy h.val = false ∧ blockOf
      a.toNat = some (b, u, o) ∧ irqFile b o = false ∧ o % 8 = 0) ∧
    (∃ (h : Fin 16) (a : BitVec 48) (s : State) (b : Blk) (u o : Nat), s.coresRun = true ∧ (s.core h.val).wait = none ∧ s.coreBusy h.val = false ∧ blockOf
      a.toNat = some (b, u, o) ∧ (irqFile b o = true ∨ o % 8 ≠ 0)) ∧
    (∃ (g : Fin 256) (a : BitVec 48) (s : State), (s.clu g.val).ctl.canRun = true ∧ a.toNat % 8 = 0 ∧ s.ctlMem g.val a.toNat 8 (s.clu g.val).ctl.dataU true
      false = some .block) ∧
    (∃ (g : Fin 256) (a : BitVec 48) (s : State), (s.clu g.val).ctl.canRun = true ∧ a.toNat % 8 = 0 ∧ s.ctlMem g.val a.toNat 8 (s.clu g.val).ctl.dataU false
      false = some .block) ∧
    (∃ (f : Fin 65) (bar : Fin 3) (a : BitVec 48) (n : Nat) (as : List (Nat × Bool)) (s : State), 1 ≤ n ∧ n ≤ 4096 ∧ s.fnLive f.val = true ∧ (List.range
      n).map (fun i => s.windowByte f.val bar.val (a.toNat + i)) = as.map some ∧ (∀ x ∈ as, s.hostOk f.val x.1 = true) ∧ blockOf (nthD as 0 (0, true)).1 =
      none ∧ (¬ (0x0F4000000000 ≤ (nthD as 0 (0, true)).1 ∧ (nthD as 0 (0, true)).1 < 0x0F4000040000))) ∧
    (∃ (f : Fin 65) (bar : Fin 3) (a : BitVec 48) (d : List Byte) (as : List (Nat × Bool)) (s : State), 1 ≤ d.length ∧ d.length ≤ 4096 ∧ s.fnLive f.val =
      true ∧ (List.range d.length).map (fun i => s.windowByte f.val bar.val (a.toNat + i)) = as.map some ∧ (∀ x ∈ as, s.hostOk f.val x.1 = true ∧ x.2 =
      true) ∧ blockOf (nthD as 0 (0, true)).1 = none ∧ (¬ (0x0F4000000000 ≤ (nthD as 0 (0, true)).1 ∧ (nthD as 0 (0, true)).1 < 0x0F4000040000))) ∧
    (∃ (f : Fin 65) (bar : Fin 3) (a : BitVec 48) (n : Nat) (d : List Byte) (as : List (Nat × Bool)) (s : State) (b : Blk) (u o : Nat), 1 ≤ n ∧ n ≤ 4096 ∧
      d.length = n ∧ s.fnLive f.val = true ∧ (List.range n).map (fun i => s.windowByte f.val bar.val (a.toNat + i)) = as.map some ∧ (∀ x ∈ as, s.hostOk
      f.val x.1 = true) ∧ blockOf (nthD as 0 (0, true)).1 = some (b, u, o)) ∧
    (∃ (f : Fin 65) (bar : Fin 3) (a : BitVec 48) (n : Nat) (d : List Byte) (as : List (Nat × Bool)) (s : State) (b : Blk) (u o : Nat), 1 ≤ n ∧ n ≤ 4096 ∧
      d.length = n ∧ s.fnLive f.val = true ∧ (List.range n).map (fun i => s.windowByte f.val bar.val (a.toNat + i)) = as.map some ∧ (∀ x ∈ as, s.hostOk
      f.val x.1 = true) ∧ blockOf (nthD as 0 (0, true)).1 = some (b, u, o) ∧ (∀ x ∈ as, x.2 = true)) :=
  ⟨⟨64, 0x0F0000200008, booted, .time, 0, 8, by decide +kernel⟩,
   ⟨64, 0x0F0000200004, booted, .time, 0, 4, by decide +kernel⟩,
   ⟨15, 0x0F0000200008, booted, .time, 0, 8, by decide +kernel⟩,
   ⟨15, 0x0F0000200004, booted, .time, 0, 4, by decide +kernel, by decide +kernel, by decide +kernel, by decide +kernel, .inr (by decide +kernel)⟩,
   ⟨0, BitVec.ofNat 48 (Blk.base .cluster 0), ctlIs { st := .firmware }, by decide +kernel⟩,
   ⟨0, BitVec.ofNat 48 (Blk.base .cluster 0), ctlIs { st := .firmware }, by decide +kernel⟩,
   ⟨64, 2, 0, 1, [(0, true)], booted.setReg (R.HOST_APERTURE 0) 1, by decide +kernel⟩,
   ⟨64, 2, 0, [7], [(0, true)], booted.setReg (R.HOST_APERTURE 0) 1, by decide +kernel⟩,
   ⟨64, 0, 0x200000, 8, List.replicate 8 0, (List.range 8).map (fun i => (0x0F0000200000 + i, true)), booted, .time, 0, 0, by decide +kernel⟩,
   ⟨64, 0, 0x200000, 8, List.replicate 8 0, (List.range 8).map (fun i => (0x0F0000200000 + i, true)), booted, .time, 0, 0, by decide +kernel⟩⟩

/-- States and operands that meet the hypotheses of O5, clause by clause. -/
theorem test_loads_complete_hypotheses :
    (∃ (t : Fin 4096) (c : HostCmd) (rest : List HostCmd) (s : State), (s.page t.val).inbox = c :: rest ∧ c.cmd.opcode = 4 ∧ c.cmd.fn = 64 ∧ numAt c.bytes 0x18
      1 < 64 ∧ (s.setPage t.val { s.page t.val with inbox := rest }).teamId (numAt c.bytes 0x18 1) = numAt c.bytes 0x18 1) ∧
    (∃ (p : Fin 64) (l : Load) (hdr raw : List Byte) (s u v : State), (s.team p.val).load = some l ∧ (∀ k, l.keySrc = some (2, k) → (s.sec.streamKey 2
      k).isSome = true) ∧ l.pos + 24 ≤ l.bodyLen ∧ s.imageRead (l.sect.image + 128 + l.pos) 24 = (u, .ok hdr) ∧ (frameHdr hdr).typeBad l.verMinor = false ∧
      (frameHdr hdr).boundsBad l.sect (l.bodyLen - l.pos) l.encrypted = false ∧ l.orderBad (frameHdr hdr) = false ∧ u.imageRead (l.sect.image + 128 + l.pos +
      24) ((frameHdr hdr).size l.encrypted - 24) = (v, .ok raw)) :=
  ⟨⟨3, hostCmd 4 64 (List.replicate 64 0), [], inboxIs booted (hostCmd 4 64 (List.replicate 64 0)), by decide +kernel⟩,
   ⟨63, { cmd := {}, cutover := 0, sect := sect0, verMinor := 2, encrypted := false, key := [], iv := [], frameCount := 1, bodyLen := 24, digest := [] }, 0x7F
     :: 0 :: 0xFF :: 0xFF :: List.replicate 20 0, [], (teamIs 63
     { load := some { cmd := {}, cutover := 0, sect := sect0, verMinor := 2, encrypted := false, key := [], iv := [], frameCount := 1, bodyLen := 24, digest := [] } }).wr
     128 [0x7F, 0, 0xFF, 0xFF] [], _, _, by decide +kernel, (fun _ h => nomatch h), by decide +kernel, rfl, by decide +kernel, by decide +kernel,
     by decide +kernel, rfl⟩⟩

/-- States and operands that meet the hypotheses of O6, clause by clause. -/
theorem test_sequencer_instructions_complete_hypotheses :
    (∃ (c : Fin 4096) (s : State), s.issuesNow c.val .qNop ∧ (loopNext (s.cell c.val).loops (s.cell c.val).pc).2 < 8192) ∧
    (∃ (c : Fin 4096) (xd : BitVec 4) (imm : BitVec 32) (s : State), s.issuesNow c.val (.qSetx xd imm) ∧ (loopNext (s.cell c.val).loops (s.cell c.val).pc).2 <
      8192) ∧
    (∃ (c : Fin 4096) (xd xs : BitVec 4) (imm : BitVec 32) (s : State), s.issuesNow c.val (.qAddx xd xs imm) ∧ (loopNext (s.cell c.val).loops (s.cell
      c.val).pc).2 < 8192) ∧
    (∃ (c : Fin 4096) (n1 : BitVec 16) (len : BitVec 13) (s : State), s.issuesNow c.val (.qLoop n1 len) ∧ (s.cell c.val).loops.length < 4 ∧ (∀ l ∈ (s.cell
      c.val).loops.head?, (s.cell c.val).pc + len.toNat ≤ l.last) ∧ len ≠ 0 ∧ (s.cell c.val).pc + 1 < 8192) ∧
    (∃ (c : Fin 4096) (e : MboxEntry) (r : List MboxEntry) (s : State), s.issuesNow c.val .qBlock ∧ (s.cell c.val).loops = [] ∧ (s.cell c.val).mbox = e :: r ∧
      (s.cell c.val).store.prog.any (fun w => decide (w.1 ≤ e.word) && decide (e.word < w.1 + w.2)) = true) ∧
    (∃ (c : Fin 4096) (s : State), s.issuesNow c.val .qBlock ∧ (s.cell c.val).loops = [] ∧ (s.cell c.val).mbox = []) ∧
    (∃ (c : Fin 4096) (e : MboxEntry) (r : List MboxEntry) (s : State), (s.cell c.val).st = .blockWait ∧ (s.cell c.val).stopping = false ∧ (s.cell c.val).mbox
      = e :: r ∧ (s.cell c.val).store.prog.any (fun w => decide (w.1 ≤ e.word) && decide (e.word < w.1 + w.2)) = true) :=
  ⟨⟨4095, State.reset.setCell 4095 (atWord 0x0100000000000000), ⟨by decide +kernel, by decide +kernel⟩, by decide +kernel⟩,
   ⟨0, 15, 0xFFFFFFFF, cell0 (atWord 0x02F00000FFFFFFFF), ⟨by decide +kernel, by decide +kernel⟩, by decide +kernel⟩,
   ⟨0, 5, 6, 1, cell0 (atWord 0x0356000000000001), ⟨by decide +kernel, by decide +kernel⟩, by decide +kernel⟩,
   ⟨0, 0xFFFF, 8191, cell0 (atWord 0x0400FFFF00001FFF), ⟨by decide +kernel, by decide +kernel⟩, by decide +kernel⟩,
   ⟨0, ⟨0, 7, []⟩, [], cell0 { atWord 0x0500000000000000 with mbox := [⟨0, 7, []⟩] }, ⟨by decide +kernel, by decide +kernel⟩,
     by decide +kernel⟩,
   ⟨0, cell0 (atWord 0x0500000000000000), ⟨by decide +kernel, by decide +kernel⟩, by decide +kernel⟩,
   ⟨0, ⟨0, 7, []⟩, [], cell0 { atWord 0 with st := .blockWait, mbox := [⟨0, 7, []⟩] }, by decide +kernel⟩⟩

/-- States and operands that meet the hypotheses of O7, clause by clause. -/
theorem test_issue_and_end_complete_hypotheses :
    (∃ (c : Fin 4096) (s : State), s.issuesNow c.val .qEnd ∧ (s.cell c.val).inFlight = [] ∧ (s.cell c.val).lead.tags = [] ∧ (s.cell c.val).loops = []) ∧
    (∃ (c : Fin 4096) (i : CellInstr) (e : Engine) (s : State) (k : Cell) (cur : Resume) (live : List XInc), s.issuesNow c.val i ∧ i.engine = some e ∧
      (s.cell c.val).room i = true ∧ (s.cell c.val).takeCursor i = (k, cur) ∧ live = (s.cell c.val).incs.filter (fun j => (s.cell c.val).inFlight.any (fun p
      => decide (p.seq = j.seq))) ∧ (loopNext (s.cell c.val).loops (s.cell c.val).pc).2 < 8192) ∧
    (∃ (c : Fin 4096) (s : State), s.issuesNow c.val .qEnd ∧ (s.cell c.val).inFlight = [] ∧ (s.cell c.val).lead.tags = [] ∧ (s.cell c.val).loops ≠ []) ∧
    (∃ (c : Fin 4096) (s : State), (s.cell c.val).issues = true ∧ s.bankErr c.val = none ∧ (s.cell c.val).atPc = none) :=
  ⟨⟨0, cell0 (atWord 0x0F00000000000000), ⟨by decide +kernel, by decide +kernel⟩, by decide +kernel⟩,
   ⟨0, .tRel 0x8001, .tile, cell0 (atWord 0x1200000000008001), _, _, _, ⟨by decide +kernel, by decide +kernel⟩, by decide +kernel,
     by decide +kernel, rfl, rfl, by decide +kernel⟩,
   ⟨0, cell0 { atWord 0x0F00000000000000 with loops := [⟨0, 1, 0⟩] }, ⟨by decide +kernel, by decide +kernel⟩, by decide +kernel⟩,
   ⟨0, cell0 (atWord 0), by decide +kernel⟩⟩

/-- States and operands that meet the hypotheses of O8, clause by clause. -/
theorem test_tile_instructions_complete_hypotheses :
    (∃ (c : Fin 4096) (q : QInstr) (fmt : BitVec 5) (scl : BitVec 2) (tr : BitVec 4) (tps : BitVec 1) (xb : BitVec 4) (off : BitVec 17) (stride inc : BitVec
      10) (s : State), s.starts c.val .tile q (.tLd fmt scl tr tps xb off stride inc) ∧ (s.cell c.val).inRegion (offAddr q.xs xb off.toNat) (imageSpan
      (fmtOf fmt) scl.toNat stride.toNat) Region.rd = true) ∧
    (∃ (c : Fin 4096) (q : QInstr) (fmt : BitVec 5) (scl : BitVec 2) (tr : BitVec 4) (tps : BitVec 1) (xb : BitVec 4) (off : BitVec 17) (stride inc : BitVec
      10) (s m : State) (t : TReg), s.starts c.val .tile q (.tSt fmt scl tr tps 0#3 xb off stride inc) ∧ m = s.meetStores (tregStores c.val [tr.toNat]) ∧ t
      = nthD (m.cell c.val).tregs tr.toNat {} ∧ t.full = true ∧ (m.cell c.val).inRegion (offAddr q.xs xb off.toNat) (imageSpan (fmtOf fmt) scl.toNat
      stride.toNat) Region.wr = true) ∧
    (∃ (c : Fin 4096) (q : QInstr) (fmt : BitVec 5) (scl : BitVec 2) (tr : BitVec 4) (tps : BitVec 1) (dir : BitVec 3) (xb : BitVec 4) (off : BitVec 17)
      (stride inc : BitVec 10) (s : State) (t : TReg) (tx : BelayTx) (w : Grant) (base span : Nat) (us : List Nat), s.starts c.val .tile q (.tSt fmt scl tr
      tps dir xb off stride inc) ∧ dir ≠ 0#3 ∧ s.upsets = [] ∧ t = nthD (s.cell c.val).tregs tr.toNat {} ∧ t.full = true ∧ tx = nthD (s.cell c.val).tx
      (dir.toNat - 1) {} ∧ tx.win = some w ∧ base = offAddr q.xs xb off.toNat ∧ span = imageSpan (fmtOf fmt) scl.toNat stride.toNat ∧ w.base ≤ base ∧ base +
      span ≤ w.base + 256 * w.units ∧ us = unitsIn w.base w.units base span ∧ us.all (fun u => tx.held.testBit u) = true) ∧
    (∃ (c : Fin 4096) (q : QInstr) (m : BitVec 16) (s : State), s.starts c.val .tile q (.tRel m)) ∧
    (∃ (c : Fin 4096) (b : Fin 4) (s : State), (s.cell c.val).bankEmpty b.val = true ∧ s.fld (R.CELL_TREG_CTRL c.val) F.CELL_TREG_CTRL_GATE_DIS = 0) ∧
    (∃ (c : Fin 4096) (q : QInstr) (acc : BitVec 2) (base : BitVec 20) (s : State), s.starts c.val .array q (.aZero acc base)) :=
  ⟨⟨0, inQueue (.tLd 0 0 3 0 2 5 0 0), 0, 0, 3, 0, 2, 5, 0, 0, cell0 (atHead .tile (.tLd 0 0 3 0 2 5 0 0)), ⟨by decide +kernel, by decide +kernel⟩,
     by decide +kernel⟩,
   ⟨0, inQueue (.tSt 0 0 3 0 0 2 5 0 0), 0, 0, 3, 0, 2, 5, 0, 0, cell0
     { atHead .tile (.tSt 0 0 3 0 0 2 5 0 0) with tregs := List.replicate 16 { full := true } }, _, { full := true }, ⟨by decide +kernel, by decide +kernel⟩, rfl, by decide +kernel⟩,
   ⟨0, inQueue (.tSt 0 0 3 0 4 2 0 0 0), 0, 0, 3, 0, 4, 2, 0, 0, 0, cell0
     { atHead .tile (.tSt 0 0 3 0 4 2 0 0 0) with tregs := List.replicate 16 { full := true }, tx := List.replicate 4 { win := some ⟨0, 4, false, false⟩, held := 15 } },
     { full := true }, { win := some ⟨0, 4, false, false⟩, held := 15 }, ⟨0, 4, false, false⟩, 0, 1024, [0, 1, 2, 3], ⟨by decide +kernel, by decide +kernel⟩, by decide +kernel⟩,
   ⟨0, inQueue (.tRel 0xFFFF), 0xFFFF, cell0 (atHead .tile (.tRel 0xFFFF)), ⟨by decide +kernel, by decide +kernel⟩⟩,
   ⟨0, 3, State.reset, by decide +kernel⟩,
   ⟨0, inQueue (.aZero 3 0xFFFFF), 3, 0xFFFFF, cell0 (atHead .array (.aZero 3 0xFFFFF)), ⟨by decide +kernel, by decide +kernel⟩⟩⟩

/-- States and operands that meet the hypotheses of O9, clause by clause. -/
theorem test_array_instructions_complete_hypotheses :
    (∃ (c : Fin 4096) (q : QInstr) (fb fa : BitVec 5) (sb sa acc : BitVec 2) (ta tb : BitVec 4) (k m : BitVec 5) (fin : BitVec 1) (s w z u : State) (ra rb :
      TReg) (rows : List RowLeaves) (x : Acc) (bad : Bool), s.starts c.val .array q (.aMma fb fa sb sa acc ta tb k m fin) ∧ w = s.meetStores (tregStores
      c.val [ta.toNat, tb.toNat] ++ accStores c.val [acc.toNat]) ∧ z = w.meetStores [.opnd (cellNum c.val)] ∧ z.mayCheck c.val q.job (tileBytes (fmtOf fa)
      sa.toNat + tileBytes (fmtOf fb) sb.toNat) = true ∧ ra = nthD (z.cell c.val).tregs ta.toNat {} ∧ rb = nthD (z.cell c.val).tregs tb.toNat {} ∧ ra.full =
      true ∧ rb.full = true ∧ rows = mmaLeaves (z.strict c.val) (fmtOf fa) (fmtOf fb) sa.toNat sb.toNat (k.toNat + 1) (m.toNat + 1) ra.bytes rb.bytes ∧
      ((z.cell c.val).acc acc.toNat).pushAll (z.strict c.val) (fmtOf fa).isInt (fin = 1#1) rows = .inr x ∧ bad = (ra.poison || rb.poison || w.opndBad c.val)
      ∧ u = (((z.startHead c.val q).setAcc c.val acc.toNat (if bad then x.or flPoison else x)).count c.val 2 ((k.toNat + 1) * rateFactor (z.strict c.val)
      (fmtOf fa) (fmtOf fb))).count c.val 3 ((m.toNat + 1) * (k.toNat + 1) * 32)) ∧
    (∃ (c : Fin 4096) (q : QInstr) (fb : BitVec 5) (acc : BitVec 2) (ta : BitVec 4) (sr clr : BitVec 1) (xb : BitVec 4) (off : BitVec 13) (s w z : State)
      (codes : List Nat) (fl : Nat) (x : Acc), s.starts c.val .array q (.aDrain fb acc ta 0#1 sr clr 0#1 xb off) ∧ w = s.meetStores (accStores c.val
      [acc.toNat]) ∧ z = (if ((w.cell c.val).acc acc.toNat).drainAdds then w.treeUpset c.val [acc.toNat] else w) ∧ rootDrain (z.strict c.val) (z.e4sat
      c.val) (fmtOf fb) none (if sr = 1#1 then some (z.sectIdAt c.val, (xval q.xs xb + off.toNat) % 2 ^ 32) else none) ((z.cell c.val).acc acc.toNat) =
      (codes, fl) ∧ x = ((z.cell c.val).acc acc.toNat).or fl) ∧
    (∃ (c : Fin 4096) (q : QInstr) (fb : BitVec 5) (acc : BitVec 2) (ta : BitVec 4) (sr clr norm : BitVec 1) (xb : BitVec 4) (off : BitVec 13) (s w : State)
      (x : Acc), s.starts c.val .array q (.aDrain fb acc ta 1#1 sr clr norm xb off) ∧ w = s.meetStores (accStores c.val [acc.toNat]) ∧ x = (w.cell
      c.val).acc acc.toNat ∧ (w.cell c.val).inRegion (offAddr q.xs xb off.toNat) (x.frame (w.strict c.val)).length Region.wr = true) ∧
    (∃ (c : Fin 4096) (q : QInstr) (acc : BitVec 2) (n1 : BitVec 7) (xb : BitVec 4) (off : BitVec 10) (s u v : State) (len : Nat), s.starts c.val .array q
      (.aMerge acc n1 xb off) ∧ (s.cell c.val).mergeFrom q = none ∧ n1 = 0#7 ∧ (s.startHead c.val q).mergeStep c.val acc.toNat (offAddr q.xs xb off.toNat) 0
      = (u, none, true) ∧ v = u.setCell c.val { u.cell c.val with merge := none } ∧ len = v.frameAt c.val 1 (offAddr q.xs xb off.toNat) - offAddr q.xs xb
      off.toNat) ∧
    (∃ (c : Fin 4096) (q : QInstr) (acc : BitVec 2) (n1 : BitVec 7) (xb : BitVec 4) (off : BitVec 10) (s u : State), s.starts c.val .array q (.aMerge acc n1
      xb off) ∧ (s.cell c.val).mergeFrom q = none ∧ (s.startHead c.val q).mergeStep c.val acc.toNat (offAddr q.xs xb off.toNat) 0 = (u, none, false)) ∧
    (∃ (c : Fin 4096) (q : QInstr) (fb fa : BitVec 5) (sb sa acc : BitVec 2) (ta : BitVec 4) (klen row : BitVec 5) (fin : BitVec 1) (kc1 : BitVec 7) (xb :
      BitVec 4) (inc : BitVec 1) (s r z u : State) (ra : TReg) (w : List Byte) (bad : List Nat) (cb ab base : Nat) (pois : Bool) (chunks : List (List Byte ×
      List Byte × Nat)) (lv : List (List (List (LeafVal × Nat)))) (x : Acc), s.starts c.val .array q (.mMv fb fa sb sa acc ta klen row fin kc1 xb inc) ∧ r =
      s.meetStores (tregStores c.val [ta.toNat] ++ accStores c.val [acc.toNat]) ∧ z = r.meetStores [.opnd (cellNum c.val)] ∧ cb = tileBytes (fmtOf fb)
      sb.toNat ∧ ab = (fmtOf fa).bytes 32 + sclBytes sa.toNat ∧ base = xval q.xs xb ∧ z.mayCheck c.val q.job (ab + cb) = true ∧ ra = nthD (z.cell
      c.val).tregs ta.toNat {} ∧ ra.full = true ∧ (z.cell c.val).inRegion base ((kc1.toNat + 1) * cb) Region.rd = true ∧ z.ownRead c.val base ((kc1.toNat +
      1) * cb) = (u, w, bad) ∧ chunks = (List.range (kc1.toNat + 1)).map (fun i => (sliceB ra.bytes (i * ab) ab, sliceB w (i * cb) cb, if i + 1 = kc1.toNat
      + 1 then klen.toNat + 1 else 32)) ∧ lv = chunks.map (fun y => mvChunk (z.strict c.val) (fmtOf fa) (fmtOf fb) sa.toNat sb.toNat y.2.2 y.1 y.2.1) ∧
      ((z.cell c.val).acc acc.toNat).pushAll (z.strict c.val) (fmtOf fa).isInt (fin = 1#1) [(row.toNat, lv.flatten)] = .inr x ∧ pois = (ra.poison ||
      !bad.isEmpty || r.opndBad c.val)) :=
  ⟨⟨0, inQueue (.aMma 4 4 1 1 1 2 3 0 0 1), 4, 4, 1, 1, 1, 2, 3, 0, 0, 1, cell0 (fullCell .array (.aMma 4 4 1 1 1 2 3 0 0 1)), _, _, _,
     { full := true, bytes := [] }, { full := true, bytes := [] }, mmaLeaves false .e2m1 .e2m1 1 1 1 1 ([]) ([]), pushed (({} : Acc).pushAll false false
     true (mmaLeaves false .e2m1 .e2m1 1 1 1 1 ([]) ([]))), false, ⟨by decide +kernel, by decide +kernel⟩, rfl, rfl, by decide +kernel, by decide +kernel,
     by decide +kernel, by decide +kernel, (by decide +kernel), by decide +kernel, by decide +kernel, by decide +kernel, rfl⟩,
   ⟨0, inQueue (.aDrain 0x18 1 2 0 0 1 0 0 0), 0x18, 1, 2, 0, 1, 0, 0, cell0 (fullCell .array (.aDrain 0x18 1 2 0 0 1 0 0 0)), _, _, _, _, _,
     ⟨by decide +kernel, by decide +kernel⟩, rfl, rfl, rfl, rfl⟩,
   ⟨0, inQueue (.aDrain 0x18 3 0 1 0 0 0 5 64), 0x18, 3, 0, 0, 0, 0, 5, 64, cell0 (fullCell .array (.aDrain 0x18 3 0 1 0 0 0 5 64)), _, _,
     ⟨by decide +kernel, by decide +kernel⟩, rfl, rfl, by decide +kernel⟩,
   ⟨0, inQueue (.aMerge 0 0 1 0), 0, 0, 1, 0, mergeState [0x43, 0x41, 0x49, 0x52, 1], _, _, _, ⟨by decide +kernel, by decide +kernel⟩, by decide +kernel,
     by decide +kernel, pair_of (by decide +kernel), rfl, rfl⟩,
   ⟨0, inQueue (.aMerge 0 0 1 0), 0, 0, 1, 0, mergeState intHead, _, ⟨by decide +kernel, by decide +kernel⟩, by decide +kernel, pair_of (by decide +kernel)⟩,
   ⟨0, inQueue (.mMv 4 0 0 0 2 1 0 31 1 0 9 0), 4, 0, 0, 0, 2, 1, 0, 31, 1, 0, 9, 0, cell0 (fullCell .array (.mMv 4 0 0 0 2 1 0 31 1 0 9 0)), _, _, _,
     { full := true, bytes := [] }, _, _, tileBytes .e2m1 0, Fmt.e4m3.bytes 32, 0, false, [(List.replicate 32 0, List.replicate (tileBytes .e2m1 0) 0, 1)],
     [mvChunk false .e4m3 .e2m1 0 0 1 (List.replicate 32 0) (List.replicate (tileBytes .e2m1 0) 0)], pushed (({} : Acc).pushAll false false true [(31,
     mvChunk false .e4m3 .e2m1 0 0 1 (List.replicate 32 0) (List.replicate (tileBytes .e2m1 0) 0))]), ⟨by decide +kernel, by decide +kernel⟩, rfl, rfl,
     by decide +kernel, by decide +kernel, by decide +kernel, by decide +kernel, (by decide +kernel), by decide +kernel, by decide +kernel, rfl,
     by decide +kernel⟩⟩

/-- States and operands that meet the hypotheses of O10, clause by clause. -/
theorem test_score_pair_completes_hypotheses :
    ∃ (c : Fin 4096) (q : QInstr) (fb fa : BitVec 5) (sb sa acc : BitVec 2) (tq xk : BitVec 4) (klen rows : BitVec 5) (xv : BitVec 4) (dch : BitVec 2)
      (first inc : BitVec 1) (chain : BitVec 13) (s u1 u2 : State) (qr : List TReg) (nb : Nat) (d : Desc) (kb vb : List Byte) (b1 b2 : List Nat) (m0 : List
      Int) (l0 : List (BitVec 32)) (kc : List (BitVec 32)) (prs : List PairRow) (img : List Byte) (accs : List Acc) (outs : List Acc), s.starts c.val .array
      q (.fPair fb fa sb sa acc tq xk klen rows xv dch first inc chain) ∧ s.upsets = [] ∧ s.mayCheck c.val q.job ((fmtOf fa).bytes 1024 + nb) = true ∧ qr =
      (regRun tq.toNat (dch.toNat + 1)).map (fun r => nthD (s.cell c.val).tregs r {}) ∧ qr.all (·.full) = true ∧ (first = 1#1 ∨ (s.cell c.val).fp = some
      (acc.toNat, dch.toNat + 1)) ∧ nb = tileBytes (fmtOf fb) sb.toNat ∧ Desc.read (s.cell c.val).store.num chain.toNat 1024 = some d ∧ d.pairOk (s.cell
      c.val).store.num chain.toNat = true ∧ d.pairConstBad = false ∧ (s.cell c.val).inRegion (xval q.xs xk) ((dch.toNat + 1) * nb) Region.rd = true ∧
      (s.cell c.val).inRegion (xval q.xs xv) ((dch.toNat + 1) * nb) Region.rd = true ∧ s.ownRead c.val (xval q.xs xk) ((dch.toNat + 1) * nb) = (u1, kb, b1)
      ∧ u1.ownRead c.val (xval q.xs xv) ((dch.toNat + 1) * nb) = (u2, vb, b2) ∧ m0 = (if first = 1#1 then List.replicate 32 (-32768) else (s.cell
      c.val).rowMax) ∧ l0 = (if first = 1#1 then List.replicate 32 0 else (s.cell c.val).rowSum) ∧ kc = (if d.usesK then (List.range 4096).map (fun i =>
      SMap.get 0 (s.cell c.val).const i) else []) ∧ prs = (List.range (rows.toNat + 1)).map (fun r => pairRow (s.strict c.val) (s.e4sat c.val) d kc (fmtOf
      fa) (fmtOf fb) sa.toNat sb.toNat (klen.toNat + 1) r (nthD m0 r (-32768)) (qr.map (·.bytes)) ((List.range (dch.toNat + 1)).map (fun h => sliceB kb (h *
      nb) nb))) ∧ img = packCodes (fmtOf fa) (prs.flatMap (·.p) ++ List.replicate (32 * (32 - (rows.toNat + 1))) 0) ∧ accs = (List.range (dch.toNat +
      1)).map (fun h => (List.range (rows.toNat + 1)).foldl (fun x r => if (nthD prs r ⟨[], 0, 0, 0⟩).m = nthD m0 r 0 then x else x.scaleRow r (nthD m0 r 0
      - (nthD prs r ⟨[], 0, 0, 0⟩).m)) (if first = 1#1 then Acc.zero 0 else (s.cell c.val).acc (acc.toNat + h))) ∧ (accs.zip ((List.range (dch.toNat +
      1)).map (fun h => mmaLeaves (s.strict c.val) (fmtOf fa) (fmtOf fb) 0 sb.toNat 32 (rows.toNat + 1) img (sliceB vb (h * nb) nb)))).map (fun y =>
      y.1.pushAll (s.strict c.val) (fmtOf fa).isInt false y.2) = outs.map .inr :=
  ⟨0, inQueue (.fPair 0 0 0 0 0 0 1 0 0 2 0 1 0 0), 0, 0, 0, 0, 0, 0, 1, 0, 0, 2, 0, 1, 0, 0, cell0 (fullCell .array (.fPair 0 0 0 0 0 0 1 0 0 2 0 1 0 0)),
    _, _, _, 1024, chain0, _, _, _, _, _, _, _, _, _, _, _, ⟨by decide +kernel, by decide +kernel⟩, by decide +kernel, by decide +kernel, rfl,
    by decide +kernel, by decide +kernel, by decide +kernel, by decide +kernel, (by decide +kernel), by decide +kernel, by decide +kernel, by decide +kernel,
    rfl, rfl, rfl, rfl, rfl, rfl, rfl, rfl, all_pushed _ (by decide +kernel)⟩

/-- States and operands that meet the hypotheses of O11, clause by clause. -/
theorem test_vector_and_channel_instructions_complete_hypotheses :
    (∃ (c : Fin 4096) (segs : Nat) (q : QInstr) (xa xb xd xm : BitVec 4) (inc : BitVec 1) (n1 : BitVec 16) (chain : BitVec 13) (s v : State) (d : Desc) (xs
      : List Nat) (n A B D M : Nat) (done k : Nat) (run run' : ChainRun), s.starts c.val .vector q (.vChain xa xb xd xm inc 0#3 n1 0#7 chain) ∧ xs = (match
      (s.cell c.val).veFrom q with | some v => v.xstart | none => [xval q.xs xa, xval q.xs xb, xval q.xs xd, xval q.xs xm]) ∧ A = nthD xs 0 0 ∧ B = nthD xs
      1 0 ∧ D = nthD xs 2 0 ∧ M = nthD xs 3 0 ∧ n = n1.toNat + 1 ∧ Desc.read (s.cell c.val).store.num chain.toNat n = some d ∧ chainFault d n A B D M (xb ≠
      0#4) (xm ≠ 0#4) false = none ∧ (s.cell c.val).inRegion A (streamLen d.fmtA d.sclA d.layout n) Region.rd = true ∧ (d.usesB = true → (s.cell
      c.val).inRegion B (streamLen d.fmtB d.sclB d.layout n) Region.rd = true) ∧ (d.mask = 1 → (s.cell c.val).inRegion M ((n + 7) / 8) Region.rd = true) ∧
      (d.dest = false → (s.cell c.val).inRegion D (streamLen d.fmtD d.sclD d.layout n) Region.wr = true) ∧ (done, run) = (match (s.cell c.val).veFrom q with
      | some v => (v.done, v.run) | none => (0, ChainRun.start d)) ∧ k = min segs (segCount d n - done) ∧ State.vSegments c.val (s.strict c.val) d n A B D M
      k done (s.startHead c.val q, run) = (v, run') ∧ done + k < segCount d n) ∧
    (∃ (c : Fin 4096) (segs : Nat) (q : QInstr) (xa xb xd xm : BitVec 4) (inc : BitVec 1) (n1 : BitVec 16) (chain : BitVec 13) (s v : State) (d : Desc) (xs
      : List Nat) (n A B D M : Nat) (done k : Nat) (run run' : ChainRun), s.starts c.val .vector q (.vChain xa xb xd xm inc 0#3 n1 0#7 chain) ∧ xs = (match
      (s.cell c.val).veFrom q with | some v => v.xstart | none => [xval q.xs xa, xval q.xs xb, xval q.xs xd, xval q.xs xm]) ∧ A = nthD xs 0 0 ∧ B = nthD xs
      1 0 ∧ D = nthD xs 2 0 ∧ M = nthD xs 3 0 ∧ n = n1.toNat + 1 ∧ Desc.read (s.cell c.val).store.num chain.toNat n = some d ∧ chainFault d n A B D M (xb ≠
      0#4) (xm ≠ 0#4) false = none ∧ (s.cell c.val).inRegion A (streamLen d.fmtA d.sclA d.layout n) Region.rd = true ∧ (d.usesB = true → (s.cell
      c.val).inRegion B (streamLen d.fmtB d.sclB d.layout n) Region.rd = true) ∧ (d.mask = 1 → (s.cell c.val).inRegion M ((n + 7) / 8) Region.rd = true) ∧
      (d.dest = false → (s.cell c.val).inRegion D (streamLen d.fmtD d.sclD d.layout n) Region.wr = true) ∧ (done, run) = (match (s.cell c.val).veFrom q with
      | some v => (v.done, v.run) | none => (0, ChainRun.start d)) ∧ k = min segs (segCount d n - done) ∧ State.vSegments c.val (s.strict c.val) d n A B D M
      k done (s.startHead c.val q, run) = (v, run') ∧ segCount d n ≤ done + k) ∧
    (∃ (c : Fin 4096) (q : QInstr) (zmask : BitVec 4) (tag : BitVec 16) (s u v : State) (r : List Byte), s.starts c.val .vector q (.vSum zmask tag) ∧
      (s.cell c.val).summaries < 4 ∧ (s.clu (s.clusterOf c.val)).sums.length < 64 ∧ r = summaryBytes (c.val % 16) q.job tag.toNat zmask.toNat (s.fld
      (R.CELL_VE_LAST c.val) F.CELL_VE_LAST_FLAGS) (s.cell c.val).elems (s.cell c.val).zs ∧ u = (s.startHead c.val q).finish c.val .vector ∧ v = ((u.setCell
      c.val { u.cell c.val with summaries := (s.cell c.val).summaries + 1 }).plausCheck (s.clusterOf c.val) c.val q.job r).suspect (s.clusterOf c.val) q.job
      F.CLU_JOB_SUSPECT_POISON (numAt r 5 1 != 0)) ∧
    (∃ (c : Fin 4096) (q : QInstr) (ch : BitVec 3) (inc : BitVec 1) (xb nfl : BitVec 4) (off : BitVec 12) (tag : BitVec 16) (s u v : State) (o : ChanOut) (b
      : ChanBind) (a n m : Nat) (bs : List Byte) (bad : List Nat), s.starts c.val .channel q (.cSend ch inc xb nfl off tag) ∧ o = nthD (s.cell c.val).chOut
      ch.toNat {} ∧ o.bind = some b ∧ 0 < o.credits ∧ a = offAddr q.xs xb off.toNat ∧ a % 32 = 0 ∧ n = 256 * (nfl.toNat + 1) ∧ (s.cell c.val).inRegion a n
      Region.rd = true ∧ u = (s.startHead c.val q).setCell c.val
      { (s.startHead c.val q).cell c.val with chOut := ((s.startHead c.val q).cell c.val).chOut.set ch.toNat { o with credits := o.credits - 1 } } ∧
      u.ownRead c.val a n = (v, bs, bad) ∧ m = tilePoison (scratchAddr c.val a) n bad) ∧
    (∃ (c : Fin 4096) (q : QInstr) (ch : BitVec 3) (inc : BitVec 1) (xb nfl : BitVec 4) (off : BitVec 12) (s w u : State) (i : ChanIn) (b : ChanBind) (t :
      ChTile) (rest : List ChTile) (a n : Nat), s.starts c.val .channel q (.cRecv ch inc xb nfl off) ∧ w = s.meetStores (slotStores c.val ch.toNat) ∧ i =
      nthD (w.cell c.val).chIn ch.toNat {} ∧ i.bind = some b ∧ i.slots = t :: rest ∧ a = offAddr q.xs xb off.toNat ∧ a % 32 = 0 ∧ t.nfl = nfl.toNat + 1 ∧ n
      = 256 * (nfl.toNat + 1) ∧ (w.cell c.val).inRegion a n Region.wr = true ∧ u = ((w.startHead c.val q).setCell c.val
      { (w.startHead c.val q).cell c.val with chIn := ((w.startHead c.val q).cell c.val).chIn.set ch.toNat { i with slots := rest } }).wr (scratchAddr c.val
      a) (sliceB t.bytes 0 n) (poisonSectors (scratchAddr c.val a) n t.poison)) :=
  ⟨⟨0, 0, inQueue (.vChain 1 0 2 0 0 0 0 0 0), 1, 0, 2, 0, 0, 0, 0, cell0 (fullCell .vector (.vChain 1 0 2 0 0 0 0 0 0)), _, chain0, _, _, _, _, _, _, _, _,
     _, _, ⟨by decide +kernel, by decide +kernel⟩, rfl, rfl, rfl, rfl, rfl, rfl, by decide +kernel, by decide +kernel, by decide +kernel, by decide +kernel,
     (by decide +kernel), by decide +kernel, rfl, rfl, rfl, by decide +kernel⟩,
   ⟨0, 1, inQueue (.vChain 1 0 2 0 0 0 0 0 0), 1, 0, 2, 0, 0, 0, 0, cell0 (fullCell .vector (.vChain 1 0 2 0 0 0 0 0 0)), _, chain0, _, _, _, _, _, _, _, _,
     _, _, ⟨by decide +kernel, by decide +kernel⟩, rfl, rfl, rfl, rfl, rfl, rfl, by decide +kernel, by decide +kernel, by decide +kernel, by decide +kernel,
     (by decide +kernel), by decide +kernel, rfl, rfl, rfl, by decide +kernel⟩,
   ⟨0, inQueue (.vSum 15 0xFFFF), 15, 0xFFFF, cell0 { fullCell .vector (.vSum 15 0xFFFF) with summaries := 3 }, _, _, _, ⟨by decide +kernel, by decide +kernel⟩, by decide +kernel, by decide +kernel, rfl, rfl, rfl⟩,
   ⟨0, inQueue (.cSend 7 0 3 15 0 8), 7, 0, 3, 15, 0, 8, cell0
     { fullCell .channel (.cSend 7 0 3 15 0 8) with chOut := List.replicate 8 { bind := some bind1, credits := 1 } }, _, _,
     { bind := some bind1, credits := 1 }, bind1, 0, 4096, _, _, _, ⟨by decide +kernel, by decide +kernel⟩, by decide +kernel, by decide +kernel,
     by decide +kernel, by decide +kernel, (by decide +kernel), by decide +kernel, by decide +kernel, rfl, rfl, rfl⟩,
   ⟨0, inQueue (.cRecv 7 0 3 0 0), 7, 0, 3, 0, 0, cell0
     { fullCell .channel (.cRecv 7 0 3 0 0) with chIn := List.replicate 8 { bind := some bind1, slots := [tile1] } }, _, _,
     { bind := some bind1, slots := [tile1] }, bind1, tile1, [], 0, 256, ⟨by decide +kernel, by decide +kernel⟩, rfl, by decide +kernel, by decide +kernel,
     by decide +kernel, by decide +kernel, (by decide +kernel), by decide +kernel, by decide +kernel, by decide +kernel, rfl⟩⟩

/-- States and operands that meet the hypotheses of O12, clause by clause. -/
theorem test_lead_instructions_complete_hypotheses :
    (∃ (c : Fin 4096) (q : QInstr) (xs : BitVec 4) (lb : BitVec 2) (sp dir : BitVec 1) (xd : BitVec 4) (inc : BitVec 1) (len : BitVec 17) (s : State),
      s.starts c.val .lead q (.lFetch xs lb sp dir xd inc len) ∧ (s.cell c.val).lead.ready = true ∧ (s.cell c.val).inRegion (q.leadX 1 xd) (32 * (len.toNat
      + 1)) Region.haul = true ∧ (sp = 1#1 → (s.cell c.val).inTile (q.leadX 0 xs) (32 * (len.toNat + 1)) (if dir = 1#1 then Region.wr else Region.rd) =
      true)) ∧
    (∃ (c : Fin 4096) (q : QInstr) (xs : BitVec 4) (lb : BitVec 2) (sp : BitVec 1) (xd xt : BitVec 4) (inc : BitVec 1) (pg : BitVec 3) (count : BitVec 9)
      (len : BitVec 11) (s u : State) (b : List Byte) (bad : List Nat) (table : List Nat), s.starts c.val .lead q (.lGather xs lb sp xd xt inc pg count len)
      ∧ (s.cell c.val).lead.ready = true ∧ q.leadX 0 xs % 32 = 0 ∧ q.leadX 0 xs + 32 * (len.toNat + 1) ≤ 2 ^ (9 + pg.toNat) ∧ (s.cell c.val).inRegion
      (q.leadX 2 xt) (4 * (count.toNat + 1)) Region.rd = true ∧ (s.cell c.val).inRegion (q.leadX 1 xd) ((count.toNat + 1) * (32 * (len.toNat + 1)))
      Region.haul = true ∧ s.ownRead c.val (q.leadX 2 xt) (4 * (count.toNat + 1)) = (u, b, bad) ∧ table = chunkWords (count.toNat + 1) 4 b ∧ (sp = 1#1 → ∀ e
      ∈ table, e ≠ 0xFFFFFFFF → (s.cell c.val).inTile (e * 2 ^ (9 + pg.toNat) + q.leadX 0 xs) (32 * (len.toNat + 1)) Region.rd = true)) ∧
    (∃ (c : Fin 4096) (q : QInstr) (all : BitVec 1) (s : State), s.starts c.val .lead q (.lCancel all) ∧ (s.cell c.val).lead.cancels.any (fun x => x.q =
      some q) = false) :=
  ⟨⟨0, inQueue (.lFetch 1 0 0 0 2 0 131071), 1, 0, 0, 0, 2, 0, 131071, cell0 (fullCell .lead (.lFetch 1 0 0 0 2 0 131071)), ⟨by decide +kernel, by decide +kernel⟩, by decide +kernel⟩,
   ⟨0, inQueue (.lGather 1 0 0 2 3 0 0 511 15), 1, 0, 0, 2, 3, 0, 0, 511, 15, cell0 (fullCell .lead (.lGather 1 0 0 2 3 0 0 511 15)), _, _, _, _,
     ⟨by decide +kernel, by decide +kernel⟩, by decide +kernel, by decide +kernel, by decide +kernel, by decide +kernel, by decide +kernel, rfl, rfl,
     by decide +kernel⟩,
   ⟨0, inQueue (.lCancel 1), 1, cell0 (fullCell .lead (.lCancel 1)), ⟨by decide +kernel, by decide +kernel⟩, by decide +kernel⟩⟩

/-- States and operands that meet the hypotheses of O13, clause by clause. -/
theorem test_sync_instructions_complete_hypotheses :
    (∃ (c : Fin 4096) (q : QInstr) (xa : BitVec 4) (ao : BitVec 15) (xv : BitVec 4) (vr : BitVec 1) (im : BitVec 24) (s : State) (x : Sect) (a : Nat), s.starts
      c.val .sync q (.sAdd xa ao xv vr im) ∧ s.syncReady c.val q x ((xval q.xs xa + ao.toNat) % 2 ^ 15) a) ∧
    (∃ (c : Fin 4096) (q : QInstr) (xa : BitVec 4) (ao : BitVec 15) (xv : BitVec 4) (vr : BitVec 1) (im : BitVec 24) (s : State) (x : Sect) (a : Nat), s.starts
      c.val .sync q (.sSub xa ao xv vr im) ∧ s.syncReady c.val q x ((xval q.xs xa + ao.toNat) % 2 ^ 15) a) ∧
    (∃ (c : Fin 4096) (q : QInstr) (xa : BitVec 4) (ao : BitVec 15) (xv : BitVec 4) (vr : BitVec 1) (im : BitVec 24) (s : State) (x : Sect) (a : Nat), s.starts
      c.val .sync q (.sSet xa ao xv vr im) ∧ s.syncReady c.val q x ((xval q.xs xa + ao.toNat) % 2 ^ 15) a) ∧
    (∃ (c : Fin 4096) (q : QInstr) (xa : BitVec 4) (ao : BitVec 15) (xv : BitVec 4) (vr : BitVec 1) (xe xd : BitVec 4) (im : BitVec 24) (s : State) (x : Sect)
      (a : Nat), s.starts c.val .sync q (.sCas xa ao xv vr xe xd im) ∧ s.syncReady c.val q x ((xval q.xs xa + ao.toNat) % 2 ^ 15) a) ∧
    (∃ (c : Fin 4096) (q : QInstr) (xa : BitVec 4) (ao : BitVec 15) (xv : BitVec 4) (vr : BitVec 1) (im : BitVec 24) (s : State) (x : Sect) (a : Nat), s.starts
      c.val .sync q (.sWait xa ao xv vr im) ∧ s.syncReady c.val q x ((xval q.xs xa + ao.toNat) % 2 ^ 15) a) ∧
    (∃ (c : Fin 4096) (q : QInstr) (u : BitVec 4) (s : State), s.starts c.val .sync q (.sBar u) ∧ (s.cell c.val).sync = none) ∧
    (∃ (c : Fin 4096) (o : SyncOut) (xa : BitVec 4) (ao : BitVec 15) (xv : BitVec 4) (vr : BitVec 1) (im : BitVec 24) (x : Sect) (a : Nat) (s : State), (s.cell
      c.val).sync = some o ∧ o.resend = true ∧ o.q.i = .sWait xa ao xv vr im ∧ s.sectOf c.val = some x ∧ s.teamAnchor x ((xval o.q.xs xa + ao.toNat) % 2 ^ 15)
      = some a) :=
  ⟨⟨0, inQueue (.sAdd 1 511 0 0 9), 1, 511, 0, 0, 9, running0 (fullCell .sync (.sAdd 1 511 0 0 9)), sect0, State.reset.teamCluster sect0 3 * 128 + 127,
     ⟨by decide +kernel, by decide +kernel⟩, ⟨by decide +kernel, by decide +kernel, by decide +kernel, fun d h => nomatch h⟩⟩,
   ⟨0, inQueue (.sSub 1 511 0 0 9), 1, 511, 0, 0, 9, running0 (fullCell .sync (.sSub 1 511 0 0 9)), sect0, State.reset.teamCluster sect0 3 * 128 + 127,
     ⟨by decide +kernel, by decide +kernel⟩, ⟨by decide +kernel, by decide +kernel, by decide +kernel, fun d h => nomatch h⟩⟩,
   ⟨0, inQueue (.sSet 1 511 0 0 9), 1, 511, 0, 0, 9, running0 (fullCell .sync (.sSet 1 511 0 0 9)), sect0, State.reset.teamCluster sect0 3 * 128 + 127,
     ⟨by decide +kernel, by decide +kernel⟩, ⟨by decide +kernel, by decide +kernel, by decide +kernel, fun d h => nomatch h⟩⟩,
   ⟨0, inQueue (.sCas 1 511 0 0 2 3 9), 1, 511, 0, 0, 2, 3, 9, running0 (fullCell .sync (.sCas 1 511 0 0 2 3 9)), sect0, State.reset.teamCluster sect0 3 * 128
     + 127, ⟨by decide +kernel, by decide +kernel⟩, ⟨by decide +kernel, by decide +kernel⟩⟩,
   ⟨0, inQueue (.sWait 1 511 0 0 9), 1, 511, 0, 0, 9, running0 (fullCell .sync (.sWait 1 511 0 0 9)), sect0, State.reset.teamCluster sect0 3 * 128 + 127,
     ⟨by decide +kernel, by decide +kernel⟩, ⟨by decide +kernel, by decide +kernel, by decide +kernel, fun d h => nomatch h⟩⟩,
   ⟨0, inQueue (.sBar 15), 15, cell0 (fullCell .sync (.sBar 15)), ⟨by decide +kernel, by decide +kernel⟩, by decide +kernel⟩,
   ⟨0, { q := inQueue (.sWait 1 511 0 0 9), resend := true }, 1, 511, 0, 0, 9, sect0, State.reset.teamCluster sect0 3 * 128 + 127, running0
     { sync := some { q := inQueue (.sWait 1 511 0 0 9), resend := true } }, by decide +kernel⟩⟩

/-- States and operands that meet the hypotheses of O14, clause by clause. -/
theorem test_anchor_and_barrier_packets_complete_hypotheses :
    (∃ (n : Nat) (p : Packet) (op a : Nat) (v e : Word) (s u w : State) (st : Nat) (old : Word), s.arrives 0x10 n p u ∧ p.pkt = .ancOp op a v e ∧ op ≠ 0x64 ∧
      u.ancApply op a v e (u.ancOwned p.sender a) true = (w, st, old)) ∧
    (∃ (n : Nat) (p : Packet) (a : Nat) (v e : Word) (s u : State), s.arrives 0x10 n p u ∧ p.pkt = .ancOp 0x64 a v e) ∧
    (∃ (n : Nat) (p : Packet) (st : Nat) (old : Word) (s u : State), s.arrives 0x11 n p u ∧ p.pkt = .ancReply st old) ∧
    (∃ (n : Nat) (p : Packet) (st a : Nat) (s u : State), s.arrives 0x12 n p u ∧ p.pkt = .ancWake st a) ∧
    (∃ (n : Nat) (p : Packet) (s u : State), s.arrives 0x13 n p u ∧ p.dest.code < 16) ∧
    (∃ (n : Nat) (p : Packet) (k src : Nat) (d : BarDesc) (s u : State), s.arrives 0x18 n p u ∧ p.pkt = .barArrive k src ∧ ((u.bar (u.partOf p.dest.cluster).1
      k).gen p.gen).desc = some d ∧ d.units = decide (0x80 ≤ src) ∧ d.mask.testBit (if 0x80 ≤ src then src - 0x80 else src) = true) ∧
    (∃ (n : Nat) (p : Packet) (k m : Nat) (s u : State), s.arrives 0x19 n p u ∧ p.pkt = .barDone k m ∧ m ≠ 0) ∧
    (∃ (n : Nat) (p : Packet) (k : Nat) (s u : State), s.arrives 0x19 n p u ∧ p.pkt = .barDone k 0) :=
  ⟨⟨0, pktTo 17 (.ancOp 0x63 5 1 0), 0x63, 5, 1, 0, netIs State.reset 17 (.ancOp 0x63 5 1 0), _, _, 0, 0, ⟨⟨_, _, rfl, by decide +kernel⟩, _, _, rfl, rfl⟩,
     by decide +kernel, by decide +kernel, pair_of (by decide +kernel)⟩,
   ⟨0, pktTo 17 (.ancOp 0x64 5 1 0), 5, 1, 0, netIs State.reset 17 (.ancOp 0x64 5 1 0), _, ⟨⟨_, _, rfl, by decide +kernel⟩, _, _, rfl, rfl⟩, by decide +kernel⟩,
   ⟨0, pktTo 3 (.ancReply 0 9), 0, 9, netIs State.reset 3 (.ancReply 0 9), _, ⟨⟨_, _, rfl, by decide +kernel⟩, _, _, rfl, rfl⟩, by decide +kernel⟩,
   ⟨0, pktTo 3 (.ancWake 0 9), 0, 9, netIs State.reset 3 (.ancWake 0 9), _, ⟨⟨_, _, rfl, by decide +kernel⟩, _, _, rfl, rfl⟩, by decide +kernel⟩,
   ⟨0, pktTo 15 (.ancNotyet 9), netIs State.reset 15 (.ancNotyet 9), _, ⟨⟨_, _, rfl, by decide +kernel⟩, _, _, rfl, rfl⟩, by decide +kernel⟩,
   ⟨0, pktTo 18 (.barArrive 15 1), 15, 1, { mask := 2, units := false, parent := none }, netIs
     ({ State.reset with bars := [(15, { g0 := { desc := some { mask := 2, units := false, parent := none } } })] }) 18 (.barArrive 15 1), _, ⟨⟨_, _, rfl, by decide +kernel⟩, _, _, rfl, rfl⟩, by decide +kernel⟩,
   ⟨0, pktTo 0 (.barDone 15 0xFFFF), 15, 0xFFFF, netIs State.reset 0 (.barDone 15 0xFFFF), _, ⟨⟨_, _, rfl, by decide +kernel⟩, _, _, rfl, rfl⟩, by decide +kernel⟩,
   ⟨0, pktTo 18 (.barDone 15 0), 15, netIs State.reset 18 (.barDone 15 0), _, ⟨⟨_, _, rfl, by decide +kernel⟩, _, _, rfl, rfl⟩, by decide +kernel⟩⟩

/-- States and operands that meet the hypotheses of O15, clause by clause. -/
theorem test_switch_completes_hypotheses :
    (∃ (c : Fin 4096) (s : State), (s.team (s.teamOfCell c.val)).run = .switching ∧ (s.cell c.val).switched = false ∧ (s.cell c.val).ended = true ∧ (s.cell
      c.val).stopReq = false ∧ (s.cell c.val).stopping = false ∧ (s.cell c.val).staged = true) ∧
    (∃ (c : Fin 4096) (s u : State), (s.team (s.teamOfCell c.val)).run = .switching ∧ (s.cell c.val).switched = false ∧ (s.cell c.val).ended = true ∧
      (s.cell c.val).stopReq = false ∧ (s.cell c.val).stopping = false ∧ (s.cell c.val).staged = false ∧ (s.cell c.val).st = .ending ∧ u = (s.countTime
      c.val).setCell c.val
      { s.cell c.val with st := .idle, switched := true, chIn := (s.cell c.val).chIn.map (fun i => { i with bind := none, took := false }), tx := List.replicate 4 {}, rx := List.replicate 4 {} }) ∧
    (∃ (c : Fin 4096) (s : State), (s.cell c.val).filling = true ∧ (s.cell c.val).store.hasConst = false ∧ (s.cell c.val).store.copies = []) ∧
    (∃ (c : Fin 4096) (s u v : State), (s.cell c.val).filling = true ∧ u = (if (s.cell c.val).store.hasConst then s.fillConst c.val else s) ∧ (u.cell
      c.val).store.copies.foldl (fun (x : State × Bool) w => ((x.1.weightCopy c.val w).1, x.2 && (x.1.weightCopy c.val w).2)) (u, true) = (v, true)) ∧
    (∃ (g : Fin 256) (s : State), (s.team (s.teamOfClu g.val)).run = .switching ∧ (s.team (s.teamOfClu g.val)).staged ≠ none ∧ (s.clu g.val).switched =
      false ∧ (s.clu g.val).ctl.st ≠ .user ∧ (s.switchCells (s.teamOfClu g.val)).all (fun L => decide (s.clusterOf L ≠ g.val) || s.cellThrough L) = true) ∧
    (∃ (p : Fin 64) (y : Sect) (s : State), (s.team p.val).run = .switching ∧ (s.team p.val).staged = some y ∧ (s.switchCells p.val).all s.cellThrough =
      true ∧ (s.sectCells y).all (fun L => (s.cell L).switched) = true ∧ (s.partClus y.binding).all (fun g => (s.clu g).switched && !(s.clu
      g).router.switchDue) = true) :=
  ⟨⟨0, (cell0 ({ st := .idle, staged := true })).setTeam 0 ({ run := .switching, running := some sect0, staged := some sect0 }), by decide +kernel⟩,
   ⟨0, (cell0 ({ st := .ending, chIn := List.replicate 8 { took := true } })).setTeam 0
     ({ run := .switching, running := some sect0, staged := some sect0 }), _, by decide +kernel, by decide +kernel, by decide +kernel, by decide +kernel,
     (by decide +kernel), by decide +kernel, by decide +kernel, rfl⟩,
   ⟨0, cell0 { filling := true }, by decide +kernel⟩,
   ⟨0, cell0 { filling := true, store := { hasConst := true } }, _, _, by decide +kernel, rfl, rfl⟩,
   ⟨0, State.reset.setTeam 0 { run := .switching, staged := some { sect0 with reqCells := 0 } }, by decide +kernel⟩,
   ⟨0, { sect0 with reqCells := 0 },
     (({ State.reset with clus := [(0, { switched := true }), (1, { switched := true }), (8, { switched := true }), (9, { switched := true })] }).setTeam 0
     { run := .switching, staged := some { sect0 with reqCells := 0 } }), by decide +kernel⟩⟩

/-- States and operands that meet the hypotheses of O16, clause by clause. -/
theorem test_stops_and_drains_complete_hypotheses :
    (∃ (p : Fin 64) (d : Nat) (s : State), (s.team p.val).run = .switching ∧ (s.team p.val).swDeadline = some d ∧ d ≤ s.time.count) ∧
    (∃ (p : Fin 64) (s : State), (s.team p.val).run = .draining ∧ (s.partCells (s.members p.val)).all (fun L => (s.cell L).atRest && (s.cell
      L).lead.cancels.isEmpty) = true ∧ (s.partClus (s.members p.val)).all (fun g => (s.clu g).dmaCancels.isEmpty && (s.clu g).updCancels.isEmpty) = true ∧
      s.tilesFly p.val = false) ∧
    (∃ (p : Fin 64) (c : Change) (s : State), (s.team p.val).change = some c ∧ (c.op = 3 ∨ c.op = 2 ∧ (s.team p.val).bare = false) ∧ c.started = false ∧ c.w
      ≤ s.time.count ∧ s.finishing p.val = false) ∧
    (∃ (c : Fin 4096) (s : State), (s.cell c.val).stopReq = true ∧ (s.cell c.val).stopping = false) ∧
    (∃ (c : Fin 4096) (s : State), (s.cell c.val).stopping = true ∧ (s.cell c.val).atRest = false ∧ (s.cell c.val).quiet = true) ∧
    (∃ (r : Nat) (q : Request) (j : Nat) (s : State), s.req r = some q ∧ q.spill = true ∧ q.cancelling = none ∧ q.job = some j ∧ s.updQuiet q.team j = true
      ∧ (s.bivLife q.tenant ≠ 0 ∨ q.moved ≠ none) ∧ ((s.team q.team).run = .traverse → (s.partCells (s.members q.team)).all (fun L => (s.cell L).atRest) =
      true ∧ s.tilesFly q.team = false) ∧ ((s.team q.team).run ≠ .traverse → s.jobQuiet q.team j = true)) ∧
    (∃ (r : Nat) (q : Request) (j : Nat) (dyn : Option Nat) (x : Sect) (s : State), s.req r = some q ∧ s.startDue r q 0 = true ∧ q.record = true ∧ s.jobFor
      q = some (j, dyn) ∧ (s.team q.team).running = some x) :=
  ⟨⟨63, 5, { teamIs 63 { run := .switching, swDeadline := some 5 } with time := { count := 5 } }, by decide +kernel⟩,
   ⟨0, { (teamIs 0 { run := .draining }) with cells := (List.range 64).map (fun L => (L, { atRest := true })) }, by decide +kernel⟩,
   ⟨0, chg 3 0 1 9, { teamIs 0 { change := some (chg 3 0 1 9) } with time := { count := 9 } }, by decide +kernel, .inl rfl, by decide +kernel⟩,
   ⟨0, cell0 { stopReq := true }, by decide +kernel⟩,
   ⟨0, cell0 { stopping := true }, by decide +kernel⟩,
   ⟨0, { job3 with spill := true, moved := some (0, [], 0) }, 3, (reqIs { job3 with spill := true, moved := some (0, [], 0) }), by decide +kernel,
     by decide +kernel, by decide +kernel, by decide +kernel, by decide +kernel, .inr (by decide +kernel), by decide +kernel⟩,
   ⟨0, { team := 0, sect := 7, guar := true, record := true, booked := [⟨0, 5, 1, 0, [], [], [], 0⟩] }, 0, none, sect0, (reqIs
     { team := 0, sect := 7, guar := true, record := true, booked := [⟨0, 5, 1, 0, [], [], [], 0⟩] }).setTeam 0 { run := .running, running := some sect0 },
     by decide +kernel⟩⟩

/-- States and operands that meet the hypotheses of O17, clause by clause. -/
theorem test_sfu_commands_complete_hypotheses :
    (∃ (g : Fin 256) (t : Fin 2) (s : State) (x : Sfu), x = nthD (s.clu g.val).sfu t.val {} ∧ x.queue.length + x.run.toList.length < 8) ∧
    (∃ (g : Fin 256) (t : Fin 2) (s : State) (x : Sfu), x = nthD (s.clu g.val).sfu t.val {} ∧ 8 ≤ x.queue.length + x.run.toList.length) ∧
    (∃ (g : Fin 256) (t : Fin 2) (s u v : State) (x : Sfu) (a : Nat) (rest : List Nat) (b : List Byte) (bad : List Nat) (d : SfuDesc), x = nthD (s.clu
      g.val).sfu t.val {} ∧ x.run = none ∧ x.queue = a :: rest ∧ u = s.setClu g.val
      { s.clu g.val with sfu := (s.clu g.val).sfu.set t.val { x with queue := rest } } ∧ inOwnTiles g.val a 64 = true ∧ u.deliver 2 g.val 1 (17 + t.val) a 64
      = (v, b, bad) ∧ sfuRead b = some d ∧ v.sfuInside g.val d = true) ∧
    (∃ (g : Fin 256) (t : Fin 2) (s : State) (x : Sfu) (r : SfuRun), x = nthD (s.clu g.val).sfu t.val {} ∧ x.run = some r) :=
  ⟨⟨0, 1, cluIs { sfu := [{ queue := List.replicate 7 0 }, { queue := List.replicate 7 0 }] }, { queue := List.replicate 7 0 }, by decide +kernel⟩,
   ⟨0, 1, cluIs { sfu := [{ queue := List.replicate 8 0 }, { queue := List.replicate 8 0 }] }, { queue := List.replicate 8 0 }, by decide +kernel⟩,
   ⟨0, 1, (cluIs { sfu := [{}, { queue := [tileAddr 0 0] }] }).wr (tileAddr 0 0) sfuBytes [], _, _, { queue := [tileAddr 0 0] }, tileAddr 0 0, [], _, _, sfuD,
     by decide +kernel, by decide +kernel, by decide +kernel, rfl, by decide +kernel, rfl, by decide +kernel⟩,
   ⟨0, 1, cluIs { sfu := [{}, { run := some ⟨0, 0, 0⟩ }] }, { run := some ⟨0, 0, 0⟩ }, ⟨0, 0, 0⟩, by decide +kernel⟩⟩

/-- States and operands that meet the hypotheses of O18, clause by clause. -/
theorem test_belay_messages_complete_hypotheses :
    (∃ (n L d : Nat) (m : NbrMsg) (g : Grant) (s u : State), s.crosses NbrMsg.isGrant n m L d u ∧ m.body = .grant g) ∧
    (∃ (n L d off span iaddr : Nat) (m : NbrMsg) (parts : List (Nat × List Byte)) (pois : Bool) (w : BelayRx) (s u v : State), s.crosses NbrMsg.isWrite n m
      L d u ∧ m.body = .write off span parts pois iaddr ∧ w = nthD (u.cell L).rx (d - 1) {} ∧ w.granted = true ∧ v = (parts.foldl (fun x r => x.ownWrite L
      r.1 r.2 pois) u).nbrParity L off span) ∧
    (∃ (n L d : Nat) (m : NbrMsg) (s u : State) (a b : List (Nat × QInstr)) (q : QInstr), s.crosses NbrMsg.isAck n m L d u ∧ (u.cell L).nbrOut = a ++ (d, q)
      :: b ∧ (∀ x ∈ a, x.1 ≠ d)) ∧
    (∃ (n L d k : Nat) (gen : Bool) (m : NbrMsg) (x : BelayTx) (w : Grant) (s u : State), s.crosses NbrMsg.isCredit n m L d u ∧ m.body = .credit k gen ∧ x =
      nthD (u.cell L).tx (d - 1) {} ∧ x.win = some w ∧ w.gen = gen) ∧
    (∃ (n L d k : Nat) (gen : Bool) (m : NbrMsg) (s u : State), s.crosses NbrMsg.isCredit n m L d u ∧ m.body = .credit k gen ∧ (∀ w, (nthD (u.cell L).tx (d
      - 1) {}).win = some w → w.gen ≠ gen)) ∧
    (∃ (n L d k : Nat) (gen : Bool) (m : NbrMsg) (w : BelayRx) (s u : State), s.crosses NbrMsg.isClose n m L d u ∧ m.body = .close k gen ∧ w = nthD (u.cell
      L).rx (d - 1) {} ∧ w.granted = true ∧ (u.cell L).gen = gen) :=
  ⟨⟨0, 1, 4, ⟨0, 2, .grant ⟨0, 4, false, false⟩⟩, ⟨0, 4, false, false⟩, nbrIs State.reset (.grant ⟨0, 4, false, false⟩), _, ⟨0, rfl, rfl, by decide +kernel,
     rfl, by decide +kernel, rfl⟩, by decide +kernel⟩,
   ⟨0, 1, 4, 0, 256, 7, ⟨0, 2, .write 0 256 [(0, [1])] false 7⟩, [(0, [1])], false, { granted := true, units := 4 }, nbrIs (State.reset.setCell 1
     { rx := List.replicate 4 { granted := true, units := 4 } }) (.write 0 256 [(0, [1])] false 7), _, _, ⟨0, rfl, rfl, by decide +kernel, rfl,
     by decide +kernel, rfl⟩, by decide +kernel, by decide +kernel, by decide +kernel, rfl⟩,
   ⟨0, 1, 4, ⟨0, 2, .ack⟩, nbrIs (State.reset.setCell 1 { nbrOut := [(4, inQueue .qNop)] }) .ack, _, [], [], inQueue .qNop, ⟨0, rfl, rfl, by decide +kernel,
     rfl, by decide +kernel, rfl⟩, by decide +kernel, fun _ h => nomatch h⟩,
   ⟨0, 1, 4, 3, false, ⟨0, 2, .credit 3 false⟩, { win := some ⟨0, 4, false, false⟩ }, ⟨0, 4, false, false⟩, nbrIs (State.reset.setCell 1
     { tx := List.replicate 4 { win := some ⟨0, 4, false, false⟩ } }) (.credit 3 false), _, ⟨0, rfl, rfl, by decide +kernel, rfl, by decide +kernel, rfl⟩,
     by decide +kernel⟩,
   ⟨0, 1, 4, 3, false, ⟨0, 2, .credit 3 false⟩, nbrIs (State.reset.setCell 1 { tx := List.replicate 4 { win := some ⟨0, 4, false, true⟩ } }) (.credit 3
     false), _, ⟨0, rfl, rfl, by decide +kernel, rfl, by decide +kernel, rfl⟩, by decide +kernel, fun w h => by cases h; decide⟩,
   ⟨0, 1, 4, 15, false, ⟨0, 2, .close 15 false⟩, { granted := true, units := 4 }, nbrIs (State.reset.setCell 1
     { rx := List.replicate 4 { granted := true, units := 4 } }) (.close 15 false), _, ⟨0, rfl, rfl, by decide +kernel, rfl, by decide +kernel, rfl⟩,
     by decide +kernel⟩⟩

/-- States and operands that meet the hypotheses of O19, clause by clause. -/
theorem test_translation_and_timeouts_complete_hypotheses :
    (∃ (g : Fin 256) (e : Fin 24) (i : LeadInstr) (a : Nat) (p : Piece) (x : Xlate) (L : Nat) (s u : State), e.val < 16 ∧ L = s.cellAt g.val e.val ∧ (s.cell
      L).lead.started.find? (fun i => i.issuing && i.walk) = some i ∧ i.runAt (i.next / i.perRun) = some a ∧ p = pieceAt 512 a 0 i.shape.len (i.next %
      i.perRun) ∧ (s.updLead L (fun l => l.updInstr i.q.seq (fun i => { i with walk := false }))).walk (s.clusterOf L) ((s.updLead L (fun l => l.updInstr
      i.q.seq (fun i => { i with walk := false }))).jobTenant (s.clusterOf L) i.q.job) p.va = (u, some x)) ∧
    (∃ (g : Fin 256) (e : Fin 24) (k L : Nat) (t : LeadTag) (s u : State), e.val < 16 ∧ L = s.cellAt g.val e.val ∧ (s.cell L).lead.tags.find? (fun t =>
      decide (t.num = k) && !t.arrived) = some t ∧ t.void = false ∧ t.put = false ∧ u = s.updLead L (fun l => l.free k)) ∧
    (∃ (g : Fin 256) (e : Fin 24) (k L : Nat) (t : LeadTag) (s u v : State), e.val < 16 ∧ L = s.cellAt g.val e.val ∧ (s.cell L).lead.tags.find? (fun t =>
      decide (t.num = k) && !t.arrived) = some t ∧ t.void = false ∧ t.put = true ∧ u = s.updLead L (fun l => l.free k) ∧ v = (u.timeoutRec 1 L (u.clusterOf
      L) t.job t.tenant t.va).bump (R.LEAD_STATUS L) F.LEAD_STATUS_TIMEOUTS 1) ∧
    (∃ (g : Fin 256) (e : Fin 24) (L : Nat) (x : Cancel) (s : State), e.val < 16 ∧ L = s.cellAt g.val e.val ∧ (s.cell L).lead.cancels.find? (s.cell
      L).lead.cancelDone = some x) ∧
    (∃ (p : Fin 8) (s : State), (s.fld (R.CXL_PORT_STATUS p.val) F.CXL_PORT_STATUS_STATE = 2 ∨ s.fld (R.CXL_PORT_STATUS p.val) F.CXL_PORT_STATUS_STATE = 3)) ∧
    (∃ (v : Word) (s : State), getF v F.NT_TLB_INV_GO = 1 ∧ s.tlbBusy = false) ∧
    (∃ (s : State), s.tlbBusy = true ∧ s.tlbSettled = true) :=
  ⟨⟨0, 0, { lead0 with walk := true }, 0, ⟨0, 0, 32⟩, { tenant := 0, va := 0, size := 65536, pa := 0, rd := true, wr := true }, 0, ((cell0
     { lead := { started := [{ lead0 with walk := true }] } }).setClu 0 { walks := [⟨0, 3, 0, 4096⟩] }).wr 4096 [15] [], _, by decide +kernel,
     by decide +kernel, by decide +kernel, by decide +kernel, by decide +kernel, pair_of (by decide +kernel)⟩,
   ⟨0, 0, 63, 0, tag0 false, cell0 { lead := { tags := [tag0 false] } }, _, by decide +kernel, by decide +kernel, by decide +kernel, by decide +kernel,
     by decide +kernel, rfl⟩,
   ⟨0, 0, 63, 0, tag0 true, cell0 { lead := { tags := [tag0 true] } }, _, _, by decide +kernel, by decide +kernel, by decide +kernel, by decide +kernel,
     by decide +kernel, rfl, rfl⟩,
   ⟨0, 0, 0, { job := none }, cell0 { lead := { cancels := [{ job := none }] } }, by decide +kernel⟩,
   ⟨7, State.reset.setFld (R.CXL_PORT_STATUS 7) F.CXL_PORT_STATUS_STATE 3, .inr (by decide +kernel)⟩,
   ⟨setF 0 F.NT_TLB_INV_GO 1, State.reset, by decide +kernel⟩,
   ⟨{ State.reset with tlbBusy := true }, by decide +kernel⟩⟩

/-- States and operands that meet the hypotheses of O20, clause by clause. -/
theorem test_dma_commands_complete_hypotheses :
    (∃ (g : Fin 256) (s : State), (s.clu g.val).dmaQ.length + (s.clu g.val).dma.length < 16) ∧
    (∃ (g : Fin 256) (s : State), 16 ≤ (s.clu g.val).dmaQ.length + (s.clu g.val).dma.length) ∧
    (∃ (g : Fin 256) (a : Nat) (rest : List Nat) (s u v : State) (b : List Byte) (bad : List Nat) (d : DmaRun), (s.clu g.val).dmaQ = a :: rest ∧ (s.clu
      g.val).dma.any (fun d => !d.stopped && decide (d.next < d.len)) = false ∧ u = s.setClu g.val
      { s.clu g.val with dmaQ := rest, dmaNext := (s.clu g.val).dmaNext + 1 } ∧ inOwnTiles g.val a 64 = true ∧ u.deliver 2 g.val 1 19 a 64 = (v, b, bad) ∧
      v.dmaRead g.val b (s.clu g.val).dmaNext = some d) ∧
    (∃ (g : Fin 256) (d : DmaRun) (s : State), (s.clu g.val).dma.find? (s.clu g.val).dmaLanded = some d) :=
  ⟨⟨255, State.reset.setClu 255 { dmaQ := List.replicate 15 0 }, by decide +kernel⟩,
   ⟨0, cluIs { dmaQ := List.replicate 16 0 }, by decide +kernel⟩,
   ⟨0, tileAddr 0 0, [], (cluIs { dmaQ := [tileAddr 0 0] }).wr (tileAddr 0 0) dmaBytes [], _, _, _, _, dma0, by decide +kernel, by decide +kernel, rfl,
     by decide +kernel, rfl, by decide +kernel⟩,
   ⟨0, { dma0 with next := 32 }, cluIs { dma := [{ dma0 with next := 32 }] }, by decide +kernel⟩⟩

/-- States and operands that meet the hypotheses of O21, clause by clause. -/
theorem test_channel_packets_complete_hypotheses :
    (∃ (n : Nat) (p : Packet) (t : ChTile) (ch : Nat) (s u : State), s.arrives 0x01 n p u ∧ p.pkt = .chTile t ch ∧ (nthD (u.cell (u.cellOf p.dest)).chIn ch
      {}).names t.src t.srcChan = true) ∧
    (∃ (n : Nat) (p : Packet) (sc ch src : Nat) (s u : State), s.arrives 0x02 n p u ∧ p.pkt = .chMarker sc ch ∧ p.sender = .cell src ∧ (nthD (u.cell (u.cellOf
      p.dest)).chIn ch {}).names src sc = true) ∧
    (∃ (n : Nat) (p : Packet) (oc ic k src : Nat) (b : ChanBind) (o : ChanOut) (s u : State), s.arrives 0x03 n p u ∧ p.pkt = .chCredit oc ic k ∧ p.sender =
      .cell src ∧ o = nthD (u.cell (u.cellOf p.dest)).chOut oc {} ∧ o.bind = some b ∧ b.peer = src ∧ b.peerChan = ic ∧ o.credits + k ≤ 4) ∧
    (∃ (n : Nat) (p : Packet) (t : ChTile) (ch : Nat) (s u : State), s.arrives 0x01 n p u ∧ p.pkt = .chTile t ch ∧ (nthD (u.cell (u.cellOf p.dest)).chIn ch
      {}).names t.src t.srcChan = false) :=
  ⟨⟨0, pktTo 3 (.chTile tile1 7), tile1, 7, netIs (State.reset.setCell 3 { chIn := List.replicate 8 { bind := some bind1 } }) 3 (.chTile tile1 7), _, ⟨⟨_, _, rfl, by decide +kernel⟩, _, _, rfl, rfl⟩, by decide +kernel⟩,
   ⟨0, pktTo 3 (.chMarker 2 7), 2, 7, 0, netIs (State.reset.setCell 3 { chIn := List.replicate 8 { bind := some ⟨true, 0, 2⟩ } }) 3 (.chMarker 2 7), _, ⟨⟨_, _, rfl, by decide +kernel⟩, _, _, rfl, rfl⟩, by decide +kernel⟩,
   ⟨0, pktTo 3 (.chCredit 7 2 4), 7, 2, 4, 0, ⟨true, 0, 2⟩, { bind := some ⟨true, 0, 2⟩ }, netIs (State.reset.setCell 3
     { chOut := List.replicate 8 { bind := some ⟨true, 0, 2⟩ } }) 3 (.chCredit 7 2 4), _, ⟨⟨_, _, rfl, by decide +kernel⟩, _, _, rfl, rfl⟩, by decide +kernel⟩,
   ⟨0, pktTo 3 (.chTile tile1 7), tile1, 7, netIs State.reset 3 (.chTile tile1 7), _, ⟨⟨_, _, rfl, by decide +kernel⟩, _, _, rfl, rfl⟩, by decide +kernel⟩⟩

/-- States and operands that meet the hypotheses of O22, clause by clause. -/
theorem test_memory_packets_complete_hypotheses :
    (∃ (xb : Bool) (n : Nat) (p : Packet) (t : Bool) (r : MemReq) (s u v : State) (b : List Byte) (bad : List Nat), s.reaches xb 0x20 n p u ∧ p.pkt =
      .memRead t r ∧ (if xb then u.deliver 2 p.dest.cluster 1 p.src.code r.addr r.len else u.deliver 0 0 (arrayOf r.addr) 21 r.addr r.len) = (v, b, bad)) ∧
    (∃ (xb : Bool) (n : Nat) (p : Packet) (t : Bool) (r : MemReq) (b : List Byte) (bad : List Nat) (s u : State), s.reaches xb 0x21 n p u ∧ p.pkt =
      .memWrite t r b bad) ∧
    (∃ (xb : Bool) (n : Nat) (p : Packet) (t : Bool) (r : MemReq) (b : List Byte) (bad : List Nat) (s u : State), s.reaches xb 0x22 n p u ∧ p.pkt = .memData
      t r b bad) ∧
    (∃ (xb : Bool) (n : Nat) (p : Packet) (t : Bool) (r : MemReq) (s u : State), s.reaches xb 0x23 n p u ∧ p.pkt = .memAck t r) ∧
    (∃ (n : Nat) (p : Packet) (t : Bool) (r : MemReq) (s u v : State) (b : List Byte) (bad : List Nat), s.arrives 0x30 n p u ∧ p.pkt = .memRead t r ∧
      u.farFailed r.addr = false ∧ u.tierRead r.addr r.len = (v, b, bad)) ∧
    (∃ (n : Nat) (p : Packet) (t : Bool) (r : MemReq) (b : List Byte) (bad : List Nat) (s u : State), s.arrives 0x31 n p u ∧ p.pkt = .memWrite t r b bad ∧
      u.farFailed r.addr = false) ∧
    (∃ (n : Nat) (p : Packet) (t : Bool) (r : MemReq) (b : List Byte) (bad : List Nat) (s u : State), s.arrives 0x32 n p u ∧ p.pkt = .memData t r b bad ∧
      p.dest.code < 16) ∧
    (∃ (n : Nat) (p : Packet) (t : Bool) (r : MemReq) (b : List Byte) (bad : List Nat) (s u : State), s.arrives 0x32 n p u ∧ p.pkt = .memData t r b bad ∧
      p.dest.code = 19) ∧
    (∃ (n : Nat) (p : Packet) (t : Bool) (r : MemReq) (b : List Byte) (bad : List Nat) (s u : State), s.arrives 0x32 n p u ∧ p.pkt = .memData t r b bad ∧
      p.dest.code = 20) ∧
    (∃ (n : Nat) (p : Packet) (t : Bool) (r : MemReq) (s u : State), s.arrives 0x33 n p u ∧ p.pkt = .memAck t r ∧ p.dest.code < 16) ∧
    (∃ (n : Nat) (p : Packet) (t : Bool) (r : MemReq) (s u : State), s.arrives 0x33 n p u ∧ p.pkt = .memAck t r ∧ p.dest.code = 19) ∧
    (∃ (n : Nat) (p : Packet) (t : Bool) (r : MemReq) (s u : State), s.arrives 0x33 n p u ∧ p.pkt = .memAck t r ∧ p.dest.code = 20) :=
  ⟨⟨true, 0, pktTo 3 (.memRead false (reqAt (tileAddr 0 0) 32)), false, reqAt (tileAddr 0 0) 32,
     { State.reset with xbar := [pktTo 3 (.memRead false (reqAt (tileAddr 0 0) 32))] }, _, _, _, _, ⟨0, rfl, rfl, rfl⟩, by decide +kernel, rfl⟩,
   ⟨false, 0, pktTo 21 (.memWrite false (reqAt (tileAddr 0 0) 1) [9] []), false, reqAt (tileAddr 0 0) 1, [9], [], netIs State.reset 21 (.memWrite false
     (reqAt (tileAddr 0 0) 1) [9] []), _, ⟨⟨_, _, rfl, by decide +kernel⟩, _, _, rfl, rfl⟩, by decide +kernel⟩,
   ⟨true, 0, pktTo 3 (.memData false (reqAt (tileAddr 0 0) 1) [9] []), false, reqAt (tileAddr 0 0) 1, [9], [],
     { State.reset with xbar := [pktTo 3 (.memData false (reqAt (tileAddr 0 0) 1) [9] [])] }, _, ⟨0, rfl, rfl, rfl⟩, by decide +kernel⟩,
   ⟨false, 0, pktTo 3 (.memAck false (reqAt (tileAddr 0 0) 1)), false, reqAt (tileAddr 0 0) 1, netIs State.reset 3 (.memAck false (reqAt (tileAddr 0 0) 1)),
     _, ⟨⟨_, _, rfl, by decide +kernel⟩, _, _, rfl, rfl⟩, by decide +kernel⟩,
   ⟨0, pktTo 21 (.memRead true (reqAt 0 32)), true, reqAt 0 32, netIs State.reset 21 (.memRead true (reqAt 0 32)), _, _, _, _, ⟨⟨_, _, rfl, by decide +kernel⟩, _, _, rfl, rfl⟩, by decide +kernel, by decide +kernel, rfl⟩,
   ⟨0, pktTo 21 (.memWrite true (reqAt 0 1) [9] []), true, reqAt 0 1, [9], [], netIs State.reset 21 (.memWrite true (reqAt 0 1) [9] []), _, ⟨⟨_, _, rfl, by decide +kernel⟩, _, _, rfl, rfl⟩, by decide +kernel⟩,
   ⟨0, pktTo 3 (.memData true (reqAt 0 1) [9] []), true, reqAt 0 1, [9], [], netIs State.reset 3 (.memData true (reqAt 0 1) [9] []), _, ⟨⟨_, _, rfl,
     by decide +kernel⟩, _, _, rfl, rfl⟩, by decide +kernel⟩,
   ⟨0, pktTo 19 (.memData true (reqAt 0 1) [9] []), true, reqAt 0 1, [9], [], netIs State.reset 19 (.memData true (reqAt 0 1) [9] []), _, ⟨⟨_, _, rfl,
     by decide +kernel⟩, _, _, rfl, rfl⟩, by decide +kernel⟩,
   ⟨0, pktTo 20 (.memData true (reqAt 0 1) [9] []), true, reqAt 0 1, [9], [], netIs State.reset 20 (.memData true (reqAt 0 1) [9] []), _, ⟨⟨_, _, rfl,
     by decide +kernel⟩, _, _, rfl, rfl⟩, by decide +kernel⟩,
   ⟨0, pktTo 3 (.memAck true (reqAt 0 1)), true, reqAt 0 1, netIs State.reset 3 (.memAck true (reqAt 0 1)), _, ⟨⟨_, _, rfl, by decide +kernel⟩, _, _, rfl,
     rfl⟩, by decide +kernel⟩,
   ⟨0, pktTo 19 (.memAck true (reqAt 0 1)), true, reqAt 0 1, netIs State.reset 19 (.memAck true (reqAt 0 1)), _, ⟨⟨_, _, rfl, by decide +kernel⟩, _, _, rfl,
     rfl⟩, by decide +kernel⟩,
   ⟨0, pktTo 20 (.memAck true (reqAt 0 1)), true, reqAt 0 1, netIs State.reset 20 (.memAck true (reqAt 0 1)), _, ⟨⟨_, _, rfl, by decide +kernel⟩, _, _, rfl,
     rfl⟩, by decide +kernel⟩⟩

/-- States and operands that meet the hypotheses of O23, clause by clause. -/
theorem test_hub_epoch_and_retry_complete_hypotheses :
    (∃ (n : Nat) (p : Packet) (r : MemReq) (body : List Byte) (bad : List Nat) (b : Blk) (k o : Nat) (s u : State), s.arrives 0x40 n p u ∧ p.pkt = .hubReq r
      true body bad ∧ blockOf r.addr = some (b, k, o) ∧ regSized b o r.len = true) ∧
    (∃ (n : Nat) (p : Packet) (r : MemReq) (body : List Byte) (bad : List Nat) (b : Blk) (k o : Nat) (s u : State), s.arrives 0x40 n p u ∧ p.pkt = .hubReq r
      false body bad ∧ blockOf r.addr = some (b, k, o) ∧ regSized b o r.len = true) ∧
    (∃ (n : Nat) (p : Packet) (r : MemReq) (w : Bool) (body : List Byte) (bad : List Nat) (b : Blk) (k o : Nat) (s u : State), s.arrives 0x40 n p u ∧ p.pkt
      = .hubReq r w body bad ∧ blockOf r.addr = some (b, k, o) ∧ regSized b o r.len = false) ∧
    (∃ (n : Nat) (p : Packet) (r : MemReq) (body : List Byte) (bad : List Nat) (s u : State), s.arrives 0x40 n p u ∧ p.pkt = .hubReq r true body bad ∧
      blockOf r.addr = none) ∧
    (∃ (n : Nat) (p : Packet) (r : MemReq) (body : List Byte) (bad : List Nat) (s u : State), s.arrives 0x40 n p u ∧ p.pkt = .hubReq r false body bad ∧
      blockOf r.addr = none) ∧
    (∃ (n : Nat) (p : Packet) (r : MemReq) (b : List Byte) (bad : List Nat) (s u : State), s.arrives 0x41 n p u ∧ p.pkt = .hubResp r b bad) ∧
    (∃ (n : Nat) (p : Packet) (kind id e w : Nat) (s u : State), s.arrives 0x60 n p u ∧ p.pkt = .epochSet kind id e w) ∧
    (∃ (l : Nat) (k : Fin 64) (lcrc : BitVec 16) (lseq : BitVec 6) (x : SentFlit) (s : State), l / 5 < 256 ∧ l % 5 < 4 ∧ linkExists (l / 5) (l % 5) = true ∧
      (SMap.get ({} : LinkTx) s.links l).sent[k.val]? = some x ∧ x.flit.lcrc = lcrc.toNat ∧ x.lseq = lseq.toNat) ∧
    (∃ (l : Nat) (k : Fin 64) (lcrc : BitVec 16) (lseq : BitVec 6) (x : SentFlit) (s : State), l / 5 < 256 ∧ l % 5 < 4 ∧ linkExists (l / 5) (l % 5) = true ∧
      (SMap.get ({} : LinkTx) s.links l).sent[k.val]? = some x ∧ (x.flit.lcrc ≠ lcrc.toNat ∨ x.lseq ≠ lseq.toNat)) :=
  ⟨⟨0, pktTo 22 (.hubReq (reqAt 0x0F0000200000 8) true [1] []), reqAt 0x0F0000200000 8, [1], [], .time, 0, 0, netIs State.reset 22 (.hubReq (reqAt
     0x0F0000200000 8) true [1] []), _, ⟨⟨_, _, rfl, by decide +kernel⟩, _, _, rfl, rfl⟩, by decide +kernel⟩,
   ⟨0, pktTo 22 (.hubReq (reqAt 0x0F0000200000 8) false [] []), reqAt 0x0F0000200000 8, [], [], .time, 0, 0, netIs State.reset 22 (.hubReq (reqAt
     0x0F0000200000 8) false [] []), _, ⟨⟨_, _, rfl, by decide +kernel⟩, _, _, rfl, rfl⟩, by decide +kernel⟩,
   ⟨0, pktTo 22 (.hubReq (reqAt 0x0F0000200000 4) false [] []), reqAt 0x0F0000200000 4, false, [], [], .time, 0, 0, netIs State.reset 22 (.hubReq (reqAt
     0x0F0000200000 4) false [] []), _, ⟨⟨_, _, rfl, by decide +kernel⟩, _, _, rfl, rfl⟩, by decide +kernel⟩,
   ⟨0, pktTo 22 (.hubReq (reqAt 0 8) true [1] []), reqAt 0 8, [1], [], netIs State.reset 22 (.hubReq (reqAt 0 8) true [1] []), _, ⟨⟨_, _, rfl,
     by decide +kernel⟩, _, _, rfl, rfl⟩, by decide +kernel⟩,
   ⟨0, pktTo 22 (.hubReq (reqAt 0 8) false [] []), reqAt 0 8, [], [], netIs State.reset 22 (.hubReq (reqAt 0 8) false [] []), _, ⟨⟨_, _, rfl,
     by decide +kernel⟩, _, _, rfl, rfl⟩, rfl, by decide +kernel⟩,
   ⟨0, pktTo 3 (.hubResp (reqAt 0 8) [1] []), reqAt 0 8, [1], [], netIs State.reset 3 (.hubResp (reqAt 0 8) [1] []), _, ⟨⟨_, _, rfl, by decide +kernel⟩, _,
     _, rfl, rfl⟩, by decide +kernel⟩,
   ⟨0, pktTo 16 (.epochSet 1 0 5 77), 1, 0, 5, 77, netIs State.reset 16 (.epochSet 1 0 5 77), _, ⟨⟨_, _, rfl, by decide +kernel⟩, _, _, rfl, rfl⟩, by decide +kernel⟩,
   ⟨1, 0, BitVec.ofNat 16 flit0.flit.lcrc, 5, flit0, { State.reset with links := [(1, { sent := [flit0] })] }, by decide +kernel, by decide +kernel,
     by decide +kernel, by decide +kernel, Flit.lcrc_word _,
     by decide +kernel⟩,
   ⟨1, 0, BitVec.ofNat 16 flit0.flit.lcrc, 6, flit0, { State.reset with links := [(1, { sent := [flit0] })] }, by decide +kernel, by decide +kernel,
     by decide +kernel, by decide +kernel, .inr (by decide +kernel)⟩⟩

/-- States and operands that meet the hypotheses of O24, clause by clause. -/
theorem test_check_and_slot_commands_complete_hypotheses :
    (∃ (n : Nat) (p : Packet) (t : TapUnit) (first : Bool) (s u : State), s.ejected (fun y => decide (y.pkt.type = 0x04) && !s.tapWaits y) n p u ∧ p.pkt =
      .tap t first true ∧ ((u.clu p.dest.cluster).taps.filter (fun e => decide (e.pos = p.dest.code))).foldl (fun n e => n + tapEntries e.tap) 0 +
      tapEntries t ≤ 8) ∧
    (∃ (g : Fin 256) (e : TapEntry) (rest : List TapEntry) (L : Nat) (s v : State), (s.clu g.val).taps = e :: rest ∧ L = s.cellAt g.val e.pos ∧ e.tap.pois =
      false ∧ s.upsets = [] ∧ v = (s.setClu g.val { s.clu g.val with taps := rest }).bump (R.CELL_SHADOW_CNT L) F.CELL_SHADOW_CNT_CHECKED 1) ∧
    (∃ (n l un pr j : Nat) (alt pois : Bool) (d dp : Word × Word) (p : Packet) (s u : State), s.arrives 0x05 n p u ∧ p.sender = .cell l ∧ p.pkt = .tapDigest
      d un pr j alt pois false dp) ∧
    (∃ (n l un pr j : Nat) (alt pois : Bool) (d dp : Word × Word) (p : Packet) (s u : State), s.arrives 0x05 n p u ∧ p.sender = .cell l ∧ p.pkt = .tapDigest
      d un pr j alt pois true dp ∧ (u.clu p.dest.cluster).collect.find? (fun e => decide (e.primary = pr) && decide (e.unit = un)) = none) ∧
    (∃ s : State, s.integ.window + s.fld R.INTEG_CTRL F.INTEG_CTRL_RETIRE_WINDOW ≤ s.time.pitches) ∧
    (∃ (g : Fin 256) (c : Condemn) (j : Nat) (s : State), (s.team (s.teamOfClu g.val)).takeover = none ∧ s.integ.condemned.find? (fun c => decide (c.slot /
      17 = g.val) && s.takeoverDue c) = some c ∧ s.servesPos g.val (c.slot % 17) = some j) ∧
    (∃ (g : Fin 256) (w : Nat) (s : State), (s.team (s.teamOfClu g.val)).takeover = some w ∧ (s.team (s.teamOfClu g.val)).run = .traverse ∧ (s.teamQuiet
      (s.teamOfClu g.val) = true ∨ w + 8 ≤ s.time.count)) ∧
    (∃ (v : Word) (k : Nat) (s : State), getF v F.INTEG_SLOT_CMD_GO = 1 ∧ getF v F.INTEG_SLOT_CMD_OP = 1 ∧ s.fld R.INTEG_SLOT_CMD F.INTEG_SLOT_CMD_BUSY = 0
      ∧ slotOfCmd v = some k) ∧
    (∃ (v : Word) (k : Nat) (s : State), getF v F.INTEG_SLOT_CMD_GO = 1 ∧ getF v F.INTEG_SLOT_CMD_OP = 2 ∧ s.fld R.INTEG_SLOT_CMD F.INTEG_SLOT_CMD_BUSY = 0
      ∧ slotOfCmd v = some k ∧ (s.slotFields v).slotDown k = true) ∧
    (∃ (k : Nat) (s : State), s.integ.testing = some k) :=
  ⟨⟨0, pktTo 15 (.tap tap0 false true), tap0, false, netIs State.reset 15 (.tap tap0 false true), _, ⟨⟨_, _, rfl, by decide +kernel⟩, _, _, rfl, rfl⟩,
     by decide +kernel⟩,
   ⟨0, ⟨15, tap0⟩, [], 15, cluIs { taps := [⟨15, tap0⟩] }, _, by decide +kernel, by decide +kernel, by decide +kernel, by decide +kernel, rfl⟩,
   ⟨0, 0, 3, 0, 0, false, false, (1, 1), (2, 2), pktTo 18 (.tapDigest (1, 1) 3 0 0 false false false (2, 2)), netIs State.reset 18 (.tapDigest (1, 1) 3 0 0
     false false false (2, 2)), _, ⟨⟨_, _, rfl, by decide +kernel⟩, _, _, rfl, rfl⟩, by decide +kernel⟩,
   ⟨0, 0, 3, 0, 0, false, false, (1, 1), (2, 2), pktTo 18 (.tapDigest (1, 1) 3 0 0 false false true (2, 2)), netIs State.reset 18 (.tapDigest (1, 1) 3 0 0
     false false true (2, 2)), _, ⟨⟨_, _, rfl, by decide +kernel⟩, _, _, rfl, rfl⟩, by decide +kernel⟩,
   ⟨timeIs { pitches := 100000 }, by decide +kernel⟩,
   ⟨0, ⟨5, 0⟩, 5, { State.reset with time := { count := 200 }, integ := { condemned := [⟨5, 0⟩] } }, by decide +kernel⟩,
   ⟨0, 9, { teamIs 0 { run := .traverse, takeover := some 9 } with time := { count := 17 } }, by decide +kernel, by decide +kernel, .inr
     (by decide +kernel)⟩,
   ⟨setF (setF (setF 0 F.INTEG_SLOT_CMD_GO 1) F.INTEG_SLOT_CMD_OP 1) F.INTEG_SLOT_CMD_SLOT 16, 16, State.reset, by decide +kernel⟩,
   ⟨setF (setF (setF 0 F.INTEG_SLOT_CMD_GO 1) F.INTEG_SLOT_CMD_OP 2) F.INTEG_SLOT_CMD_SLOT 4, 4, State.reset.setFld (R.CLU_SLOT_MAP 0)
     F.CLU_SLOT_MAP_RETIRED 16, by decide +kernel⟩,
   ⟨4, { State.reset with integ := { testing := some 4 } }, by decide +kernel⟩⟩

/-- States and operands that meet the hypotheses of O25, clause by clause. -/
theorem test_commit_and_replay_complete_hypotheses :
    (∃ (r j a : Nat) (q : Request) (s u : State), s.req r = some q ∧ q.job = some j ∧ s.hubAnchor q.team 0x0C j = some a ∧ q.phase + 1 ≤ (s.anchor a).toNat
      ∧ q.quiesce = false ∧ q.cancelling = none ∧ q.marked = none ∧ (q.st = .running ∨ q.st = .stalled) ∧ u = (if s.isCommit q q.phase then s.updReq r (fun
      x => { x with marked := some q.phase, markAt := s.unitsNow q.team }) else s)) ∧
    (∃ (r i j : Nat) (q : Request) (s u : State), s.req r = some q ∧ q.marked = some i ∧ q.job = some j ∧ q.quiesce = false ∧ q.cancelling = none ∧
      s.digestsIn q.team j q.markAt = true ∧ s.takeSuspect q.team j = (u, 0)) ∧
    (∃ (r i j sus : Nat) (q : Request) (s u : State), s.req r = some q ∧ q.marked = some i ∧ q.job = some j ∧ q.quiesce = false ∧ q.cancelling = none ∧
      s.digestsIn q.team j q.markAt = true ∧ s.takeSuspect q.team j = (u, sus) ∧ sus ≠ 0 ∧ q.replayFrom = none) ∧
    (∃ (r j : Nat) (q : Request) (s v : State), s.req r = some q ∧ q.job = some j ∧ q.guar = false ∧ q.planned = false ∧ q.quiesce = true ∧ q.cancelling =
      none ∧ q.replayFrom = none ∧ (s.team q.team).run = .running ∧ s.sectId q.team = q.sect ∧ (s.jobQuiet q.team j = true ∧ s.cancelling q.team j = false ∨
      q.quiesceWm + 8 ≤ s.time.count) ∧ v = (s.hubSet (s.hubAnchor q.team 0x0C j) q.committed).hubSet ((s.hubSet (s.hubAnchor q.team 0x0C j)
      q.committed).hubAnchor q.team 0x0E j) (q.committed + 1)) ∧
    (∃ (r i w : Nat) (q : Request) (s : State), s.req r = some q ∧ q.guar = true ∧ s.lateMark q = some (i, w)) :=
  ⟨⟨0, 3, 115, { team := 0, sect := 7, job := some 3, st := .running },
     { jobIs { team := 0, sect := 7, job := some 3, st := .running } with anchors := [(115, 1)] }, _, by decide +kernel, by decide +kernel,
     by decide +kernel, by decide +kernel, (by decide +kernel), by decide +kernel, by decide +kernel, by decide +kernel, rfl⟩,
   ⟨0, 0, 3, { team := 0, sect := 7, job := some 3, st := .running, marked := some 0 }, jobIs
     { team := 0, sect := 7, job := some 3, st := .running, marked := some 0 }, _, by decide +kernel, by decide +kernel, by decide +kernel,
     by decide +kernel, (by decide +kernel), by decide +kernel, pair_of (by decide +kernel)⟩,
   ⟨0, 0, 3, 2, { team := 0, sect := 7, job := some 3, st := .running, marked := some 0 }, (jobIs
     { team := 0, sect := 7, job := some 3, st := .running, marked := some 0 }).setReg (R.CLU_JOB_SUSPECT 0 3) 2, _, by decide +kernel, by decide +kernel,
     by decide +kernel, by decide +kernel, (by decide +kernel), by decide +kernel, pair_of (by decide +kernel), by decide +kernel⟩,
   ⟨0, 3, { team := 0, sect := 7, job := some 3, st := .running, quiesce := true }, jobIs
     { team := 0, sect := 7, job := some 3, st := .running, quiesce := true }, _, by decide +kernel, by decide +kernel, by decide +kernel,
     by decide +kernel, (by decide +kernel), by decide +kernel, by decide +kernel, by decide +kernel, by decide +kernel, .inl ⟨by decide +kernel, by decide +kernel⟩, rfl⟩,
   ⟨0, 0, 5, { team := 0, sect := 7, job := some 3, guar := true, booked := [⟨0, 5, 1, 0, [], [], [], 0⟩] },
     { jobIs { team := 0, sect := 7, job := some 3, guar := true, booked := [⟨0, 5, 1, 0, [], [], [], 0⟩] } with time := { count := 5 } },
     by decide +kernel⟩⟩

/-- States and operands that meet the hypotheses of O26, clause by clause. -/
theorem test_replica_and_scrub_complete_hypotheses :
    (∃ (group : Nat) (s : State), s.fld (R.INTEG_REPL_CFG group) F.INTEG_REPL_CFG_INTERVAL ≠ 0 ∧ s.time.lastBoundary = some s.time.count ∧ SMap.get 0
      s.integ.replLast group + s.fld (R.INTEG_REPL_CFG group) F.INTEG_REPL_CFG_INTERVAL ≤ s.time.pitches ∧ group < 64 ∧ s.fld (R.INTEG_REPL_CFG group)
      F.INTEG_REPL_CFG_VALID = 1 ∧ SMap.find? s.integ.repl group = none) ∧
    (∃ (group : Nat) (s : State), group < 64 ∧ s.fld (R.INTEG_REPL_CFG group) F.INTEG_REPL_CFG_VALID = 1 ∧ SMap.find? s.integ.repl group = none) ∧
    (∃ (group wm : Nat) (v : Bool) (s u w : State) (rs : List Replica), SMap.find? s.integ.repl group = some (wm, v) ∧ u =
      { s with integ := { s.integ with repl := SMap.del group s.integ.repl } } ∧ u.readReplicas group = (w, rs) ∧ (∀ r ∈ rs, rootOf r.digests = some
      (w.replRoot group))) ∧
    (∃ (a : BitVec 48) (k w : Nat) (i : SectorInfo) (kind src : Nat) (arr : Option Nat) (s z u : State), k = a.toNat / 64 ∧ s.scrubsNext (.addr a) z ∧
      z.badWord k = some w ∧ z.fixWord k = none ∧ z.sectorInfo (8 * w) = some (i, kind, src, arr) ∧ (¬(kind = 4 ∧ z.pageRetired i = true)) ∧
      z.poison.contains k = false ∧ u = { z.dropBad k with poison := insNat k z.poison }.raise
      { code := 0x2202, kind := kind, src := src, part := if i.cls = 5 then none else i.owner, tenant := i.tenant, addr := some (64 * k), detail := i.cls }) ∧
    (∃ (a : BitVec 48) (s z : State), s.scrubsNext (.addr a) z ∧ z.badWord (a.toNat / 64) = none ∧ z.fixWord (a.toNat / 64) = none) ∧
    (∃ (x : Store) (s z u : State), s.scrubsNext (.store x) z ∧ storeScrubbed x = true ∧ z.upsets.contains (.storeFix x) = false ∧ z.upsets.contains (.store
      x) = true ∧ u = { z with upsets := z.upsets.erase (.store x), draws := z.draws + 1 }.spoil x) ∧
    (∃ (l : Nat), l < 8) :=
  ⟨⟨63,
     { State.reset.setReg (R.INTEG_REPL_CFG 63) (setF (setF 0 F.INTEG_REPL_CFG_VALID 1) F.INTEG_REPL_CFG_INTERVAL 5) with time := { lastBoundary := some 0, pitches := 5 } },
     by decide +kernel⟩,
   ⟨63, State.reset.setReg (R.INTEG_REPL_CFG 63) (setF (setF 0 F.INTEG_REPL_CFG_VALID 1) F.INTEG_REPL_CFG_INTERVAL 5), by decide +kernel⟩,
   ⟨63, 9, true, { State.reset with integ := { repl := [(63, (9, true))] } }, _, _, _, by decide +kernel, rfl, rfl, by decide +kernel⟩,
   ⟨0, 0, 0, sectorI, 4, 0, none, ({ State.reset with upsets := [.sram 0] }).setFld R.INTEG_SCRUB F.INTEG_SCRUB_ENABLE 1, _, _, by decide +kernel,
     ⟨by decide +kernel, by decide +kernel, rfl⟩, by decide +kernel, by decide +kernel, by decide +kernel, by decide +kernel, by decide +kernel, rfl⟩,
   ⟨0, State.reset.setFld R.INTEG_SCRUB F.INTEG_SCRUB_ENABLE 1, _, ⟨by decide +kernel, by decide +kernel, rfl⟩, by decide +kernel⟩,
   ⟨.acc 0 0, ({ State.reset with upsets := [.store (.acc 0 0)] }).setFld R.INTEG_SCRUB F.INTEG_SCRUB_ENABLE 1, _, _, ⟨by decide +kernel, by decide +kernel,
     rfl⟩, by decide +kernel, by decide +kernel, by decide +kernel, rfl⟩,
   ⟨7, by decide +kernel⟩⟩

/-- States and operands that meet the hypotheses of O27, clause by clause. -/
theorem test_event_rings_and_stores_complete_hypotheses :
    (∃ (p : Fin 64) (s : State) (r : EvtRing), r = SMap.get {} s.partEvt p.val) ∧
    (∃ (j : NvJob) (s : State), s.pwr.aux = true ∧ s.sec.storing = false ∧ s.pwr.nv.find? (fun j => !j.refused) = some j ∧ s.pwr.nv.any (·.refused) = false) ∧
    (∃ (s : State), s.pwr.aux = true ∧ s.sec.storing = false ∧ s.pwr.nv = []) ∧
    (∃ (j : NvJob) (s : State), s.pwr.aux = true ∧ s.sec.storing = false ∧ s.pwr.nv.find? (·.refused) = some j) :=
  ⟨⟨63, State.reset, _, rfl⟩,
   ⟨{ item := .retire 3 true }, { State.reset with pwr := { nv := [{ item := .retire 3 true }] } }, by decide +kernel⟩,
   ⟨State.reset, by decide +kernel⟩,
   ⟨{ item := .retire 3 true, refused := true }, { State.reset with pwr := { nv := [{ item := .retire 3 true, refused := true }] } }, by decide +kernel⟩⟩

/-- States and operands that meet the hypotheses of O28, clause by clause. -/
theorem test_ring_commands_complete_hypotheses :
    (∃ (f : Fin 65) (t : Fin 4096) (v : Word) (s : State) (k : Nat), s.ready = true ∧ s.fnLive f.val = true ∧ s.pageShown f.val t.val = true ∧ s.agreed f.val ≠
      0 ∧ k = (getF v F.TR_SQ_TAIL + 16 - (s.page t.val).sqTail) % 16 ∧ 0 < k ∧ (s.page t.val).vis.length + k < 16) ∧
    (∃ (f : Fin 65) (t : Fin 4096) (v : Word) (s : State) (k : Nat), s.ready = true ∧ s.fnLive f.val = true ∧ s.pageShown f.val t.val = true ∧ s.agreed f.val ≠
      0 ∧ k = (getF v F.TR_SQ_TAIL + 16 - (s.page t.val).sqTail) % 16 ∧ 0 < k ∧ 16 ≤ (s.page t.val).vis.length + k) ∧
    (∃ (t : Fin 4096) (f op need : Nat) (rest : List Nat) (b : List Byte) (s u : State), s.ready = true ∧ s.linkUp = true ∧ (s.page t.val).vis = f :: rest ∧ b
      = (List.range 64).map (fun i => SMap.get 0 (s.page t.val).sq (64 * (s.page t.val).sqHead + i)) ∧ op = numAt b 0 1 ∧ need = (if op = 1 then 2 else 1) ∧
      (s.page t.val).enable = true ∧ (s.page t.val).reserved + need ≤ (s.page t.val).free ∧ u = s.setPage t.val
      { s.page t.val with vis := rest, sqHead := ((s.page t.val).sqHead + 1) % 16, reserved := (s.page t.val).reserved + need } ∧ entryBad (u.agreed f) b =
      false ∧ (numAt b 2 2 = t.val ∨ op = 1) ∧ (op = 1 ∨ op = 5 → u.waitingAt (u.engineOf t.val) < 5)) ∧
    (∃ (f : Fin 65) (t : Fin 4096) (s : State), s.ready = true ∧ s.fnLive f.val = true ∧ s.pageShown f.val t.val = true) ∧
    (∃ (f : Fin 65) (v : Word) (s : State), s.fnLive f.val = true ∧ s.ready = true ∧ s.ringsBusy f.val = false ∧ getF v F.HOST_FOCIA_VER_REJECTED = 0) ∧
    (∃ (f : Fin 65) (v : Word) (s : State), s.fnLive f.val = true ∧ s.ready = true ∧ s.ringsBusy f.val = true ∧ getF v F.HOST_FOCIA_VER_REJECTED = 0) :=
  ⟨⟨64, 4095, 15, booted.setFld R.HOST_FOCIA_VER F.HOST_FOCIA_VER_AGREED 0x12, 15, by decide +kernel⟩,
   ⟨64, 4095, 2, (booted.setFld R.HOST_FOCIA_VER F.HOST_FOCIA_VER_AGREED 0x12).setPage 4095 { vis := List.replicate 14 64 }, 2, by decide +kernel⟩,
   ⟨3, 64, 1, 2, [], entry3 1, (asks 1).setPage 3 { enable := true, vis := [64], sq := [(0, 1), (2, 3), (16, 7)] }, _, by decide +kernel, by decide +kernel,
     by decide +kernel, by decide +kernel, (by decide +kernel), by decide +kernel, by decide +kernel, by decide +kernel, rfl, by decide +kernel, .inl
     (by decide +kernel), by decide +kernel⟩,
   ⟨64, 4095, booted, by decide +kernel⟩,
   ⟨64, 0, booted, by decide +kernel⟩,
   ⟨64, 0, booted.setPage 4095 { vis := [64] }, by decide +kernel⟩⟩

/-- States and operands that meet the hypotheses of O29, clause by clause. -/
theorem test_admission_commands_complete_hypotheses :
    (∃ (t : Fin 4096) (c : HostCmd) (g : Grantee) (b : Option (Nat × List Interval)) (s u : State), s.pops t.val 1 c u ∧ u.upsets.findSome? Upset.hubStore?
      = none ∧ u.reqOf c.cmd.tenant c.cmd.reqTag = none ∧ u.decision (askOf c) = .ok (g, b)) ∧
    (∃ (t : Fin 4096) (c : HostCmd) (d : Denial) (s u : State), s.pops t.val 1 c u ∧ u.upsets.findSome? Upset.hubStore? = none ∧ u.reqOf c.cmd.tenant
      c.cmd.reqTag = none ∧ u.decision (askOf c) = .error d ∧ d.reason ≠ 0x21 ∧ c.cmd.opcode = 1) ∧
    (∃ (t : Fin 4096) (c : HostCmd) (g : Grantee) (b : Option (Nat × List Interval)) (s u : State), s.pops t.val 5 c u ∧ u.decision (askOf c) = .ok (g, b)) ∧
    (∃ (t : Fin 4096) (c : HostCmd) (r : Nat) (q : Request) (s u v : State), s.pops t.val 2 c u ∧ u.reqOf c.cmd.tenant c.cmd.reqTag = some r ∧ v = u.updReq
      r (fun q => { q with cancelCmds := q.cancelCmds ++ [c.cmd] }) ∧ v.req r = some q ∧ q.job = none) ∧
    (∃ (t : Fin 4096) (c : HostCmd) (s u : State), s.pops t.val 2 c u ∧ u.reqOf c.cmd.tenant c.cmd.reqTag = none) ∧
    (∃ (t : Fin 4096) (c : HostCmd) (s u : State), s.pops t.val 3 c u ∧ (c.cmd.reqTag = 0xFFFFFFFF ∧ 0x12 ≤ u.agreed c.cmd.fn ∨ ∃ r q, u.reqOf c.cmd.tenant
      c.cmd.reqTag = some r ∧ u.req r = some q ∧ q.ready = none)) ∧
    (∃ (n : Nat) (x : StreamCopy) (s u : State), s.host.copies[n]? = some x ∧ 0 < x.len ∧ u =
      { s with host := { s.host with copies := s.host.copies.eraseIdx n } }) ∧
    (∃ (n : Nat) (x : StreamCopy) (b : List Byte) (s u v : State), s.host.copies[n]? = some x ∧ 0 < x.len ∧ x.last = false ∧ u =
      { s with host := { s.host with copies := s.host.copies.eraseIdx n } } ∧ u.hubWrite x.cmd.tenant 258 x.devVa (sliceB b 0 x.len) = (v, none)) ∧
    (∃ (t : Fin 4096) (c : HostCmd) (r : Nat) (q : Request) (g : Grantee) (y : Sect) (s u : State), s.pops t.val 6 c u ∧ u.reqOf c.cmd.tenant c.cmd.reqTag =
      some r ∧ u.req r = some q ∧ q.st = .bivouacked ∧ q.guar = false ∧ (u.team (u.teamId (u.partOfTenant q.tenant))).running = some y ∧ y.id = q.sect ∧
      u.admitTest
      { tenant := q.tenant, field := q.tenant, fn := 64, sect := q.sect, batch := q.batch, cls := 0, deadline := q.deadline, inputWm := 0, wd := c.wm }
      (some r) = .ok g) ∧
    (∃ (r j : Nat) (dyn : Option Nat) (q : Request) (s u v : State), s.req r = some q ∧ s.startDue r q 1 = true ∧ q.record = false ∧ s.jobFor q = some (j,
      dyn) ∧ u = (s.setReq r { q with job := some j, jobTick := s.time.ticks, dyn := dyn, opens := firstStart q.booked }).bindJob { q with dyn := dyn } j ∧
      v = u.hubSet (u.hubAnchor q.team 0x0C j) 0) ∧
    (∃ (r w : Nat) (q : Request) (s : State), s.req r = some q ∧ q.st = .stalled ∧ q.holdStart = some w ∧ q.spill = false ∧ w + s.holdWm q.tenant ≤
      s.time.count) ∧
    (∃ (r : Nat) (q : Request) (s : State), s.req r = some q ∧ q.st = .bivouacked ∧ q.moved = none ∧ q.spillWm + s.bivLife q.tenant ≤ s.time.count) :=
  ⟨⟨3, hostCmd 1 64 (entry3 1), grantee0, none, asks 1, _, ⟨[], by decide +kernel, by decide +kernel, rfl⟩, by decide +kernel, by decide +kernel, ok_of
     (by decide +kernel)⟩,
   ⟨3, hostCmd 1 64 [], ⟨0x08, none⟩, inboxIs State.reset (hostCmd 1 64 []), _, ⟨[], by decide +kernel, by decide +kernel, rfl⟩, by decide +kernel,
     by decide +kernel, error_of (by decide +kernel), by decide +kernel⟩,
   ⟨3, hostCmd 5 64 (entry3 5), grantee0, none, asks 5, _, ⟨[], by decide +kernel, by decide +kernel, rfl⟩, ok_of (by decide +kernel)⟩,
   ⟨3, hostCmd 2 64 (entry3 2), 0, { tenant := 3, tag := 9, cancelCmds := [(hostCmd 2 64 (entry3 2)).cmd] },
     { asks 2 with adm := { reqs := [(0, { tenant := 3, tag := 9 })] } }, _, _, ⟨[], by decide +kernel, by decide +kernel, rfl⟩, by decide +kernel, rfl,
     by decide +kernel⟩,
   ⟨3, hostCmd 2 64 (entry3 2), asks 2, _, ⟨[], by decide +kernel, by decide +kernel, rfl⟩, by decide +kernel⟩,
   ⟨3, hostCmd 3 64 (entry3 3), { asks 3 with adm := { reqs := [(0, { tenant := 3, tag := 9 })] } }, _, ⟨[], by decide +kernel, by decide +kernel, rfl⟩,
     .inr ⟨0, { tenant := 3, tag := 9 }, by decide +kernel, by decide +kernel, rfl⟩⟩,
   ⟨0, copy1, { State.reset with host := { copies := [copy1] } }, _, by decide +kernel, by decide +kernel, rfl⟩,
   ⟨0, copy1, [9], { paged with host := { copies := [copy1] } }, _, _, by decide +kernel, by decide +kernel, by decide +kernel, rfl, pair_of
     (by decide +kernel)⟩,
   ⟨3, hostCmd 6 64 (entry3 6), 0, biv3, grantee0, sect0, { asks 6 with adm := { reqs := [(0, biv3)] } }, _, ⟨[], by decide +kernel, by decide +kernel,
     rfl⟩, by decide +kernel, by decide +kernel, by decide +kernel, by decide +kernel, (by decide +kernel), by decide +kernel, ok_of (by decide +kernel)⟩,
   ⟨0, 6, none, { team := 0, sect := 7 }, { admitting with adm := { reqs := [(0, { team := 0, sect := 7 })] } }, _, _, by decide +kernel, by decide +kernel,
     by decide +kernel, by decide +kernel, rfl, rfl⟩,
   ⟨0, 0, { st := .stalled, holdStart := some 0 }, { reqIs { st := .stalled, holdStart := some 0 } with time := { count := 100000000 } }, by decide +kernel⟩,
   ⟨0, { st := .bivouacked, spillWm := 10 }, { reqIs { st := .bivouacked, spillWm := 10 } with time := { count := 100000000 } }, by decide +kernel⟩⟩

/-- States and operands that meet the hypotheses of O30, clause by clause. -/
theorem test_section_end_and_team_changes_complete_hypotheses :
    (∃ (p : Fin 64) (s u : State), (s.team p.val).cutover ≠ 0 ∧ (s.team p.val).cutover ≤ s.time.count ∧ (s.team p.val).secEnd = false ∧ (s.team
      p.val).running.isSome = true ∧ ((s.team p.val).run = .running ∨ (s.team p.val).run = .switching) ∧ u = s.setTeam p.val
      { s.team p.val with secEnd := true }) ∧
    (∃ (p : Fin 64) (g : Nat) (s : State), (s.team p.val).secEnd = true ∧ ((s.team p.val).run = .running ∨ (s.team p.val).run = .switching) ∧ (s.team
      p.val).cutover + (1 * (s.team p.val).groupFc + 1398) / 1399 + 1 ≤ s.time.count ∧ g ∈ s.partClus (s.members p.val) ∧ (s.clu g).ctl.st = .user ∧ (s.clu
      g).switched = false) ∧
    (∃ (v : Word) (t : Nat) (c : Change) (s : State), s.ready = true ∧ getF v F.ADM_TEAM_CHANGE_OP = 1 ∧ t = getF v F.ADM_TEAM_CHANGE_TEAM_ID ∧ s.teamId t =
      t ∧ (s.team t).change = none ∧ c = s.changeAsked 1 v ∧ (s.members t).contains c.part = false ∧ s.joinable c.part = true ∧ s.permitted (s.members t ++
      [c.part]) = true) ∧
    (∃ (v : Word) (t : Nat) (c : Change) (s : State), s.ready = true ∧ getF v F.ADM_TEAM_CHANGE_OP = 2 ∧ t = getF v F.ADM_TEAM_CHANGE_TEAM_ID ∧ s.teamId t =
      t ∧ (s.team t).change = none ∧ c = s.changeAsked 2 v ∧ (s.team t).bare = true ∧ (s.team t).running = none ∧ (s.members t).contains c.part = true ∧ 2 ≤
      (s.members t).length) ∧
    (∃ (v : Word) (t tw : Nat) (r : Sect) (c : Change) (s u : State), s.ready = true ∧ getF v F.ADM_TEAM_CHANGE_OP = 3 ∧ t = getF v
      F.ADM_TEAM_CHANGE_TEAM_ID ∧ s.teamId t = t ∧ (s.team t).change = none ∧ c = s.changeAsked 3 v ∧ s.changeFault t c = 0 ∧ (s.team t).running = some r ∧
      tw = (match r.card with | some k => k.traverseWm | none => 0) ∧ s.planMove t c.target s.changeWm tw = some u) ∧
    (∃ (p : Fin 64) (c : Change) (s u : State), (s.team p.val).change = some c ∧ c.w ≤ s.time.count ∧ c.started = false ∧ c.landed = false ∧ c.op = 1 ∧
      s.changeFault p.val c = 0 ∧ u = s.setTeam p.val { s.team p.val with change := none }) ∧
    (∃ (t : Fin 4096) (s : State), s.tenantIdle t.val = true) ∧
    (∃ (t : Fin 4096) (v : Word) (s : State), s.tenantIdle t.val = false ∧ s.fld (R.ADM_TENANT t.val) F.ADM_TENANT_PARTITION ≠ getF v
      F.ADM_TENANT_PARTITION) ∧
    (∃ (a : BitVec 48) (v : Word) (s : State), R.ADM_NT_SHARE 0 ≤ a.toNat ∧ a.toNat < R.ADM_NT_SHARE 0 + 0x80 ∧ a.toNat % 8 = 0 ∧ getF v
      F.ADM_NT_SHARE_REJECTED = 0 ∧ getF v F.ADM_NT_SHARE_SPLIT_A ≤ 256 ∧ (∀ e < 8, shareFrac (s.reg a.toNat) e ≠ shareFrac v e → s.engineHolds e ((a.toNat
      - R.ADM_NT_SHARE 0) / 8) = false)) :=
  ⟨⟨63, { teamIs 63 { run := .running, running := some sect0, cutover := 7 } with time := { count := 7 } }, _, by decide +kernel, by decide +kernel,
     by decide +kernel, by decide +kernel, .inl (by decide +kernel), rfl⟩,
   ⟨0, 0, { (teamIs 0 { run := .running, cutover := 7, secEnd := true }) with time := { count := 100 }, clus := [(0, { ctl := { st := .user } })] },
     by decide +kernel, .inl (by decide +kernel), by decide +kernel⟩,
   ⟨setF (setF 0 F.ADM_TEAM_CHANGE_OP 1) F.ADM_TEAM_CHANGE_PARTITION 1, 0, ⟨1, 1, 0, false, 200, false, false⟩, booted, by decide +kernel⟩,
   ⟨setF (setF 0 F.ADM_TEAM_CHANGE_OP 2) F.ADM_TEAM_CHANGE_PARTITION 1, 0, ⟨2, 1, 0, false, 200, false, false⟩, booted.setFld (R.SECT_TEAM 1) F.SECT_TEAM_TEAM_ID
     0, by decide +kernel⟩,
   ⟨setF (setF (setF 0 F.ADM_TEAM_CHANGE_OP 3) F.ADM_TEAM_CHANGE_SUBSTITUTE 1) F.ADM_TEAM_CHANGE_SUB_VALID 1, 0, 0, sect0, ⟨3, 0, 1, true, 200, false, false⟩,
     booted.setTeam 0 { run := .running, running := some sect0 }, booted.setTeam 0 { run := .running, running := some sect0 }, by decide +kernel⟩,
   ⟨0, chg 1 1 0 200, { teamIs 0 { change := some (chg 1 1 0 200) } with time := { count := 200 } }, _, by decide +kernel, by decide +kernel,
     by decide +kernel, by decide +kernel, (by decide +kernel), by decide +kernel, rfl⟩,
   ⟨4095, State.reset, by decide +kernel⟩,
   ⟨3, setF 0 F.ADM_TENANT_PARTITION 1, State.reset.setPage 3 { vis := [64] }, by decide +kernel⟩,
   ⟨BitVec.ofNat 48 (R.ADM_NT_SHARE 0 + 0x78), 0, State.reset, by decide +kernel⟩⟩

/-- States and operands that meet the hypotheses of O31, clause by clause. -/
theorem test_dispatch_commands_complete_hypotheses :
    (∃ (g : Fin 256) (rs1 rs2 : Word) (s : State) (j : Nat) (ps : List Nat), (s.clu g.val).ctl.canRun = true ∧ rs1.toNat < 2 ^ 19 ∧ rs2.toNat < 2 ^ 13 ∧ j =
      bitsOf rs1.toNat 18 16 ∧ ps = positions (rs1.toNat % 65536) ∧ (∀ p ∈ ps, ∀ e ∈ nthD (s.clu g.val).openG j [], e.1 ≠ p) ∧ s.jobBound g.val j = true) ∧
    (∃ (g : Fin 256) (rs1 : Word) (s : State) (j : Nat), (s.clu g.val).ctl.canRun = true ∧ j = rs1.toNat ∧ j < 8 ∧ s.jobBound g.val j = true ∧ nthD (s.clu
      g.val).openG j [] ≠ [] ∧ (nthD (s.clu g.val).ready j []).length < 8) ∧
    (∃ (g : Fin 256) (rs1 : Word) (s : State), (s.clu g.val).ctl.canRun = true ∧ rs1.toNat < 8) ∧
    (∃ (g : Fin 256) (rs1 rs2 : Word) (s : State) (b : Nat) (ps : List Nat), (s.clu g.val).ctl.canRun = true ∧ rs1.toNat < 2 ^ 18 ∧ rs2.toNat < 2 ^ 48 ∧ b =
      bitsOf rs1.toNat 17 16 ∧ ps = positions (rs1.toNat % 65536)) ∧
    (∃ (g : Fin 256) (rs1 : Word) (r : SumRec) (rest : List SumRec) (s : State), (s.clu g.val).ctl.canRun = true ∧ rs1.toNat % 32 = 0 ∧ 0x40000 ≤ rs1.toNat
      ∧ rs1.toNat + 32 ≤ 0x50000 ∧ (s.clu g.val).sums = r :: rest) ∧
    (∃ (g : Fin 256) (rs1 : Word) (s : State), (s.clu g.val).ctl.canRun = true ∧ rs1.toNat % 32 = 0 ∧ 0x40000 ≤ rs1.toNat ∧ rs1.toNat + 32 ≤ 0x50000 ∧
      (s.clu g.val).sums = []) ∧
    (∃ (g : Fin 256) (rs1 v : Word) (rd : Fin 32) (s : State) (snd : Nat → Word → State), (s.clu g.val).ctl.canRun = true ∧ rs1.toNat < 32768 ∧ (∀ op e, snd
      op e = (s.setClu g.val
      { s.clu g.val with ctl := { (s.clu g.val).ctl with wait := .anchor op rd.val v (s.clu g.val).ctl.ancReqs, ancReqs := (s.clu g.val).ctl.ancReqs + 1 } }).send
      { pkt := .ancOp op rs1.toNat v e, dest := ancEp rs1.toNat, src := ⟨g.val, 16⟩, sender := .cluster g.val, req := (s.clu g.val).ctl.ancReqs })) ∧
    (∃ (g : Fin 256) (s : State), (s.clu g.val).ctl.st = .user ∧ (s.clu g.val).ctl.wait = .none) ∧
    (∃ (g : Fin 256) (j : Fin 8) (l : List (Nat × Nat)) (s : State), s.arbiter g.val = some j.val ∧ s.groupDue g.val j.val = some l) :=
  ⟨⟨0, 0x7FFFF, 0x1FFF, (State.reset.setFld (R.CLU_JOB_TENANT 0 7) F.CLU_JOB_TENANT_VALID 1).setClu 0 { ctl := { st := .user, umode := true } }, 7,
     List.range 16, by decide +kernel⟩,
   ⟨0, 7, (State.reset.setFld (R.CLU_JOB_TENANT 0 7) F.CLU_JOB_TENANT_VALID 1).setClu 0
     { ctl := { st := .user, umode := true }, openG := List.replicate 8 [(3, 5)], ready := List.replicate 8 (List.replicate 7 []) }, 7, by decide +kernel⟩,
   ⟨0, 7, ctlIs { st := .user, umode := true }, by decide +kernel⟩,
   ⟨0, 0x3FFFF, 0xFFFFFFFFFFFF, ctlIs { st := .user, umode := true }, 3, List.range 16, by decide +kernel⟩,
   ⟨0, 0x4FFE0, ⟨3, []⟩, [], cluIs { ctl := { st := .user, umode := true }, sums := [⟨3, []⟩] }, by decide +kernel⟩,
   ⟨0, 0x40000, ctlIs { st := .user, umode := true }, by decide +kernel⟩,
   ⟨0, 32767, 1, 31, ctlIs { st := .user, umode := true }, _, by decide +kernel, by decide +kernel, fun _ _ => rfl⟩,
   ⟨0, ctlIs { st := .user, umode := true }, by decide +kernel⟩,
   ⟨0, 3, [], (reqIs { team := 0, sect := 7, job := some 3, st := .running }).setClu 0 { ready := List.replicate 8 [[]] }, by decide +kernel⟩⟩

/-- States and operands that meet the hypotheses of O32, clause by clause. -/
theorem test_controller_traps_and_accesses_complete_hypotheses :
    (∃ (g : Fin 256) (s : State), (s.clu g.val).ctl.canRun = true ∧ (s.clu g.val).ctl.umode = true) ∧
    (∃ (g : Fin 256) (cause : BitVec 8) (s : State), (s.clu g.val).ctl.canRun = true ∧ (s.clu g.val).ctl.umode = true ∧ cause ≠ 8) ∧
    (∃ (g : Fin 256) (s : State), (s.clu g.val).ctl.interruptible = true ∧ (s.clu g.val).ctl.mtie = true ∧ s.mtip g.val = true) ∧
    (∃ (g : Fin 256) (s : State), (s.clu g.val).ctl.interruptible = true ∧ (s.clu g.val).ctl.meie = true ∧ s.meip g.val = true) ∧
    (∃ (g : Fin 256) (i : RvOp) (len : Nat) (s : State), (s.clu g.val).ctl.canRun = true ∧ s.upsets.contains (.ctlMem g.val 1) = false ∧ s.ctlFetch g.val
      (s.clu g.val).ctl.pc = some (i, len)) ∧
    (∃ (g : Fin 256) (s : State), (s.clu g.val).ctl.canRun = true ∧ s.upsets.contains (.ctlMem g.val 1) = false) ∧
    (∃ (g : Fin 256) (s : State), (s.clu g.val).ctl.canRun = true ∧ s.upsets.contains (.ctlMem g.val 1) = false ∧ (s.clu g.val).ctl.umode = false) ∧
    (∃ (g : Fin 256) (s : State), (s.clu g.val).ctl.canRun = true ∧ s.upsets.contains (.ctlMem g.val 1) = false) ∧
    (∃ (g : Fin 256) (k : Fin 4) (a : BitVec 48) (m : CtlMem) (b : List Byte) (s u : State), (s.clu g.val).ctl.canRun = true ∧ s.upsets.contains (.ctlMem
      g.val 1) = false ∧ a.toNat % 2 ^ k.val = 0 ∧ s.ctlMem g.val a.toNat (2 ^ k.val) (s.clu g.val).ctl.dataU false false = some m ∧ s.ctlRead g.val a.toNat
      (2 ^ k.val) m = (u, b)) ∧
    (∃ (g : Fin 256) (k : Fin 4) (a : BitVec 48) (m : CtlMem) (s : State), (s.clu g.val).ctl.canRun = true ∧ s.upsets.contains (.ctlMem g.val 1) = false ∧
      a.toNat % 2 ^ k.val = 0 ∧ s.ctlMem g.val a.toNat (2 ^ k.val) (s.clu g.val).ctl.dataU true false = some m) ∧
    (∃ (g : Fin 256) (k : Fin 4) (a : BitVec 48) (s : State), (s.clu g.val).ctl.canRun = true ∧ s.upsets.contains (.ctlMem g.val 1) = false ∧ a.toNat % 2 ^
      k.val ≠ 0) ∧
    (∃ (g : Fin 256) (k : Fin 4) (a : BitVec 48) (s : State), (s.clu g.val).ctl.canRun = true ∧ s.upsets.contains (.ctlMem g.val 1) = false ∧ a.toNat % 2 ^
      k.val = 0 ∧ s.ctlMem g.val a.toNat (2 ^ k.val) (s.clu g.val).ctl.dataU false false = none) :=
  ⟨⟨0, ctlIs { st := .user, umode := true }, by decide +kernel⟩,
   ⟨0, 11, ctlIs { st := .user, umode := true }, by decide +kernel⟩,
   ⟨0, ctlIs { st := .firmware, mIE := true, mtie := true }, by decide +kernel⟩,
   ⟨0, (ctlIs { st := .firmware, mIE := true, meie := true }).setReg (R.CLU_CTL_IRQ 0) (setF (setF 0 F.CLU_CTL_IRQ_ENABLE 7) F.CLU_CTL_IRQ_DMA_DONE 1),
     by decide +kernel⟩,
   ⟨0, rvcDecode 1, 2, ctlIs { st := .user, umode := true, prog := [(0, 1), (1, 0)] }, by decide +kernel⟩,
   ⟨0, ctlIs { st := .user, umode := true }, by decide +kernel⟩,
   ⟨0, ctlIs { st := .user }, by decide +kernel⟩,
   ⟨0, ctlIs { st := .user, umode := true }, by decide +kernel⟩,
   ⟨0, 3, 0x4FFF8, .ram, _, ctlIs { st := .user, umode := true }, _, by decide +kernel, by decide +kernel, by decide +kernel, by decide +kernel, rfl⟩,
   ⟨0, 3, 0x40000, .ram, ctlIs { st := .user, umode := true }, by decide +kernel⟩,
   ⟨0, 1, 0x40001, ctlIs { st := .user, umode := true }, by decide +kernel⟩,
   ⟨0, 0, 0x50000, ctlIs { st := .user, umode := true }, by decide +kernel⟩⟩

/-- States and operands that meet the hypotheses of O33, clause by clause. -/
theorem test_core_and_host_accesses_complete_hypotheses :
    (∃ (h : Fin 16) (a : BitVec 48) (b : Blk) (k o : Nat) (s : State), s.coresRun = true ∧ (s.core h.val).wait = none ∧ s.coreBusy h.val = false ∧ blockOf
      a.toNat = some (b, k, o) ∧ irqFile b o = false ∧ o % 8 = 0) ∧
    (∃ (h : Fin 16) (a : BitVec 48) (b : Blk) (k o : Nat) (s : State), s.coresRun = true ∧ (s.core h.val).wait = none ∧ s.coreBusy h.val = false ∧ blockOf
      a.toNat = some (b, k, o) ∧ irqFile b o = true ∧ o % 4 = 0) ∧
    (∃ (h : Fin 16) (a : BitVec 48) (size : Nat) (s : State), s.coresRun = true ∧ (s.core h.val).wait = none ∧ s.coreBusy h.val = false ∧ isTier a.toNat =
      false ∧ blockOf a.toNat = none ∧ (s.coreFault h.val false).backed a.toNat = true ∧ isAnchor a.toNat = false ∧ (size = 1 ∨ size = 2 ∨ size = 4 ∨ size =
      8) ∧ a.toNat % size = 0) ∧
    (∃ (h : Fin 16) (a : BitVec 48) (s : State), s.coresRun = true ∧ (s.core h.val).wait = none ∧ isTier a.toNat = true ∧ s.lineOk (a.toNat / 64) = true ∧
      a.toNat % 8 = 0) ∧
    (∃ (h : Fin 16) (a : Nat) (b : List Byte) (r : List (Nat × List Byte)) (s u : State), s.coresRun = true ∧ (s.core h.val).sb = (a, b) :: r ∧ (s.core
      h.val).want = none ∧ s.ownNow h.val (a / 64) = (u, true)) ∧
    (∃ (h : Fin 16) (i : ApOp) (w len : Nat) (s u : State), s.coresRun = true ∧ (s.core h.val).wait = none ∧ s.coreIrq h.val = none ∧ s.apFetch h.val = (u,
      .ok (i, w, len))) ∧
    (∃ (h : Fin 16) (t : Trap) (s u : State), s.coresRun = true ∧ (s.core h.val).wait = none ∧ s.coreIrq h.val = none ∧ s.apFetch h.val = (u, .trap t)) ∧
    (∃ (s : State), s.coresRun = true) ∧
    (∃ (h : Fin 16) (a : Fin 32768) (v old : Word) (s u : State), s.coresRun = true ∧ (s.coreFault h.val false).hubAnc 0x60 a.val v = (u, 0, old)) ∧
    (∃ (h : Fin 16) (a : Fin 32768) (v old : Word) (s u : State), s.coresRun = true ∧ (s.coreFault h.val false).hubAnc 0x62 a.val v = (u, 0, old)) ∧
    (∃ (f : Fin 65) (a : Fin 32768) (s : State), s.ready = true ∧ s.fnLive f.val = true ∧ s.anchorShown f.val a.val = true) :=
  ⟨⟨15, 0x0F0000200000, .time, 0, 0, booted, by decide +kernel⟩,
   ⟨15, BitVec.ofNat 48 (Blk.base .evt 0 + 0x80000), .evt, 0, 0x80000, booted, by decide +kernel⟩,
   ⟨15, BitVec.ofNat 48 (tileAddr 255 0x3FFFFF8), 8, booted, by decide +kernel, by decide +kernel, by decide +kernel, by decide +kernel, (by decide +kernel),
     by decide +kernel, by decide +kernel, .inr (.inr (.inr rfl)), by decide +kernel⟩,
   ⟨15, 64, booted, by decide +kernel⟩,
   ⟨15, 64, [9], [], { booted with cores := [(15, { l2 := [(1, line .e)], sb := [(64, [9])] })] }, _, by decide +kernel, by decide +kernel,
     by decide +kernel, pair_of (by decide +kernel)⟩,
   ⟨15, apcDecode 0, 0, 2, { booted with cores := [(15, { pc := 64, l1i := [(1, List.replicate 64 0)] })] }, _, by decide +kernel, by decide +kernel,
     by decide +kernel, pair_of (by decide +kernel)⟩,
   ⟨15, { cause := 1, tval := 0x0F0000200000 }, { booted with cores := [(15, { pc := 0x0F0000200000 })] }, _, by decide +kernel, by decide +kernel,
     by decide +kernel, pair_of (by decide +kernel)⟩,
   ⟨booted, by decide +kernel⟩,
   ⟨15, 32767, 1, 0, booted, _, by decide +kernel, pair_of (by decide +kernel)⟩,
   ⟨15, 32767, 1, 0, booted, _, by decide +kernel, pair_of (by decide +kernel)⟩,
   ⟨64, 32767, booted, by decide +kernel⟩⟩

/-- States and operands that meet the hypotheses of O34, clause by clause. -/
theorem test_coherence_commands_complete_hypotheses :
    (∃ (h : Fin 16) (a : BitVec 48) (k : Nat) (s : State) (u : _) (l : _), s.coresRun = true ∧ k = a.toNat / 64 ∧ isTier a.toNat = true ∧ s.lineOk k = true
      ∧ (s.core h.val).line k = none ∧ (s.dirLine k).busy = none ∧ (s.dirLine k).owner = none ∧ (s.dirLine k).sharers = 0 ∧ (s.coreFault h.val
      false).lineRead k .e = (u, l)) ∧
    (∃ (h : Fin 16) (a : BitVec 48) (k : Nat) (s : State) (u : _) (l : _), s.coresRun = true ∧ k = a.toNat / 64 ∧ isTier a.toNat = true ∧ s.lineOk k = true
      ∧ (s.core h.val).line k = none ∧ (s.dirLine k).busy = none ∧ (s.dirLine k).owner = none ∧ (s.dirLine k).sharers ≠ 0 ∧ (s.coreFault h.val
      false).lineRead k .s = (u, l)) ∧
    (∃ (h : Fin 16) (a : BitVec 48) (k : Nat) (s : State) (o : _), s.coresRun = true ∧ k = a.toNat / 64 ∧ isTier a.toNat = true ∧ s.lineOk k = true ∧
      (s.core h.val).line k = none ∧ (s.dirLine k).busy = none ∧ (s.dirLine k).owner = some o) ∧
    (∃ (h : Fin 16) (a : BitVec 48) (k : Nat) (s : State) (u : _) (l : _), s.coresRun = true ∧ k = a.toNat / 64 ∧ isTier a.toNat = true ∧ s.lineOk k = true
      ∧ s.ownsLine h.val k = false ∧ SMap.find? (s.core h.val).wb k = none ∧ (s.dirLine k).busy = none ∧ (s.dirLine k).owner = none ∧ (s.dirLine k).sharers
      &&& (65535 - 2 ^ h.val) = 0 ∧ (s.coreFault h.val false).lineOwn h.val k = (u, l)) ∧
    (∃ (h : Fin 16) (a : BitVec 48) (k : Nat) (s : State), s.coresRun = true ∧ k = a.toNat / 64 ∧ isTier a.toNat = true ∧ s.lineOk k = true ∧ s.ownsLine
      h.val k = false ∧ SMap.find? (s.core h.val).wb k = none ∧ (s.dirLine k).busy = none ∧ (s.dirLine k).owner = none ∧ (s.dirLine k).sharers &&& (65535 -
      2 ^ h.val) ≠ 0) ∧
    (∃ (h : Fin 16) (a : BitVec 48) (k : Nat) (l : Line) (s : State), s.coresRun = true ∧ k = a.toNat / 64 ∧ isTier a.toNat = true ∧ s.lineOk k = true ∧
      SMap.find? (s.core h.val).l2 k = some l ∧ l.st ≠ .s) ∧
    (∃ (h : Fin 16) (a : BitVec 48) (k : Nat) (l : Line) (s : State), s.coresRun = true ∧ k = a.toNat / 64 ∧ SMap.find? (s.core h.val).l2 k = some l ∧
      (s.dirLine k).busy = none ∧ l.st = .m ∧ s.upsets.contains (.cache h.val k) = false) ∧
    (∃ (h : Fin 16) (a : BitVec 48) (k : Nat) (l : Line) (s : State), s.coresRun = true ∧ k = a.toNat / 64 ∧ SMap.find? (s.core h.val).l2 k = some l ∧
      (s.dirLine k).busy = none ∧ l.st = .e) ∧
    (∃ (h : Fin 16) (a : BitVec 48) (k : Nat) (l : Line) (s : State), s.coresRun = true ∧ k = a.toNat / 64 ∧ SMap.find? (s.core h.val).l2 k = some l ∧
      (s.dirLine k).busy = none ∧ l.st = .s) ∧
    (∃ (h : Fin 16) (a : BitVec 48) (k r : Nat) (st : LineStore) (l : Line) (s : State), s.coresRun = true ∧ k = a.toNat / 64 ∧ (s.dirLine k).busy = some
      (.fwd r false st) ∧ (s.dirLine k).owner = some h.val ∧ SMap.find? (s.core h.val).l2 k = some l ∧ l.st = .e ∧ (s.core h.val).want ≠ some k) ∧
    (∃ (h : Fin 16) (a : BitVec 48) (k r : Nat) (st : LineStore) (l : Line) (s : State), s.coresRun = true ∧ k = a.toNat / 64 ∧ (s.dirLine k).busy = some
      (.fwd r true st) ∧ (s.dirLine k).owner = some h.val ∧ (s.core h.val).line k = some l ∧ (s.core h.val).want ≠ some k ∧ s.upsets.contains (.cache h.val
      k) = false) ∧
    (∃ (h : Fin 16) (a : BitVec 48) (k r n : Nat) (st : LineStore) (s : State), s.coresRun = true ∧ k = a.toNat / 64 ∧ (s.dirLine k).busy = some (.inv r st
      n) ∧ n.testBit h.val = true ∧ n &&& (65535 - 2 ^ h.val) ≠ 0) ∧
    (∃ (h : Fin 16) (a : BitVec 48) (k r n : Nat) (st : LineStore) (s : State) (u : _) (l : _), s.coresRun = true ∧ k = a.toNat / 64 ∧ (s.dirLine k).busy =
      some (.inv r st n) ∧ n.testBit h.val = true ∧ n &&& (65535 - 2 ^ h.val) = 0 ∧ (s.setL2 h.val k none).lineOwn r k = (u, l)) :=
  ⟨⟨0, 64, 1, booted, _, _, by decide +kernel, by decide +kernel, by decide +kernel, by decide +kernel, (by decide +kernel), by decide +kernel,
     by decide +kernel, by decide +kernel, rfl⟩,
   ⟨0, 64, 1, { booted with dir := [(1, { sharers := 2 })] }, _, _, by decide +kernel, by decide +kernel, by decide +kernel, by decide +kernel,
     (by decide +kernel), by decide +kernel, by decide +kernel, by decide +kernel, rfl⟩,
   ⟨0, 64, 1, { booted with dir := [(1, { owner := some 1 })] }, 1, by decide +kernel⟩,
   ⟨0, 64, 1, booted, _, _, by decide +kernel, by decide +kernel, by decide +kernel, by decide +kernel, (by decide +kernel), by decide +kernel,
     by decide +kernel, by decide +kernel, by decide +kernel, rfl⟩,
   ⟨0, 64, 1, { booted with dir := [(1, { sharers := 2 })] }, by decide +kernel⟩,
   ⟨0, 64, 1, line .e, cohIs .e { owner := some 0 }, by decide +kernel⟩,
   ⟨0, 64, 1, line .m, cohIs .m { owner := some 0 }, by decide +kernel, by decide +kernel, by decide +kernel, by decide +kernel, rfl, by decide +kernel⟩,
   ⟨0, 64, 1, line .e, cohIs .e { owner := some 0 }, by decide +kernel, by decide +kernel, by decide +kernel, by decide +kernel, rfl⟩,
   ⟨0, 64, 1, line .s, cohIs .s { sharers := 1 }, by decide +kernel, by decide +kernel, by decide +kernel, by decide +kernel, rfl⟩,
   ⟨0, 64, 1, 3, none, line .e, cohIs .e { owner := some 0, busy := some (.fwd 3 false none) }, by decide +kernel⟩,
   ⟨0, 64, 1, 3, none, line .m, cohIs .m { owner := some 0, busy := some (.fwd 3 true none) }, by decide +kernel⟩,
   ⟨0, 64, 1, 3, 3, none, cohIs .s { sharers := 11, busy := some (.inv 3 none 3) }, by decide +kernel⟩,
   ⟨0, 64, 1, 3, 1, none, cohIs .s { sharers := 9, busy := some (.inv 3 none 1) }, _, _, by decide +kernel, by decide +kernel, by decide +kernel,
     by decide +kernel, by decide +kernel, rfl⟩⟩

/-- States and operands that meet the hypotheses of O35, clause by clause. -/
theorem test_update_unit_commands_complete_hypotheses :
    (∃ (g : Fin 256) (s : State), s.hasUpd = true ∧ (s.clu g.val).updQ.length + (s.clu g.val).upd.toList.length < 8) ∧
    (∃ (g : Fin 256) (s : State), s.hasUpd = true ∧ 8 ≤ (s.clu g.val).updQ.length + (s.clu g.val).upd.toList.length) ∧
    (∃ (g : Fin 256) (a len pa : Nat) (q : List Nat) (b pb : List Byte) (x y : List Nat) (s u v w : State), s.hasUpd = true ∧ (s.clu g.val).updQ = a :: q ∧
      (s.clu g.val).upd = none ∧ inOwnTiles g.val a 256 = true ∧ (s.setClu g.val { s.clu g.val with updQ := q }).deliver 2 g.val 1 20 a 256 = (u, b, x) ∧
      len = numAt b 0 1 ∧ pa = numAt b 8 8 ∧ 1 ≤ len ∧ len ≤ 32 ∧ pa % 128 = 0 ∧ inOwnTiles g.val pa (4 * len) = true ∧ u.deliver 2 g.val 1 20 pa (4 * len)
      = (v, pb, y) ∧ uCheck g.val b (chunkWords len 4 pb) = true ∧ v.uSealed g.val (numAt b 1 1) b = (w, true)) ∧
    (∃ (g : Fin 256) (a : Nat) (q : List Nat) (s u : State), s.hasUpd = true ∧ (s.clu g.val).updQ = a :: q ∧ (s.clu g.val).upd = none ∧ inOwnTiles g.val a
      256 = false ∧ u = s.setClu g.val { s.clu g.val with updQ := q }) ∧
    (∃ (g : Fin 256) (x : UpdRun) (s : State), (s.clu g.val).upd = some x ∧ x.writing = true ∧ x.todo = [] ∧ (s.clu g.val).updTags.any (fun t => t.put &&
      decide (t.job = x.job)) = false ∧ uDigest x.desc = false) ∧
    (∃ (g : Fin 256) (x : UpdRun) (s : State), (s.clu g.val).upd = some x ∧ x.writing = true ∧ x.todo = [] ∧ (s.clu g.val).updTags.any (fun t => t.put &&
      decide (t.job = x.job)) = false ∧ uDigest x.desc = true) ∧
    (∃ (v w : Word) (s : State), w = setF (setF (setF 0 F.UPD_SEAL_VALID (getF v F.UPD_SEAL_VALID)) F.UPD_SEAL_BASE_2M (getF v F.UPD_SEAL_BASE_2M))
      F.UPD_SEAL_LEN_2M (getF v F.UPD_SEAL_LEN_2M) ∧ s.clus.any (fun x => !x.2.updQ.isEmpty || x.2.upd.isSome) = false) ∧
    (∃ (i : Fin 8) (v w : Word) (s : State), w = setF (setF (setF 0 F.UPD_SEAL_VALID (getF v F.UPD_SEAL_VALID)) F.UPD_SEAL_BASE_2M (getF v
      F.UPD_SEAL_BASE_2M)) F.UPD_SEAL_LEN_2M (getF v F.UPD_SEAL_LEN_2M) ∧ s.clus.any (fun x => !x.2.updQ.isEmpty || x.2.upd.isSome) = true ∧ setF (s.reg
      (R.UPD_SEAL i.val)) F.UPD_SEAL_REJECTED 0 ≠ w) ∧
    (∃ (v : Word) (s u : State), getF v F.UPD_EXPORT_CTRL_GO = 1 ∧ s.exporting = none ∧ u = s.setFld R.UPD_EXPORT_CTRL F.UPD_EXPORT_CTRL_OP (getF v
      F.UPD_EXPORT_CTRL_OP) ∧ getF v F.UPD_EXPORT_CTRL_OP = 0) ∧
    (∃ (v : Word) (s u : State), getF v F.UPD_EXPORT_CTRL_GO = 1 ∧ s.exporting = none ∧ u = s.setFld R.UPD_EXPORT_CTRL F.UPD_EXPORT_CTRL_OP (getF v
      F.UPD_EXPORT_CTRL_OP) ∧ getF v F.UPD_EXPORT_CTRL_OP = 1) ∧
    (∃ (imp : Bool) (src dst st : Nat) (s u : State), s.exporting = some (imp, src, dst) ∧ (if imp then s.shardImport src dst s.mayExport else s.shardExport
      src dst s.mayExport) = (u, st)) :=
  ⟨⟨0, cluIs { updQ := List.replicate 7 0 }, by decide +kernel⟩,
   ⟨0, cluIs { updQ := List.replicate 8 0 }, by decide +kernel⟩,
   ⟨0, tileAddr 0 0, 1, tileAddr 0 256, [], _, _, _, _, (cluIs { updQ := [tileAddr 0 0] }).wr (tileAddr 0 0) updBytes [], _, _, _, by decide +kernel,
     by decide +kernel, by decide +kernel, by decide +kernel, rfl, by decide +kernel, by decide +kernel, by decide +kernel, by decide +kernel,
     (by decide +kernel), by decide +kernel, rfl, by decide +kernel, pair_of (by decide +kernel)⟩,
   ⟨0, 0, [], cluIs { updQ := [0] }, _, by decide +kernel, by decide +kernel, by decide +kernel, by decide +kernel, rfl⟩,
   ⟨0, upd1 0, cluIs { upd := some (upd1 0) }, by decide +kernel⟩,
   ⟨0, upd1 1, cluIs { upd := some (upd1 1) }, by decide +kernel⟩,
   ⟨0, _, State.reset, rfl, by decide +kernel⟩,
   ⟨7, setF 0 F.UPD_SEAL_VALID 1, _, cluIs { updQ := [0] }, rfl, by decide +kernel⟩,
   ⟨setF 0 F.UPD_EXPORT_CTRL_GO 1, State.reset, _, by decide +kernel, by decide +kernel, rfl, by decide +kernel⟩,
   ⟨setF (setF 0 F.UPD_EXPORT_CTRL_GO 1) F.UPD_EXPORT_CTRL_OP 1, State.reset, _, by decide +kernel, by decide +kernel, rfl, by decide +kernel⟩,
   ⟨false, 0, 4096, 0, { State.reset with exporting := some (false, 0, 4096) }, _, by decide +kernel, pair_of (by decide +kernel)⟩⟩

/-- States and operands that meet the hypotheses of O36, clause by clause. -/
theorem test_camley_commands_complete_hypotheses :
    (∃ (p : Fin 16) (b : List Byte) (l : List (List Byte)) (s : State), ((s.port p.val).st = 3 ∨ (s.port p.val).st = 4) ∧ (s.port p.val).unpack p.val b =
      some l ∧ (∀ f ∈ l, camCrcOk f = true)) ∧
    (∃ (p : Fin 16) (f : List Byte) (s u : State), s.takesFrame p.val 1 f u ∧ (u.port p.val).st = 4 ∧ numAt f 0x0E 2 = (u.port p.val).rxSeq) ∧
    (∃ (p : Fin 16) (f : List Byte) (n : Nat) (s u v : State), s.takesFrame p.val 2 f u ∧ (u.port p.val).st = 4 ∧ numAt f 0x0E 2 = (u.port p.val).rxSeq ∧ n
      = numAt f 0x0C 2 ∧ v = (u.setPort p.val { u.port p.val with rxSeq := ((u.port p.val).rxSeq + 1) % 65536, gap := false }).camControl p.val 3 (u.port
      p.val).rxSeq ∧ n < 4096 ∧ (v.stream n).enabled = true ∧ (v.stream n).recv = false ∧ (v.stream n).port = p.val ∧ (v.stream n).peerModule = numAt f 8 2) ∧
    (∃ (p : Fin 16) (f : List Byte) (s u : State), s.takesFrame p.val 1 f u ∧ (u.port p.val).st = 4 ∧ 32768 ≤ (numAt f 0x0E 2 + 65536 - (u.port
      p.val).rxSeq) % 65536 ∧ numAt f 0x0E 2 ≠ (u.port p.val).rxSeq) ∧
    (∃ (p : Fin 16) (f : List Byte) (s u : State), s.takesFrame p.val 1 f u ∧ (u.port p.val).st = 4 ∧ numAt f 0x0E 2 ≠ (u.port p.val).rxSeq ∧ (numAt f 0x0E
      2 + 65536 - (u.port p.val).rxSeq) % 65536 < 32768 ∧ (u.port p.val).gap = false) ∧
    (∃ (p : Fin 16) (f : List Byte) (i : Nat) (s u v : State), s.takesFrame p.val 3 f u ∧ (u.port p.val).unacked.findIdx? (fun x => decide (x.lseq = numAt f
      0x10 2)) = some i ∧ (v = ((u.port p.val).unacked.take (i + 1)).foldl (fun s f => if f.stream < 4096 ∧ ((s.stream f.stream).enabled = true ∨
      s.link.disabling = some f.stream) then (s.ancApply 0x60 (s.stream f.stream).ancFree 1 0 true true).1 else s) (u.setPort p.val
      { u.port p.val with unacked := (u.port p.val).unacked.drop (i + 1), ackWm := u.time.count }))) ∧
    (∃ (p : Fin 16) (f : List Byte) (i : Nat) (s u : State), s.takesFrame p.val 4 f u ∧ (u.port p.val).unacked.findIdx? (fun x => decide (x.lseq = numAt f
      0x10 2)) = some i) ∧
    (∃ (p : Fin 16) (f : List Byte) (v : Nat) (s u : State), s.takesFrame p.val 5 f u ∧ (u.port p.val).st = 3 ∧ v = min (u.port p.val).maxVer (numAt f 0 1)
      ∧ numAt f 8 2 = (u.port p.val).peer ∧ 0 < v ∧ ((u.port p.val).mode = 2 → v ≠ 1 ∧ (numAt f 0x10 8).testBit 8 = true)) ∧
    (∃ (p : Fin 16) (s : State), (s.port p.val).st = 4 ∧ (s.port p.val).unacked ≠ [] ∧ (s.port p.val).ackWm + (s.port p.val).retx ≤ s.time.count) ∧
    (∃ (n : Fin 4096) (x : CamStream) (b : List Byte) (bad : List Nat) (s u : State), x = s.stream n.val ∧ s.unitReady x = true ∧ (x.gs = true ∨ ∀ y ∈
      s.link.streams, y.2.port = x.port → y.2.gs = true → s.unitReady y.2 = false) ∧ s.tierRead (x.buf + 256 * (x.next % x.units)) 256 = (u, b, bad)) ∧
    (∃ (n : Fin 4096) (x : CamStream) (w : DueUnit) (s : State), x = s.stream n.val ∧ x.arrived.find? (fun u => decide (u.n = x.next)) = some w ∧ x.enabled
      = true ∧ x.recv = true ∧ w.due ≤ s.time.count) ∧
    (∃ (p : Fin 16) (s : State), (s.port p.val).st = 2) ∧
    (∃ (v : Word) (tg : Nat) (b : List Byte) (bad : List Nat) (s u w : State), s.linkCommand v 1 tg u ∧ tg < 16 ∧ u.portPresent tg = true ∧ (u.port tg).on =
      false ∧ u.tierRead (u.camTable + 64 * tg) 64 = (w, b, bad) ∧ portRecordBad b = false) ∧
    (∃ (v : Word) (tg : Nat) (s u : State), s.linkCommand v 2 tg u ∧ tg < 16 ∧ u.portPresent tg = true ∧ (u.port tg).st ≠ 1) ∧
    (∃ (v : Word) (tg t : Nat) (b : List Byte) (bad : List Nat) (x : CamStream) (s u w : State), s.linkCommand v 3 tg u ∧ (u.stream tg).enabled = false ∧
      u.tierRead (u.camTable + 1024 + 64 * tg) 64 = (w, b, bad) ∧ streamEntryBad b = false ∧ x = { enabled := true, entry := b } ∧ t = w.teamId x.part ∧
      (w.port x.port).on = true ∧ x.buf + 256 * x.units ≤ 0x8000000000 ∧ w.granted t x.buf (256 * x.units) x.recv = true ∧ w.isSealed x.buf (256 * x.units)
      = false ∧ x.ancData < 32768 ∧ w.teamOfClu (x.ancData / 128) = t ∧ x.ancFree < 32768 ∧ w.teamOfClu (x.ancFree / 128) = t) ∧
    (∃ (v : Word) (tg : Nat) (s u w : State), s.linkCommand v 4 tg u ∧ (u.stream tg).enabled = true ∧ w = u.setStream tg
      { u.stream tg with enabled := false }) :=
  ⟨⟨0, ethBytes, [camBytes], portIs { record := portRec, st := 4 }, .inr (by decide +kernel), by decide +kernel⟩,
   ⟨0, camFr 1 (List.replicate 24 0), portIs { record := portRec, st := 4, rx := [camFr 1 (List.replicate 24 0)] }, _, ⟨[], by decide +kernel,
     by decide +kernel, rfl⟩, by decide +kernel⟩,
   ⟨0, camFr 2 (List.replicate 24 0), 0,
     { booted with link := { ports := [(0, { record := portRec, st := 4, rx := [camFr 2 (List.replicate 24 0)] })], streams := [(0, { enabled := true, entry := streamRec 1 })] } },
     _, _, ⟨[], by decide +kernel, by decide +kernel, rfl⟩, by decide +kernel, by decide +kernel, by decide +kernel, rfl, by decide +kernel⟩,
   ⟨0, camFr 1 (List.replicate 24 0), portIs { record := portRec, st := 4, rxSeq := 9, rx := [camFr 1 (List.replicate 24 0)] }, _, ⟨[], by decide +kernel,
     by decide +kernel, rfl⟩, by decide +kernel⟩,
   ⟨0, camFr 1 ([0, 0, 0, 0, 0, 0, 1] ++ List.replicate 17 0), portIs
     { record := portRec, st := 4, rx := [camFr 1 ([0, 0, 0, 0, 0, 0, 1] ++ List.replicate 17 0)] }, _, ⟨[], by decide +kernel, by decide +kernel, rfl⟩,
     by decide +kernel⟩,
   ⟨0, camFr 3 (List.replicate 24 0), 0, portIs { record := portRec, st := 4, unacked := [⟨0, [], 0, 0⟩], rx := [camFr 3 (List.replicate 24 0)] }, _, _,
     ⟨[], by decide +kernel, by decide +kernel, rfl⟩, by decide +kernel, rfl⟩,
   ⟨0, camFr 4 (List.replicate 24 0), 0, portIs { record := portRec, st := 4, unacked := [⟨0, [], 0, 0⟩], rx := [camFr 4 (List.replicate 24 0)] }, _, ⟨[],
     by decide +kernel, by decide +kernel, rfl⟩, by decide +kernel⟩,
   ⟨0, camFr 5 (List.replicate 24 0), 1, portIs { record := portRec, st := 3, rx := [camFr 5 (List.replicate 24 0)] }, _, ⟨[], by decide +kernel,
     by decide +kernel, rfl⟩, by decide +kernel⟩,
   ⟨0, { portIs { record := portRec, st := 4, unacked := [⟨0, [], 0, 0⟩] } with time := { count := 1 } }, by decide +kernel⟩,
   ⟨0, { enabled := true, entry := streamRec 1, credit := 1 }, _, _,
     { booted with anchors := [(5, 1)], link := { ports := [(0, { record := portRec, st := 4 })], streams := [(0, { enabled := true, entry := streamRec 1, credit := 1 })] } },
     _, by decide +kernel, by decide +kernel, .inr (by decide +kernel), rfl⟩,
   ⟨0, { enabled := true, entry := streamRec 3, arrived := [⟨0, 0, false⟩] }, ⟨0, 0, false⟩,
     { booted with link := { streams := [(0, { enabled := true, entry := streamRec 3, arrived := [⟨0, 0, false⟩] })] } }, by decide +kernel⟩,
   ⟨0, portIs { st := 2 }, by decide +kernel⟩,
   ⟨linkGo 1 15, 15, _, _, booted.wr 960 portRec [], _, _, ⟨by decide +kernel, by decide +kernel, by decide +kernel, by decide +kernel, by decide +kernel,
     rfl⟩, by decide +kernel, by decide +kernel, by decide +kernel, rfl, by decide +kernel⟩,
   ⟨linkGo 2 0, 0, portIs { st := 4 }, _, ⟨by decide +kernel, by decide +kernel, by decide +kernel, by decide +kernel, by decide +kernel, rfl⟩,
     by decide +kernel⟩,
   ⟨linkGo 3 0, 0, 0, _, _, _, ((((portIs { record := portRec, st := 4 }).wr 1024 (streamRec 1) []).setFld (R.PART_GRANT 0 0) F.PART_GRANT_VALID 1).setFld
     (R.PART_GRANT 0 0) F.PART_GRANT_BASE_2M 1).setFld (R.PART_GRANT 0 0) F.PART_GRANT_LEN_2M 1, _, _, ⟨by decide +kernel, by decide +kernel,
     by decide +kernel, by decide +kernel, by decide +kernel, rfl⟩, by decide +kernel, rfl, by decide +kernel, rfl, by decide +kernel⟩,
   ⟨linkGo 4 4095, 4095, { booted with link := { streams := [(4095, { enabled := true })] } }, _, _, ⟨by decide +kernel, by decide +kernel,
     by decide +kernel, by decide +kernel, by decide +kernel, rfl⟩, by decide +kernel, rfl⟩⟩

/-- States and operands that meet the hypotheses of O37, clause by clause. -/
theorem test_secure_commands_complete_hypotheses :
    (∃ (s u : State) (r : SecRun), s.secFree = true ∧ s.checkDirective (s.secBytes 648) = (u, r) ∧ numAt (s.secBytes 648) 4 1 ≠ 2) ∧
    (∃ (s u : State) (r : SecRun), s.secFree = true ∧ s.checkDirective (s.secBytes 648) = (u, r) ∧ numAt (s.secBytes 648) 4 1 = 2) ∧
    (∃ (s : State), s.secFree = true ∧ dirForm (s.secBytes 648) = false ∧ numAt (s.secBytes 648) 4 1 ≠ 2) ∧
    (∃ (s : State), s.secFree = true) ∧
    (∃ (k : Nat) (s : State), s.secFree = true ∧ k = s.fld R.SEC_CMD F.SEC_CMD_SLOT) ∧
    (∃ (s : State), s.secFree = true) ∧
    (∃ (f v n : Nat) (s u : State), s.sec.run = some ⟨.fuse f v, 0⟩ ∧ s.boot.wait = none ∧ { s with sec := { s.sec with run := none } }.program f v = (u, n)
      ∧ u.boot.wait = none) ∧
    (∃ (w : SecWork) (n : Nat) (s u : State), s.sec.run = some ⟨w, n⟩ ∧ n ≠ 0 ∧ s.boot.wait = none ∧ u = { s with sec := { s.sec with run := none } }) ∧
    (∃ (s : State), s.pwr.aux = true ∧ s.sec.grants.testBit 2 = true ∧ s.sec.scan = false ∧ (∀ x ∈ s.teams, ∀ l, x.2.load = some l → l.keySrc = none)) :=
  ⟨⟨booted, _, _, by decide +kernel, (Prod.eta _).symm, by decide +kernel⟩,
   ⟨(booted.wr 0 [0, 0, 0, 0, 2] []), _, _, by decide +kernel, (Prod.eta _).symm, by decide +kernel⟩,
   ⟨booted, by decide +kernel⟩,
   ⟨booted, by decide +kernel⟩,
   ⟨0, booted, by decide +kernel⟩,
   ⟨booted, by decide +kernel⟩,
   ⟨1, 0, _, secRuns (.fuse 1 0) 0, _, by decide +kernel, by decide +kernel, rfl, by decide +kernel⟩,
   ⟨.none, 1, secRuns .none 1, _, by decide +kernel, by decide +kernel, by decide +kernel, rfl⟩,
   ⟨{ booted with sec := { booted.sec with grants := 4 } }, by decide +kernel, by decide +kernel, by decide +kernel, fun _ h => nomatch h⟩⟩

/-- States and operands that meet the hypotheses of O38, clause by clause. -/
theorem test_spdm_and_pldm_complete_hypotheses :
    (∃ (s : State), s.pwr.aux = true) ∧
    (∃ (b r : List Byte) (s : State), s.pwr.aux = true ∧ s.spdmBar b .version 12 = none ∧ r = b.take 1 ++ [0x61, 0, 0, 0, 19, 0, 0] ++ leBytes 4 0x16 ++
      leBytes 4 0x1000 ++ leBytes 4 0x1000) ∧
    (∃ (b : List Byte) (s : State), s.pwr.aux = true ∧ s.spdmBar b .caps 32 = none ∧ (numAt b 8 4).testBit 7 = true ∧ (numAt b 12 4).testBit 1 = true) ∧
    (∃ (b r : List Byte) (s : State), s.pwr.aux = true ∧ s.spdmBar b .algs 4 = none ∧ r = b.take 1 ++ [0x01, if s.sec.spdm.version = 0x13 then 1 else 0, 1] ++
      sha384 s.flash.chain) ∧
    (∃ (b r c : List Byte) (s : State), s.pwr.aux = true ∧ s.spdmBar b .algs 8 = none ∧ numAt b 2 1 % 16 = 0 ∧ numAt b 4 2 < s.flash.chain.length ∧ c =
      (s.flash.chain.drop (numAt b 4 2)).take (numAt b 6 2) ∧ r = b.take 1 ++ [0x02, 0, 0] ++ leBytes 2 c.length ++ leBytes 2 (s.flash.chain.length - numAt b
      4 2 - c.length) ++ c) ∧
    (∃ (b r sig : List Byte) (d : Nat) (s u v : State), s.pwr.aux = true ∧ s.spdmBar b .algs 36 = none ∧ s.sec.identityKey = some d ∧ numAt b 2 1 = 0 ∧ u =
      { s with draws := s.draws + 1 } ∧ r = b.take 1 ++ [0x03, 0, 1] ++ sha384 s.flash.chain ++ (List.range 32).map (Config.freeByte s.draws) ++ s.sec.summary
      (numAt b 3 1) ++ [0, 0] ++ (if s.sec.spdm.version = 0x13 then sliceB b 36 8 else []) ∧ u.spdmSign d (spdmMessage s.sec.spdm.version challengeText
      (s.sec.spdm.transcript ++ s.sec.spdm.certs ++ b ++ r)) = (v, sig)) ∧
    (∃ (b r : List Byte) (s u : State), s.pwr.aux = true ∧ s.spdmBar b .algs 4 = none ∧ numAt b 2 1 % 2 = 0 ∧ numAt b 3 1 = 0 ∧ u =
      { s with draws := s.draws + 1 } ∧ r = b.take 1 ++ [0x60] ++ leBytes 1 (([1, 2, 3, 4, 5, 6, 7] : List Nat).filterMap s.sec.block).length ++ [0] ++
      leBytes 1 0 ++ leBytes 3 0 ++ (List.range 32).map (Config.freeByte s.draws) ++ [0, 0] ++ (if s.sec.spdm.version = 0x13 then sliceB b 4 8 else [])) ∧
    (∃ (v : Nat) (s : State), s.pwr.aux = true ∧ 2900 ≤ v ∧ v ≤ 3600) ∧
    (∃ (id : Nat) (s : State), s.pwr.aux = true ∧ (id = 1 ∨ id = 3 ∨ id = 5)) ∧
    (∃ (s u : State) (v : Nat), s.pwr.aux = true ∧ s.measureBank = (u, v)) :=
  ⟨⟨booted, by decide +kernel⟩,
   ⟨spdmMsg 11, _, spdmIs, by decide +kernel, by decide +kernel, rfl⟩,
   ⟨spdmMsg 7 ++ leBytes 4 0x80 ++ leBytes 4 2 ++ List.replicate 16 0, spdmIs, by decide +kernel⟩,
   ⟨spdmMsg 3, _, spdmIs, by decide +kernel, by decide +kernel, rfl⟩,
   ⟨spdmMsg 7, _, _, spdmIs, by decide +kernel, by decide +kernel, by decide +kernel, by decide +kernel, rfl, rfl⟩,
   ⟨spdmMsg 35, _, _, _, spdmIs, _, _, by decide +kernel, by decide +kernel, rfl, by decide +kernel, rfl, rfl, (Prod.eta _).symm⟩,
   ⟨spdmMsg 3, _, spdmIs, _, by decide +kernel, by decide +kernel, by decide +kernel, by decide +kernel, rfl, rfl⟩,
   ⟨3000, booted, by decide +kernel⟩,
   ⟨1, booted, by decide +kernel⟩,
   ⟨booted, _, _, by decide +kernel, rfl⟩⟩

/-- States and operands that meet the hypotheses of O39, clause by clause. -/
theorem test_reset_commands_complete_hypotheses :
    (∃ (f : Fin 65) (s : State), s.linkUp = true ∧ f.val < 64 ∧ f.val < s.host.numVFs) ∧
    (∃ (s u : State), s.linkUp = true ∧ u = (List.range 64).foldl (fun s p => s.resetVf p) s) ∧
    (∃ (s : State), s.boot.perst = false ∧ s.pwr.aux = true) ∧
    (∃ (s u : State), s.boot.perst = true ∧ s.pwr.aux = true ∧ u = { s with boot := { s.boot with perst := false } }) ∧
    (∃ (s u : State), s.pwr.aux = true ∧ s.supply ≠ 3 ∧ s.boot.testMode = false ∧ s.sec.storing = false ∧ u = (if s.linkUp then s.postAll stReset else
      s).dropCommands) ∧
    (∃ (s u : State), s.pwr.aux = true ∧ s.supply ≠ 3 ∧ s.boot.testMode = false ∧ s.sec.storing = false ∧ u = (if s.linkUp then s.postAll stReset else
      s).dropCommands ∧ s.stage ≠ 8 ∧ s.boot.ready = true) ∧
    (∃ (v : Word) (s u : State), s.pwr.aux = true ∧ getF v F.RESET_CMD_GO = 1 ∧ u = (s.setFld R.RESET_CMD F.RESET_CMD_LEVEL (getF v
      F.RESET_CMD_LEVEL)).setFld R.RESET_CMD F.RESET_CMD_TARGET (getF v F.RESET_CMD_TARGET) ∧ u.resetBusy = false ∧ u.resetTarget (getF v F.RESET_CMD_LEVEL)
      (getF v F.RESET_CMD_TARGET) = true ∧ getF v F.RESET_CMD_LEVEL = 1) ∧
    (∃ (v : Word) (s u : State), s.pwr.aux = true ∧ getF v F.RESET_CMD_GO = 1 ∧ u = (s.setFld R.RESET_CMD F.RESET_CMD_LEVEL (getF v
      F.RESET_CMD_LEVEL)).setFld R.RESET_CMD F.RESET_CMD_TARGET (getF v F.RESET_CMD_TARGET) ∧ u.resetBusy = false ∧ u.resetTarget (getF v F.RESET_CMD_LEVEL)
      (getF v F.RESET_CMD_TARGET) = true ∧ getF v F.RESET_CMD_LEVEL = 2) ∧
    (∃ (v : Word) (s u : State), s.pwr.aux = true ∧ getF v F.RESET_CMD_GO = 1 ∧ u = (s.setFld R.RESET_CMD F.RESET_CMD_LEVEL (getF v
      F.RESET_CMD_LEVEL)).setFld R.RESET_CMD F.RESET_CMD_TARGET (getF v F.RESET_CMD_TARGET) ∧ u.resetBusy = false ∧ u.resetTarget (getF v F.RESET_CMD_LEVEL)
      (getF v F.RESET_CMD_TARGET) = true ∧ getF v F.RESET_CMD_LEVEL = 3) ∧
    (∃ (v : Word) (s u : State), s.pwr.aux = true ∧ getF v F.RESET_CMD_GO = 1 ∧ u = (s.setFld R.RESET_CMD F.RESET_CMD_LEVEL (getF v
      F.RESET_CMD_LEVEL)).setFld R.RESET_CMD F.RESET_CMD_TARGET (getF v F.RESET_CMD_TARGET) ∧ u.resetBusy = false ∧ getF v F.RESET_CMD_LEVEL = 4) ∧
    (∃ (v : Word) (s u : State), s.pwr.aux = true ∧ getF v F.RESET_CMD_GO = 1 ∧ u = (s.setFld R.RESET_CMD F.RESET_CMD_LEVEL (getF v
      F.RESET_CMD_LEVEL)).setFld R.RESET_CMD F.RESET_CMD_TARGET (getF v F.RESET_CMD_TARGET) ∧ u.resetBusy = false ∧ getF v F.RESET_CMD_LEVEL = 5) ∧
    (∃ (r : PReset) (s u : State), s.boot.resets.find? s.resetReady = some r ∧ r.level ≠ 3 ∧ u = s.resetScope r ∧ u.boot.absorbed = none) :=
  ⟨⟨0, { booted with host := { booted.host with numVFs := 1 } }, by decide +kernel⟩,
   ⟨booted, _, by decide +kernel, rfl⟩,
   ⟨booted, by decide +kernel⟩,
   ⟨{ booted with boot := { booted.boot with perst := true } }, _, by decide +kernel, by decide +kernel, rfl⟩,
   ⟨stageIs 7, _, by decide +kernel, by decide +kernel, by decide +kernel, by decide +kernel, rfl⟩,
   ⟨{ stageIs 7 with boot := { (stageIs 7).boot with ready := true } }, _, by decide +kernel, by decide +kernel, by decide +kernel, by decide +kernel, rfl,
     by decide +kernel⟩,
   ⟨setF (setF 0 F.RESET_CMD_GO 1) F.RESET_CMD_LEVEL 1, stageIs 7, _, by decide +kernel, by decide +kernel, rfl, by decide +kernel⟩,
   ⟨setF (setF 0 F.RESET_CMD_GO 1) F.RESET_CMD_LEVEL 2, stageIs 7, _, by decide +kernel, by decide +kernel, rfl, by decide +kernel⟩,
   ⟨setF (setF 0 F.RESET_CMD_GO 1) F.RESET_CMD_LEVEL 3, stageIs 7, _, by decide +kernel, by decide +kernel, rfl, by decide +kernel⟩,
   ⟨setF (setF 0 F.RESET_CMD_GO 1) F.RESET_CMD_LEVEL 4, stageIs 7, _, by decide +kernel, by decide +kernel, rfl, by decide +kernel⟩,
   ⟨setF (setF 0 F.RESET_CMD_GO 1) F.RESET_CMD_LEVEL 5, stageIs 7, _, by decide +kernel, by decide +kernel, rfl, by decide +kernel⟩,
   ⟨⟨1, 0, true, 0, 0, false⟩, { stageIs 7 with boot := { (stageIs 7).boot with resets := [⟨1, 0, true, 0, 0, false⟩] } }, _, by decide +kernel,
     by decide +kernel, rfl, by decide +kernel⟩⟩

/-- States and operands that meet the hypotheses of O40, clause by clause. -/
theorem test_boot_commands_complete_hypotheses :
    (∃ s u v : State, s.pwr.aux = true ∧ s.supply ≠ 3 ∧ s.stage = 0 ∧ s.boot.testMode = false ∧ { s with sec := s.sec.draw }.voteFields romFields = (u, true) ∧
      { u with sec := { u.sec with identity := true } }.verifyBoot 0 = (v, true)) ∧
    (∃ s : State, s.stage = 2 ∧ (bistDies s.upsets).find? (fun x => decide (x.1 = 8)) = none) ∧
    (∃ s : State, s.stage = 3 ∧ (∀ d < 8, s.upsets.contains (.trainDie d) = false) ∧ s.fld R.BOOT_STATUS F.BOOT_STATUS_PATH ≠ 0 ∧ s.trainHost.stage ≠ 8) ∧
    (∃ s : State, s.stage = 3 ∧ (∀ d < 8, s.upsets.contains (.trainDie d) = false) ∧ s.fld R.BOOT_STATUS F.BOOT_STATUS_PATH = 0 ∧ s.collectBist.trainHost.stage
      ≠ 8) ∧
    (∃ (d : Nat) (s : State), s.stage = 3 ∧ (List.range 8).find? (fun d => s.upsets.contains (.trainDie d)) = some d) ∧
    (∃ (g : Fin 256) (b : List Byte) (s : State), (s.clu g.val).ctl.st = .fetch ∧ s.boot.fetched.contains g.val = false ∧ s.cluOut g.val = false ∧ 4 ≤ s.stage
      ∧ s.stage ≠ 8 ∧ s.fetchBytes (g.val / 32) = some b) ∧
    (∃ s : State, s.stage = 4 ∧ s.fld R.BOOT_STATUS F.BOOT_STATUS_PATH = 0 ∧ s.allFetched = true ∧ kaSlots s.upsets = [] ∧ kaClus s.upsets = [] ∧
      s.flash.retired = []) ∧
    (∃ (warm : Nat) (s : State), warm = s.fld R.BOOT_STATUS F.BOOT_STATUS_PATH ∧ (warm = 0 ∧ s.stage = 6 ∨ warm = 1 ∧ s.stage = 4 ∧ s.allFetched = true)) ∧
    (∃ (warm : Nat) (s : State), warm = s.fld R.BOOT_STATUS F.BOOT_STATUS_PATH ∧ (warm = 0 ∧ s.stage = 6 ∨ warm = 1 ∧ s.stage = 4 ∧ s.allFetched = true)) ∧
    (∃ (s u : State), s.pwr.aux = false ∧ s.upsets.contains .vbatt = false ∧ u = s.auxReset true) ∧
    (∃ s : State, s.pwr.aux = true) ∧
    (∃ s : State, s.pwr.aux = true ∧ s.supply = 3 ∧ supplyClass s.pwr.mainMv = 0 ∧ s.boot.testMode = false) :=
  ⟨⟨signedBoot, _, _, by decide +kernel, by decide +kernel, by decide +kernel, by decide +kernel, pair_of (by decide +kernel), pair_of (by decide +kernel)⟩,
   ⟨stageIs 2, by decide +kernel⟩,
   ⟨(stageIs 3).setFld R.BOOT_STATUS F.BOOT_STATUS_PATH 1, by decide +kernel⟩,
   ⟨stageIs 3, by decide +kernel⟩,
   ⟨0, { stageIs 3 with upsets := [.trainDie 0] }, by decide +kernel⟩,
   ⟨0, [], ((stageIs 4).setFld (R.NT_STACK_STATUS 0) F.NT_STACK_STATUS_STATE 1).setClu 0 { ctl := { st := .fetch } }, by decide +kernel⟩,
   ⟨{ stageIs 4 with boot := { (stageIs 4).boot with fetched := List.range 256 } }, by decide +kernel⟩,
   ⟨0, stageIs 6, by decide +kernel, .inl ⟨rfl, by decide +kernel⟩⟩,
   ⟨1, { (stageIs 4).setFld R.BOOT_STATUS F.BOOT_STATUS_PATH 1 with boot := { (stageIs 4).boot with fetched := List.range 256 } }, by decide +kernel, .inr
     ⟨rfl, by decide +kernel⟩⟩,
   ⟨{ State.reset with pwr := { State.reset.pwr with aux := false } }, _, by decide +kernel, by decide +kernel, rfl⟩,
   ⟨booted, by decide +kernel⟩,
   ⟨{ State.reset with pwr := { State.reset.pwr with mainMv := 48000 } }, by decide +kernel⟩⟩

/-- States and operands that meet the hypotheses of O41, clause by clause. -/
theorem test_power_commands_complete_hypotheses :
    (∃ (s : State), s.pwr.aux = true ∧ s.supply ≠ 3) ∧
    (∃ (mv : Nat) (s u : State), s.pwr.aux = true ∧ u = { s with pwr := { s.pwr with mainMv := mv } } ∧ u.supply ≠ 3 ∧ u.supply ≠ supplyClass mv ∧
      supplyClass mv = 0) ∧
    (∃ (mv : Nat) (s u : State), s.pwr.aux = true ∧ u = { s with pwr := { s.pwr with mainMv := mv } } ∧ u.supply ≠ 3 ∧ u.supply ≠ supplyClass mv ∧
      supplyClass mv = 1) ∧
    (∃ (mv : Nat) (s u : State), s.pwr.aux = true ∧ u = { s with pwr := { s.pwr with mainMv := mv } } ∧ u.supply ≠ 3 ∧ u.supply ≠ supplyClass mv ∧
      supplyClass mv = 2) ∧
    (∃ (s : State), s.pwr.aux = true ∧ s.supply = 2 ∧ s.pwr.mainMv < 38000) ∧
    (∃ (s : State), s.pwr.aux = true ∧ s.supply = 2 ∧ s.pwr.mainMv < 34000) ∧
    (∃ (s : State), s.pwr.aux = true ∧ s.supply = 2 ∧ 60000 < s.pwr.mainMv) ∧
    (∃ (s : State), s.stage ≠ 8 ∧ s.supply ≠ 3) ∧
    (∃ (w : Nat) (s u : State), s.supply ≠ 3 ∧ u = s.setFld R.PWR_INPUT F.PWR_INPUT_POWER_W (min w 65535)) ∧
    (∃ (d : Fin 8) (s : State), s.supply ≠ 3 ∧ nthD s.pwr.hot d.val false = false) ∧
    (∃ (d : Fin 8) (s : State), s.supply ≠ 3 ∧ nthD s.pwr.hotStack d.val false = false) ∧
    (∃ (s : State), s.pwr.aux = true ∧ s.stage ≠ 8 ∧ s.supply ≠ 3) ∧
    (∃ (s : State), s.pwr.aux = true) :=
  ⟨⟨stageIs 7, by decide +kernel⟩,
   ⟨40000, (stageIs 7).setFld R.PWR_STATE F.PWR_STATE_SUPPLY 1, _, by decide +kernel, rfl, by decide +kernel⟩,
   ⟨39999, (stageIs 7).setFld R.PWR_STATE F.PWR_STATE_SUPPLY 0, _, by decide +kernel, rfl, by decide +kernel⟩,
   ⟨60001, (stageIs 7).setFld R.PWR_STATE F.PWR_STATE_SUPPLY 0, _, by decide +kernel, rfl, by decide +kernel⟩,
   ⟨{ (stageIs 7).setFld R.PWR_STATE F.PWR_STATE_SUPPLY 2 with pwr := { (stageIs 7).pwr with mainMv := 37999 } }, by decide +kernel⟩,
   ⟨{ (stageIs 7).setFld R.PWR_STATE F.PWR_STATE_SUPPLY 2 with pwr := { (stageIs 7).pwr with mainMv := 33999 } }, by decide +kernel⟩,
   ⟨{ (stageIs 7).setFld R.PWR_STATE F.PWR_STATE_SUPPLY 2 with pwr := { (stageIs 7).pwr with mainMv := 60001 } }, by decide +kernel⟩,
   ⟨stageIs 7, by decide +kernel⟩,
   ⟨1500, stageIs 7, _, by decide +kernel, rfl⟩,
   ⟨7, stageIs 7, by decide +kernel⟩,
   ⟨7, stageIs 7, by decide +kernel⟩,
   ⟨stageIs 7, by decide +kernel⟩,
   ⟨stageIs 7, by decide +kernel⟩⟩

/-- States and operands that meet the hypotheses of O42, clause by clause. -/
theorem test_configuration_and_test_port_complete_hypotheses :
    (∃ (s : State), s.linkUp = true) ∧
    (∃ (v : BitVec 32) (s : State), s.linkUp = true ∧ v.toNat % 65536 ≤ 64) ∧
    (∃ (off : BitVec 12) (s : State), s.linkUp = true ∧ off ≠ Config.numVFsOffset) ∧
    (∃ (s : State), s.pwr.aux = true) ∧
    (∃ (s : State), s.pwr.aux = true) :=
  ⟨⟨booted, by decide +kernel⟩,
   ⟨64, booted, by decide +kernel⟩,
   ⟨Config.numVFsOffset + 1, booted, by decide +kernel, fun h => by simp at h⟩,
   ⟨booted, by decide +kernel⟩,
   ⟨booted, by decide +kernel⟩⟩

/-- States and operands that meet the hypotheses of O43, clause by clause. -/
theorem test_step_runs_the_front_command_hypotheses :
    (∃ (c : Instr) (rest : List Instr) (s : State), s.pending = c :: rest) ∧
    (∃ s : State, s.pending = []) :=
  ⟨⟨.qNop 0, [.qEnd 0], { State.reset with pending := [.qNop 0, .qEnd 0] }, by decide +kernel⟩,
   ⟨State.reset, by decide +kernel⟩⟩

/-- States and operands that meet the hypotheses of O44, clause by clause. -/
theorem test_reset_holds_the_tables_values_hypotheses :
    ∃ (a u : Nat) (d : RegDesc) (f : RField), regDescAt a = some (d, u) ∧ f ∈ d.fields ∧ ownReset d f.f = false :=
  ⟨Blk.base .evt 0 + 0x50, _, _, _, rfl, List.mem_cons_self, by decide +kernel⟩

/-- States and operands that meet the hypotheses of O46, clause by clause. -/
theorem test_cell_words_decode_and_encode_agree_hypotheses :
    (∃ (x : Word) (i : CellInstr), CellInstr.decode x = some i) ∧
    (∃ i j : CellInstr, i.encode = j.encode) :=
  ⟨⟨0x0100000000000000, .qNop, by decide +kernel⟩,
   ⟨.qNop, .qNop, by decide +kernel⟩⟩

/-- States and operands that meet the hypotheses of O47, clause by clause. -/
theorem test_steering_follows_the_law_hypotheses :
    (∃ (t : Rat) (s u : State), s.pwr.aux = true ∧ s.time.now ≤ t ∧ u = s.testFrame ∧ (u.time.st = .locked ∧ u.time.pred - 50 ≤ t ∧ t ≤ u.time.pred + 50 ∨
      u.time.st = .acquire ∧ u.time.acq = .steering ∧ u.time.edgeSeen = true ∧ u.time.windows < 8 ∧ u.time.lastEdge + (u.time.windows + 1 : Nat) * 1000 - 50 ≤
      t ∧ t ≤ u.time.lastEdge + (u.time.windows + 1 : Nat) * 1000 + 50)) ∧
    (∃ (t : Rat) (s u : State), s.pwr.aux = true ∧ s.time.now ≤ t ∧ u = s.testFrame ∧ (u.time.st = .locked ∧ u.time.pred - 50 ≤ t ∧ t ≤ u.time.pred + 50 ∨
      u.time.st = .acquire ∧ u.time.acq = .steering ∧ u.time.edgeSeen = true ∧ u.time.windows < 8 ∧ u.time.lastEdge + (u.time.windows + 1 : Nat) * 1000 - 50 ≤
      t ∧ t ≤ u.time.lastEdge + (u.time.windows + 1 : Nat) * 1000 + 50)) ∧
    (∃ (t : Rat) (s u : State), s.pwr.aux = true ∧ s.time.now ≤ t ∧ u = s.testFrame ∧ u.time.st = .acquire ∧ (u.time.edgeSeen = false ∨ 8 ≤ u.time.windows)) ∧
    (∃ (t : Rat) (s u : State), s.pwr.aux = true ∧ s.time.now ≤ t ∧ u = s.testFrame ∧ u.time.st = .acquire ∧ u.time.acq = .first ∧ u.time.edgeSeen = true ∧
      u.time.windows = 0 ∧ u.time.lastEdge + 950 ≤ t ∧ t ≤ u.time.lastEdge + 1050) ∧
    (∃ s u : State, s.pwr.aux = true ∧ u = s.testFrame ∧ u.time.tickWait = none ∧ (u.time.st = .locked ∧ u.time.missRun < 3 ∨ u.time.st = .acquire ∧
      u.time.edgeSeen = true ∧ u.time.windows < 8)) ∧
    (∃ (t : Rat) (s u : State), s.pwr.aux = true ∧ s.time.now ≤ t ∧ u = s.testFrame ∧ u.time.st ≠ .locked ∧ u.time.st ≠ .acquire ∧ (u.time.edgeSeen = false ∨ 8
      ≤ u.time.windows ∨ t ≤ u.time.lastEdge + (u.time.windows + 1 : Nat) * 1000 + 50)) ∧
    (∃ (t : Rat) (s : State), s.pwr.aux = true ∧ s.time.st ≠ .locked ∧ s.time.st ≠ .acquire ∧ s.time.tickWait = none ∧ s.time.ticked = false ∧ s.time.tickOk t
      (s.time.pred + s.time.slew) = true) ∧
    (∃ (t : Rat) (s v : State), exec (.internalTick t) s = .next v ∧ v.time.ticks ≠ s.time.ticks) :=
  ⟨⟨1950, timeIs { st := .locked, pred := 2000, now := 1900 }, _, by decide +kernel, by decide +kernel, rfl, .inl (by decide +kernel)⟩,
   ⟨3050, timeIs { st := .acquire, acq := .steering, edgeSeen := true, windows := 7, lastEdge := -5000, now := 1900 }, _, by decide +kernel,
     by decide +kernel, rfl, .inr (by decide +kernel)⟩,
   ⟨0, State.reset, _, by decide +kernel, by decide +kernel, rfl, by decide +kernel⟩,
   ⟨1050, timeIs { st := .acquire, acq := .first, edgeSeen := true, windows := 0 }, _, by decide +kernel, by decide +kernel, rfl, by decide +kernel⟩,
   ⟨timeIs { st := .locked, missRun := 2 }, _, by decide +kernel, rfl, by decide +kernel⟩,
   ⟨1051, timeIs { st := .holdover, edgeSeen := true, windows := 1 }, _, by decide +kernel, by decide +kernel, rfl, by decide +kernel⟩,
   ⟨1052, timeIs { st := .free, pred := 1000 }, by decide +kernel⟩,
   ⟨1044, timeIs { pred := 1000, now := 1000, st := .free }, _, rfl, by decide +kernel⟩⟩

/-- States and operands that meet the hypotheses of O48, clause by clause. -/
theorem test_coherence_keeps_one_writer_hypotheses :
    ∃ (c : Instr) (rest : List Instr) (s t : State), s.pending = c :: rest ∧ (∃ (h : Fin 16) (a : BitVec 48) (v : Option (BitVec 6 × Byte)), c ∈ [.gets h a,
      .getm h a v, .putm h a, .pute h a, .puts h a, .fwdGets h a, .fwdGetm h a, .inv h a]) ∧ s.coherent ∧ step s = .next t :=
  ⟨.gets 0 64, [], { booted with pending := [.gets 0 64] }, _, by decide +kernel, ⟨0, 64, none, by simp⟩, coherent_of_empty rfl rfl, rfl⟩

/-- States and operands that meet the hypotheses of O49, clause by clause. -/
theorem test_write_packets_store_their_bytes_hypotheses :
    (∃ (xb : Bool) (n : Nat) (p : Packet) (t : Bool) (r : MemReq) (b : List Byte) (bad : List Nat) (s u : State), s.reaches xb 0x21 n p u ∧ p.pkt =
      .memWrite t r b bad) ∧
    (∃ (n : Nat) (p : Packet) (t : Bool) (r : MemReq) (b : List Byte) (bad : List Nat) (s u : State), s.arrives 0x31 n p u ∧ p.pkt = .memWrite t r b bad ∧
      u.farFailed r.addr = false) :=
  ⟨⟨false, 0, _, false, reqAt 4096 64, List.replicate 64 5, [], netIs State.reset 16 (.memWrite false (reqAt 4096 64) (List.replicate 64 5) []), _, ⟨⟨_, _,
     rfl, by decide +kernel⟩, _, _, rfl, rfl⟩, by decide +kernel⟩,
   ⟨0, _, true, reqAt 0x8000000000 8, List.replicate 8 5, [], netIs State.reset 16 (.memWrite true (reqAt 0x8000000000 8) (List.replicate 8 5) []), _, ⟨⟨_,
     _, rfl, by decide +kernel⟩, _, _, rfl, rfl⟩, by decide +kernel⟩⟩

/-- States and operands that meet the hypotheses of O50, clause by clause. -/
theorem test_register_writes_follow_their_access_types_hypotheses :
    (∃ (a u : Nat) (d : RegDesc) (f : RField), regDescAt a = some (d, u) ∧ f ∈ d.fields ∧ f.acc = .rw) ∧
    (∃ (a u : Nat) (d : RegDesc) (f : RField), regDescAt a = some (d, u) ∧ f ∈ d.fields ∧ f.acc = .w1c) ∧
    (∃ (a u : Nat) (d : RegDesc) (f : RField), regDescAt a = some (d, u) ∧ f ∈ d.fields ∧ (f.acc = .ro ∨ f.acc = .rc ∨ f.acc = .wo)) ∧
    (∃ (a : Nat) (v w : Word), (∀ u d, regDescAt a = some (d, u) → ∀ f ∈ d.fields, getF v f.f = getF w f.f)) ∧
    (∃ (a b : Nat), b ≠ a) :=
  ⟨⟨R.PITCH_CFG, _, _, ⟨⟨12, 0⟩, .rw, 100, false⟩, rfl, by decide +kernel, rfl⟩,
   ⟨R.PITCH_CFG, _, _, ⟨⟨32, 32⟩, .w1c, 0, false⟩, rfl, by decide +kernel, rfl⟩,
   ⟨R.PITCH_CFG, _, _, ⟨⟨33, 33⟩, .ro, 0, false⟩, rfl, by decide +kernel, .inl rfl⟩,
   ⟨0, 1, 0, (fun _ _ h => nomatch h)⟩,
   ⟨0, 8, by decide +kernel⟩⟩

/-- States and operands that meet the hypotheses of O51, clause by clause. -/
theorem test_test_port_resets_in_five_cycles_hypotheses :
    ∃ (d1 d2 d3 d4 d5 : Bool) (s : State), s.pwr.aux = true ∧ s.pending = [.testAccessPort (.tck true) d1, .testAccessPort (.tck true) d2, .testAccessPort (.tck true)
      d3, .testAccessPort (.tck true) d4, .testAccessPort (.tck true) d5] :=
  ⟨true, false, true, false, true,
    { booted with pending := [.testAccessPort (.tck true) true, .testAccessPort (.tck true) false, .testAccessPort (.tck true) true, .testAccessPort (.tck true) false, .testAccessPort (.tck true) true] },
    by decide +kernel⟩

/-- States and operands that meet the hypotheses of O52, clause by clause. -/
theorem test_anchor_operations_hypotheses :
    (∃ (a : Nat) (w : Word) (s : State), w = s.anchor a ∧ s.ancPois.contains a = false) ∧
    (∃ (a : Nat) (v w : Word) (s : State), w = s.anchor a ∧ s.ancPois.contains a = false ∧ w.toNat + v.toNat < 2 ^ 64) ∧
    (∃ (a : Nat) (v w : Word) (s : State), w = s.anchor a ∧ s.ancPois.contains a = false ∧ 2 ^ 64 ≤ w.toNat + v.toNat) ∧
    (∃ (a : Nat) (v w : Word) (s : State), w = s.anchor a ∧ s.ancPois.contains a = false ∧ v.toNat ≤ w.toNat) ∧
    (∃ (a : Nat) (v w : Word) (s : State), w = s.anchor a ∧ s.ancPois.contains a = false ∧ w.toNat < v.toNat) ∧
    (∃ (a op : Nat) (s : State), s.ancPois.contains a = true ∧ (op = 0x60 ∨ op = 0x61 ∨ op = 0x63 ∨ op = 0x64)) ∧
    (∃ (a b : Nat), b ≠ a) :=
  ⟨⟨5, _, State.reset, rfl, by decide +kernel⟩,
   ⟨5, 1, _, State.reset, rfl, by decide +kernel⟩,
   ⟨5, 0xFFFFFFFFFFFFFFFF, _, { State.reset with anchors := [(5, 1)] }, rfl, by decide +kernel⟩,
   ⟨5, 1, _, { State.reset with anchors := [(5, 1)] }, rfl, by decide +kernel⟩,
   ⟨5, 2, _, { State.reset with anchors := [(5, 1)] }, rfl, by decide +kernel⟩,
   ⟨5, 0x64, { State.reset with ancPois := [5] }, by decide +kernel, .inr (.inr (.inr rfl))⟩,
   ⟨5, 6, by decide +kernel⟩⟩

/-- States and operands that meet the hypotheses of O53, clause by clause. -/
theorem test_counters_saturate_hypotheses :
    (∃ (f : Fld), f.lo ≤ f.hi ∧ f.hi < 64) ∧
    (∃ (f k : Fld), f.lo ≤ f.hi ∧ f.hi < 64 ∧ k.lo ≤ k.hi ∧ k.hi < 64 ∧ (f.hi < k.lo ∨ k.hi < f.lo)) ∧
    (∃ (a b : Nat), b ≠ a) :=
  ⟨⟨⟨15, 0⟩, by decide +kernel⟩,
   ⟨⟨15, 0⟩, ⟨63, 16⟩, by decide +kernel⟩,
   ⟨0, 8, by decide +kernel⟩⟩

/-- States and operands that meet the hypotheses of O54, clause by clause. -/
theorem test_sequencer_frame_hypotheses :
    (∃ (c : Fin 4096) (x : Instr) (i : CellInstr) (s t : State), x ∈ [.qNop c, .qSetx c, .qAddx c, .instructionIssue c] ∧ s.issuesNow c.val i ∧ (loopNext
      (s.cell c.val).loops (s.cell c.val).pc).2 < 8192 ∧ exec x s = .next t) ∧
    (∃ (c : Fin 4096) (x : Instr) (i : CellInstr) (s t : State) (L : Nat), x ∈ [.qNop c, .qSetx c, .qAddx c, .instructionIssue c] ∧ s.issuesNow c.val i ∧
      (loopNext (s.cell c.val).loops (s.cell c.val).pc).2 < 8192 ∧ exec x s = .next t ∧ L ≠ c.val) ∧
    (∃ (c : Fin 4096) (x : Instr) (i : CellInstr) (s t : State) (a : Nat), x ∈ [.qNop c, .qSetx c, .qAddx c, .instructionIssue c] ∧ s.issuesNow c.val i ∧
      (loopNext (s.cell c.val).loops (s.cell c.val).pc).2 < 8192 ∧ exec x s = .next t ∧ a ≠ R.CELL_CNT c.val 1) :=
  ⟨⟨0, .instructionIssue 0, .qNop, State.reset.setCell 0 (atWord 0x0100000000000000), _, by simp, ⟨by decide +kernel, by decide +kernel⟩,
     by decide +kernel, rfl⟩,
   ⟨0, .instructionIssue 0, .qNop, State.reset.setCell 0 (atWord 0x0100000000000000), _, 4095, by simp, ⟨by decide +kernel, by decide +kernel⟩, by decide +kernel, rfl, by decide +kernel⟩,
   ⟨0, .instructionIssue 0, .qNop, State.reset.setCell 0 (atWord 0x0100000000000000), _, (R.CELL_CNT 0 2), by simp, ⟨by decide +kernel, by decide +kernel⟩, by decide +kernel, rfl, by decide +kernel⟩⟩

/-- States and operands that meet the hypotheses of O55, clause by clause. -/
theorem test_short_stamps_extend_to_the_nearest_count_hypotheses :
    (∃ (w c : Nat), w < 2 ^ 32 ∧ c % 2 ^ 32 = w) ∧
    (∃ now c : Nat, now ≤ c + (2 ^ 31 - 1) ∧ c ≤ now + (2 ^ 31 - 1)) ∧
    (∃ (p n : Nat) (f : List Byte) (x : CamStream) (s : State), n = numAt f 0x0C 2 ∧ x = s.stream n ∧ n < 4096 ∧ x.enabled = true ∧ x.recv = true ∧ x.port = p
      ∧ x.peerModule = numAt f 8 2 ∧ s.time.count < extendWs s.time.count (numAt f 4 4)) :=
  ⟨⟨4294967295, 4294967295, by decide +kernel⟩,
   ⟨0, 2147483647, by decide +kernel⟩,
   ⟨0, 0, List.replicate 4 0 ++ [1] ++ List.replicate 27 0, _, { booted with link := { streams := [(0, { enabled := true, entry := streamRec 2 })] } },
     by decide +kernel, rfl, by decide +kernel⟩⟩

/-- States and operands that meet the hypotheses of O56, clause by clause. -/
theorem test_stale_packets_are_discarded_hypotheses :
    ∃ (c : Instr) (type n e : Nat) (p : Packet) (s u : State), packetOf c = some (type, n) ∧ s.takePkt (s.counts type) n = some (u, p) ∧ u.headerFails p =
      none ∧ (p.dest.code < 16 → u.fenced p.dest.cluster p.dest.code = false) ∧ u.routerEpoch p.dest.cluster p.sender = some e ∧ e ≠ p.epoch :=
  ⟨.mtWrite ⟨false, 0⟩, 0x21, 0, 0, { pktTo 3 (.memWrite false (reqAt 4096 8) (List.replicate 8 5) []) with epoch := 1 },
    { State.reset with net := [{ pktTo 3 (.memWrite false (reqAt 4096 8) (List.replicate 8 5) []) with epoch := 1 }] }, _, by decide +kernel, rfl,
    by decide +kernel, fun _ => by decide +kernel, by decide +kernel⟩

/-- States and operands that meet the hypotheses of O57, clause by clause. -/
theorem test_log_writes_follow_the_reserve_rule_hypotheses :
    (∃ (r : EvtRec) (g : EvtRing) (need free : Nat) (s : State), g = s.evt.ring ∧ free = 4096 - (g.head + 8192 - g.tail) % 8192 ∧ (need = (if r.evt.code /
      4096 = 1 ∨ r.evt.code / 4096 = 2 ∨ r.evt.code / 4096 = 6 then 65 else 1))) ∧
    (∃ (r : EvtRec) (g : EvtRing) (need free : Nat) (s : State), g = s.evt.ring ∧ free = 4096 - (g.head + 8192 - g.tail) % 8192 ∧ (need = (if r.evt.code /
      4096 = 1 ∨ r.evt.code / 4096 = 2 ∨ r.evt.code / 4096 = 6 then 65 else 1)) ∧ need ≤ free) ∧
    (∃ (r : EvtRec) (g : EvtRing) (need free : Nat) (s : State), g = s.evt.ring ∧ free = 4096 - (g.head + 8192 - g.tail) % 8192 ∧ (need = (if r.evt.code /
      4096 = 1 ∨ r.evt.code / 4096 = 2 ∨ r.evt.code / 4096 = 6 then 65 else 1)) ∧ free < need) ∧
    (∃ (i j : Nat), i < 4096 ∧ j < 8) ∧
    (∃ (v : Word) (k : Nat) (s : State), k ≤ (s.evt.ring.head + 8192 - s.evt.ring.tail) % 8192 ∧ s.evt.ring.head < 8192 ∧ s.evt.ring.tail < 8192 ∧
      (s.evt.ring.head + 8192 - s.evt.ring.tail) % 8192 ≤ 4096 ∧ getF v F.EVT_LOG_TAIL_TAIL = (s.evt.ring.tail + k) % 8192) :=
  ⟨⟨{ evt := { code := 0x5600 }, ts := 0, seq := 0, count := 1, lostBefore := false }, _, _, _, State.reset, rfl, rfl, rfl⟩,
   ⟨{ evt := { code := 0x5600 }, ts := 0, seq := 0, count := 1, lostBefore := false }, _, _, _, State.reset, rfl, rfl, rfl, by decide +kernel⟩,
   ⟨{ evt := { code := 0x5600 }, ts := 0, seq := 0, count := 1, lostBefore := false }, _, _, _,
     { State.reset with evt := { State.reset.evt with ring := { head := 4096, tail := 0 } } }, rfl, rfl, rfl, by decide +kernel⟩,
   ⟨4095, 7, by decide +kernel⟩,
   ⟨1, 1, { State.reset with evt := { State.reset.evt with ring := { head := 1, tail := 0 } } }, by decide +kernel⟩⟩

/-- States and operands that meet the hypotheses of O58, clause by clause. -/
theorem test_time_outlives_resets_hypotheses :
    ∃ s : State, s.pwr.aux = true :=
  ⟨State.reset, by decide +kernel⟩

/-- States and operands that meet the hypotheses of O59, clause by clause. -/
theorem test_numbers_that_fit_are_exact_hypotheses :
    (∃ (f : Fmt) (x : FSpec) (mag : Nat), f.spec = some x ∧ mag ≤ x.maxCode) ∧
    (∃ (f : Fmt), (f = .e2m3 ∨ f = .e3m2 ∨ f = .e2m1 ∨ f = .int8 ∨ f = .int4)) ∧
    (∃ (f : Fmt) (code frac : Nat) (n sig : Bool), (f = .e4m3 ∨ f = .e5m2) ∧ f.dec code = .nan n frac sig) :=
  ⟨⟨.e4m3, _, 1, rfl, by decide +kernel⟩,
   ⟨.int4, .inr (.inr (.inr (.inr rfl)))⟩,
   ⟨.e5m2, 0x7D, _, _, _, .inr rfl, rfl⟩⟩

/-- States and operands that meet the hypotheses of O60, clause by clause. -/
theorem test_management_frame_hypotheses :
    ∃ (x : Instr) (s t : State), (∃ (d : Fin 8) (h b : Bool) (a : TapPins) (id v : Nat) (q : PldmReq), x ∈ [.coreDroop d, .droopRecovered d, .thermalLimitEnd d h,
      .pldmSensorRead q, .setNumericEffecterValue id v, .sensorRefresh, .testAccessPort a b, .thermalLimit d h]) ∧ exec x s = .next t :=
  ⟨.coreDroop 3, booted, _, ⟨3, false, false, .trst, 0, 0, .value 0, by simp⟩, rfl⟩

/-! ### Well-formed commands: each check refuses a term -/

theorem test_wf_refuses_empty_access : (Instr.hostMemoryAccess 0 0 0 0 none).wf = false := by decide +kernel

theorem test_wf_refuses_long_access : (Instr.hostMemoryAccess 0 0 0 4097 none).wf = false := by decide +kernel

theorem test_wf_refuses_wrong_byte_count : (Instr.hostMemoryAccess 0 0 0 2 (some [1])).wf = false := by decide +kernel

theorem test_wf_refuses_core_width : (Instr.coreIoAccess 0 (.io 0) 3 none).wf = false := by decide +kernel

theorem test_wf_accepts : (Instr.hostMemoryAccess 64 2 0 1 (some [1])).wf = true ∧ (Instr.coreIoAccess 15 (.io 0) 8 none).wf = true := by decide +kernel

/-! ### The block's commands have no words; the cells' instructions have, written out here from Tables 53 to 151 -/

theorem test_no_command_words : decodeTableWord 64 0x0100000000000000 = none ∧ State.reset.withFetchWord 64 1 = State.reset := by decide +kernel

-- opcode 0x00 is reserved, opcode 0x01 is Q.NOP, and a non-zero reserved bit decodes to nothing (R106)
theorem test_word_q_nop :
    CellInstr.decode 0 = none ∧ CellInstr.decode 0x0100000000000000 = some .qNop ∧ CellInstr.decode 0x0100000000000001 = none := by decide +kernel

-- Table 53: opcode [63:56], XD [55:52], IMM [31:0]
theorem test_word_q_setx : CellInstr.decode 0x0250000012345678 = some (.qSetx 5 0x12345678) := by decide +kernel

-- Table 54: MASK [15:0]
theorem test_word_t_rel : CellInstr.decode 0x1200000000008001 = some (.tRel 0x8001) := by decide +kernel

-- Table 142: XA [55:52], AOFF [51:37], XV [36:33], VREG [32], IMM [23:0]
theorem test_word_s_add : CellInstr.decode 0x601000E000000009 = some (.sAdd 1 7 0 0 9) := by decide +kernel

/-! ### Worked examples of the spec -/

/-- An unscaled leaf of BF16 elements. -/
def bfLeaf (els : List (Nat × Nat)) : Leaf := { fa := .bf16, fb := .bf16, sa := 127, sb := 127, scaledA := false, scaledB := false, els := els }

-- 06, "a narrow leaf that ordinary summation loses": 2^-32
theorem test_narrow_leaf :
    leafFast { fa := .e5m2, fb := .e2m1, sa := 0x7F, sb := 0x70, scaledA := true, scaledB := true, els := [(0x7B, 7), (1, 1), (0xFB, 7)] } = (0x2F800000, 0) := by
  decide +kernel

-- 06, "sticky bit and strict mode": 2^24 + 2 in fast mode, 2^24 and IE_INEXACT in strict mode
theorem test_sticky_leaf :
    leafFast (bfLeaf [(0x4580, 0x4580), (0x3F80, 0x3F80), (0x3080, 0x3080)]) = (0x4B800001, 0) ∧
    leafStrict (bfLeaf [(0x4580, 0x4580), (0x3F80, 0x3F80), (0x3080, 0x3080)]) = (0x4B800000, 0x1000) := by decide +kernel

-- 06, "overflow and NaN in one BF16 leaf", strict case 1
theorem test_overflow_then_nan :
    leafStrict (bfLeaf [(0x3F80, 0x3F80), (0x7180, 0x7180), (0x7FC1, 0x3F80), (0x3F80, 0x3F80)]) = (0x7FC10000, 0x1400) := by decide +kernel

-- 06, "a split reduction merged in either order": X's entries, then Y's (0, 3) into X
theorem test_split_reduction :
    (insertEntry false 12 [⟨0, 0, 0, [0x4B800000]⟩] 0 0 1 [0x3F800000]).1 = [⟨0, 1, 0, [0x4B800000]⟩] ∧
    (insertEntry false 12 [⟨0, 1, 0, [0x4B800000]⟩, ⟨0, 0, 2, [0x3F800000]⟩] 0 0 3 [0xCB800000]).1 = [⟨0, 2, 0, [0x3F800000]⟩] := by decide +kernel

-- R153's example: both draws
theorem test_stochastic_rounding :
    (conv32 false false (some 0xD1A00000) .bf16 0x3F804000).1 = 0x3F81 ∧ (conv32 false false (some 0x20000000) .bf16 0x3F804000).1 = 0x3F80 := by decide +kernel

-- FIPS 180-4: the digest of the empty message
theorem test_sha384_empty :
    sha384 [] = beBytes 48 0x38B060A751AC96384CD9327EB1B1E36A21FDB71114BE07434C0CC7BF63F6E1DA274EDEBFE76F65FBD51AD2F14898B95B := by decide +kernel

/-! ### Single steps -/

/-- Cell 0 after one step. -/
def cellAfter (s : State) : Option Cell := match step s with
  | .next t => some (t.cell 0)
  | _ => none

-- Table 53: X5 := IMM, and the PC moves on
theorem test_step_q_setx :
    (cellAfter { cell0 (atWord 0x0250000012345678) with pending := [.qSetx 0] }).map (fun c => (nthD c.x 5 0, c.pc)) = some (0x12345678, 1) := by
  decide +kernel

-- Table 53: Q.ADDX wraps at 32 bits, with the destination as source
theorem test_step_q_addx_wraps :
    (cellAfter { cell0 { atWord 0x0355000000000002 with x := List.replicate 16 0xFFFFFFFF } with pending := [.qAddx 0] }).map (fun c => nthD c.x 5 0) =
      some 1 := by decide +kernel

end Sys2Proof.Tests
end

section
/-! PROOFS. Registers and the accesses that reach them (file 00): what a write leaves in each field (R14, R15), and the accesses of the host, an application core
and a controller to registers and memory (R16, R417, R418). -/

namespace Sys2Proof.Machine

/-! ### Setting fields one after another -/

/-- Fields that lie in a register and apart from one another are set one after another as if at once: each takes the value found for it in the first state, and
a field apart from all of them keeps its own. -/
theorem State.fld_foldl_setFld (a : Nat) (val : RField → Nat → Nat) (l : List RField) (s : State) (inReg : ∀ f ∈ l, f.f.lo ≤ f.f.hi ∧ f.f.hi < 64)
    (apart : l.Pairwise (fun f g => f.f.hi < g.f.lo ∨ g.f.hi < f.f.lo)) :
    (∀ f ∈ l, (l.foldl (fun s f => s.setFld a f.f (val f (s.fld a f.f))) s).fld a f.f = val f (s.fld a f.f) % 2 ^ (f.f.hi + 1 - f.f.lo)) ∧
      ∀ k : Fld, (∀ f ∈ l, f.f.hi < k.lo ∨ k.hi < f.f.lo) → (l.foldl (fun s f => s.setFld a f.f (val f (s.fld a f.f))) s).fld a k = s.fld a k := by
  induction l generalizing s with
  | nil => exact ⟨fun _ h => absurd h List.not_mem_nil, fun _ _ => rfl⟩
  | cons f l ih =>
    obtain ⟨⟨lo_hi, hi_lt⟩, inReg⟩ := List.forall_mem_cons.1 inReg
    obtain ⟨f_apart, apart⟩ := List.pairwise_cons.1 apart
    obtain ⟨set, kept⟩ := ih (s.setFld a f.f (val f (s.fld a f.f))) inReg apart
    refine ⟨List.forall_mem_cons.2 ⟨?_, fun g hg => ?_⟩, fun k hk => ?_⟩
    · rw [List.foldl_cons, kept f.f (fun g hg => (f_apart g hg).symm), State.fld_setFld_self _ _ _ _ lo_hi hi_lt]
    · rw [List.foldl_cons, set g hg, State.fld_setFld_apart _ _ _ _ _ lo_hi hi_lt (f_apart g hg)]
    · obtain ⟨fk, lk⟩ := List.forall_mem_cons.1 hk
      rw [List.foldl_cons, kept k lk, State.fld_setFld_apart _ _ _ _ _ lo_hi hi_lt fk]

/-! ### Writes by access types (R14, R15) -/

/-- What a write leaves in a field fits the field. -/
theorem fieldWrite_lt (t : AccTy) {old v n : Nat} (ho : old < 2 ^ n) (hv : v < 2 ^ n) : fieldWrite t old v < 2 ^ n := by
  cases t with
  | rw => exact hv
  | w1c => exact Nat.lt_of_le_of_lt (Nat.sub_le _ _) ho
  | w1s => exact Nat.or_lt_two_pow ho hv
  | ro | wo | rc => exact ho

/-- A field of a type that no write changes. -/
theorem fieldWrite_kept {t : AccTy} (h : ¬(t = .rw ∨ t = .w1c ∨ t = .w1s)) (old v : Nat) : fieldWrite t old v = old := by
  cases t <;> simp at h <;> rfl

/-- Each field of a register takes what its access type leaves. -/
theorem State.fld_writeFlds {a u : Nat} {d : RegDesc} {f : RField} (h : regDescAt a = some (d, u)) (hf : f ∈ d.fields) (v : Word) (s : State) :
    (s.writeFlds a v).fld a f.f = fieldWrite f.acc (s.fld a f.f) (getF v f.f) := by
  obtain ⟨inReg, apart⟩ := regDescAt_ok h
  obtain ⟨set, kept⟩ := State.fld_foldl_setFld a (fun f old => fieldWrite f.acc old (getF v f.f))
    (d.fields.filter (fun f => decide (f.acc = .rw ∨ f.acc = .w1c ∨ f.acc = .w1s))) s
    (fun g hg => have ⟨lo_hi, hi_lt, _⟩ := inReg g (List.mem_filter.1 hg).1; ⟨lo_hi, hi_lt⟩) (apart.filter _)
  simp only [State.writeFlds, h]
  by_cases written : f.acc = .rw ∨ f.acc = .w1c ∨ f.acc = .w1s
  · rw [set f (List.mem_filter.2 ⟨hf, decide_eq_true written⟩)]
    exact Nat.mod_eq_of_lt (fieldWrite_lt _ (getF_lt _ _) (getF_lt _ _))
  · rw [fieldWrite_kept written, kept]
    intro g hg
    obtain ⟨hg, g_written⟩ := List.mem_filter.1 hg
    exact regDescAt_apart h hg hf fun e => written (e ▸ of_decide_eq_true g_written)

/-- Two folds whose steps agree on every element of the list agree. -/
theorem foldl_eq_of_step_eq {α β : Type} {f g : α → β → α} {l : List β} (h : ∀ s, ∀ x ∈ l, f s x = g s x) (s : α) : l.foldl f s = l.foldl g s := by
  induction l generalizing s with
  | nil => rfl
  | cons x l ih =>
    have rest : ∀ s, ∀ y ∈ l, f s y = g s y := fun s y hy => h s y (List.mem_cons_of_mem x hy)
    rw [List.foldl_cons, List.foldl_cons, h s x List.mem_cons_self, ih rest]

/-- A write acts through the fields of its word alone (R15). -/
theorem State.writeFlds_congr {a : Nat} {v w : Word} (h : ∀ u d, regDescAt a = some (d, u) → ∀ f ∈ d.fields, getF v f.f = getF w f.f) (s : State) :
    s.writeFlds a v = s.writeFlds a w := by
  unfold State.writeFlds
  split
  case h_1 d u e => exact foldl_eq_of_step_eq (fun _ f hf => by rw [h u d e f (List.mem_filter.1 hf).1]) s
  case h_2 => rfl

/-- A write leaves every other register. -/
theorem State.reg_writeFlds_ne {a b : Nat} (h : b ≠ a) (v : Word) (s : State) : (s.writeFlds a v).reg b = s.reg b := by
  unfold State.writeFlds
  split
  · exact foldl_keeps (fun s => s.reg b) _ (fun s (f : RField) => State.reg_setFld_ne s f.f _ h) _ s
  · rfl

/-- Settles O50: each field takes what its access type leaves (`State.fld_writeFlds`), and nothing else of the state is touched. -/
theorem registerWritesFollowTheirAccessTypes : Obligations.RegisterWritesFollowTheirAccessTypes := by
  refine ⟨fun a u d f v s h hf => ?_, fun _ _ => rfl, fun a v w s h => s.writeFlds_congr h, fun a b v s h => State.reg_writeFlds_ne h v s,
    fun a v s => s.writeFlds_frame a v⟩
  rw [State.fld_writeFlds h hf]
  refine ⟨fun e => ?_, fun e => ?_, fun e => ?_⟩
  · rw [e]; rfl
  · rw [e]; rfl
  · rcases e with e | e | e <;> rw [e] <;> rfl

/-! ### Words as bytes -/

@[simp] theorem length_leBytes (n v : Nat) : (leBytes n v).length = n := by
  induction n generalizing v with
  | zero => rfl
  | succ n ih => rw [leBytes, List.length_cons, ih]

/-- The little-endian bytes of a number read back as its low part. -/
theorem leNat_leBytes (n v : Nat) : leNat (leBytes n v) = v % 256 ^ n := by
  induction n generalizing v with
  | zero => rw [leBytes, leNat, Nat.pow_zero, Nat.mod_one]
  | succ n ih => rw [leBytes, leNat, ih, BitVec.toNat_ofNat, show 256 ^ (n + 1) = 256 * 256 ^ n from Nat.pow_succ', Nat.mod_mul]

@[simp] theorem leNat_zeros (n : Nat) : leNat (List.replicate n 0#8) = 0 := by
  induction n with
  | zero => rfl
  | succ n ih => rw [List.replicate_succ, leNat, ih]; rfl

/-- All the bytes of a list. -/
theorem sliceB_all (l : List Byte) : sliceB l 0 l.length = l := by simp [sliceB]

@[simp] theorem wordBytes_eight (w : Word) : wordBytes w 8 = leBytes 8 w.toNat := by
  simpa only [wordBytes, length_leBytes] using sliceB_all (leBytes 8 w.toNat)

/-- A word survives the trip through its eight bytes. -/
@[simp] theorem ofNat_leNat_leBytes (w : Word) : BitVec.ofNat 64 (leNat (leBytes 8 w.toNat)) = w := by
  rw [leNat_leBytes, show 256 ^ 8 = 2 ^ 64 from rfl, Nat.mod_eq_of_lt w.isLt, BitVec.ofNat_toNat, BitVec.setWidth_eq]

/-! ### The meanings of the access commands -/

theorem exec_registerWrite (w : Who) (a : BitVec 48) (v : Word) (s : State) : exec (.registerWrite w a v) s = execRegisterWrite w a v s := by rfl

theorem exec_rcRegisterRead (w : Who) (a : BitVec 48) (s : State) : exec (.rcRegisterRead w a) s = execRcRegisterRead w a s := by rfl

theorem exec_hostMemoryAccess (f : Fin 65) (bar : Fin 3) (a : BitVec 48) (n : Nat) (wr : Option (List Byte)) (s : State) :
    exec (.hostMemoryAccess f bar a n wr) s = execHostMemoryAccess f bar a n wr s := by rfl

/-! ### Accesses of one register (R14, R16) -/

/-- An access of eight bytes acts on a register where it is aligned and outside the interrupt files. -/
theorem regSized_eight (b : Blk) (o : Nat) : regSized b o 8 = (decide (o % 8 = 0) && !irqFile b o) := by simp [regSized]

/-- The register that a function reaches, and whether the access is aligned. -/
theorem State.fnReg_reached {s : State} {f a u o : Nat} {b : Blk} (hb : blockOf a = some (b, u, o)) (reach : s.fnReach f b u = true)
    (reg : irqFile b o = false) : s.fnReg f a = some (b, u, o, decide (o % 8 = 0)) := by
  simp [State.fnReg, hb, reach, reg, regSized_eight]

/-- No register lies in a tier (Table 18). -/
theorem isTier_of_block {a : Nat} {x : Blk × Nat × Nat} (h : blockOf a = some x) : isTier a = false := by
  refine decide_eq_false fun low => ?_
  have out : blockOf a = none := by
    unfold blockOf
    rw [if_neg (by omega), if_neg (by omega), if_neg (by omega), if_neg (by omega), if_neg (by omega)]
  rw [out] at h; cases h

/-! ### Accesses of an application core (R16, R339) -/

/-- An aligned access of a core reads or writes the register, as the physical function does. -/
theorem State.coreIo_register {s : State} {h a u o : Nat} {b : Blk} (idle : s.coreBusy h = false) (hb : blockOf a = some (b, u, o))
    (reg : irqFile b o = false) (al : o % 8 = 0) :
    (∀ v, s.coreIo h a 8 (some v) = (s.regWrite 64 b u o v, .done (List.replicate 8 0))) ∧
      s.coreIo h a 8 none = ((s.regRead b u o).1, .done (wordBytes (s.regRead b u o).2 8)) := by
  have sized : regSized b o 8 = true := by simp [regSized_eight, reg, al]
  constructor
  · intro v; simp [State.coreIo, idle, hb, reg, sized]
  · simp [State.coreIo, idle, hb, reg, sized]

/-- An access of eight bytes that is misaligned or meets an interrupt file reads zero or writes nothing, and is noted. -/
theorem State.coreIo_bad {s : State} {h a u o : Nat} {b : Blk} (idle : s.coreBusy h = false) (hb : blockOf a = some (b, u, o))
    (bad : irqFile b o = true ∨ o % 8 ≠ 0) (wr : Option Word) :
    s.coreIo h a 8 wr = (s.badAccess (1 + h) a 8 wr.isSome, .done (List.replicate 8 0)) := by
  by_cases irq : irqFile b o = true
  · simp [State.coreIo, idle, hb, irq]
  · have sized : regSized b o 8 = false := by simp [regSized_eight, bad.resolve_left irq]
    simp [State.coreIo, idle, hb, irq, sized]

/-- A core's access of eight bytes to a register block, for a core with no access outstanding. -/
theorem State.apDirect_block {s u : State} {h a : Nat} {wr : Option Word} {x : Blk × Nat × Nat} {r : List Byte} (free : (s.core h).wait = none)
    (hb : blockOf a = some x) (io : (s.coreFault h false).coreIo h a 8 wr = (u, .done r)) :
    s.apDirect h a 8 wr = if wr.isNone then { u with readVal := BitVec.ofNat 64 (leNat r) } else u := by
  have same : (wr.map (fun v => wordBytes v 8)).map (fun b => BitVec.ofNat 64 (leNat b)) = wr := by cases wr <;> simp
  have ph : (s.coreFault h false).phys h a 8 (wr.map (fun v => wordBytes v 8)) = (u, .done r) := by
    simp only [State.phys, isTier_of_block hb, Bool.false_eq_true, if_false, same, io]
  simp only [State.apDirect, free, Option.isSome_none, Bool.false_eq_true, if_false, ph]

/-! ### Accesses of a controller (R326) -/

/-- A controller's aligned store of eight bytes to its own cluster block writes the register. -/
theorem State.ctlStore_block {s : State} {g a : Nat} (v : Word) (al : a % 8 = 0)
    (block : s.ctlMem g a 8 (s.clu g).ctl.dataU true false = some .block) :
    s.ctlStore g 3 a v = (s.regWrite 100 .cluster g (a % 0x100000) v).ctlDone g 0 none := by
  have all : sliceB (leBytes 8 v.toNat) 0 8 = leBytes 8 v.toNat := wordBytes_eight v
  simp [State.ctlStore, State.ctlWrite, al, block, all]

/-! ### Accesses of the host (R417, R418, R420) -/

/-- The bytes of a host access: 1 to 4,096 of them, each assigned by the window as (address, may be written), backed and free of seals. -/
structure State.HostBytes (s : State) (f bar o n : Nat) (as : List (Nat × Bool)) : Prop where
  pos : 1 ≤ n
  le : n ≤ 4096
  live : s.fnLive f = true
  window : (List.range n).map (fun i => s.windowByte f bar (o + i)) = as.map some
  ok : ∀ x ∈ as, s.hostOk f x.1 = true

section HostAccess
variable {s : State} {f : Fin 65} {bar : Fin 3} {a : BitVec 48} {n : Nat} {d : List Byte} {as : List (Nat × Bool)}

/-- Neither its size nor its function refuses the access. -/
theorem State.HostBytes.size_ok (h : s.HostBytes f bar a.toNat n as) : ¬(n = 0 ∨ 4096 < n ∨ (!s.fnLive f.val) = true) := by
  have ⟨pos, le, live, _, _⟩ := h
  rintro (z | big | dead)
  · omega
  · omega
  · simp [live] at dead

/-- The window assigns each of the bytes. -/
theorem State.HostBytes.assigned (h : s.HostBytes f bar a.toNat n as) :
    ((List.range n).map (fun i => s.windowByte f bar (a.toNat + i))).filterMap id = as := by
  rw [h.window, List.filterMap_map]; exact List.filterMap_some

/-- No byte is left out, and none is refused. -/
theorem State.HostBytes.reached (h : s.HostBytes f bar a.toNat n as) : ¬(as.length ≠ n ∨ as.any (fun x => !s.hostOk f x.1) = true) := by
  rintro (len | refused)
  · exact len (by simpa using (congrArg List.length h.window).symm)
  · obtain ⟨x, hx, e⟩ := List.any_eq_true.1 refused
    simp [h.ok x hx] at e

/-- A write is not dropped where each byte may be written. -/
theorem hostWrite_not_dropped (wr : Option (List Byte)) (w : ∀ x ∈ as, x.2 = true) : ¬(wr.isSome = true ∧ as.any (fun x => !x.2) = true) := by
  have : as.any (fun x => !x.2) = false := by simpa using w
  simp [this]

/-- A host read whose first byte lies in a register block or a ring page goes to that register. -/
theorem execHostMemoryAccess_readReg {b : Blk} {u o : Nat} (h : s.HostBytes f bar a.toNat n as) (hb : blockOf (nthD as 0 (0, true)).1 = some (b, u, o)) :
    execHostMemoryAccess f bar a n none s = .next (s.hostReg f.val b u o (if b = .ring then a.toNat else (nthD as 0 (0, true)).1) n none) := by
  simp only [execHostMemoryAccess, if_neg h.size_ok, h.assigned, if_neg h.reached, Option.isSome_none, Bool.false_eq_true, false_and, if_false, hb]

/-- So does a host write. -/
theorem execHostMemoryAccess_writeReg {b : Blk} {u o : Nat} (h : s.HostBytes f bar a.toNat d.length as) (w : ∀ x ∈ as, x.2 = true)
    (hb : blockOf (nthD as 0 (0, true)).1 = some (b, u, o)) :
    execHostMemoryAccess f bar a n (some d) s =
      .next (s.hostReg f.val b u o (if b = .ring then a.toNat else (nthD as 0 (0, true)).1) d.length (some d)) := by
  simp only [execHostMemoryAccess, if_neg h.size_ok, h.assigned, if_neg h.reached, if_neg (hostWrite_not_dropped (some d) w), hb]

/-- A host read of memory outside the anchors returns its bytes piece by piece. -/
theorem execHostMemoryAccess_readMem (h : s.HostBytes f bar a.toNat n as) (hb : blockOf (nthD as 0 (0, true)).1 = none)
    (anc : ¬(0x0F4000000000 ≤ (nthD as 0 (0, true)).1 ∧ (nthD as 0 (0, true)).1 < 0x0F4000040000)) :
    execHostMemoryAccess f bar a n none s = .next ((runsOf (as.map (·.1))).foldl (fun x r =>
      { (x.devRead r.1 r.2).1 with readData := (x.devRead r.1 r.2).1.readData ++ (x.devRead r.1 r.2).2.1 }) { s with readData := [] }) := by
  simp only [execHostMemoryAccess, if_neg h.size_ok, h.assigned, if_neg h.reached, Option.isSome_none, Bool.false_eq_true, false_and, if_false, hb,
    if_neg anc]

/-- A host write to memory outside the anchors stores its bytes piece by piece. -/
theorem execHostMemoryAccess_writeMem (h : s.HostBytes f bar a.toNat d.length as) (w : ∀ x ∈ as, x.2 = true)
    (hb : blockOf (nthD as 0 (0, true)).1 = none)
    (anc : ¬(0x0F4000000000 ≤ (nthD as 0 (0, true)).1 ∧ (nthD as 0 (0, true)).1 < 0x0F4000040000)) :
    execHostMemoryAccess f bar a n (some d) s = .next ((runsOf (as.map (·.1))).foldl (fun (x : State × List Byte) r =>
      (x.1.devWrite r.1 (x.2.take r.2) [], x.2.drop r.2)) (s, d)).1 := by
  simp only [execHostMemoryAccess, if_neg h.size_ok, h.assigned, if_neg h.reached, if_neg (hostWrite_not_dropped (some d) w), hb, if_neg anc]

end HostAccess

/-- Settles O4, clause by clause: a host function's register access, a core's, a controller's, and the host's accesses of memory. -/
theorem accessesComplete : Obligations.AccessesComplete := by
  refine ⟨?_, ?_, ?_, ?_, ?_, ?_, ?_, ?_⟩
  · intro f a v s b u o hb reach reg al
    have at_reg : s.fnReg f a.toNat = some (b, u, o, true) := by rw [State.fnReg_reached hb reach reg, decide_eq_true al]
    constructor
    · simp [exec_registerWrite, execRegisterWrite, at_reg]
    · simp [exec_rcRegisterRead, execRcRegisterRead, at_reg]
  · intro f a v s b u o hb reach reg mis
    have at_reg : s.fnReg f a.toNat = some (b, u, o, false) := by rw [State.fnReg_reached hb reach reg, decide_eq_false mis]
    constructor
    · simp [exec_registerWrite, execRegisterWrite, at_reg]
    · simp [exec_rcRegisterRead, execRcRegisterRead, at_reg]
  · intro h a v s b u o run free idle hb reg al
    obtain ⟨write, read⟩ := State.coreIo_register (s := s.coreFault h false) idle hb reg al
    constructor
    · simp [exec_registerWrite, execRegisterWrite, run, State.apDirect_block free hb (write v)]
    · simp [exec_rcRegisterRead, execRcRegisterRead, run, State.apDirect_block free hb read]
  · intro h a v s b u o run free idle hb bad
    have noted := State.coreIo_bad (s := s.coreFault h false) idle hb bad
    constructor
    · simp [exec_registerWrite, execRegisterWrite, run, State.apDirect_block free hb (noted (some v))]
    · simp [exec_rcRegisterRead, execRcRegisterRead, run, State.apDirect_block free hb (noted none), -List.reduceReplicate]
  · intro g a v s run al
    constructor
    · intro block; simp [exec_registerWrite, execRegisterWrite, run, State.ctlStore_block v al block]
    · intro block; simp [exec_rcRegisterRead, execRcRegisterRead, run, al, block]
  · intro f bar a n as s pos le live window ok hb anc
    rw [exec_hostMemoryAccess]; exact execHostMemoryAccess_readMem ⟨pos, le, live, window, ok⟩ hb anc
  · intro f bar a n d as s pos le live window ok hb anc
    rw [exec_hostMemoryAccess]; exact execHostMemoryAccess_writeMem ⟨pos, le, live, window, fun x hx => (ok x hx).1⟩ (fun x hx => (ok x hx).2) hb anc
  · rintro f bar a n d as s b u o pos le rfl live window ok hb
    have bytes : s.HostBytes f bar a.toNat d.length as := ⟨pos, le, live, window, ok⟩
    rw [exec_hostMemoryAccess, exec_hostMemoryAccess]
    exact ⟨execHostMemoryAccess_readReg bytes hb, fun w => execHostMemoryAccess_writeReg bytes w hb⟩

end Sys2Proof.Machine
end

section
/-! PROOFS. The time base (file 02): what leaves it alone, the steering law (R526), ticks (R32), time states (R40 to R44) and the resets it outlives (R45). -/

namespace Sys2Proof.Machine

/-! ### What leaves the time base alone -/

theorem State.logsTo.time_eq {s t : State} (h : s.logsTo t) : t.time = s.time := by
  unfold State.logsTo at h; rw [h]

@[simp] theorem State.timeErr_time (s : State) (f : Fld) : (s.timeErr f).time = s.time := rfl

@[simp] theorem State.timeEvt_time (s : State) (code : Nat) : (s.timeEvt code).time = s.time := (s.raise_logs _).time_eq

@[simp] theorem State.coreMsi_time (s : State) (n : Nat) : (s.coreMsi n).time = s.time := (s.logsTo_coreMsi n).time_eq

@[simp] theorem State.flagDegraded_time (s : State) : s.flagDegraded.time = s.time := rfl

/-- A frame that a port sends leaves the time base. -/
theorem State.camWire_time (s : State) (p n : Nat) (f : List Byte) : (s.camWire p n f).time = s.time := by
  unfold State.camWire; dsimp only; split
  · rfl
  · split <;> rfl

@[simp] theorem State.sendHellos_time (s : State) : s.sendHellos.time = s.time :=
  foldl_keeps State.time (fun (s : State) (x : Nat × CamPort) => s.sendHello x.1) (fun s x => s.camWire_time x.1 4096 _) _ s

/-! ### The flywheel's own operations -/

@[simp] theorem TimeBase.hand_st (t : TimeBase) : t.hand.st = t.st := by unfold TimeBase.hand; split <;> rfl
@[simp] theorem TimeBase.hand_count (t : TimeBase) : t.hand.count = t.count := by unfold TimeBase.hand; split <;> rfl
@[simp] theorem TimeBase.hand_ticks (t : TimeBase) : t.hand.ticks = t.ticks := by unfold TimeBase.hand; split <;> rfl
@[simp] theorem TimeBase.hand_interval (t : TimeBase) : t.hand.interval = t.interval := by unfold TimeBase.hand; split <;> rfl

theorem rat_max_eq (a b : Rat) : max a b = if a ≤ b then b else a := by rfl

theorem rat_min_eq (a b : Rat) : min a b = if a ≤ b then a else b := by rfl

/-- A rational cut to between -2 and 2. -/
theorem cut_two (x : Rat) : (if x < -2 then -2 else if 2 < x then 2 else x) = max (-2) (min 2 x) := by
  rw [rat_max_eq, rat_min_eq]
  by_cases low : x < -2
  · rw [if_pos low]; grind
  · rw [if_neg low]; by_cases high : 2 < x
    · rw [if_pos high]; grind
    · rw [if_neg high]; grind

/-- The law of R526. -/
theorem steerLaw_eq (i p e : Rat) : steerLaw i p e = (i + e / 1024, p + (i + e / 1024) + max (-2) (min 2 (e / 8))) := by
  rw [← cut_two]; rfl

/-! ### Frames and gaps keep I and p -/

theorem State.badFrame_flywheel (s : State) : s.badFrame.time.interval = s.time.interval ∧ s.badFrame.time.pred = s.time.pred := by
  unfold State.badFrame; dsimp only; split
  · exact ⟨rfl, rfl⟩
  · split <;> exact ⟨rfl, rfl⟩

theorem State.passGap_flywheel (f m : Nat) (s : State) :
    (State.passGap f m s).time.interval = s.time.interval ∧ (State.passGap f m s).time.pred = s.time.pred := by
  induction f generalizing m s with
  | zero => exact ⟨rfl, rfl⟩
  | succ f ih =>
    unfold State.passGap; dsimp only; split
    · obtain ⟨rest_i, rest_p⟩ := ih (s.time.sinceTest + m - 128) ({ s with time := { s.time with sinceTest := 0 } } : State).badFrame
      obtain ⟨bad_i, bad_p⟩ := State.badFrame_flywheel { s with time := { s.time with sinceTest := 0 } }
      exact ⟨rest_i.trans bad_i, rest_p.trans bad_p⟩
    · exact ⟨rfl, rfl⟩

/-- The waymarks of a gap leave the interval and the prediction. -/
theorem State.gap_flywheel (s : State) (m : Nat) : (s.gap m).time.interval = s.time.interval ∧ (s.gap m).time.pred = s.time.pred := by
  unfold State.gap; dsimp only; split
  · exact ⟨rfl, rfl⟩
  · exact State.passGap_flywheel _ _ _

/-- No frame test is due: the state stays. -/
theorem State.testFrame_not_due {s : State} (h : s.time.testDue = false) : s.testFrame = s := by simp [State.testFrame, h]

/-! ### Judging an edge (R31) -/

section Edge
variable {t : Rat} {b : Bool} {s : State}

theorem waymarkEdge_locked (due : s.time.now ≤ t) (st : s.testFrame.time.st = .locked) (lo : s.testFrame.time.pred - 50 ≤ t)
    (hi : t ≤ s.testFrame.time.pred + 50) : waymarkEdge t b s = s.testFrame.lockedEdge t b := by
  simp only [waymarkEdge, if_neg (Rat.not_lt.2 due), if_pos st, if_neg (Rat.not_lt.2 lo), if_pos hi]

/-- The first edge of a series of windows. -/
theorem waymarkEdge_first (due : s.time.now ≤ t) (st : s.testFrame.time.st ≠ .locked)
    (first : s.testFrame.time.edgeSeen = false ∨ 8 ≤ s.testFrame.time.windows) :
    waymarkEdge t b s = if s.testFrame.time.st = .acquire then s.testFrame.acquireEdge t b 0 else s.testFrame.freeEdge t b 0 := by
  have : (!s.testFrame.time.edgeSeen || decide (8 ≤ s.testFrame.time.windows)) = true := by simpa using first
  simp only [waymarkEdge, if_neg (Rat.not_lt.2 due), if_neg st, if_pos this]

/-- An edge before the window that is open next. -/
theorem waymarkEdge_early (due : s.time.now ≤ t) (st : s.testFrame.time.st ≠ .locked) (seen : s.testFrame.time.edgeSeen = true)
    (within : s.testFrame.time.windows < 8) (lo : t < s.testFrame.time.lastEdge + (s.testFrame.time.windows + 1 : Nat) * 1000 - 50) :
    waymarkEdge t b s = s.testFrame.strayEdge t := by
  have : ¬(!s.testFrame.time.edgeSeen || decide (8 ≤ s.testFrame.time.windows)) = true := by simpa [seen] using within
  simp only [waymarkEdge, if_neg (Rat.not_lt.2 due), if_neg st, if_neg this, if_pos lo]

/-- An edge in that window. -/
theorem waymarkEdge_window (due : s.time.now ≤ t) (st : s.testFrame.time.st ≠ .locked) (seen : s.testFrame.time.edgeSeen = true)
    (within : s.testFrame.time.windows < 8) (lo : s.testFrame.time.lastEdge + (s.testFrame.time.windows + 1 : Nat) * 1000 - 50 ≤ t)
    (hi : t ≤ s.testFrame.time.lastEdge + (s.testFrame.time.windows + 1 : Nat) * 1000 + 50) :
    waymarkEdge t b s = if s.testFrame.time.st = .acquire then s.testFrame.acquireEdge t b (s.testFrame.time.windows + 1)
      else s.testFrame.freeEdge t b (s.testFrame.time.windows + 1) := by
  have : ¬(!s.testFrame.time.edgeSeen || decide (8 ≤ s.testFrame.time.windows)) = true := by simpa [seen] using within
  simp only [waymarkEdge, if_neg (Rat.not_lt.2 due), if_neg st, if_neg this, if_neg (Rat.not_lt.2 lo), if_pos hi]

end Edge

/-! ### I and p after an edge (R526) -/

section Steering
variable (t : Rat) (b : Bool) (s : State)

/-- An edge in LOCKED steers. -/
theorem State.lockedEdge_steers : (s.lockedEdge t b).time.interval = s.time.interval + (t - s.time.pred) / 1024 ∧
    (s.lockedEdge t b).time.pred = s.time.pred + (s.lockedEdge t b).time.interval + max (-2) (min 2 ((t - s.time.pred) / 8)) := by
  simp only [State.lockedEdge, steerLaw_eq, and_self]

/-- The first edge of a series in ACQUIRE sets p and keeps I. -/
theorem State.acquireEdge_first : (s.acquireEdge t b 0).time.interval = s.time.interval ∧ (s.acquireEdge t b 0).time.pred = t + s.time.interval := by
  simp only [State.acquireEdge, true_or, if_true, TimeBase.sample]
  cases s.time.edgeSeen with
  | false => exact ⟨rfl, rfl⟩
  | true => simp only [if_true, (s.gap_flywheel _).1, and_self]

/-- The second one, in the first window, sets both. -/
theorem State.acquireEdge_second (acq : s.time.acq = .first) : (s.acquireEdge t b 1).time.interval = t - s.time.lastEdge ∧
    (s.acquireEdge t b 1).time.pred = t + (t - s.time.lastEdge) := by
  simp [State.acquireEdge, acq]

/-- Every later one steers. -/
theorem State.acquireEdge_steers (n : Nat) (acq : s.time.acq = .steering) :
    (s.acquireEdge t b (n + 1)).time.interval = s.time.interval + (t - s.time.pred) / 1024 ∧
      (s.acquireEdge t b (n + 1)).time.pred =
        s.time.pred + (s.acquireEdge t b (n + 1)).time.interval + max (-2) (min 2 ((t - s.time.pred) / 8)) := by
  simp [State.acquireEdge, acq, steerLaw_eq]

/-- An edge in HOLDOVER, DEGRADED and FREE is measured alone. -/
theorem State.freeEdge_flywheel (n : Nat) : (s.freeEdge t b n).time.interval = s.time.interval ∧ (s.freeEdge t b n).time.pred = s.time.pred := by
  simp only [State.freeEdge, TimeBase.sample]
  split
  · exact s.gap_flywheel _
  · exact ⟨rfl, rfl⟩

end Steering

/-! ### A window that passes without an edge (R31, R40) -/

section Missed
variable {s : State}

/-- In LOCKED the flywheel runs on and the waymark counts as missing, the fourth in a row apart. -/
theorem waymarkMissed_locked (st : s.testFrame.time.st = .locked) (out : s.testFrame.time.tickWait = none) (run : s.testFrame.time.missRun < 3) :
    ∃ v : TimeBase, waymarkMissed s = (({ s.testFrame with time := v }.timeErr F.TIME_ERR_MISSED).timeEvt 0x6001) ∧
      v.pred = s.testFrame.time.pred + s.testFrame.time.interval ∧ v.interval = s.testFrame.time.interval ∧
      v.missRun = s.testFrame.time.missRun + 1 ∧ v.st = .locked := by
  have few : s.testFrame.time.missRun + 1 < 4 := by omega
  simp only [waymarkMissed, if_pos st, out, Option.isSome_none, Bool.false_eq_true, if_false, if_pos few]
  exact ⟨_, rfl, rfl, TimeBase.hand_interval _, rfl, (TimeBase.hand_st _).trans st⟩

/-- In ACQUIRE, within a series, the prediction passes on too. -/
theorem waymarkMissed_acquire (st : s.testFrame.time.st = .acquire) (out : s.testFrame.time.tickWait = none)
    (seen : s.testFrame.time.edgeSeen = true) (series : s.testFrame.time.windows < 8) :
    (waymarkMissed s).time.interval = s.testFrame.time.interval ∧
      (waymarkMissed s).time.pred = s.testFrame.time.pred + s.testFrame.time.interval := by
  have inSeries : ¬(!s.testFrame.time.edgeSeen || decide (8 ≤ s.testFrame.time.windows)) = true := by simpa [seen] using series
  simp [waymarkMissed, st, out, inSeries, TimeBase.sample, -Bool.or_eq_true]

end Missed

/-! ### The internal tick (R32, R525) -/

/-- The predicted edge that the next tick follows. -/
def TimeBase.tickEdge (u : TimeBase) : Rat := u.tickWait.getD (u.pred + u.slew)

section Tick
variable {t : Rat} {s : State}

/-- The tick in terms of that edge: nothing where it is not due or out of time. -/
theorem internalTick_edge (t : Rat) (s : State) : internalTick t s =
    if (s.time.tickWait.isNone && s.time.ticked) || !s.time.tickOk t s.time.tickEdge then s
    else
      let v := { s.time with
        now := t, ticks := s.time.ticks + 1, base := s.time.tickEdge, tickOff := some (s.time.offsets (t - s.time.tickEdge)), tickWait := none,
        count := if s.time.st = .acquire then s.time.count else s.time.count + 1 }
      { s with time := if s.time.tickWait.isSome then v else if s.time.judged then { v with ticked := true }
                       else { v with pred := s.time.pred + s.time.interval } } := by
  unfold internalTick TimeBase.tickEdge; dsimp only
  cases s.time.tickWait <;> rfl

/-- A tick that is due and comes in time counts. -/
theorem internalTick_due (ready : s.time.tickWait = none → s.time.ticked = false) (ok : s.time.tickOk t s.time.tickEdge = true) :
    ∃ v : TimeBase, internalTick t s = { s with time := v } ∧ v.ticks = s.time.ticks + 1 ∧
      v.count = (if s.time.st = .acquire then s.time.count else s.time.count + 1) ∧ v.base = s.time.tickEdge ∧ v.tickWait = none ∧ v.now = t ∧
      v.st = s.time.st ∧ v.interval = s.time.interval ∧
      (s.time.tickWait = none → s.time.judged = false → v.pred = s.time.pred + s.time.interval) := by
  have go : ¬((s.time.tickWait.isNone && s.time.ticked) || !s.time.tickOk t s.time.tickEdge) = true := by
    simpa [ok] using ready
  rw [internalTick_edge, if_neg go]
  refine ⟨_, rfl, ?_⟩
  dsimp only
  split
  next h => exact ⟨rfl, rfl, rfl, rfl, rfl, rfl, rfl, fun e => by simp [e] at h⟩
  next =>
    split
    next j => exact ⟨rfl, rfl, rfl, rfl, rfl, rfl, rfl, fun _ e => by simp [e] at j⟩
    next => exact ⟨rfl, rfl, rfl, rfl, rfl, rfl, rfl, fun _ _ => rfl⟩

/-- A tick counts only in time. -/
theorem tickOk_of_internalTick (h : (internalTick t s).time.ticks ≠ s.time.ticks) : s.time.tickOk t s.time.tickEdge = true := by
  refine Decidable.byContradiction fun late => h ?_
  rw [internalTick_edge, if_pos (by simp [late])]

/-- A tick in time comes 44 to 52 ns after its edge. -/
theorem TimeBase.tickOk_bounds {u : TimeBase} {e : Rat} (h : u.tickOk t e = true) : 44 ≤ t - e ∧ t - e ≤ 52 := by
  simp only [TimeBase.tickOk, Bool.and_eq_true, decide_eq_true_eq] at h
  obtain ⟨⟨⟨-, lo⟩, hi⟩, -⟩ := h
  exact ⟨lo, hi⟩

end Tick

/-! ### The commands of the flywheel -/

section Commands
variable {t : Rat} {b : Bool} {s : State}

theorem exec_waymarkEdge (on : s.pwr.aux = true) : exec (.waymarkEdge t b) s = .next (waymarkEdge t b s) :=
  congrArg Host.Outcome.next (if_pos on)

theorem exec_wmkMissed (on : s.pwr.aux = true) : exec .wmkMissed s = .next (waymarkMissed s) := congrArg Host.Outcome.next (if_pos on)

/-- A tick that counts makes the ports in session send. -/
theorem exec_internalTick_counts (on : s.pwr.aux = true) (h : (internalTick t s).time.ticks ≠ s.time.ticks) :
    exec (.internalTick t) s = .next (internalTick t s).sendHellos :=
  congrArg Host.Outcome.next ((if_pos on).trans (if_neg h))

/-- Whatever the command does, its tick is the hub's. -/
theorem ticks_of_exec_internalTick {v : State} (h : exec (.internalTick t) s = .next v) (counts : v.time.ticks ≠ s.time.ticks) :
    (internalTick t s).time.ticks ≠ s.time.ticks := by
  intro same
  have : v = if s.pwr.aux then internalTick t s else s := by
    have e : Host.Outcome.next v = execInternalTick t s := h.symm
    simp only [execInternalTick, if_pos same] at e
    exact Host.Outcome.next.inj e
  rw [this] at counts
  split at counts
  · exact counts same
  · exact counts rfl

end Commands

/-- Settles O47: the kinds of edge that steer, those that set I and p, and the waymarks that pass without steering. -/
theorem steeringFollowsTheLaw : Obligations.SteeringFollowsTheLaw := by
  refine ⟨rfl, ?_, ?_, ?_, ?_, ?_, ?_, ?_⟩
  · rintro t b s _ on due rfl (⟨st, lo, hi⟩ | ⟨st, acq, seen, series, lo, hi⟩)
    · rw [exec_waymarkEdge on, waymarkEdge_locked due st lo hi]
      exact ⟨_, rfl, State.lockedEdge_steers _ _ _⟩
    · rw [exec_waymarkEdge on, waymarkEdge_window due (by simp [st]) seen series lo hi, if_pos st]
      exact ⟨_, rfl, State.acquireEdge_steers _ _ _ _ acq⟩
  · rintro t b s _ on due rfl st first
    rw [exec_waymarkEdge on, waymarkEdge_first due (by simp [st]) first, if_pos st]
    exact ⟨_, rfl, State.acquireEdge_first _ _ _⟩
  · rintro t b s _ on due rfl st acq seen first lo hi
    rw [exec_waymarkEdge on, waymarkEdge_window due (by simp [st]) seen (by omega) (by rw [first]; grind)
      (by rw [first]; grind), if_pos st, first]
    exact ⟨_, rfl, State.acquireEdge_second _ _ _ acq⟩
  · rintro s _ on rfl out (⟨st, run⟩ | ⟨st, seen, series⟩)
    · obtain ⟨v, missed, pred, interval, -, -⟩ := waymarkMissed_locked st out run
      refine ⟨_, exec_wmkMissed on, ?_⟩
      rw [missed, State.timeEvt_time]
      exact ⟨interval, pred⟩
    · exact ⟨_, exec_wmkMissed on, waymarkMissed_acquire st out seen series⟩
  · rintro t b s _ on due rfl locked acquire upTo
    refine ⟨_, exec_waymarkEdge on, ?_⟩
    by_cases first : s.testFrame.time.edgeSeen = false ∨ 8 ≤ s.testFrame.time.windows
    · rw [waymarkEdge_first due locked first, if_neg acquire]
      exact State.freeEdge_flywheel _ _ _ _
    · obtain ⟨seen, series⟩ : s.testFrame.time.edgeSeen = true ∧ s.testFrame.time.windows < 8 := by simpa using first
      have hi := (or_assoc.2 upTo).resolve_left first
      by_cases early : t < s.testFrame.time.lastEdge + (s.testFrame.time.windows + 1 : Nat) * 1000 - 50
      · rw [waymarkEdge_early due locked seen series early]
        exact ⟨rfl, rfl⟩
      · rw [waymarkEdge_window due locked seen series (Rat.not_lt.1 early) hi, if_neg acquire]
        exact State.freeEdge_flywheel _ _ _ _
  · intro t s on locked acquire wait out ok
    have edge : s.time.tickEdge = s.time.pred + s.time.slew := by rw [TimeBase.tickEdge, wait]; rfl
    obtain ⟨v, tick, ticks, -, -, -, -, -, interval, pred⟩ := internalTick_due (fun _ => out) (edge ▸ ok)
    refine ⟨_, exec_internalTick_counts on ?_, ?_⟩
    · rw [tick]; dsimp only; omega
    · rw [State.sendHellos_time, tick]
      exact ⟨interval, pred wait (by simp [TimeBase.judged, locked, acquire])⟩
  · intro t s v h counts
    exact TimeBase.tickOk_bounds (tickOk_of_internalTick (ticks_of_exec_internalTick h counts))

end Sys2Proof.Machine
end

section
/-! PROOFS. Time states, steps, the pitch configuration, the floor windows and the pitch boundary (file 02): R40 to R49. -/

namespace Sys2Proof.Machine

/-! ### The commands and their meanings -/

theorem exec_timeCodeFrame (s : State) : exec .timeCodeFrame s = .next s.testFrame := by rfl

theorem exec_timeStep (s : State) : exec .timeStep s = .next (timeStep s) := by rfl

theorem exec_pitchCfgWrite (v : Word) (s : State) : exec (.pitchCfgWrite v) s = .next (s.writePitchCfg v) := by rfl

theorem exec_floorWindowEnd (d : Fin 8) (fc : Nat) (s : State) : exec (.floorWindowEnd d fc) s = .next (floorWindow d.val fc s) := by rfl

/-! ### Entering a time state (R40, R42) -/

theorem State.enter_degraded {s : State} (h : s.time.st = .holdover) :
    s.enter .degraded = ({ s with time := { s.time with st := .degraded } }.flagDegraded.timeEvt 0x6004).coreMsi 6 := by
  simp [State.enter, TimeBase.judged, h]

theorem State.enter_free {s : State} (h : s.time.st = .acquire) :
    s.enter .free = { s with time := { (if s.time.judged then s.time.release else s.time) with st := .free } }.coreMsi 6 := by
  simp [State.enter, h]

/-- What entering LOCKED leaves of the time base. -/
theorem State.enter_locked_time (s : State) : (s.enter .locked).time =
    if s.time.st = .locked then s.time
    else { s.time with st := .locked, missRun := 0, validRun := 0, validFrames := 0, disagree := 0 } := by
  unfold State.enter
  split
  · rfl
  · simp

/-- Interrupts do not depend on the time base. -/
theorem State.coreMsi_setTime (s : State) (v : TimeBase) (n : Nat) : { s with time := v }.coreMsi n = { s.coreMsi n with time := v } := by
  by_cases off : s.fld (R.EVT_CORE_MSI n) F.EVT_CORE_MSI_EIID = 0 ∨ 7 ≤ s.fld (R.EVT_CORE_MSI n) F.EVT_CORE_MSI_FILE
  · rw [show s.coreMsi n = s from if_pos off]; exact if_pos off
  · rw [show s.coreMsi n = s.setIrq (8 * s.fld (R.EVT_CORE_MSI n) F.EVT_CORE_MSI_HART + s.fld (R.EVT_CORE_MSI n) F.EVT_CORE_MSI_FILE)
      (s.fld (R.EVT_CORE_MSI n) F.EVT_CORE_MSI_EIID) from if_neg off]
    exact if_neg off

/-! ### Time-code frames (R34 to R37) -/

/-- A valid frame that agrees with the count in LOCKED. -/
theorem State.testFrame_agrees {s : State} {f : Nat} (due : s.time.testDue = true) (bits : frameBits s.time.samples = some f) (ok : frameOk f = true)
    (st : s.time.st = .locked) (agrees : ((bitsOf f 103 40 : Nat) : Int) + 127 = s.time.countOf s.time.lastTick) :
    s.testFrame = { s with time := { s.time with
      tested := true, sinceTest := 0, aligned := true, failRun := 0, anyFrame := true, lastFrame := some (bitsOf f 103 40),
      traceable := bitOf f 107, sourceId := bitsOf f 39 32, ext := some (bitsOf f 103 40 + 127), disagree := 0 } } := by
  have zero : ((bitsOf f 103 40 : Nat) : Int) + 127 - s.time.countOf s.time.lastTick = 0 := by omega
  simp only [State.testFrame, due, bits, ok, st, Bool.not_true, Bool.false_eq_true, if_false]
  exact if_pos zero

/-! ### FREE (R40, R525) -/

/-- Ten million ticks without a valid frame. -/
theorem execFreeRunEntry_due {s : State} (st : s.time.st = .acquire) (none : s.time.anyFrame = false) (ticks : 10000000 ≤ s.time.ticks) :
    ∃ v : TimeBase, execFreeRunEntry s = .next { ({ s with time := { s.time with st := .free } }.coreMsi 6) with time := v } ∧ v.st = .free ∧
      v.count = s.time.ticks - 10000000 ∧ v.interval = 1000 := by
  simp only [execFreeRunEntry, if_pos (And.intro st (And.intro none ticks)), State.enter_free st, State.coreMsi_setTime]
  exact ⟨_, rfl, rfl, rfl, rfl⟩

/-- Settles O1, clause by clause: an edge, a tick, a missing waymark, a frame, the end of HOLDOVER and the entry into FREE. -/
theorem timeBaseCommandsComplete : Obligations.TimeBaseCommandsComplete := by
  refine ⟨?_, ?_, ?_, ?_, ?_, ?_⟩
  · intro t b s on early st due lo hi
    have untested := State.testFrame_not_due early
    rw [exec_waymarkEdge on, waymarkEdge_locked due (by rwa [untested]) (by rwa [untested]) (by rwa [untested]), untested]
    obtain ⟨interval, pred⟩ := s.lockedEdge_steers t b
    refine ⟨_, rfl, rfl, interval, pred, rfl, rfl, rfl, ?_, ?_, ?_⟩
    · exact (TimeBase.hand_st _).trans st
    · exact TimeBase.hand_count _
    · exact TimeBase.hand_ticks _
  · intro t s on ready ok
    obtain ⟨v, tick, ticks, count, base, wait, now, st, -, -⟩ := internalTick_due ready ok
    refine ⟨v, ?_, ticks, count, base, wait, now, st⟩
    rw [exec_internalTick_counts on (by rw [tick]; dsimp only; omega), tick]
  · intro s on early st out run
    have untested := State.testFrame_not_due early
    have missed := waymarkMissed_locked (s := s)
    rw [untested] at missed
    rw [exec_wmkMissed on]
    obtain ⟨v, e, fly⟩ := missed st out run
    exact ⟨v, congrArg _ e, fly⟩
  · intro f s due bits ok st agrees
    rw [exec_timeCodeFrame, State.testFrame_agrees due bits ok st agrees]
  · intro s st done
    exact congrArg Host.Outcome.next ((if_pos ⟨st, done⟩).trans (State.enter_degraded st))
  · intro s st none ticks
    exact execFreeRunEntry_due st none ticks

/-! ### The step (R44) -/

/-- The step at an external boundary: the count follows, the pitch in progress ends and the module is LOCKED. -/
theorem timeStep_due {s : State} {n : Nat} (ext : s.time.ext = some n) (st : s.time.st ≠ .acquire) (pending : s.time.stepPending = true)
    (free : s.guarHeld = false) (boundary : s.time.isBoundary n = true) (seen : s.time.edgeSeen = true) (window : s.time.windows = 0)
    (now : s.time.now = s.time.lastEdge) :
    (timeStep s).time.st = .locked ∧ (timeStep s).time.stepPending = false ∧ (timeStep s).time.count = n - 1 ∧
      (timeStep s).time.tickWait = some s.time.lastEdge ∧ (timeStep s).time.ticks = s.time.ticks ∧ (timeStep s).time.lastBoundary = none := by
  simp only [timeStep, ext, if_pos (show s.time.st ≠ .acquire ∧ s.time.stepPending ∧ !s.guarHeld ∧ s.time.isBoundary n ∧ s.time.edgeSeen ∧
    s.time.windows = 0 ∧ s.time.now = s.time.lastEdge by simp [*])]
  rw [State.enter_locked_time, State.timeEvt_time]
  split
  next locked => exact ⟨locked, rfl, rfl, rfl, rfl, rfl⟩
  next => exact ⟨rfl, rfl, rfl, rfl, rfl, rfl⟩

/-! ### The pitch configuration (R47) -/

section PitchCfg
variable {v : Word} {s : State}

theorem State.writePitchCfg_taken (rej : getF v F.PITCH_CFG_REJECTED = 0) (lo : 16 ≤ getF v F.PITCH_CFG_LEN) (hi : getF v F.PITCH_CFG_LEN ≤ 4096)
    (ph : getF v F.PITCH_CFG_PHASE < getF v F.PITCH_CFG_LEN) (free : s.guarBooked = false) :
    s.writePitchCfg v = { s with time :=
      if s.time.st = .acquire then
        { s.time with pitchLen := getF v F.PITCH_CFG_LEN, pitchPhase := getF v F.PITCH_CFG_PHASE, pendingCfg := none }
      else { s.time with pendingCfg := some (getF v F.PITCH_CFG_LEN, getF v F.PITCH_CFG_PHASE, s.time.ticks) } } := by
  have kept : ¬getF v F.PITCH_CFG_REJECTED = 1 := by omega
  simp only [State.writePitchCfg, if_neg kept, lo, hi, ph, free, Bool.not_false, and_self, if_true]
  split <;> rfl

theorem State.writePitchCfg_refused (rej : getF v F.PITCH_CFG_REJECTED = 0) (bad : getF v F.PITCH_CFG_LEN < 16 ∨ 4096 < getF v F.PITCH_CFG_LEN ∨
    getF v F.PITCH_CFG_LEN ≤ getF v F.PITCH_CFG_PHASE ∨ s.guarBooked = true) :
    s.writePitchCfg v = s.setFld R.PITCH_CFG F.PITCH_CFG_REJECTED 1 := by
  have no : ¬(16 ≤ getF v F.PITCH_CFG_LEN ∧ getF v F.PITCH_CFG_LEN ≤ 4096 ∧ getF v F.PITCH_CFG_PHASE < getF v F.PITCH_CFG_LEN ∧
      (!s.guarBooked) = true) := by
    rintro ⟨lo, hi, ph, free⟩
    rcases bad with h | h | h | h
    · omega
    · omega
    · omega
    · simp [h] at free
  have kept : ¬getF v F.PITCH_CFG_REJECTED = 1 := by omega
  simp only [State.writePitchCfg, if_neg kept, if_neg no]

end PitchCfg

/-! ### Floor windows (R48, R49) -/

/-- A window at or above the floor: its count is kept, and the clock's stretch passes on. -/
theorem floorWindow_above {s : State} {d fc : Nat} (passed : 16 * (nthD s.time.floorDone d 0 + 1) + 1 ≤ s.time.ticks) (step : s.time.stepTick = none)
    (above : 22396 ≤ fc) (still : nthD s.pwr.stretched d false = false) :
    ∃ x : State, x = { s with time := { s.time with floorDone := s.time.floorDone.set d (nthD s.time.floorDone d 0 + 1) },
                              pwr := { s.pwr with stretched := s.pwr.stretched.set d (nthD s.pwr.stretching d false) } } ∧
      floorWindow d fc s = ((x.setFld (R.FLOOR_MON d) F.FLOOR_MON_LAST (min fc 65535)).setFld (R.FLOOR_MON d)
        F.FLOOR_MON_NOW_BELOW 0).setFld (R.FLOOR_MON d) F.FLOOR_MON_MIN (min fc (((x.setFld (R.FLOOR_MON d) F.FLOOR_MON_LAST
        (min fc 65535)).setFld (R.FLOOR_MON d) F.FLOOR_MON_NOW_BELOW 0).fld (R.FLOOR_MON d) F.FLOOR_MON_MIN)) := by
  refine ⟨_, rfl, ?_⟩
  simp only [floorWindow, if_neg (Nat.not_lt.2 passed), step, decide_eq_false (Nat.not_lt.2 above), still, Bool.not_false, Bool.and_false, Bool.false_eq_true, if_false]
  rfl

/-- Settles O2, clause by clause: the step, FORCE_STEP, PITCH_CFG, its start, the end of a hold and a window at or above the floor. -/
theorem stepsAndPitchConfigComplete : Obligations.StepsAndPitchConfigComplete := by
  refine ⟨?_, ?_, ?_, ?_, ?_, ?_, ?_, ?_⟩
  · intro n s ext st pending free boundary seen window now
    exact ⟨_, exec_timeStep s, timeStep_due ext st pending free boundary seen window now⟩
  · intro v s st force
    exact congrArg Host.Outcome.next (if_pos ⟨st, force⟩)
  · intro v s idle
    refine congrArg Host.Outcome.next (if_neg ?_)
    rintro ⟨st, force⟩
    rcases idle with acquire | zero
    · exact st acquire
    · omega
  · intro v s rej lo hi ph free
    rw [exec_pitchCfgWrite, State.writePitchCfg_taken rej lo hi ph free]
  · intro v s rej bad
    rw [exec_pitchCfgWrite, State.writePitchCfg_refused rej bad]
  · intro len ph k s cfg later st boundary
    have e : exec .pitchCfgApply s = execPitchCfgApply s := by rfl
    simp [e, execPitchCfgApply, cfg, later, st, TimeBase.isBoundary, boundary]
  · intro d w s hold reached
    have e : exec (.floorHoldRelease d) s = execFloorHoldRelease d s := by rfl
    simp only [e, execFloorHoldRelease, hold, if_pos reached]
  · intro d fc s passed step above still
    obtain ⟨x, ex, e⟩ := floorWindow_above passed step above still
    exact ⟨x, ex, (exec_floorWindowEnd d fc s).trans (congrArg Host.Outcome.next e)⟩

/-! ### The pitch boundary (R46) -/

/-- Writing the corrected records that wait meets no upset. -/
theorem State.flushCorrected_upsets (s : State) : s.flushCorrected.upsets = s.upsets := by
  refine foldl_keeps State.upsets (fun (s : State) (r : EvtRec) => s.writeRec r) (fun s r => ?_) _ _
  have logs := s.writeRec_logs r
  unfold State.logsTo at logs
  rw [logs]

/-- Settles O3: the boundary is due, and its parts follow one another. -/
theorem pitchBoundaryCompletes : Obligations.PitchBoundaryCompletes := by
  intro s st boundary untaken
  refine ⟨_, _, rfl, rfl, ?_⟩
  have due : ¬(s.time.st = .acquire ∨ (!s.time.isBoundary s.time.count) = true ∨ s.time.lastBoundary = some s.time.count) := by
    simp [st, boundary, untaken]
  refine (congrArg Host.Outcome.next (if_neg due)).trans ?_
  have upsets : ({ s with time := { s.time with lastBoundary := some s.time.count, pitches := s.time.pitches + 1 } } :
      State).flushCorrected.clearPitchLimits.upsets = s.upsets := State.flushCorrected_upsets _
  simp only [upsets, List.foldl_map]

end Sys2Proof.Machine
end

section
/-! PROOFS. The resets that the time base outlives (R45), and short stamps (R39). -/

namespace Sys2Proof.Machine

/-! ### What resets leave alone -/

@[simp] theorem State.send_time (s : State) (p : Packet) : (s.send p).time = s.time := by rw [State.send_frame]

@[simp] theorem State.wake_time (s : State) (a st : Nat) (sel : Monitor → Bool) : (s.wake a st sel).time = s.time := by rw [State.wake_frame]

@[simp] theorem State.absorbPkts_time (s : State) (r : PReset) : (s.absorbPkts r).time = s.time :=
  foldl_keeps State.time (fun (s : State) (p : Packet) => s.bump (R.CLU_RTR_DROP p.dest.cluster) F.CLU_RTR_DROP_FENCED (1 + p.pkt.body))
    (fun _ _ => rfl) _ s

@[simp] theorem State.abandonUpd_time (s : State) (u : UpdRun) : (s.abandonUpd u).time = s.time :=
  foldl_keeps State.time (fun (s : State) (r : Nat × Nat) => ({ s with draws := s.draws + 1 } : State).wr r.1
    ((List.range r.2).map (Config.freeByte s.draws)) (s.badIn r.1 r.2)) (fun _ _ => rfl) u.outs s

@[simp] theorem State.setAncPois_time (s : State) (a : Nat) (v : Bool) : (s.setAncPois a v).time = s.time := rfl

@[simp] theorem State.disableStreamsOf_time (s : State) (g : Nat) : (s.disableStreamsOf g).time = s.time := rfl

@[simp] theorem State.poisonAnchors_time (s : State) (g : Nat) : (s.poisonAnchors g).time = s.time := by
  unfold State.poisonAnchors; dsimp only
  refine Eq.trans (State.disableStreamsOf_time _ g) ?_
  refine Eq.trans (foldl_keeps State.time _ (fun _ _ => State.wake_time _ _ _ _) _ _) ?_
  exact foldl_keeps State.time _ (fun _ _ => State.setAncPois_time _ _ _) _ s

@[simp] theorem State.advanceEpoch_time (s : State) (key w : Nat) : (s.advanceEpoch key w).time = s.time :=
  foldl_keeps State.time _ (fun _ _ => State.send_time _ _) _ s

/-- The scope of a partial reset is reset without the time base. -/
theorem State.resetScope_time (s : State) (r : PReset) : (s.resetScope r).time = s.time := by
  have logic : ∀ (s : State) (g : Nat), (((s.clu g).upd.toList.foldl State.abandonUpd s).poisonAnchors g).time = s.time := fun s g =>
    (State.poisonAnchors_time _ _).trans (foldl_keeps State.time _ State.abandonUpd_time _ s)
  unfold State.resetScope; dsimp only
  refine Eq.trans (foldl_keeps State.time _ (fun _ _ => State.advanceEpoch_time _ _ _) _ _) ?_
  refine Eq.trans (foldl_keeps State.time _ (fun _ _ => State.advanceEpoch_time _ _ _) _ _) ?_
  refine Eq.trans (foldl_keeps State.time _ (fun _ _ => State.setFld_time _ _ _ _) _ _) ?_
  refine Eq.trans (foldl_keeps State.time _ (fun _ _ => (State.setClu_time _ _ _).trans (logic _ _)) _ _) ?_
  refine Eq.trans (foldl_keeps State.time _ (fun _ _ => State.setCell_time _ _ _) _ _) ?_
  exact s.absorbPkts_time r

/-- Settles O58: a module reset does not name the time base, `State.resetScope_time` says so of a partial one, and power-off takes its reset value. -/
theorem timeOutlivesResets : Obligations.TimeOutlivesResets := by
  refine ⟨fun _ _ => rfl, fun r s => s.resetScope_time r, fun s on => ⟨_, congrArg Host.Outcome.next (if_pos on), rfl, rfl, rfl⟩⟩

/-! ### Short stamps (R39) -/

theorem extendWs_mod {w : Nat} (now : Nat) (h : w < 2 ^ 32) : extendWs now w % 2 ^ 32 = w := by
  simp only [extendWs]; split
  · omega
  · split <;> omega

/-- No count with the same low 32 bits is nearer. -/
theorem extendWs_nearest (now c : Nat) : ((extendWs now (c % 2 ^ 32) : Int) - now).natAbs ≤ ((c : Int) - now).natAbs := by
  simp only [extendWs]; split
  · omega
  · split <;> omega

/-- A count within 2^31 - 1 of the receiver's is found. -/
theorem extendWs_near {now c : Nat} (above : now ≤ c + (2 ^ 31 - 1)) (below : c ≤ now + (2 ^ 31 - 1)) : extendWs now (c % 2 ^ 32) = c := by
  simp only [extendWs]; split
  · omega
  · split <;> omega

theorem State.countPoison_time (s : State) (a n : Nat) : (s.countPoison a n).time = s.time := by
  unfold State.countPoison; split
  · rfl
  · split
    · rfl
    · split <;> rfl

/-- Storing in a tier leaves the time base. -/
theorem State.tierWrite_time (s : State) (a : Nat) (bs : List Byte) (bad : List Nat) : (s.tierWrite a bs bad).time = s.time :=
  State.countPoison_time _ _ _

/-- A unit in time arrives at its stream with its DUE extended. -/
theorem State.camData_inTime {s : State} {p : Nat} {f : List Byte} {x : CamStream} (hx : x = s.stream (numAt f 0x0C 2)) (lt : numAt f 0x0C 2 < 4096)
    (on : x.enabled = true) (recv : x.recv = true) (port : x.port = p) (peer : x.peerModule = numAt f 8 2)
    (early : s.time.count < extendWs s.time.count (numAt f 4 4)) :
    ((s.camData p f).stream (numAt f 0x0C 2)).arrived = x.arrived ++ [⟨numAt f 0x10 8, extendWs s.time.count (numAt f 4 4), false⟩] := by
  subst hx
  have taken : ¬(4096 ≤ numAt f 0x0C 2 ∨ (!(s.stream (numAt f 0x0C 2)).enabled) = true ∨ (!(s.stream (numAt f 0x0C 2)).recv) = true ∨
      (s.stream (numAt f 0x0C 2)).port ≠ p ∨ (s.stream (numAt f 0x0C 2)).peerModule ≠ numAt f 8 2) := by simp [lt, on, recv, port, peer]
  simp only [State.camData, if_neg taken, State.tierWrite_time, decide_eq_false (Nat.not_le.2 early), Bool.false_eq_true, if_false, Bool.false_and,
    State.stream_setStream]

/-- Settles O55: the stamp's extension, and its use where DATA arrives. -/
theorem shortStampsExtendToTheNearestCount : Obligations.ShortStampsExtendToTheNearestCount := by
  refine ⟨fun now w h => ⟨extendWs_mod now h, ?_⟩, fun _ _ above below => extendWs_near above below, ?_⟩
  · rintro c rfl
    exact extendWs_nearest now c
  · rintro p _ f x s rfl hx lt on recv port peer early
    exact State.camData_inTime hx lt on recv port peer early

end Sys2Proof.Machine
end

section
/-! PROOFS. Sections in place, the cell's part (files 04 and 05): Q.END (R85, R105), and the issue into an engine's queue (R100, R106,
R108, R109). -/

namespace Sys2Proof.Machine

/-! ### The commands and their meanings -/

theorem exec_qEnd (c : Fin 4096) (s : State) : exec (.qEnd c) s = execQEnd c s := by rfl

theorem exec_instructionIssue (c : Fin 4096) (s : State) : exec (.instructionIssue c) s = .next (s.issue c.val) := by rfl

/-! ### What leaves a cell's team alone -/

/-- No counter of a cell is a SECT_TEAM, which holds the team numbers (Tables 49 and 68). -/
theorem State.teamOfCell_count (s : State) (L : Nat) {k : Nat} (n : Nat) (hk : k < 8) : (s.count L k n).teamOfCell L = s.teamOfCell L := by
  have apart : R.SECT_TEAM (L / 64) ≠ R.CELL_CNT L k := by simp only [R.SECT_TEAM, R.CELL_CNT, Blk.base]; omega
  unfold State.count
  split
  · rfl
  · exact State.fld_setFld_ne s _ _ _ apart

/-! ### Q.END (R85, R105) -/

@[simp] theorem Cell.counted_inFlight (c : Cell) (i : CellInstr) : (c.counted i).inFlight = c.inFlight := rfl
@[simp] theorem Cell.counted_lead (c : Cell) (i : CellInstr) : (c.counted i).lead = c.lead := rfl
@[simp] theorem Cell.counted_loops (c : Cell) (i : CellInstr) : (c.counted i).loops = c.loops := rfl
@[simp] theorem Cell.counted_chIn (c : Cell) (i : CellInstr) : (c.counted i).chIn = c.chIn := rfl

/-- Q.END at the PC of a cell that issues. -/
theorem execQEnd_issues {s : State} {c : Fin 4096} (now : s.issuesNow c.val .qEnd) : execQEnd c s =
    .next (((s.setCell c.val ((s.cell c.val).counted .qEnd)).qEnd c.val ((s.cell c.val).counted .qEnd)).getD s) := by
  obtain ⟨may, sound, word⟩ := now
  exact congrArg Host.Outcome.next (State.seqStep_issues may sound word)

/-- Once every earlier instruction has completed, the team enters SWITCHING if it runs, and the cell ends. -/
theorem State.qEnd_done {u v : State} {k : Cell} {L : Nat} (idle : k.inFlight = []) (tags : k.lead.tags = []) (out : k.loops = [])
    (hv : v = if ((u.count L 1 1).team (u.teamOfCell L)).run = .running then (u.count L 1 1).enterSwitching (u.teamOfCell L) else u.count L 1 1) :
    u.qEnd L k = some ((((v.setCell L { v.cell L with st := .ending, chIn := k.chIn.map (fun i => { i with took := false }) }).closeBelay L).sendMarkers
      L).endProgress L) := by
  simp [State.qEnd, idle, tags, out, ← hv]

/-- Inside a loop body it is LOOP_BAD. -/
theorem State.qEnd_inLoop {u : State} {k : Cell} {L : Nat} (idle : k.inFlight = []) (tags : k.lead.tags = []) (inside : k.loops ≠ []) :
    u.qEnd L k = some (u.issueFault L 0x3144) := by
  simp [State.qEnd, idle, tags, inside]

/-! ### Issue into a queue (R100, R106, R109) -/

/-- Resuming from a cursor takes the cursor away and touches nothing else of the cell. -/
theorem Cell.takeCursor_frame {c k : Cell} {i : CellInstr} {cur : Resume} (h : c.takeCursor i = (k, cur)) :
    ∃ v m f, k = { c with veStop := v, mergeStop := m, lead := { c.lead with cursor := f } } := by
  unfold Cell.takeCursor at h
  repeat' split at h
  all_goals cases h; exact ⟨_, _, _, rfl⟩

@[simp] theorem Cell.setQueue_loops (c : Cell) (e : Engine) (l : List QInstr) : (c.setQueue e l).loops = c.loops := by cases e <;> rfl
@[simp] theorem Cell.setQueue_pc (c : Cell) (e : Engine) (l : List QInstr) : (c.setQueue e l).pc = c.pc := by cases e <;> rfl

/-- A word with no legal instruction faults at issue (R108). -/
theorem State.issue_illegal {s : State} {L : Nat} (may : (s.cell L).issues = true) (sound : s.bankErr L = none) (noWord : (s.cell L).atPc = none) :
    s.issue L = s.issueFault L 0x3140 := by
  simp [State.issue, may, State.bankMeet_none sound, noWord]

/-- An instruction enters its engine's queue with the increments that are still outstanding, and the PC moves on. -/
theorem State.issue_enters {s : State} {L : Nat} {i : CellInstr} {e : Engine} {k : Cell} {cur : Resume} {live : List XInc} (now : s.issuesNow L i)
    (eng : i.engine = some e) (room : (s.cell L).room i = true) (take : (s.cell L).takeCursor i = (k, cur))
    (out : live = (s.cell L).incs.filter (fun j => (s.cell L).inFlight.any (fun p => decide (p.seq = j.seq))))
    (inside : (loopNext (s.cell L).loops (s.cell L).pc).2 < 8192) :
    s.issue L = (s.count L 1 1).setCell L { (k.setQueue e (k.queue e ++ [k.entry i live cur])) with
      issued := (s.cell L).issued + 1, x := i.incX (s.cell L).store (s.cell L).x,
      incs := live ++ (if i.allOrNone then (i.steps (s.cell L).store).map (fun p => ⟨p.1.toNat, (s.cell L).issued, p.2⟩) else []),
      loops := (loopNext (s.cell L).loops (s.cell L).pc).1, pc := (loopNext (s.cell L).loops (s.cell L).pc).2 } := by
  obtain ⟨may, sound, word⟩ := now
  obtain ⟨v, m, f, rfl⟩ := Cell.takeCursor_frame take
  simp only [State.issue, may, State.bankMeet_none sound, word, eng, room, take, ← out, Bool.not_true, Bool.false_eq_true, if_false]
  rw [State.advance_inside]
  · simp
  · simpa using inside

/-- Settles O7, clause by clause: Q.END outside and inside a loop, an engine's instruction and an illegal word at issue. -/
theorem issueAndEndComplete : Obligations.IssueAndEndComplete := by
  refine ⟨?_, ?_, ?_, ?_⟩
  · intro c s now idle tags out
    refine ⟨_, _, rfl, rfl, ?_⟩
    rw [exec_qEnd, execQEnd_issues now, State.teamOfCell_count _ _ _ (by decide), State.qEnd_done (by simpa) (by simpa) (by simpa) rfl,
      Cell.counted_chIn, Option.getD_some]
  · intro c i e s k cur live now eng room take out inside
    rw [exec_instructionIssue, State.issue_enters now eng room take out inside]
  · intro c s now idle tags inside
    rw [exec_qEnd, execQEnd_issues now, State.qEnd_inLoop (by simpa) (by simpa) (by simpa), Option.getD_some]
  · intro c s may sound noWord
    rw [exec_instructionIssue, State.issue_illegal may sound noWord]

end Sys2Proof.Machine
end

section
/-! PROOFS. Sections in place (file 04): the switch of a cell, a controller and a team (R81, R88, R90, R91), its bound (R82), stops at rest (R348), the drain
(R486), moves (R96, R320), and the bivouac's write and restore (R97, R98). -/

namespace Sys2Proof.Machine

/-! ### The switch of a cell (R88) -/

/-- A cell may switch: its team switches, its outgoing program is through, and no stop holds it. -/
structure State.SwitchDue (s : State) (L : Nat) : Prop where
  switching : (s.team (s.teamOfCell L)).run = .switching
  before : (s.cell L).switched = false
  ended : (s.cell L).ended = true
  noReq : (s.cell L).stopReq = false
  noStop : (s.cell L).stopping = false

/-- Nothing holds back a cell that may switch. -/
theorem State.SwitchDue.not_held {s : State} {L : Nat} (h : s.SwitchDue L) : ¬((s.team (s.teamOfCell L)).run ≠ .switching ∨ (s.cell L).switched = true ∨
    (!(s.cell L).ended) = true ∨ (s.cell L).stopReq = true ∨ (s.cell L).stopping = true) := by
  simp [h.switching, h.before, h.ended, h.noReq, h.noStop]

section CellSwitch
variable {s : State} {c : Fin 4096}

/-- A cell of the staged section takes its tables. -/
theorem exec_cellSwitch_staged (due : s.SwitchDue c.val) (staged : (s.cell c.val).staged = true) : exec (.cellSwitch c) s =
    .next (((s.cellSwitch c.val).members (s.teamOfCell c.val)).foldl (fun x p => x.bump (R.SECT_STATUS p) F.SECT_STATUS_CELLS_SWITCHED 1)
      (s.cellSwitch c.val)) :=
  congrArg Host.Outcome.next ((if_neg due.not_held).trans (if_pos staged))

/-- A cell outside it goes idle. -/
theorem exec_cellSwitch_outside {u : State} (due : s.SwitchDue c.val) (out : (s.cell c.val).staged = false) (ending : (s.cell c.val).st = .ending)
    (hu : u = (s.countTime c.val).setCell c.val { s.cell c.val with
      st := .idle, switched := true, chIn := (s.cell c.val).chIn.map (fun i => { i with bind := none, took := false }),
      tx := List.replicate 4 {}, rx := List.replicate 4 {} }) :
    exec (.cellSwitch c) s = .next ((u.members (s.teamOfCell c.val)).foldl (fun x p => x.bump (R.SECT_STATUS p) F.SECT_STATUS_CELLS_SWITCHED 1) u) := by
  subst hu
  exact congrArg Host.Outcome.next ((if_neg due.not_held).trans ((if_neg (Bool.not_eq_true _ ▸ out)).trans (if_pos ending)))

end CellSwitch

/-! ### The fills of a switch (R88) -/

/-- A fill whose weight copies, if any, all match starts the program. -/
theorem exec_switchFillDone_matched {s u v : State} {c : Fin 4096} (fill : (s.cell c.val).filling = true)
    (hu : u = if (s.cell c.val).store.hasConst then s.fillConst c.val else s)
    (copies : (u.cell c.val).store.copies.foldl (fun (x : State × Bool) w => ((x.1.weightCopy c.val w).1, x.2 && (x.1.weightCopy c.val w).2)) (u, true) =
      (v, true)) :
    exec (.switchFillDone c) s = .next ((v.setCell c.val { v.cell c.val with filling := false }).startProgram c.val) := by
  have e : exec (.switchFillDone c) s = execSwitchFillDone c s := by rfl
  simp only [e, execSwitchFillDone, fill, ← hu, copies, Bool.not_true, Bool.false_eq_true, if_false, if_true]

/-- Starting the program of a cell that has just been replaced: with no program in its tables it goes idle. -/
theorem State.startProgram_setCell (s : State) (L : Nat) (c : Cell) : (s.setCell L c).startProgram L =
    s.setCell L { c with filling := false, st := if c.store.prog.isEmpty then .idle else .running } := by
  simp [State.startProgram]

/-! ### The switch of a controller and of a team (R90, R91, R328) -/

/-- The controller of a cluster that switches: it takes the staged program, if there is one, and starts it in U mode. -/
def Ctl.switchTo (c : Ctl) : Ctl :=
  if c.progShadow.isEmpty then { c with prog := [], progShadow := c.prog, sereq := false }
  else { c with prog := c.progShadow, progShadow := c.prog, st := .user, umode := true, pc := 0, x := List.replicate 32 0, wait := .none, sereq := false }

theorem Ctl.switchTo_none {c : Ctl} (h : c.progShadow = []) : c.switchTo = { c with prog := [], progShadow := c.prog, sereq := false } := by
  simp [Ctl.switchTo, h]

theorem Ctl.switchTo_some {c : Ctl} (h : c.progShadow ≠ []) : c.switchTo =
    { c with prog := c.progShadow, progShadow := c.prog, st := .user, umode := true, pc := 0, x := List.replicate 32 0, wait := .none, sereq := false } := by
  simp [Ctl.switchTo, h]

/-- A controller with no program running switches once every cell of its cluster is through. -/
theorem exec_controllerSwitch_due {s : State} {g : Fin 256} (run : (s.team (s.teamOfClu g.val)).run = .switching)
    (staged : (s.team (s.teamOfClu g.val)).staged ≠ none) (before : (s.clu g.val).switched = false) (st : (s.clu g.val).ctl.st ≠ .user)
    (through : (s.switchCells (s.teamOfClu g.val)).all (fun L => decide (s.clusterOf L ≠ g.val) || s.cellThrough L) = true) :
    exec (.controllerSwitch g) s = .next (s.setClu g.val { s.clu g.val with
      ctl := (s.clu g.val).ctl.switchTo, plaus := (s.clu g.val).plausShadow, plausShadow := (s.clu g.val).plaus, switched := true,
      router := { (s.clu g.val).router with switchDue := true } }) := by
  refine congrArg Host.Outcome.next (if_neg ?_)
  rintro (no | no | no | no | no)
  · exact no run
  · simp [before] at no
  · rw [through] at no; cases no
  · exact st no
  · exact staged (Option.isNone_iff_eq_none.1 no)

/-- A team whose cells, controllers and routers have all switched runs the staged section. -/
theorem exec_teamSwitchComplete_due {s : State} {p : Fin 64} {y : Sect} (run : (s.team p.val).run = .switching) (staged : (s.team p.val).staged = some y)
    (cells : (s.switchCells p.val).all s.cellThrough = true) (sect : (s.sectCells y).all (fun L => (s.cell L).switched) = true)
    (clus : (s.partClus y.binding).all (fun g => (s.clu g).switched && !(s.clu g).router.switchDue) = true) :
    exec (.teamSwitchComplete p) s = .next (s.teamSwitched p.val y) := by
  have e : exec (.teamSwitchComplete p) s = execTeamSwitchComplete p s := by rfl
  simp only [e, execTeamSwitchComplete, run, staged, cells, sect, clus, ne_eq, not_true_eq_false, if_false, Bool.and_self, if_true]

/-- Settles O15, clause by clause: a cell of the staged section and one outside it, the fills, the controller and the team. -/
theorem switchCompletes : Obligations.SwitchCompletes := by
  refine ⟨?_, ?_, ?_, ?_, ?_, ?_⟩
  · intro c s run before ended noReq noStop staged
    exact exec_cellSwitch_staged ⟨run, before, ended, noReq, noStop⟩ staged
  · intro c s u run before ended noReq noStop out ending hu
    exact exec_cellSwitch_outside ⟨run, before, ended, noReq, noStop⟩ out ending hu
  · intro c s fill noConst noCopies
    rw [exec_switchFillDone_matched (u := s) (v := s) fill (by simp [noConst]) (by simp [noCopies]), State.startProgram_setCell]
  · intro c s u v fill hu copies
    exact exec_switchFillDone_matched fill hu copies
  · intro g s run staged before st through
    refine ⟨_, exec_controllerSwitch_due run staged before st through, ?_⟩
    by_cases shadow : (s.clu g.val).ctl.progShadow = []
    · simp [Ctl.switchTo_none shadow, shadow]
    · simp [Ctl.switchTo_some shadow, shadow]
  · intro p y s run staged cells sect clus
    exact exec_teamSwitchComplete_due run staged cells sect clus

/-! ### Stops at rest (R348), bounds (R82), drains (R486) and moves (R96, R320) -/

theorem exec_switchTimeout_passed {s : State} {p : Fin 64} {d : Nat} (run : (s.team p.val).run = .switching) (bound : (s.team p.val).swDeadline = some d)
    (passed : d ≤ s.time.count) : exec (.switchTimeout p) s = .next (s.abortSwitch p.val evSwitchTimeout evSwitchTimeout) := by
  have e : exec (.switchTimeout p) s = execSwitchTimeout p s := by rfl
  simp only [e, execSwitchTimeout, run, bound, if_pos passed]

theorem exec_traverseStart_due {s : State} {p : Fin 64} {c : Change} (change : (s.team p.val).change = some c)
    (moves : c.op = 3 ∨ c.op = 2 ∧ (s.team p.val).bare = false) (before : c.started = false) (due : c.w ≤ s.time.count)
    (through : s.finishing p.val = false) : exec (.traverseStart p) s = .next (s.startMove p.val c) := by
  have e : exec (.traverseStart p) s = execTraverseStart p s := by rfl
  simp [e, execTraverseStart, change, moves, before, due, through]

/-! ### The bivouac's record (R97, R98, R312) -/

/-- A request that may be bivouacked, or that a move carries, is written out and does not expire. -/
theorem State.spillOut_kept {s : State} {r : Nat} {q : Request} (kept : s.bivLife q.tenant ≠ 0 ∨ q.moved ≠ none) (whole : Bool) :
    s.spillOut r q whole = s.writeOut r q whole := by
  refine if_neg ?_
  rintro ⟨life, moved⟩
  exact kept.elim (absurd life) (absurd (Option.isNone_iff_eq_none.1 moved))

/-- The record of a job that is quiet, in the sense of its team's state, is written. -/
theorem exec_bivouacWrite_quiet {s : State} {r j : Nat} {q : Request} (req : s.req r = some q) (spill : q.spill = true) (going : q.cancelling = none)
    (job : q.job = some j) (upd : s.updQuiet q.team j = true) (kept : s.bivLife q.tenant ≠ 0 ∨ q.moved ≠ none)
    (whole : (s.team q.team).run = .traverse → (s.partCells (s.members q.team)).all (fun L => (s.cell L).atRest) = true ∧ s.tilesFly q.team = false)
    (alone : (s.team q.team).run ≠ .traverse → s.jobQuiet q.team j = true) :
    exec (.bivouacWrite r) s = .next (s.writeOut r q (decide ((s.team q.team).run = .traverse))) := by
  have e : exec (.bivouacWrite r) s = execBivouacWrite r s := by rfl
  by_cases trav : (s.team q.team).run = .traverse
  · obtain ⟨rest, landed⟩ := whole trav
    simp [e, execBivouacWrite, req, spill, going, job, upd, trav, rest, landed, State.spillOut_kept kept]
  · simp [e, execBivouacWrite, req, spill, going, job, upd, trav, alone trav, State.spillOut_kept kept]

theorem exec_bivouacRestore_due {s : State} {r j : Nat} {q : Request} {dyn : Option Nat} {x : Sect} (req : s.req r = some q)
    (due : s.startDue r q 0 = true) (record : q.record = true) (job : s.jobFor q = some (j, dyn)) (run : (s.team q.team).running = some x) :
    exec (.bivouacRestore r) s = .next (s.restoreReq r q j dyn x) := by
  have e : exec (.bivouacRestore r) s = execBivouacRestore r s := by rfl
  simp [e, execBivouacRestore, req, due, record, job, run]

/-- Settles O16, clause by clause: the switch's bound, the drain, the move, the stop of a cell, its rest, and the bivouac's record. -/
theorem stopsAndDrainsComplete : Obligations.StopsAndDrainsComplete := by
  refine ⟨?_, ?_, ?_, ?_, ?_, ?_, ?_⟩
  · intro p d s run bound passed
    rw [exec_switchTimeout_passed run bound passed, State.abortSwitch]
  · intro p s run cells clus landed
    exact congrArg Host.Outcome.next (if_pos ⟨run, cells, clus, by simp [landed]⟩)
  · intro p c s change moves before due through
    exact exec_traverseStart_due change moves before due through
  · intro c s asked before
    exact congrArg Host.Outcome.next (if_pos ⟨asked, by simp [before]⟩)
  · intro c s stopping before quiet
    exact congrArg Host.Outcome.next (if_pos ⟨stopping, by simp [before], quiet⟩)
  · intro r q j s req spill going job upd kept whole alone
    exact exec_bivouacWrite_quiet req spill going job upd kept whole alone
  · intro r q j dyn x s req due record job run
    exact exec_bivouacRestore_due req due record job run

end Sys2Proof.Machine
end

section
/-! PROOFS. Packets of rope channels (files 04 and 10): tiles, markers and credits at the cell they reach (R85, R266 to R268). -/

namespace Sys2Proof.Machine

/-- A packet that arrives goes to its meaning, as it is received. -/
theorem State.onPkt_arrives {s u : State} {type n : Nat} {p : Packet} (h : s.arrives type n p u) (f : State → Packet → State) :
    s.onPkt (fun y => decide (y.pkt.type = type)) n f = f u p := by
  obtain ⟨⟨v, x, take, sound⟩, w, y, ejected, received⟩ := h
  rw [State.onPkt_some ⟨⟨v, x, take, sound⟩, ejected⟩, received]

section Channels
variable {s u : State} {n : Nat} {p : Packet}

/-- A tile from the bound sender takes a slot of the channel; any other is a CHAN_MISMATCH. -/
theorem exec_chTile_arrives {t : ChTile} {ch : Nat} (h : s.arrives 0x01 n p u) (tile : p.pkt = .chTile t ch) : exec (.chTile n) s = .next (
    if (nthD (u.cell (u.cellOf p.dest)).chIn ch {}).names t.src t.srcChan then
      (u.setCell (u.cellOf p.dest) { u.cell (u.cellOf p.dest) with
        chIn := (u.cell (u.cellOf p.dest)).chIn.set ch { nthD (u.cell (u.cellOf p.dest)).chIn ch {} with
          slots := (nthD (u.cell (u.cellOf p.dest)).chIn ch {}).slots ++ [t] } }).endProgress (u.cellOf p.dest)
    else u.chanMismatch (u.cellOf p.dest)) := by
  have e : exec (.chTile n) s = execChTile n s := by rfl
  rw [e, execChTile, State.onPkt_arrives h]
  simp only [tile]

/-- A marker from the bound sender sets the channel's latch. -/
theorem exec_chMarker_named {sc ch src : Nat} (h : s.arrives 0x02 n p u) (marker : p.pkt = .chMarker sc ch) (sender : p.sender = .cell src)
    (named : (nthD (u.cell (u.cellOf p.dest)).chIn ch {}).names src sc = true) : exec (.chMarker n) s = .next (
      (u.setCell (u.cellOf p.dest) { u.cell (u.cellOf p.dest) with
        chIn := (u.cell (u.cellOf p.dest)).chIn.set ch { nthD (u.cell (u.cellOf p.dest)).chIn ch {} with latch := true } }).endProgress
          (u.cellOf p.dest)) := by
  have e : exec (.chMarker n) s = execChMarker n s := by rfl
  rw [e, execChMarker, State.onPkt_arrives h]
  simp only [marker, sender, if_pos named]

/-- Credits from the bound receiver come back, four at most. -/
theorem exec_chCredit_named {oc ic k src : Nat} {b : ChanBind} {o : ChanOut} (h : s.arrives 0x03 n p u) (credit : p.pkt = .chCredit oc ic k)
    (sender : p.sender = .cell src) (out : o = nthD (u.cell (u.cellOf p.dest)).chOut oc {}) (bound : o.bind = some b) (peer : b.peer = src)
    (chan : b.peerChan = ic) (room : o.credits + k ≤ 4) : exec (.chCredit n) s = .next (
      u.setCell (u.cellOf p.dest) { u.cell (u.cellOf p.dest) with
        chOut := (u.cell (u.cellOf p.dest)).chOut.set oc { o with credits := o.credits + k } }) := by
  have e : exec (.chCredit n) s = execChCredit n s := by rfl
  rw [e, execChCredit, State.onPkt_arrives h]
  simp [credit, sender, ← out, bound, peer, chan, room]

end Channels

/-- Settles O21, clause by clause: a tile, a marker and a credit of the binding, and a tile that no binding names. -/
theorem channelPacketsComplete : Obligations.ChannelPacketsComplete := by
  refine ⟨?_, ?_, ?_, ?_⟩
  · intro n p t ch s u h tile named
    rw [exec_chTile_arrives h tile, if_pos named]
  · intro n p sc ch src s u h marker sender named
    exact exec_chMarker_named h marker sender named
  · intro n p oc ic k src b o s u h credit sender out bound peer chan room
    exact exec_chCredit_named h credit sender out bound peer chan room
  · intro n p t ch s u h tile unnamed
    rw [exec_chTile_arrives h tile, if_neg (by simp [unnamed])]

end Sys2Proof.Machine
end

section
/-! PROOFS. The words of a cell's instructions (file 05, R106): the fields of a word read back what was placed in them, and decode and encode agree. -/

namespace Sys2Proof.Machine

/-! ### Fields of a word -/

@[simp] theorem fw_or (x y : Word) (lo w : Nat) : fw (x ||| y) lo w = fw x lo w ||| fw y lo w := BitVec.extractLsb'_or

/-- A field reads what was placed in it. -/
theorem fw_pw_same {w : Nat} (lo : Nat) (v : BitVec w) (inWord : lo + w ≤ 64) : fw (pw lo v) lo w = v := by
  apply BitVec.eq_of_getLsbD_eq
  intro i hi
  simp [fw, pw, hi, show lo + i < 64 by omega]

/-- A field reads nothing of what was placed above it. -/
theorem fw_pw_above {w lo lo' : Nat} (w' : Nat) (v : BitVec w) (above : lo' + w' ≤ lo) : fw (pw lo v) lo' w' = 0 := by
  apply BitVec.eq_of_getLsbD_eq
  intro i hi
  simp [fw, pw, hi, show lo' + i < lo by omega]

/-- A field reads nothing of what was placed below it. -/
theorem fw_pw_below {w lo lo' : Nat} (w' : Nat) (v : BitVec w) (below : lo + w ≤ lo') : fw (pw lo v) lo' w' = 0 := by
  apply BitVec.eq_of_getLsbD_eq
  intro i hi
  simp [fw, pw, hi, show ¬ lo' + i < lo by omega, BitVec.getLsbD_of_ge v (lo' + i - lo) (by omega)]

/-- The opcode byte of a word (R106). -/
theorem fw_opw_opcode (o : Nat) : fw (opw o) 56 8 = BitVec.ofNat 8 o := fw_pw_same 56 _ (by decide)

/-- Below its opcode byte the word of an opcode alone is empty. -/
theorem fw_opw_below (o : Nat) {lo w : Nat} (h : lo + w ≤ 56) : fw (opw o) lo w = 0 := fw_pw_above w _ h

/-! ### Decode and encode -/

/-- The word of an instruction carries its opcode and every operand. -/
theorem CellInstr.fields_encode (i : CellInstr) : CellInstr.fields i.encode = some i := by
  cases i <;> simp (disch := omega) [CellInstr.fields, CellInstr.encode, fw_opw_opcode, fw_opw_below, fw_pw_same, fw_pw_above, fw_pw_below]

theorem CellInstr.decode_encode (i : CellInstr) : CellInstr.decode i.encode = some i := by
  simp [CellInstr.decode, CellInstr.fields_encode]

/-- A word decodes only to an instruction whose word it is. -/
theorem CellInstr.encode_of_decode {x : Word} {i : CellInstr} (h : CellInstr.decode x = some i) : i.encode = x := by
  unfold CellInstr.decode at h
  split at h
  · split at h
    · next same => cases h; exact same
    · cases h
  · cases h

/-- Settles O46: each instruction's word carries its fields apart from one another, and decoding keeps only the words that encoding gives. -/
theorem cellWordsDecodeAndEncodeAgree : Obligations.CellWordsDecodeAndEncodeAgree := by
  refine ⟨CellInstr.decode_encode, fun x i => CellInstr.encode_of_decode, fun i j same => ?_⟩
  exact Option.some.inj (by rw [← CellInstr.decode_encode i, same, CellInstr.decode_encode j])

end Sys2Proof.Machine
end

section
/-! PROOFS. The sequencer (file 05): what its own instructions do at issue (R103, R105), and the frame of these and of an issue (R100, R109). -/

namespace Sys2Proof.Machine

/-! ### The word at the PC, counted -/

@[simp] theorem Cell.counted_pc (c : Cell) (i : CellInstr) : (c.counted i).pc = c.pc := rfl
@[simp] theorem Cell.counted_x (c : Cell) (i : CellInstr) : (c.counted i).x = c.x := rfl
@[simp] theorem Cell.counted_incs (c : Cell) (i : CellInstr) : (c.counted i).incs = c.incs := rfl
@[simp] theorem Cell.counted_mbox (c : Cell) (i : CellInstr) : (c.counted i).mbox = c.mbox := rfl
@[simp] theorem Cell.counted_store (c : Cell) (i : CellInstr) : (c.counted i).store = c.store := rfl

/-- The word at the PC goes to its meaning with the cell counted. -/
theorem State.seqStep_counted {s : State} {L : Nat} {i : CellInstr} (f : State → Cell → CellInstr → Option State) (now : s.issuesNow L i) :
    s.seqStep L f = (f (s.setCell L ((s.cell L).counted i)) ((s.cell L).counted i) i).getD s := by
  obtain ⟨may, sound, word⟩ := now
  exact State.seqStep_issues may sound word

/-- A command that finds another word than its own does nothing. -/
theorem State.seqStep_other {s : State} {L : Nat} {i : CellInstr} {f : State → Cell → CellInstr → Option State} (now : s.issuesNow L i)
    (other : ∀ u k, f u k i = none) : s.seqStep L f = s := by
  rw [State.seqStep_counted f now, other, Option.getD_none]

/-- Counting the word and moving past it, when its successor stays in the bank. -/
theorem State.count_advance (s : State) (L op : Nat) {k : Cell} (inside : (loopNext k.loops k.pc).2 < 8192) :
    ((s.setCell L k).count L 1 1).advance L op =
      (s.count L 1 1).setCell L { k with loops := (loopNext k.loops k.pc).1, pc := (loopNext k.loops k.pc).2 } := by
  rw [State.count_setCell, State.advance_inside (by simpa using inside)]
  simp

/-- Replacing the counted cell before moving on. -/
theorem State.count_setCell_advance (s : State) (L op : Nat) (j : Cell) {k : Cell} (inside : (loopNext k.loops k.pc).2 < 8192) :
    (((s.setCell L j).count L 1 1).setCell L k).advance L op =
      (s.count L 1 1).setCell L { k with loops := (loopNext k.loops k.pc).1, pc := (loopNext k.loops k.pc).2 } := by
  rw [State.count_setCell, State.setCell_setCell, ← State.count_setCell, State.count_advance s L op inside]

section Sequencer
variable {s : State} {c : Fin 4096}

/-! ### The instructions that only move on (Table 53) -/

theorem exec_qNop_issues (now : s.issuesNow c.val .qNop) (inside : (loopNext (s.cell c.val).loops (s.cell c.val).pc).2 < 8192) :
    exec (.qNop c) s = .next ((s.count c.val 1 1).setCell c.val { (s.cell c.val).counted .qNop with
      loops := (loopNext (s.cell c.val).loops (s.cell c.val).pc).1, pc := (loopNext (s.cell c.val).loops (s.cell c.val).pc).2 }) := by
  have e : exec (.qNop c) s = execQNop c s := by rfl
  rw [e, execQNop, State.seqStep_counted _ now]
  exact congrArg Host.Outcome.next (State.count_advance s c.val 0x01 inside)

theorem exec_qSetx_issues {xd : BitVec 4} {imm : BitVec 32} (now : s.issuesNow c.val (.qSetx xd imm))
    (inside : (loopNext (s.cell c.val).loops (s.cell c.val).pc).2 < 8192) :
    exec (.qSetx c) s = .next ((s.count c.val 1 1).setCell c.val { (s.cell c.val).counted (.qSetx xd imm) with
      x := (s.cell c.val).x.set xd.toNat imm.toNat, incs := (s.cell c.val).incs.filter (fun j => decide (j.reg ≠ xd.toNat)),
      loops := (loopNext (s.cell c.val).loops (s.cell c.val).pc).1, pc := (loopNext (s.cell c.val).loops (s.cell c.val).pc).2 }) := by
  have e : exec (.qSetx c) s = execQSetx c s := by rfl
  rw [e, execQSetx, State.seqStep_counted _ now]
  exact congrArg Host.Outcome.next (State.count_setCell_advance s c.val 0x02 _ inside)

theorem exec_qAddx_issues {xd xs : BitVec 4} {imm : BitVec 32} (now : s.issuesNow c.val (.qAddx xd xs imm))
    (inside : (loopNext (s.cell c.val).loops (s.cell c.val).pc).2 < 8192) :
    exec (.qAddx c) s = .next ((s.count c.val 1 1).setCell c.val { (s.cell c.val).counted (.qAddx xd xs imm) with
      x := (s.cell c.val).x.set xd.toNat ((xval (s.cell c.val).x xs + imm.toNat) % 2 ^ 32),
      incs := (s.cell c.val).incs.filter (fun j => decide (j.reg ≠ xd.toNat)) ++
        ((s.cell c.val).incs.filter (fun j => decide (j.reg = xs.toNat))).map (fun j => { j with reg := xd.toNat }),
      loops := (loopNext (s.cell c.val).loops (s.cell c.val).pc).1, pc := (loopNext (s.cell c.val).loops (s.cell c.val).pc).2 }) := by
  have e : exec (.qAddx c) s = execQAddx c s := by rfl
  rw [e, execQAddx, State.seqStep_counted _ now]
  exact congrArg Host.Outcome.next (State.count_setCell_advance s c.val 0x03 _ inside)

/-! ### Loops and blocks (R103, R105) -/

/-- A loop that lies within the one around it and has a level free. -/
theorem State.qLoop_nested {k : Cell} {L : Nat} {n len : Nat} (room : k.loops.length < 4) (within : ∀ l ∈ k.loops.head?, k.pc + len ≤ l.last)
    (some_words : len ≠ 0) (inside : k.pc + 1 < 8192) :
    s.qLoop L k (n + 1) len = (s.count L 1 1).setCell L { k with loops := ⟨k.pc + 1, k.pc + len, n⟩ :: k.loops, pc := k.pc + 1 } := by
  cases loops : k.loops with
  | nil => simp [State.qLoop, loops, some_words, Nat.not_le.2 inside]
  | cons l r =>
    have shallow : r.length < 3 := Nat.lt_of_succ_lt_succ (by simpa [loops] using room)
    have nested : k.pc + len ≤ l.last := within l (by simp [loops])
    simp [State.qLoop, loops, some_words, nested, Nat.not_le.2 shallow, Nat.not_le.2 inside]

/-- A block whose entry names a word that was delivered is taken. -/
theorem State.takeBlock_delivered {k : Cell} {e : MboxEntry} (L : Nat) (r : List MboxEntry)
    (delivered : k.store.prog.any (fun w => decide (w.1 ≤ e.word) && decide (e.word < w.1 + w.2)) = true) :
    s.takeBlock L k e r = s.setCell L { k with
      mbox := r, pc := e.word, job := e.job, st := .running,
      lead := { k.lead with bases := e.bases.foldl (fun l b => l.set b.1 b.2) k.lead.bases } } := if_pos delivered

theorem exec_qLoop_issues {n1 : BitVec 16} {len : BitVec 13} (now : s.issuesNow c.val (.qLoop n1 len)) : exec (.qLoop c) s =
    .next ((s.setCell c.val ((s.cell c.val).counted (.qLoop n1 len))).qLoop c.val ((s.cell c.val).counted (.qLoop n1 len)) (n1.toNat + 1) len.toNat) := by
  have e : exec (.qLoop c) s = execQLoop c s := by rfl
  rw [e, execQLoop, State.seqStep_counted _ now, Option.getD_some]

/-- Q.BLOCK outside a loop takes the oldest entry. -/
theorem exec_qBlock_takes {e : MboxEntry} {r : List MboxEntry} (now : s.issuesNow c.val .qBlock) (out : (s.cell c.val).loops = [])
    (entry : (s.cell c.val).mbox = e :: r) : exec (.qBlock c) s =
      .next (((s.count c.val 1 1).setCell c.val ((s.cell c.val).counted .qBlock)).takeBlock c.val ((s.cell c.val).counted .qBlock) e r) := by
  have x : exec (.qBlock c) s = execQBlock c s := by rfl
  rw [x, execQBlock, State.seqStep_counted _ now]
  simp [out, entry, State.count_setCell]

/-- With an empty mailbox it waits. -/
theorem exec_qBlock_waits (now : s.issuesNow c.val .qBlock) (out : (s.cell c.val).loops = []) (empty : (s.cell c.val).mbox = []) :
    exec (.qBlock c) s = .next ((s.count c.val 1 1).setCell c.val { (s.cell c.val).counted .qBlock with st := .blockWait }) := by
  have x : exec (.qBlock c) s = execQBlock c s := by rfl
  rw [x, execQBlock, State.seqStep_counted _ now]
  simp [out, empty, State.count_setCell]

end Sequencer

/-- Settles O6, clause by clause: Q.NOP, Q.SETX, Q.ADDX, Q.LOOP, and Q.BLOCK with an entry, without one, and once one has come. -/
theorem sequencerInstructionsComplete : Obligations.SequencerInstructionsComplete := by
  refine ⟨?_, ?_, ?_, ?_, ?_, ?_, ?_⟩
  · intro c s now inside
    exact exec_qNop_issues now inside
  · intro c xd imm s now inside
    exact exec_qSetx_issues now inside
  · intro c xd xs imm s now inside
    exact exec_qAddx_issues now inside
  · intro c n1 len s now room within words inside
    have words : len.toNat ≠ 0 := fun zero => words (BitVec.eq_of_toNat_eq zero)
    rw [exec_qLoop_issues now, State.qLoop_nested (by simpa) (by simpa) words (by simpa), State.count_setCell, State.setCell_setCell]
    rfl
  · intro c e r s now out entry delivered
    rw [exec_qBlock_takes now out entry, State.takeBlock_delivered _ _ (by simpa using delivered), State.setCell_setCell]
    rfl
  · intro c s now out empty
    exact exec_qBlock_waits now out empty
  · intro c e r s waits going entry delivered
    have x : exec (.qBlockTake c) s = execQBlockTake c s := by rfl
    rw [x, execQBlockTake]
    simp only [entry]
    rw [if_pos ⟨waits, by simp [going]⟩, State.takeBlock_delivered _ _ delivered]

/-! ### The frame (R100, R109) -/

theorem State.reg_count_ne (s : State) (L k n : Nat) {a : Nat} (h : a ≠ R.CELL_CNT L k) : (s.count L k n).reg a = s.reg a := by
  unfold State.count
  split
  · rfl
  · exact State.reg_setFld_ne s _ _ h

/-- Nothing happens, or the word is counted and its cell replaced. -/
def State.countsWord (s : State) (L : Nat) (t : State) : Prop := t = s ∨ ∃ k, t = (s.count L 1 1).setCell L k

/-- An issue counts the word of an engine that has room, and leaves every other word. -/
theorem State.issue_countsWord {s : State} {L : Nat} {i : CellInstr} (now : s.issuesNow L i)
    (inside : (loopNext (s.cell L).loops (s.cell L).pc).2 < 8192) : s.countsWord L (s.issue L) := by
  cases eng : i.engine with
  | none =>
    obtain ⟨may, sound, word⟩ := now
    exact .inl (by simp [State.issue, may, State.bankMeet_none sound, word, eng])
  | some e =>
    by_cases room : (s.cell L).room i = true
    · exact .inr ⟨_, State.issue_enters now eng room rfl rfl inside⟩
    · obtain ⟨may, sound, word⟩ := now
      exact .inl (by simp [State.issue, may, State.bankMeet_none sound, word, eng, room])

/-- A command of the sequencer counts its own word, and does nothing at another. -/
theorem exec_sequencer_countsWord {c : Fin 4096} {x : Instr} {i : CellInstr} {s : State}
    (command : x ∈ [.qNop c, .qSetx c, .qAddx c, .instructionIssue c]) (now : s.issuesNow c.val i)
    (inside : (loopNext (s.cell c.val).loops (s.cell c.val).pc).2 < 8192) : ∃ t, exec x s = .next t ∧ s.countsWord c.val t := by
  simp only [List.mem_cons, List.not_mem_nil, or_false] at command
  rcases command with rfl | rfl | rfl | rfl
  · cases i with
    | qNop => exact ⟨_, exec_qNop_issues now inside, .inr ⟨_, rfl⟩⟩
    | _ => exact ⟨s, congrArg Host.Outcome.next (State.seqStep_other now (fun _ _ => rfl)), .inl rfl⟩
  · cases i with
    | qSetx xd imm => exact ⟨_, exec_qSetx_issues now inside, .inr ⟨_, rfl⟩⟩
    | _ => exact ⟨s, congrArg Host.Outcome.next (State.seqStep_other now (fun _ _ => rfl)), .inl rfl⟩
  · cases i with
    | qAddx xd xs imm => exact ⟨_, exec_qAddx_issues now inside, .inr ⟨_, rfl⟩⟩
    | _ => exact ⟨s, congrArg Host.Outcome.next (State.seqStep_other now (fun _ _ => rfl)), .inl rfl⟩
  · exact ⟨_, exec_instructionIssue c s, State.issue_countsWord now inside⟩

/-- Settles O54: a word counted and its cell replaced touch the register of the count and that cell alone. -/
theorem sequencerFrame : Obligations.SequencerFrame := by
  intro c x i s t command now inside ran
  obtain ⟨u, ran', counts⟩ := exec_sequencer_countsWord command now inside
  obtain rfl : u = t := Host.Outcome.next.inj (ran'.symm.trans ran)
  obtain rfl | ⟨k, rfl⟩ := counts
  · simp
  · refine ⟨?_, ?_, ?_, ?_, ?_, ?_, ?_, ?_, ?_, ?_, ?_, fun K other => ?_, fun a other => ?_⟩
    case refine_12 => rw [State.cell_setCell_ne _ _ other, State.cell_count]
    case refine_13 => rw [State.reg_setCell, State.reg_count_ne _ _ _ _ other]
    all_goals rw [State.count_frame]; rfl

end Sys2Proof.Machine
end

section
/-! PROOFS. The tile mover's instructions and A.ZERO at the head of their queue (files 05, 07 and 08: R115, R161 to R166, R206). -/

namespace Sys2Proof.Machine

/-! ### Stores without an error -/

/-- A unit meets no error where none waits. -/
theorem State.meetStores_sound {s : State} (sound : s.upsets = []) (l : List Store) : s.meetStores l = s := by
  simp [State.meetStores, sound]

@[simp] theorem State.cell_suspect (s : State) (g j : Nat) (f : Fld) (y : Bool) (L : Nat) : (s.suspect g j f y).cell L = s.cell L := by
  rw [State.suspect_frame]; rfl

@[simp] theorem State.suspect_nbr (s : State) (g j : Nat) (f : Fld) (y : Bool) : (s.suspect g j f y).nbr = s.nbr := by
  rw [State.suspect_frame]

@[simp] theorem State.suspect_mem (s : State) (g j : Nat) (f : Fld) (y : Bool) : (s.suspect g j f y).mem = s.mem := by
  rw [State.suspect_frame]

/-! ### The commands and their meanings -/

section TileMover
variable {s : State} {c : Fin 4096} {q : QInstr}

theorem exec_tLd_starts {fmt : BitVec 5} {scl : BitVec 2} {tr : BitVec 4} {tps : BitVec 1} {xb : BitVec 4} {off : BitVec 17}
    {stride inc : BitVec 10} (h : s.starts c.val .tile q (.tLd fmt scl tr tps xb off stride inc)) : exec (.tLd c) s =
      .next (s.tLoad c.val q (fmtOf fmt) scl.toNat tr.toNat (tps = 1#1) (offAddr q.xs xb off.toNat) stride.toNat) := by
  obtain ⟨head, word⟩ := h
  have e : exec (.tLd c) s = execTLd c s := by rfl
  rw [e, execTLd, State.atHead_some head, word]

/-- T.ST goes to the own scratchpad with DIR 0, and to a neighbour otherwise. -/
theorem exec_tSt_starts {fmt : BitVec 5} {scl : BitVec 2} {tr : BitVec 4} {tps : BitVec 1} {dir : BitVec 3} {xb : BitVec 4} {off : BitVec 17}
    {stride inc : BitVec 10} (h : s.starts c.val .tile q (.tSt fmt scl tr tps dir xb off stride inc)) : exec (.tSt c) s =
      .next (if dir = 0#3 then s.tStore c.val q (fmtOf fmt) scl.toNat tr.toNat (tps = 1#1) (offAddr q.xs xb off.toNat) stride.toNat
        else s.tStoreNbr c.val q (fmtOf fmt) scl.toNat tr.toNat (tps = 1#1) (offAddr q.xs xb off.toNat) stride.toNat dir.toNat) := by
  obtain ⟨head, word⟩ := h
  have e : exec (.tSt c) s = execTSt c s := by rfl
  rw [e, execTSt, State.atHead_some head, word]

theorem exec_tRel_starts {m : BitVec 16} (h : s.starts c.val .tile q (.tRel m)) : exec (.tRel c) s =
    .next ((s.setCell c.val (((s.cell c.val).begin q).releaseTregs m.toNat)).finish c.val .tile) := by
  obtain ⟨head, word⟩ := h
  have e : exec (.tRel c) s = execTRel c s := by rfl
  rw [e, execTRel, State.atHead_some head, word]

theorem exec_aZero_starts {acc : BitVec 2} {base : BitVec 20} (h : s.starts c.val .array q (.aZero acc base)) : exec (.aZero c) s =
    .next (((s.startHead c.val q).setAcc c.val acc.toNat (Acc.zero base.toNat)).finish c.val .array) := by
  obtain ⟨head, word⟩ := h
  have e : exec (.aZero c) s = execAZero c s := by rfl
  rw [e, execAZero, State.atHead_some head, word]

end TileMover

/-! ### Loads and stores past their checks -/

section Past
variable {s : State} {L : Nat} {q : QInstr} {f : Fmt} {scl tr base stride : Nat} {tps : Bool}

/-- A load inside a readable region (R162, R198). -/
theorem State.tLoad_inRegion {u : State} {b : List Byte} {bad : Bool}
    (readable : (s.cell L).inRegion base (imageSpan f scl stride) Region.rd = true)
    (read : (s.startHead L q).readRuns L (imageRuns f scl stride base) = (u, b, bad)) :
    s.tLoad L q f scl tr tps base stride = ((u.setTreg L tr { full := true, bytes := if tps then transposeTile f b else b, flags := 0, poison := bad
      }).countBanks L q (runUnits (imageRuns f scl stride base))).finish L .tile := by
  rw [State.tLoad, if_neg (by simp [readable])]
  simp only [read]

/-- The bytes that a store sends: the register's, transposed when TPS is 1 (R164, R199). -/
def TReg.image (t : TReg) (f : Fmt) (scl : Nat) (tps : Bool) : List Byte :=
  if tps then transposeTile f (sliceB t.bytes 0 (tileBytes f scl)) else sliceB t.bytes 0 (tileBytes f scl)

/-- A store of a full register into a writable region of the own scratchpad (R164). -/
theorem State.tStore_inRegion {m u : State} {t : TReg} (met : m = s.meetStores (tregStores L [tr])) (reg : t = nthD (m.cell L).tregs tr {})
    (full : t.full = true) (writable : (m.cell L).inRegion base (imageSpan f scl stride) Region.wr = true)
    (stored : u = (cutRuns (imageRuns f scl stride base) (t.image f scl tps)).foldl (fun x r => x.ownWrite L r.1 r.2 t.poison) (m.startHead L q)) :
    s.tStore L q f scl tr tps base stride = ((u.setFld (R.CELL_VE_FLAGS L) F.CELL_VE_FLAGS_FLAGS
      (u.fld (R.CELL_VE_FLAGS L) F.CELL_VE_FLAGS_FLAGS ||| t.flags)).countBanks L q (runUnits (imageRuns f scl stride base))).finish L .tile := by
  subst met reg stored
  simp [State.tStore, TReg.image, full, writable]

/-- A store to a neighbour inside the granted window, with every credit held (R206, R207). -/
theorem State.tStoreNbr_granted {t : TReg} {tx : BelayTx} {w : Grant} {dir : Nat} {us : List Nat} (sound : s.upsets = [])
    (reg : t = nthD (s.cell L).tregs tr {}) (full : t.full = true) (link : tx = nthD (s.cell L).tx (dir - 1) {}) (window : tx.win = some w)
    (above : w.base ≤ base) (below : base + imageSpan f scl stride ≤ w.base + 256 * w.units)
    (units : us = unitsIn w.base w.units base (imageSpan f scl stride)) (credits : us.all (fun u => tx.held.testBit u) = true) :
    ∃ u : State, s.tStoreNbr L q f scl tr tps base stride dir = u ∧
      u.cell L = { ((s.cell L).begin q).done .tile with
        nbrOut := (s.cell L).nbrOut ++ [(dir, q)], tx := (s.cell L).tx.set (dir - 1) { tx with held := us.foldl (fun m k => m - 2 ^ k) tx.held } } ∧
      u.nbr = s.nbr ++ [{
        cell := L, dir := dir,
        body := .write base (imageSpan f scl stride) (cutRuns (imageRuns f scl stride base) (t.image f scl tps)) t.poison q.iaddr }] ∧
      u.mem = s.mem := by
  subst reg link units
  refine ⟨_, rfl, ?_⟩
  simp only [State.tStoreNbr, State.meetStores_sound sound, full, window, above, below, credits, decide_true, Bool.and_self, Bool.not_true,
    Bool.false_eq_true, if_false]
  refine ⟨?_, ?_, ?_⟩
  · exact (State.cell_suspect ..).trans (State.cell_setCell ..)
  · simp [TReg.image]
  · simp

end Past

/-- Settles O8, clause by clause: T.LD, T.ST to the own scratchpad and to a neighbour, T.REL, the gating of a bank, and A.ZERO. -/
theorem tileInstructionsComplete : Obligations.TileInstructionsComplete := by
  refine ⟨?_, ?_, ?_, ?_, ?_, ?_⟩
  · intro c q fmt scl tr tps xb off stride inc s starts readable
    rcases read : (s.startHead c.val q).readRuns c.val (imageRuns (fmtOf fmt) scl.toNat stride.toNat (offAddr q.xs xb off.toNat)) with ⟨u, b, bad⟩
    refine ⟨_, u, b, bad, rfl, read, ?_⟩
    rw [exec_tLd_starts starts, State.tLoad_inRegion readable read]
    simp only [decide_eq_true_eq]
  · intro c q fmt scl tr tps xb off stride inc s m t starts met reg full writable
    refine ⟨_, _, rfl, rfl, ?_⟩
    rw [exec_tSt_starts starts, if_pos rfl, State.tStore_inRegion met reg full writable rfl]
    simp only [TReg.image, decide_eq_true_eq]
  · intro c q fmt scl tr tps dir xb off stride inc s t tx w base span us starts away sound reg full link window addr len above below units credits
    subst addr len
    rw [exec_tSt_starts starts, if_neg away]
    obtain ⟨u, ran, cell, sent, kept⟩ := State.tStoreNbr_granted (tps := decide (tps = 1#1)) sound reg full link window above below units credits
    refine ⟨u, congrArg Host.Outcome.next ran, cell, ?_, kept⟩
    simpa only [TReg.image, decide_eq_true_eq] using sent
  · intro c q m s starts
    rw [exec_tRel_starts starts, State.finish, State.cell_setCell, State.setCell_setCell]
  · intro c b s empty gates
    have e : exec (.tregBankGate c b) s = execTregBankGate c b s := by rfl
    rw [e, execTregBankGate, if_pos ⟨empty, gates⟩]
  · intro c q acc base s starts
    exact exec_aZero_starts starts

end Sys2Proof.Machine
end

section
/-! PROOFS. The array's instructions at the head of their queue (files 05 and 06: R112, R117, R119, R148): A.MMA, A.DRAIN, A.MERGE and M.MV. -/

namespace Sys2Proof.Machine

/-! ### The commands and their meanings -/

section Heads
variable {s : State} {c : Fin 4096} {q : QInstr}

theorem exec_aMma_starts {fb fa : BitVec 5} {sb sa acc : BitVec 2} {ta tb : BitVec 4} {k m : BitVec 5} {fin : BitVec 1}
    (h : s.starts c.val .array q (.aMma fb fa sb sa acc ta tb k m fin)) : exec (.aMma c) s =
      .next (s.aMma c.val q (fmtOf fb) (fmtOf fa) sb.toNat sa.toNat acc.toNat ta.toNat tb.toNat (k.toNat + 1) (m.toNat + 1) (fin = 1#1)) := by
  obtain ⟨head, word⟩ := h
  have e : exec (.aMma c) s = execAMma c s := by rfl
  rw [e, execAMma, State.atHead_some head, word]

/-- A.DRAIN writes a frame with FRAME 1, and fills a register with roots otherwise (R117). -/
theorem exec_aDrain_starts {fb : BitVec 5} {acc : BitVec 2} {ta : BitVec 4} {frame sr clr norm : BitVec 1} {xb : BitVec 4} {off : BitVec 13}
    (h : s.starts c.val .array q (.aDrain fb acc ta frame sr clr norm xb off)) : exec (.aDrain c) s =
      .next (if frame = 1#1 then s.drainFrame c.val q acc.toNat (clr = 1#1) (offAddr q.xs xb off.toNat)
        else s.drainRoot c.val q (fmtOf fb) acc.toNat ta.toNat (sr = 1#1) (clr = 1#1) (norm = 1#1) ((xval q.xs xb + off.toNat) % 2 ^ 32)) := by
  obtain ⟨head, word⟩ := h
  have e : exec (.aDrain c) s = execADrain c s := by rfl
  rw [e, execADrain, State.atHead_some head, word]

/-- A merge that resumes from no cursor begins with slot 0 of its first frame. -/
theorem exec_aMerge_fresh {n : Nat} {acc : BitVec 2} {n1 : BitVec 7} {xb : BitVec 4} {off : BitVec 10}
    (h : s.starts c.val .array q (.aMerge acc n1 xb off)) (fresh : (s.cell c.val).mergeFrom q = none) : exec (.aMerge c n) s =
      .next (State.mergeRun c.val q acc.toNat (n1.toNat + 1) (offAddr q.xs xb off.toNat) n 0 0 (s.startHead c.val q)) := by
  obtain ⟨head, word⟩ := h
  have e : exec (.aMerge c n) s = execAMerge c n s := by rfl
  have fresh' : ((s.startHead c.val q).cell c.val).mergeFrom q = none := by rw [State.startHead, State.cell_setCell]; exact fresh
  rw [e, execAMerge, State.atHead_some head, word]
  simp only [fresh']

theorem exec_mMv_starts {fb fa : BitVec 5} {sb sa acc : BitVec 2} {ta : BitVec 4} {klen row : BitVec 5} {fin : BitVec 1} {kc1 : BitVec 7}
    {xb : BitVec 4} {inc : BitVec 1} (h : s.starts c.val .array q (.mMv fb fa sb sa acc ta klen row fin kc1 xb inc)) : exec (.mMv c) s =
      .next (s.mMv c.val q (fmtOf fb) (fmtOf fa) sb.toNat sa.toNat acc.toNat ta.toNat (klen.toNat + 1) row.toNat (fin = 1#1) (kc1.toNat + 1)
        (xval q.xs xb)) := by
  obtain ⟨head, word⟩ := h
  have e : exec (.mMv c) s = execMMv c s := by rfl
  rw [e, execMMv, State.atHead_some head, word]

end Heads

/-! ### Multiplications past their checks -/

section Products
variable {s w z u : State} {L : Nat} {q : QInstr} {fb fa : Fmt} {sb sa a ta : Nat} {fin : Bool} {ra : TReg} {x : Acc}

/-- A.MMA of two full registers whose leaves the accumulator takes (R112, R115). -/
theorem State.aMma_pushes {tb k m : Nat} {rb : TReg} {rows : List RowLeaves} {bad : Bool}
    (met : w = s.meetStores (tregStores L [ta, tb] ++ accStores L [a])) (buffered : z = w.meetStores [.opnd (cellNum L)])
    (may : z.mayCheck L q.job (tileBytes fa sa + tileBytes fb sb) = true) (regA : ra = nthD (z.cell L).tregs ta {})
    (regB : rb = nthD (z.cell L).tregs tb {}) (fullA : ra.full = true) (fullB : rb.full = true)
    (leaves : rows = mmaLeaves (z.strict L) fa fb sa sb k m ra.bytes rb.bytes)
    (taken : ((z.cell L).acc a).pushAll (z.strict L) fa.isInt fin rows = .inr x) (poisoned : bad = (ra.poison || rb.poison || w.opndBad L))
    (counted : u = (((z.startHead L q).setAcc L a (if bad then x.or flPoison else x)).count L 2 (k * rateFactor (z.strict L) fa fb)).count L 3
      (m * k * 32)) :
    s.aMma L q fb fa sb sa a ta tb k m fin = ((if fa.isInt then u else u.treeUpset L [a]).unitDone L q.job q.i.encode k m rows
      (sliceB ra.bytes 0 (tileBytes fa sa)) (sliceB rb.bytes 0 (tileBytes fb sb)) bad).finish L .array := by
  subst met buffered counted poisoned leaves
  rw [State.aMma]
  simp only [← regA, ← regB, may, fullA, fullB, taken, Bool.not_true, Bool.or_self, Bool.false_eq_true, if_false]

/-- M.MV of kc chunks in a readable region, whose leaves its row of the accumulator takes (R119, R120). -/
theorem State.mMv_pushes {klen row kc base : Nat} {b : List Byte} {bad : List Nat} {cb ab : Nat} {pois : Bool}
    {chunks : List (List Byte × List Byte × Nat)} {lv : List (List (List (LeafVal × Nat)))} {r v : State}
    (met : r = s.meetStores (tregStores L [ta] ++ accStores L [a])) (buffered : z = r.meetStores [.opnd (cellNum L)])
    (chunk : cb = tileBytes fb sb) (act : ab = fa.bytes 32 + sclBytes sa) (may : z.mayCheck L q.job (ab + cb) = true)
    (reg : ra = nthD (z.cell L).tregs ta {}) (full : ra.full = true) (readable : (z.cell L).inRegion base (kc * cb) Region.rd = true)
    (read : z.ownRead L base (kc * cb) = (u, b, bad))
    (cut : chunks = (List.range kc).map (fun i => (sliceB ra.bytes (i * ab) ab, sliceB b (i * cb) cb, if i + 1 = kc then klen else 32)))
    (leaves : lv = chunks.map (fun y => mvChunk (z.strict L) fa fb sa sb y.2.2 y.1 y.2.1))
    (taken : ((z.cell L).acc a).pushAll (z.strict L) fa.isInt fin [(row, lv.flatten)] = .inr x)
    (poisoned : pois = (ra.poison || !bad.isEmpty || r.opndBad L))
    (counted : v = (((u.startHead L q).setAcc L a (if pois then x.or flPoison else x)).count L 4
        (mvFc (z.strict L) base (kc * cb) (32 * (kc - 1) + klen))).count L 5 (32 * (32 * (kc - 1) + klen))) :
    s.mMv L q fb fa sb sa a ta klen row fin kc base =
      ((((chunks.zip lv).foldl (fun z y => z.unitDone L q.job q.i.encode y.1.2.2 1 [(row, y.2)] y.1.1 y.1.2.1 pois)
        (if fa.isInt then v else v.treeUpset L [a])).consumeRead L base (kc * cb)).countBanks L q (unitsOfRange base (kc * cb))).finish L .array := by
  subst met buffered counted poisoned leaves cut chunk act
  rw [State.mMv]
  simp only [← reg, may, full, readable, read, taken, Bool.not_true, Bool.false_eq_true, if_false]

end Products

/-! ### Drains (R117) -/

section Drains
variable {s w z : State} {L : Nat} {q : QInstr} {a : Nat} {clr : Bool} {x : Acc}

/-- A drain to roots without NORM. -/
theorem State.drainRoot_plain {f : Fmt} {ta key fl : Nat} {sr : Bool} {codes : List Nat} (met : w = s.meetStores (accStores L [a]))
    (added : z = if ((w.cell L).acc a).drainAdds then w.treeUpset L [a] else w)
    (roots : rootDrain (z.strict L) (z.e4sat L) f none (if sr then some (z.sectIdAt L, key) else none) ((z.cell L).acc a) = (codes, fl))
    (flagged : x = ((z.cell L).acc a).or fl) :
    s.drainRoot L q f a ta sr clr false key = ((((z.startHead L q).setTreg L ta {
      full := true, bytes := packCodes f codes, flags := x.flags, poison := x.flags.testBit 5 }).setAcc L a
        (if clr then Acc.zero 0 else x)).finish L .array) := by
  subst met added flagged
  simp only [State.drainRoot, Bool.false_and, Bool.false_eq_true, if_false, roots]

/-- A drain to a frame in a writable region (R147, R156). -/
theorem State.drainFrame_inRegion {addr : Nat} (met : w = s.meetStores (accStores L [a])) (acc : x = (w.cell L).acc a)
    (writable : (w.cell L).inRegion addr (x.frame (w.strict L)).length Region.wr = true) :
    s.drainFrame L q a clr addr = ((((w.startHead L q).ownWrite L addr (x.frame (w.strict L)) (x.flags.testBit 5)).setAcc L a
      (if clr then Acc.zero 0 else x)).countBanks L q (unitsOfRange addr (x.frame (w.strict L)).length)).finish L .array := by
  subst met acc
  simp only [State.drainFrame, writable, Bool.not_true, Bool.false_eq_true, if_false]

end Drains

/-! ### Merges (R148) -/

section Merges
variable {s u : State} {L : Nat} {q : QInstr} {a nframes base frame slot : Nat}

/-- A step that ends no frame goes on to the next slot. -/
theorem State.mergeRun_slot (n : Nat) (stepped : s.mergeStep L a (s.frameAt L frame base) slot = (u, none, false)) :
    State.mergeRun L q a nframes base (n + 1) frame slot s = State.mergeRun L q a nframes base n frame (slot + 1) u := by
  rw [State.mergeRun]
  simp only [stepped]

/-- A step that ends the last frame completes the merge, which consumes what it read. -/
theorem State.mergeRun_last {v : State} (n : Nat) (last : nframes ≤ frame + 1)
    (stepped : s.mergeStep L a (s.frameAt L frame base) slot = (u, none, true)) (left : v = u.setCell L { u.cell L with merge := none }) :
    State.mergeRun L q a nframes base (n + 1) frame slot s = ((v.consumeRead L base (v.frameAt L nframes base - base)).countBanks L q
      (unitsOfRange base (v.frameAt L nframes base - base))).finish L .array := by
  rw [State.mergeRun]
  simp only [stepped, last, if_true, left]

end Merges

/-- Settles O9, clause by clause: A.MMA, a root drain, a frame drain, a merge that ends and one that goes on, and M.MV. -/
theorem arrayInstructionsComplete : Obligations.ArrayInstructionsComplete := by
  refine ⟨?_, ?_, ?_, ?_, ?_, ?_⟩
  · intro c q fb fa sb sa acc ta tb k m fin s w z u ra rb rows x bad starts met buffered may regA regB fullA fullB leaves taken poisoned counted
    rw [exec_aMma_starts starts, State.aMma_pushes met buffered may regA regB fullA fullB leaves taken poisoned counted]
  · intro c q fb acc ta sr clr xb off s w z codes fl x starts met added roots flagged
    rw [exec_aDrain_starts starts, if_neg (by decide), decide_eq_false (by decide : ¬ (0#1 = 1#1)),
      State.drainRoot_plain met added (by simpa only [decide_eq_true_eq] using roots) flagged]
    simp only [decide_eq_true_eq]
  · intro c q fb acc ta sr clr norm xb off s w x starts met reg writable
    rw [exec_aDrain_starts starts, if_pos rfl, State.drainFrame_inRegion met reg writable]
    simp only [decide_eq_true_eq]
  · intro c n q acc n1 xb off s u v len starts fresh one stepped left length
    subst one length
    rw [exec_aMerge_fresh starts fresh, State.mergeRun_last (frame := 0) (base := offAddr q.xs xb off.toNat) n (by decide) stepped left]
    rfl
  · intro c n q acc n1 xb off s u starts fresh stepped
    rw [exec_aMerge_fresh starts fresh, State.mergeRun_slot (frame := 0) (base := offAddr q.xs xb off.toNat) n stepped]
  · intro c q fb fa sb sa acc ta klen row fin kc1 xb inc s r z u ra w bad cb ab base pois chunks lv x starts met buffered chunk act addr may reg full
      readable read cut leaves taken poisoned
    subst addr
    refine ⟨_, rfl, ?_⟩
    rw [exec_mMv_starts starts, State.mMv_pushes met buffered chunk act may reg full readable read cut leaves taken poisoned rfl,
      Nat.add_sub_cancel]

end Sys2Proof.Machine
end

section
/-! PROOFS. F.PAIR (files 05 and 07: R122, R123, R185): what the tail of an array instruction keeps of its cell, and a score pair that raises no fault. -/

namespace Sys2Proof.Machine

/-! ### What the tail of an array instruction keeps of its cell -/

/-- A cell after taps and credits: the count of its units and its receiving windows may have moved, and nothing else has. -/
def Cell.tapped (c d : Cell) : Prop := d = { c with units := d.units, rx := d.rx }

theorem Cell.tapped_refl (c : Cell) : c.tapped c := rfl

theorem Cell.tapped_trans {c d e : Cell} (h : c.tapped d) (h' : d.tapped e) : c.tapped e := by
  unfold Cell.tapped at *; rw [h', h]

@[simp] theorem State.cell_bump (s : State) (a : Nat) (f : Fld) (n L : Nat) : (s.bump a f n).cell L = s.cell L := rfl

theorem State.cell_send (s : State) (p : Packet) (L : Nat) : (s.send p).cell L = s.cell L := by
  rw [State.send_frame]; rfl

theorem State.cell_sendTap (s : State) (K tgt : Nat) (u : TapUnit) (L : Nat) : (s.sendTap K tgt u).cell L = s.cell L := by
  unfold State.sendTap; dsimp only
  split
  · rw [State.cell_send, State.cell_send]
  · rw [State.cell_send]

/-- A completed unit is counted in its cell (R369). -/
theorem State.unitDone_tapped (s : State) (L job : Nat) (word : Word) (klen rows : Nat) (leaves : List RowLeaves) (a b : List Byte) (pois : Bool) :
    (s.cell L).tapped ((s.unitDone L job word klen rows leaves a b pois).cell L) := by
  have counted : (s.cell L).tapped ((s.setCell L { s.cell L with units := (s.cell L).units + 1 }).cell L) := by rw [State.cell_setCell]; rfl
  unfold State.unitDone; dsimp only
  generalize s.setCell L _ = v at counted ⊢
  split
  · exact counted
  · split
    · exact counted
    · split <;> split <;> simp only [State.cell_sendTap, State.cell_bump] <;> exact counted

theorem State.foldl_unitDone_tapped {β : Type} (L job : Nat) (word : Word) (klen rows : Nat) (leaves : β → List RowLeaves) (a : List Byte)
    (b : β → List Byte) (pois : Bool) (l : List β) (s : State) :
    (s.cell L).tapped ((l.foldl (fun s x => s.unitDone L job word klen rows (leaves x) a (b x) pois) s).cell L) := by
  induction l generalizing s with
  | nil => exact Cell.tapped_refl _
  | cons x l ih => exact Cell.tapped_trans (State.unitDone_tapped _ _ _ _ _ _ _ _ _ _) (ih _)

/-- A completed read returns the credits of the units it leaves (R208). -/
theorem State.consumeRead_tapped (s : State) (L off n : Nat) : (s.cell L).tapped ((s.consumeRead L off n).cell L) := by
  unfold State.consumeRead
  induction List.range 4 generalizing s with
  | nil => exact Cell.tapped_refl _
  | cons d l ih =>
    rw [List.foldl_cons]
    refine Cell.tapped_trans ?_ (ih _)
    dsimp only
    split
    · split
      · exact Cell.tapped_refl _
      · split
        · rw [State.cell_setCell]; rfl
        · exact (State.cell_setCell s L _).symm ▸ rfl
    · exact Cell.tapped_refl _

theorem State.cells_foldl_bump {β : Type} (addr n : β → Nat) (f : Fld) (l : List β) (s : State) :
    (l.foldl (fun s x => s.bump (addr x) f (n x)) s).cells = s.cells :=
  foldl_keeps State.cells (fun s x => s.bump (addr x) f (n x)) (fun _ _ => rfl) l s

/-- Waits at the banks are counted in registers (R197). -/
theorem State.cells_portWaits (s : State) (L : Nat) : (s.portWaits L).cells = s.cells := by
  unfold State.portWaits
  rw [State.cells_foldl_bump]

theorem State.cell_portWaits (s : State) (K L : Nat) : (s.portWaits K).cell L = s.cell L := by
  rw [State.cell, State.cell, State.cells_portWaits]

/-- Counting conflicts leaves the cells (R196). -/
@[simp] theorem State.cell_countAccs (s : State) (K : Nat) (q : QInstr) (accs : List (List Nat)) (L : Nat) :
    (s.countAccs K q accs).cell L = s.cell L := by
  have waits : ∀ (w : Nat → Nat) (l : List Nat) (u : State), (l.foldl (fun s b =>
      if w b = 0 then s else s.bump (R.CELL_SP_CONFLICT K b) F.CELL_SP_CONFLICT_WAIT (w b)) u).cell L = u.cell L := fun w l u =>
    foldl_keeps (fun s : State => s.cell L) _ (fun _ _ => by split <;> rfl) l u
  unfold State.countAccs; dsimp only
  split
  · exact (waits _ _ _).trans (State.cell_portWaits _ _ _)
  · exact (waits _ _ _).trans (State.cell_portWaits _ _ _)

@[simp] theorem State.count_upsets (s : State) (L k n : Nat) : (s.count L k n).upsets = s.upsets := by rw [State.count_frame]

/-- A tree without an upset adds as it should (R366). -/
theorem State.treeUpset_sound {s : State} (sound : s.upsets = []) (L : Nat) (as : List Nat) : s.treeUpset L as = s := by
  simp [State.treeUpset, sound]

theorem State.tileBusy_frame (s : State) (a n : Nat) : s.tileBusy a n = { s with regs := (s.tileBusy a n).regs } := by
  unfold State.tileBusy; dsimp only
  split
  · rfl
  · exact foldl_regs _ (fun _ _ => by split <;> rfl) _ _

/-- Where no error waits, a cell's read touches the registers alone. -/
theorem State.ownRead_sound {s u : State} {L off n : Nat} {b : List Byte} {bad : List Nat} (sound : s.upsets = [])
    (read : s.ownRead L off n = (u, b, bad)) : u = { s with regs := u.regs } := by
  have sound' : (s.tileBusy (scratchAddr L off) n).upsets = [] := by rw [State.tileBusy_frame]; exact sound
  have same : s.tileBusy (scratchAddr L off) n = u := by
    simpa [State.ownRead, State.deliver, sound'] using congrArg Prod.fst read
  rw [← same]; exact State.tileBusy_frame _ _ _

/-! ### The accumulators of a group -/

/-- A cell whose accumulators from a on take the outcomes of a group, with flags OR-ed in. -/
def Cell.setAccs (c : Cell) (a f : Nat) : List Acc → Cell
  | [] => c
  | x :: l => (c.setAcc a (x.or f)).setAccs (a + 1) f l

/-- The model numbers the outcomes of a group as it sets them. -/
theorem Cell.foldl_setAcc_from (a f : Nat) (outs : List Acc) (c : Cell) (k : Nat) :
    ((List.range' k outs.length).zip outs).foldl (fun c o => c.setAcc (a + o.1) (o.2.or f)) c = c.setAccs (a + k) f outs := by
  induction outs generalizing c k with
  | nil => rfl
  | cons x l ih => rw [List.length_cons, List.range'_succ, List.zip_cons_cons, List.foldl_cons, ih, Cell.setAccs, Nat.add_assoc]

theorem Cell.foldl_setAcc (c : Cell) (a f : Nat) {outs : List Acc} {n : Nat} (count : outs.length = n) :
    ((List.range n).zip outs).foldl (fun c o => c.setAcc (a + o.1) (o.2.or f)) c = c.setAccs a f outs := by
  rw [← count, List.range_eq_range', Cell.foldl_setAcc_from, Nat.add_zero]

/-- Nothing else of the cell changes. -/
theorem Cell.setAccs_frame (f : Nat) (outs : List Acc) (c : Cell) (a : Nat) : c.setAccs a f outs = { c with accs := (c.setAccs a f outs).accs } := by
  induction outs generalizing c a with
  | nil => rfl
  | cons x l ih => rw [Cell.setAccs, ih]; rfl

theorem Cell.acc_setAcc_same (c : Cell) {a : Nat} (x : Acc) (held : a < c.accs.length) : (c.setAcc a x).acc a = x := by
  simp [Cell.acc, Cell.setAcc, nthD, held]

theorem Cell.acc_setAcc_ne (c : Cell) {a b : Nat} (x : Acc) (apart : a ≠ b) : (c.setAcc a x).acc b = c.acc b := by
  rw [Cell.acc, Cell.setAcc, nthD, List.getElem?_set_ne apart]; rfl

/-- An accumulator below the group keeps its value. -/
theorem Cell.acc_setAccs_below (f : Nat) (outs : List Acc) (c : Cell) {a b : Nat} (below : b < a) : (c.setAccs a f outs).acc b = c.acc b := by
  induction outs generalizing c a with
  | nil => rfl
  | cons x l ih => rw [Cell.setAccs, ih _ (Nat.lt_succ_of_lt below), Cell.acc_setAcc_ne c _ (Nat.ne_of_gt below)]

/-- Accumulator a + h takes outcome h. -/
theorem Cell.acc_setAccs (f : Nat) {outs : List Acc} (c : Cell) {a h : Nat} (member : h < outs.length) (held : a + h < c.accs.length) :
    (c.setAccs a f outs).acc (a + h) = (nthD outs h {}).or f := by
  induction outs generalizing c a h with
  | nil => exact absurd member (Nat.not_lt_zero h)
  | cons x l ih =>
    rw [Cell.setAccs]
    cases h with
    | zero => exact (Cell.acc_setAccs_below f l _ (Nat.lt_succ_self a)).trans (Cell.acc_setAcc_same c _ held)
    | succ h =>
      have held' : a + 1 + h < (c.setAcc a (x.or f)).accs.length := by
        rw [Cell.setAcc, List.length_set]; omega
      rw [show a + (h + 1) = a + 1 + h by omega, ih _ (Nat.lt_of_succ_lt_succ member) held']; rfl

/-! ### A score pair that raises no fault -/

/-- Rows looked up in a table of the first n rows. -/
theorem map_range_nthD {α β : Type} (g : Nat → α × β) (d : α × β) (z : Nat → α) (m n : Nat) :
    (List.range m).map (fun r => if r < n then (nthD ((List.range n).map g) r d).1 else z r) =
      (List.range m).map (fun r => if r < n then (g r).1 else z r) := by
  refine List.map_congr_left fun r _ => ?_
  split
  · next below => simp [nthD, below]
  · rfl

section ScorePair
variable {s u1 u2 : State} {L : Nat} {q : QInstr} {fb fa : Fmt} {sb sa a tq klen rows kAddr vAddr dch chain nb : Nat} {first : Bool} {d : Desc}
  {qr : List TReg} {kb vb img : List Byte} {b1 b2 : List Nat} {m0 : List Int} {l0 kc : List (BitVec 32)} {prs : List PairRow} {accs outs : List Acc}

/-- After two reads that meet no error the head starts in its cell as it was. -/
theorem State.startHead_after_reads {m n x y : Nat} (sound : s.upsets = []) (readK : s.ownRead L m n = (u1, kb, b1))
    (readV : u1.ownRead L x y = (u2, vb, b2)) : (u2.startHead L q).upsets = [] ∧ (u2.startHead L q).cell L = (s.cell L).begin q := by
  have first : u1 = { s with regs := u1.regs } := State.ownRead_sound sound readK
  have sound1 : u1.upsets = [] := by rw [first]; exact sound
  have second : u2 = { u1 with regs := u2.regs } := State.ownRead_sound sound1 readV
  refine ⟨by rw [State.startHead, State.setCell_upsets, second]; exact sound1, ?_⟩
  rw [State.startHead, State.cell_setCell, second, first]; rfl

/-- The group takes its outcomes, and the cell keeps the maxima and sums of its rows (R122, R123); then the head is finished. -/
theorem State.fPair_passes (sound : s.upsets = []) (may : s.mayCheck L q.job (fa.bytes 1024 + nb) = true)
    (regs : qr = (regRun tq dch).map (fun r => nthD (s.cell L).tregs r {})) (full : qr.all (·.full) = true)
    (group : first = true ∨ (s.cell L).fp = some (a, dch)) (block : nb = tileBytes fb sb)
    (desc : Desc.read (s.cell L).store.num chain 1024 = some d) (pairs : d.pairOk (s.cell L).store.num chain = true) (consts : d.pairConstBad = false)
    (keys : (s.cell L).inRegion kAddr (dch * nb) Region.rd = true) (values : (s.cell L).inRegion vAddr (dch * nb) Region.rd = true)
    (readK : s.ownRead L kAddr (dch * nb) = (u1, kb, b1)) (readV : u1.ownRead L vAddr (dch * nb) = (u2, vb, b2))
    (max0 : m0 = if first then List.replicate 32 (-32768) else (s.cell L).rowMax) (sum0 : l0 = if first then List.replicate 32 0 else (s.cell L).rowSum)
    (cache : kc = if d.usesK then (List.range 4096).map (fun i => SMap.get 0 (s.cell L).const i) else [])
    (scores : prs = (List.range rows).map (fun r => pairRow (s.strict L) (s.e4sat L) d kc fa fb sa sb klen r (nthD m0 r (-32768)) (qr.map (·.bytes))
      ((List.range dch).map (fun h => sliceB kb (h * nb) nb))))
    (image : img = packCodes fa (prs.flatMap (·.p) ++ List.replicate (32 * (32 - rows)) 0))
    (scaled : accs = (List.range dch).map (fun h => (List.range rows).foldl (fun x r =>
      if (nthD prs r ⟨[], 0, 0, 0⟩).m = nthD m0 r 0 then x else x.scaleRow r (nthD m0 r 0 - (nthD prs r ⟨[], 0, 0, 0⟩).m))
        (if first then Acc.zero 0 else (s.cell L).acc (a + h))))
    (taken : (accs.zip ((List.range dch).map (fun h => mmaLeaves (s.strict L) fa fb 0 sb 32 rows img (sliceB vb (h * nb) nb)))).map
      (fun y => y.1.pushAll (s.strict L) fa.isInt false y.2) = outs.map .inr) :
    outs.length = dch ∧ ∃ v : State, s.fPair L q fb fa sb sa a tq klen rows kAddr vAddr dch first chain = v.finish L .array ∧
      ∃ f : Nat, Cell.tapped { ((s.cell L).begin q).setAccs a f outs with
        fp := some (a, dch),
        rowMax := (List.range 32).map (fun r => if r < rows then (nthD prs r ⟨[], 0, 0, 0⟩).m else nthD m0 r (-32768)),
        rowSum := (List.range 32).map (fun r => if r < rows then
          (addMode (s.strict L) (scale32 (nthD l0 r 0) (nthD m0 r 0 - (nthD prs r ⟨[], 0, 0, 0⟩).m)) (nthD prs r ⟨[], 0, 0, 0⟩).sum).1
          else nthD l0 r 0) } (v.cell L) := by
  have noneEmpty : qr.any (fun r => !r.full) = false := by simpa [List.any_eq_false] using full
  have inGroup : (!first && decide ((s.cell L).fp ≠ some (a, dch))) = false := by
    rcases group with rfl | same
    · rfl
    · simp [same]
  have count : outs.length = dch := by simpa [scaled] using (congrArg List.length taken).symm
  obtain ⟨sound2, begun⟩ := State.startHead_after_reads (q := q) sound readK readV
  -- every check passes, and the scores, the image and the products are the ones named
  unfold State.fPair
  simp only [State.meetStores_sound sound, ← block, ← regs, may, noneEmpty, inGroup, desc, pairs, consts, keys, values, readK, readV, ← max0, ← sum0,
    ← cache, Bool.not_true, Bool.false_eq_true, if_false, List.map_map, Function.comp_def]
  simp only [← scores, ← image, ← scaled, taken]
  -- the accumulators take the outcomes, none of which is a fault
  simp only [List.zip_map_right, List.foldl_map, Prod.map_fst, Prod.map_snd, id_eq, Cell.foldl_setAcc _ _ _ count, begun, map_range_nthD]
  split
  · next ev fault => exact absurd (List.mem_of_find?_eq_some fault) (by simp)
  · -- taps, credits and counts follow
    refine ⟨count, _, rfl, ?_⟩
    rw [State.cell_countAccs, State.treeUpset_sound (by simpa using sound2), ite_self]
    apply Exists.intro
    refine Cell.tapped_trans ?_ (State.consumeRead_tapped _ _ _ _)
    refine Cell.tapped_trans ?_ (State.consumeRead_tapped _ _ _ _)
    refine Cell.tapped_trans ?_ (State.foldl_unitDone_tapped _ _ _ _ _ _ _ _ _ _ _)
    rw [State.cell_count, State.cell_count, State.cell_setCell]
    exact Cell.tapped_refl _

theorem exec_fPair_starts {c : Fin 4096} {fb fa : BitVec 5} {sb sa acc : BitVec 2} {tq xk : BitVec 4} {klen rows : BitVec 5} {xv : BitVec 4}
    {dch : BitVec 2} {first inc : BitVec 1} {chain : BitVec 13}
    (h : s.starts c.val .array q (.fPair fb fa sb sa acc tq xk klen rows xv dch first inc chain)) : exec (.fPair c) s =
      .next (s.fPair c.val q (fmtOf fb) (fmtOf fa) sb.toNat sa.toNat acc.toNat tq.toNat (klen.toNat + 1) (rows.toNat + 1) (xval q.xs xk)
        (xval q.xs xv) (dch.toNat + 1) (first = 1#1) chain.toNat) := by
  obtain ⟨head, word⟩ := h
  have e : exec (.fPair c) s = execFPair c s := by rfl
  rw [e, execFPair, State.atHead_some head, word]

end ScorePair

/-- Settles O10: the cell that the score pair leaves holds the group, its rows and its accumulators, and has the instruction taken off its queue. -/
theorem scorePairCompletes : Obligations.ScorePairCompletes := by
  intro c q fb fa sb sa acc tq xk klen rows xv dch first inc chain s u1 u2 qr nb d kb vb b1 b2 m0 l0 kc prs img accs outs starts sound may regs full
    group block desc pairs consts keys values readK readV max0 sum0 cache scores image scaled taken
  obtain ⟨count, v, ran, f, kept⟩ := State.fPair_passes (first := decide (first = 1#1)) sound may regs full (by simpa using group) block desc pairs
    consts keys values readK readV (by simpa using max0) (by simpa using sum0) cache scores image (by simpa using scaled) taken
  refine ⟨v.finish c.val .array, by rw [exec_fPair_starts starts, ran], ?_⟩
  rw [State.finish, State.cell_setCell, kept]
  refine ⟨rfl, ?_, fun h member held => ⟨f, ?_⟩, rfl, rfl⟩
  · rw [Cell.setAccs_frame]; rfl
  · exact Cell.acc_setAccs f _ (by omega) held

end Sys2Proof.Machine
end

section
/-! PROOFS. Element formats (file 06): reading a finite code and rounding it back (R129), which codes are finite and which NaNs are quiet (R131), and the
expansion of E2M1 into E4M3 (R135). -/

namespace Sys2Proof.Machine

/-! ### Reading a code and rounding it back (R129) -/

section Formats

variable {s : FSpec} {neg : Bool} {mag m : Nat} {e : Int}

/-- Exponent field 0: the mantissa in units of the least subnormal. -/
theorem FSpec.dec_subnormal (field : mag >>> s.mb = 0) : s.dec neg mag = .fin neg (mag % 2 ^ s.mb) (1 - s.bias - s.mb) :=
  if_pos field

/-- Any other exponent field: the mantissa with its leading 1, in units that the field names. -/
theorem FSpec.dec_normal (field : mag >>> s.mb ≠ 0) :
    s.dec neg mag = .fin neg (2 ^ s.mb + mag % 2 ^ s.mb) (((mag >>> s.mb : Nat) : Int) - s.bias - s.mb) :=
  if_neg field

/-- The formulas of R129 give every code a finite value. -/
theorem FSpec.dec_fin (s : FSpec) (neg : Bool) (mag : Nat) : ∃ m e, s.dec neg mag = .fin neg m e := by
  by_cases field : mag >>> s.mb = 0
  · exact ⟨_, _, FSpec.dec_subnormal field⟩
  · exact ⟨_, _, FSpec.dec_normal field⟩

/-- A magnitude counted in its own unit in the last place is rounded to the code of its count, with nothing lost. -/
theorem FSpec.round_of_ulpExp (pos : m ≠ 0) (unit : s.ulpExp m e = e) : (s.round m e).code = s.codeOf m e ∧ (s.round m e).inexact = false := by
  simp [FSpec.round, pos, unit, unitsOf, rne]

/-- A mantissa with its leading 1 is not zero. -/
theorem FSpec.lead_ne_zero (s : FSpec) (m : Nat) : 2 ^ s.mb + m ≠ 0 := by
  have := Nat.two_pow_pos s.mb
  omega

/-- A magnitude below the least normal has the unit of the subnormals. -/
theorem FSpec.ulpExp_subnormal (pos : m ≠ 0) (below : m < 2 ^ s.mb) : s.ulpExp m (1 - s.bias - s.mb) = 1 - s.bias - s.mb := by
  have : m.log2 < s.mb := (Nat.log2_lt pos).2 below
  unfold FSpec.ulpExp
  omega

/-- A mantissa with its leading 1 has the unit that its exponent field f names. -/
theorem FSpec.ulpExp_normal {f : Nat} (field : f ≠ 0) (frac : m < 2 ^ s.mb) : s.ulpExp (2 ^ s.mb + m) (f - s.bias - s.mb) = f - s.bias - s.mb := by
  have : (2 ^ s.mb + m).log2 = s.mb := (Nat.log2_eq_iff (FSpec.lead_ne_zero s m)).2 ⟨by omega, by omega⟩
  unfold FSpec.ulpExp
  omega

/-- The code of a normal: its unit stands f − 1 steps above the subnormals', and the leading 1 makes up the field. -/
theorem FSpec.codeOf_normal (s : FSpec) (m : Nat) {f : Nat} (field : f ≠ 0) : s.codeOf (2 ^ s.mb + m) (f - s.bias - s.mb) = f * 2 ^ s.mb + m := by
  have binade : (f - s.bias - s.mb - (1 - s.bias - s.mb) : Int).toNat = f - 1 := by omega
  calc s.codeOf (2 ^ s.mb + m) (f - s.bias - s.mb) = (f - 1) * 2 ^ s.mb + (2 ^ s.mb + m) := by rw [FSpec.codeOf, binade]
    _ = (f - 1 + 1) * 2 ^ s.mb + m := by rw [Nat.succ_mul, Nat.add_assoc]
    _ = f * 2 ^ s.mb + m := by rw [Nat.sub_add_cancel (Nat.pos_of_ne_zero field)]

/-- A magnitude code, read and rounded back, is the same code without a flag. -/
theorem FSpec.round_dec (s : FSpec) (mag : Nat) :
    ∃ m e, s.dec false mag = .fin false m e ∧ (s.round m e).code = mag ∧ (s.round m e).inexact = false := by
  have frac : mag % 2 ^ s.mb < 2 ^ s.mb := Nat.mod_lt _ (Nat.two_pow_pos _)
  have parts : mag >>> s.mb * 2 ^ s.mb + mag % 2 ^ s.mb = mag := by rw [Nat.shiftRight_eq_div_pow, Nat.div_add_mod']
  by_cases field : mag >>> s.mb = 0
  · refine ⟨_, _, FSpec.dec_subnormal field, ?_⟩
    have whole : mag % 2 ^ s.mb = mag := by simpa [field] using parts
    by_cases zero : mag = 0
    · subst zero; simp [FSpec.round]
    · rw [whole] at frac ⊢
      obtain ⟨code, exact⟩ := FSpec.round_of_ulpExp zero (FSpec.ulpExp_subnormal zero frac)
      exact ⟨by rw [code]; simp [FSpec.codeOf], exact⟩
  · refine ⟨_, _, FSpec.dec_normal field, ?_⟩
    obtain ⟨code, exact⟩ := FSpec.round_of_ulpExp (s.lead_ne_zero _) (FSpec.ulpExp_normal field frac)
    exact ⟨by rw [code, FSpec.codeOf_normal _ _ field, parts], exact⟩

end Formats

/-! ### Finite codes and quiet NaNs (R131) -/

/-- The 6-bit and 4-bit floats have neither infinities nor NaNs, and integers are exact numbers. -/
theorem Fmt.dec_fin_of_small {f : Fmt} (code : Nat) (small : f = .e2m3 ∨ f = .e3m2 ∨ f = .e2m1 ∨ f = .int8 ∨ f = .int4) :
    ∃ n m e, f.dec code = .fin n m e := by
  rcases small with rfl | rfl | rfl | rfl | rfl
  · exact ⟨_, FSpec.dec_fin _ _ _⟩
  · exact ⟨_, FSpec.dec_fin _ _ _⟩
  · exact ⟨_, FSpec.dec_fin _ _ _⟩
  · exact ⟨_, _, _, rfl⟩
  · exact ⟨_, _, _, rfl⟩

/-- The formulas of R129 give no NaN. -/
theorem FSpec.dec_ne_nan (s : FSpec) (neg : Bool) (mag : Nat) (n : Bool) (frac : Nat) (sig : Bool) : s.dec neg mag ≠ .nan n frac sig := by
  obtain ⟨m, e, fin⟩ := s.dec_fin neg mag
  simp [fin]

/-- A NaN of an 8-bit float is quiet. -/
theorem Fmt.dec_nan_quiet {f : Fmt} {code frac : Nat} {n sig : Bool} (byte : f = .e4m3 ∨ f = .e5m2) (nan : f.dec code = .nan n frac sig) :
    sig = false := by
  rcases byte with rfl | rfl
  · simp only [Fmt.dec, Fmt.spec] at nan
    split at nan
    · cases nan; rfl
    · exact absurd nan (FSpec.dec_ne_nan _ _ _ _ _ _)
  · simp only [Fmt.dec, Fmt.spec] at nan
    split at nan
    · cases nan
    · split at nan
      · cases nan; rfl
      · exact absurd nan (FSpec.dec_ne_nan _ _ _ _ _ _)

/-! ### E2M1 in E4M3 (R135, Table 73) -/

/-- How many bits finer the unit of an E4M3 code of Table 73 is than the unit of its E2M1 code: a normal's mantissa gains two bits, 0.5 becomes a normal,
and zero stays at the least exponent of each format. -/
def expandShift (c : Nat) : Nat :=
  match c % 8 with
  | 0 => 8
  | 1 => 3
  | _ => 2

/-- A value counted in units finer by j bits. -/
def FV.finer (j : Nat) : FV → FV
  | .fin n m e => .fin n (m * 2 ^ j) (e - j)
  | v => v

/-- Table 73 changes the unit of a value and nothing else. -/
theorem dec_expandE2m1 : ∀ c < 16, Fmt.e4m3.dec (expandE2m1 c) = (Fmt.e2m1.dec c).finer (expandShift c) := by
  decide

/-- Counted in a finer unit, a number is the same. -/
theorem scaled_finer (m j : Nat) (e : Int) : (m : Rat) * (2 : Rat) ^ e = ((m * 2 ^ j : Nat) : Rat) * (2 : Rat) ^ (e - j) := by
  have unit : (2 : Rat) ^ e = (2 : Rat) ^ j * (2 : Rat) ^ (e - j) := by
    have sum : (j : Int) + (e - j) = e := by omega
    calc (2 : Rat) ^ e = (2 : Rat) ^ ((j : Int) + (e - j)) := by rw [sum]
      _ = (2 : Rat) ^ (j : Int) * (2 : Rat) ^ (e - j) := Rat.zpow_add (by decide) _ _
      _ = (2 : Rat) ^ j * (2 : Rat) ^ (e - j) := congrArg (· * (2 : Rat) ^ (e - j)) (Rat.zpow_natCast 2 j)
  have count : ((m * 2 ^ j : Nat) : Rat) = (m : Rat) * (2 : Rat) ^ j :=
    (Rat.natCast_mul _ _).trans (congrArg ((m : Rat) * ·) (Rat.natCast_pow 2 j))
  rw [unit, count, Rat.mul_assoc]

/-- E2M1 expands exactly. -/
theorem expandE2m1_exact {c : Nat} (code : c < 16) : ∃ m n e k, Fmt.e2m1.dec c = .fin (c.testBit 3) m e ∧
    Fmt.e4m3.dec (expandE2m1 c) = .fin (c.testBit 3) n k ∧ (m : Rat) * (2 : Rat) ^ e = (n : Rat) * (2 : Rat) ^ k := by
  obtain ⟨m, e, read⟩ : ∃ m e, Fmt.e2m1.dec c = .fin (c.testBit 3) m e := FSpec.dec_fin _ _ _
  exact ⟨m, _, e, _, read, by rw [dec_expandE2m1 c code, read]; rfl, scaled_finer m (expandShift c) e⟩

/-- Settles O59: each format's formulas round-trip (R129), the small formats and the quiet NaNs are read off Table 71 (R131), and Table 73 only changes the
unit (R135). -/
theorem numbersThatFitAreExact : Obligations.NumbersThatFitAreExact :=
  ⟨fun _ x mag _ _ => x.round_dec mag, fun _ code => expandE2m1_exact code, fun _ code small => Fmt.dec_fin_of_small code small,
    fun _ _ _ _ _ byte nan => Fmt.dec_nan_quiet byte nan⟩

end Sys2Proof.Machine
end

section
/-! PROOFS. Vector chains, summaries, and the instructions of rope channels at the head of their queue (files 07 and 10: R169, R179 to R184, R266, R267). -/

namespace Sys2Proof.Machine

/-! ### The commands and their meanings -/

section VectorChannelHeads
variable {s : State} {c : Fin 4096} {q : QInstr}

/-- A chain takes its addresses from the cursor it resumes from, and from the registers it issued with where it has none (R182). -/
theorem exec_vChain_starts {segs : Nat} {xa xb xd xm : BitVec 4} {inc : BitVec 1} {n1 : BitVec 16} {chain : BitVec 13} {xs : List Nat}
    (h : s.starts c.val .vector q (.vChain xa xb xd xm inc 0#3 n1 0#7 chain))
    (addrs : xs = ((s.cell c.val).veFrom q).elim [xval q.xs xa, xval q.xs xb, xval q.xs xd, xval q.xs xm] (·.xstart)) :
    exec (.vChain c segs) s = .next (s.vChain c.val q (n1.toNat + 1) (nthD xs 0 0) (nthD xs 1 0) (nthD xs 2 0) (nthD xs 3 0)
      (xb ≠ 0#4) (xm ≠ 0#4) false chain.toNat segs) := by
  obtain ⟨head, word⟩ := h
  have e : exec (.vChain c segs) s = execVChain c segs s := by rfl
  rw [e, execVChain, State.atHead_some head, word, addrs]
  cases (s.cell c.val).veFrom q <;> rfl

theorem exec_vSum_starts {zmask : BitVec 4} {tag : BitVec 16} (h : s.starts c.val .vector q (.vSum zmask tag)) :
    exec (.vSum c) s = .next (s.vSum c.val q zmask.toNat tag.toNat) := by
  obtain ⟨head, word⟩ := h
  have e : exec (.vSum c) s = execVSum c s := by rfl
  rw [e, execVSum, State.atHead_some head, word]

theorem exec_cSend_starts {ch : BitVec 3} {inc : BitVec 1} {xb nfl : BitVec 4} {off : BitVec 12} {tag : BitVec 16}
    (h : s.starts c.val .channel q (.cSend ch inc xb nfl off tag)) :
    exec (.cSend c) s = .next (s.cSend c.val q ch.toNat (offAddr q.xs xb off.toNat) (nfl.toNat + 1) tag.toNat) := by
  obtain ⟨head, word⟩ := h
  have e : exec (.cSend c) s = execCSend c s := by rfl
  rw [e, execCSend, State.atHead_some head, word]

theorem exec_cRecv_starts {ch : BitVec 3} {inc : BitVec 1} {xb nfl : BitVec 4} {off : BitVec 12}
    (h : s.starts c.val .channel q (.cRecv ch inc xb nfl off)) :
    exec (.cRecv c) s = .next (s.cRecv c.val q ch.toNat (offAddr q.xs xb off.toNat) (nfl.toNat + 1)) := by
  obtain ⟨head, word⟩ := h
  have e : exec (.cRecv c) s = execCRecv c s := by rfl
  rw [e, execCRecv, State.atHead_some head, word]

end VectorChannelHeads

/-! ### Chains past their checks (R169, R179 to R183) -/

/-- A chain whose descriptor and regions pass every check: it completes with its last segment, and waits at its cursor before it. -/
theorem State.vChain_passes {s v : State} {L : Nat} {q : QInstr} {n xa xb xd xm chain segs done k : Nat} {bField mField zField : Bool} {d : Desc}
    {run run' : ChainRun} (desc : Desc.read (s.cell L).store.num chain n = some d)
    (sound : chainFault d n xa xb xd xm bField mField zField = none)
    (readA : (s.cell L).inRegion xa (streamLen d.fmtA d.sclA d.layout n) Region.rd = true)
    (readB : d.usesB = true → (s.cell L).inRegion xb (streamLen d.fmtB d.sclB d.layout n) Region.rd = true)
    (readM : d.mask = 1 → (s.cell L).inRegion xm ((n + 7) / 8) Region.rd = true)
    (writeD : d.dest = false → (s.cell L).inRegion xd (streamLen d.fmtD d.sclD d.layout n) Region.wr = true)
    (stands : (done, run) = ((s.cell L).veFrom q).elim (0, ChainRun.start d) (fun y => (y.done, y.run)))
    (count : k = min segs (segCount d n - done))
    (ran : State.vSegments L (s.strict L) d n xa xb xd xm k done (s.startHead L q, run) = (v, run')) :
    s.vChain L q n xa xb xd xm bField mField zField chain segs =
      if segCount d n ≤ done + k then
        let w := (v.chainDone L (s.strict L) d run').consumeRead L xa (streamLen d.fmtA d.sclA d.layout n)
        let x := if d.usesB then w.consumeRead L xb (streamLen d.fmtB d.sclB d.layout n) else w
        let y := if d.mask = 1 then x.consumeRead L xm ((n + 7) / 8) else x
        (y.countBanks L q (chainUnits d n xa xb xd xm)).finish L .vector
      else v.setCell L { v.cell L with veCur := some ⟨q.iaddr, q.job, done + k, [xa, xb, xd, xm], run'⟩ } := by
  have noB : (d.usesB && !(s.cell L).inRegion xb (streamLen d.fmtB d.sclB d.layout n) Region.rd) = false := by simpa using readB
  have noM : (decide (d.mask = 1) && !(s.cell L).inRegion xm ((n + 7) / 8) Region.rd) = false := by simpa using readM
  have noD : (!d.dest && !(s.cell L).inRegion xd (streamLen d.fmtD d.sclD d.layout n) Region.wr) = false := by simpa using writeD
  subst count
  cases cursor : (s.cell L).veFrom q <;>
    · rw [cursor] at stands
      cases stands
      simp only [State.vChain, desc, sound, readA, noB, noM, noD, cursor, ran, Bool.not_true, Bool.false_eq_true, if_false]

/-! ### Summaries (R184) -/

/-- V.SUM with room for its record in the cell and in its cluster. -/
theorem State.vSum_room {s u v : State} {L : Nat} {q : QInstr} {zmask tag : Nat} {r : List Byte} (room : (s.cell L).summaries < 4)
    (place : (s.clu (s.clusterOf L)).sums.length < 64)
    (record : r = summaryBytes (L % 16) q.job tag zmask (s.fld (R.CELL_VE_LAST L) F.CELL_VE_LAST_FLAGS) (s.cell L).elems (s.cell L).zs)
    (left : u = (s.startHead L q).finish L .vector)
    (checked : v = ((u.setCell L { u.cell L with summaries := (s.cell L).summaries + 1 }).plausCheck (s.clusterOf L) L q.job r).suspect
      (s.clusterOf L) q.job F.CLU_JOB_SUSPECT_POISON (numAt r 5 1 != 0)) :
    s.vSum L q zmask tag = (v.setClu (s.clusterOf L) { v.clu (s.clusterOf L) with
      sums := (v.clu (s.clusterOf L)).sums ++ [⟨L % 16, r⟩] }).sumArrived (s.clusterOf L) := by
  rw [State.vSum, if_neg (by omega), checked, left, record]

/-! ### Channels (R266, R267) -/

section Channels
variable {s u v w : State} {L : Nat} {q : QInstr} {ch off nfl : Nat} {b : ChanBind}

/-- The tile that C.SEND builds from the bytes it has read. -/
def State.tileOut (s : State) (L : Nat) (q : QInstr) (ch nfl tag : Nat) (b : ChanBind) (pois : Nat) (bs : List Byte) : ChTile :=
  { src := L, srcChan := ch, nfl := nfl, tag := tag, job := q.job, gen := (s.cell L).gen, gs := b.gs, poison := pois, bytes := bs }

/-- C.SEND over a bound channel with a credit, of an aligned tile in a readable region. -/
theorem State.cSend_credit {tag m : Nat} {o : ChanOut} {bs : List Byte} {bad : List Nat} (link : o = nthD (s.cell L).chOut ch {})
    (bound : o.bind = some b) (credit : 0 < o.credits) (aligned : off % 32 = 0)
    (readable : (s.cell L).inRegion off (256 * nfl) Region.rd = true)
    (spent : u = (s.startHead L q).setCell L { (s.startHead L q).cell L with
      chOut := ((s.startHead L q).cell L).chOut.set ch { o with credits := o.credits - 1 } })
    (read : u.ownRead L off (256 * nfl) = (v, bs, bad)) (poison : m = tilePoison (scratchAddr L off) (256 * nfl) bad)
    (sent : w = ((v.consumeRead L off (256 * nfl)).chanSend L b q.job (.chTile
      ((v.consumeRead L off (256 * nfl)).tileOut L q ch nfl tag b m bs) b.peerChan)).bump (R.CH_OUT_CNT L ch) F.CH_OUT_CNT_TILES 1) :
    s.cSend L q ch off nfl tag = ((w.suspect (w.clusterOf L) q.job F.CLU_JOB_SUSPECT_POISON (m != 0)).portWaits L).finish L .channel := by
  subst poison sent
  obtain ⟨_, held⟩ := o
  cases bound
  have held' : held ≠ 0 := Nat.ne_of_gt credit
  simp only [State.cSend, State.tileOut, ← link, held', aligned, readable, ← spent, read, ne_eq, not_true_eq_false, Bool.not_true,
    Bool.false_eq_true, if_false]

/-- C.RECV of the oldest tile of a bound channel, of its own length, into an aligned writable region. -/
theorem State.cRecv_waiting {i : ChanIn} {t : ChTile} {rest : List ChTile} (met : w = s.meetStores (slotStores L ch))
    (link : i = nthD (w.cell L).chIn ch {}) (bound : i.bind = some b) (waiting : i.slots = t :: rest) (aligned : off % 32 = 0)
    (length : t.nfl = nfl) (writable : (w.cell L).inRegion off (256 * nfl) Region.wr = true)
    (copied : u = ((w.startHead L q).setCell L { (w.startHead L q).cell L with
      chIn := ((w.startHead L q).cell L).chIn.set ch { i with slots := rest } }).wr (scratchAddr L off) (sliceB t.bytes 0 (256 * nfl))
        (poisonSectors (scratchAddr L off) (256 * nfl) t.poison)) :
    s.cRecv L q ch off nfl = (((u.chanSend L b q.job (.chCredit b.peerChan ch 1)).bump (R.CH_IN_CNT L ch) F.CH_IN_CNT_TILES 1).portWaits L).finish L
      .channel := by
  subst met link copied
  simp only [State.cRecv, bound, waiting, aligned, length, writable, ne_eq, not_true_eq_false, Bool.not_true, Bool.false_eq_true, if_false]

end Channels

/-- Settles O11, clause by clause: V.CHAIN that waits or completes, V.SUM, C.SEND and C.RECV. -/
theorem vectorAndChannelInstructionsComplete : Obligations.VectorAndChannelInstructionsComplete := by
  refine ⟨?_, ?_, ?_, ?_⟩
  · intro c segs q xa xb xd xm inc n1 chain s v d xs n A B D M done k run run' starts addrs atA atB atD atM length desc sound readA readB readM writeD
      stands count ran
    have addrs' : xs = ((s.cell c.val).veFrom q).elim [xval q.xs xa, xval q.xs xb, xval q.xs xd, xval q.xs xm] (·.xstart) := by
      rw [addrs]; cases (s.cell c.val).veFrom q <;> rfl
    have stands' : (done, run) = ((s.cell c.val).veFrom q).elim (0, ChainRun.start d) (fun y => (y.done, y.run)) := by
      rw [stands]; cases (s.cell c.val).veFrom q <;> rfl
    have passes := State.vChain_passes desc sound readA readB readM writeD stands' count ran
    rw [exec_vChain_starts starts addrs', ← atA, ← atB, ← atD, ← atM, ← length, passes]
    refine ⟨fun more => ?_, fun last => ⟨_, _, _, rfl, rfl, rfl, ?_⟩⟩
    · rw [if_neg (Nat.not_le.mpr more)]
    · rw [if_pos last]
  · intro c q zmask tag s u v r starts room place record left checked
    rw [exec_vSum_starts starts, State.vSum_room room place record left checked]
  · intro c q ch inc xb nfl off tag s u v o b a n m bs bad starts link bound credit addr aligned length readable spent read poison
    subst addr length
    rw [exec_cSend_starts starts, State.cSend_credit link bound credit aligned readable spent read poison rfl]
    rfl
  · intro c q ch inc xb nfl off s w u i b t rest a n starts met link bound waiting addr aligned fits length writable copied
    subst addr length
    rw [exec_cRecv_starts starts, State.cRecv_waiting met link bound waiting aligned fits writable copied]

end Sys2Proof.Machine
end

section
/-! PROOFS. Descriptors of an SFU tile (file 07: R187, R188): the queue takes them, an idle tile runs the next, and its anchor counts the one that is done. -/

namespace Sys2Proof.Machine

section SfuTile
variable {s : State} {g t : Nat} {x : Sfu}

/-- A queue with room takes the descriptor's address. -/
theorem State.sfuQueue_room (v : Word) (tile : x = nthD (s.clu g).sfu t {}) (room : x.queue.length + x.run.toList.length < 8) :
    s.sfuQueue g t v = s.setClu g { s.clu g with
      sfu := (s.clu g).sfu.set t { x with queue := x.queue ++ [getF v F.CLU_SFU_SUBMIT_DESC_ADDR * 64] } } := by
  subst tile
  rw [State.sfuQueue, if_pos room]

/-- A full queue drops the descriptor's address. -/
theorem State.sfuQueue_full (v : Word) (tile : x = nthD (s.clu g).sfu t {}) (full : 8 ≤ x.queue.length + x.run.toList.length) :
    s.sfuQueue g t v = s.setFld (R.CLU_SFU_STATUS g t) F.CLU_SFU_STATUS_DROPPED 1 := by
  subst tile
  rw [State.sfuQueue, if_neg (Nat.not_lt.mpr full)]

/-- An idle tile whose next descriptor is good runs each of its rows, and holds the descriptor until it is done. -/
theorem State.sfuStart_good {u v : State} {a sect : Nat} {rest : List Nat} {b : List Byte} {bad : List Nat} {d : SfuDesc}
    (tile : x = nthD (s.clu g).sfu t {}) (idle : x.run = none) (next : x.queue = a :: rest)
    (taken : u = s.setClu g { s.clu g with sfu := (s.clu g).sfu.set t { x with queue := rest } }) (own : inOwnTiles g a 64 = true)
    (read : u.deliver 2 g 1 (17 + t) a 64 = (v, b, bad)) (desc : sfuRead b = some d) (inside : v.sfuInside g d = true)
    (names : sect = (v.sectClu g).elim 0 (·.id)) :
    s.sfuStart g t = ((List.range d.rows).foldl (fun y r => y.sfuRow g t sect d r) v).updClu g (fun c => { c with
      sfu := c.sfu.set t { nthD c.sfu t {} with run := some { addr := a, anchor := d.anchor, job := d.job } } }) := by
  subst names
  obtain ⟨_, _⟩ := x
  cases idle
  cases next
  rw [State.sfuStart, ← tile]
  -- The known queue is reduced before the checks are rewritten: in one step with them the kernel would evaluate the address check on an open address.
  dsimp only
  rw [← taken, read, if_neg (by simp [own])]
  simp only [desc, inside, Bool.not_true, Bool.false_eq_true, if_false]
  cases v.sectClu g <;> rfl

/-- A descriptor that is done leaves its tile idle and adds to its anchor. -/
theorem exec_sfuDescriptorDone_running {g : Fin 256} {t : Fin 2} {r : SfuRun} (tile : x = nthD (s.clu g.val).sfu t.val {}) (runs : x.run = some r) :
    exec (.sfuDescriptorDone g t) s =
      .next ((s.setClu g.val { s.clu g.val with sfu := (s.clu g.val).sfu.set t.val { x with run := none } }).ancDone g.val r.anchor) := by
  subst tile
  have e : exec (.sfuDescriptorDone g t) s = execSfuDescriptorDone g t s := by rfl
  rw [e, execSfuDescriptorDone]
  simp only [runs]

end SfuTile

theorem exec_sfuSubmit (g : Fin 256) (t : Fin 2) (v : Word) (s : State) : exec (.sfuSubmit g t v) s = .next (s.sfuQueue g.val t.val v) := by rfl

theorem exec_sfuDescriptorRun (g : Fin 256) (t : Fin 2) (s : State) : exec (.sfuDescriptorRun g t) s = .next (s.sfuStart g.val t.val) := by rfl

/-- Settles O17, clause by clause: a queue with room, a full one, a descriptor that runs, and one that is done. -/
theorem sfuCommandsComplete : Obligations.SfuCommandsComplete := by
  refine ⟨?_, ?_, ?_, ?_⟩
  · intro g t v s x tile room
    rw [exec_sfuSubmit, State.sfuQueue_room v tile room]
  · intro g t v s x tile full
    rw [exec_sfuSubmit, State.sfuQueue_full v tile full]
  · intro g t s u v x a rest b bad d tile idle next taken own read desc inside
    rw [exec_sfuDescriptorRun, State.sfuStart_good tile idle next taken own read desc inside rfl]
    cases v.sectClu g.val <;> rfl
  · intro g t s x r tile runs
    exact exec_sfuDescriptorDone_running tile runs

end Sys2Proof.Machine
end

section
/-! PROOFS. Memory packets (files 08 and 09): reads, writes, data and acknowledgements of memory tiles and tiers (R212, R220, R221, R234, R235), and all that a
write packet changes. -/

namespace Sys2Proof.Machine

/-! ### Poison that a clean write clears (R221) -/

theorem mem_sectorsOf_of_whole {a n k : Nat} (lo : a ≤ 64 * k) (hi : 64 * k + 64 ≤ a + n) : k ∈ sectorsOf a n := by
  rw [sectorsOf, if_neg (by omega)]
  exact List.mem_map.2 ⟨k - a / 64, List.mem_range.2 (by omega), by omega⟩

theorem mem_insNat {x y : Nat} : ∀ {l : List Nat}, y ∈ insNat x l ↔ y = x ∨ y ∈ l
  | [] => by simp [insNat]
  | z :: l => by
    rw [insNat]
    split
    · rename_i e; simp [e]
    · split
      · exact List.mem_cons
      · rw [List.mem_cons, mem_insNat, List.mem_cons, or_left_comm]

/-- A write that covers a whole sector with clean bytes leaves it without poison. -/
theorem poisonAfter_cleared {l bad : List Nat} {a n k : Nat} (clean : bad.contains k = false) (lo : a ≤ 64 * k) (hi : 64 * k + 64 ≤ a + n) :
    (poisonAfter l a n bad).contains k = false := by
  have touched : k ∈ sectorsOf a n := mem_sectorsOf_of_whole lo hi
  have fresh : k ∉ bad := by simpa using clean
  suffices gone : k ∉ poisonAfter l a n bad by simpa using gone
  refine List.foldlRecOn (motive := fun m => k ∉ m) _ _ ?_ fun m out j hj => ?_
  · simp [touched, lo, hi, fresh]
  · have other : k ≠ j := by rintro rfl; simp [fresh] at hj
    simp [mem_insNat, other, out]

/-! ### Arrival at an end point -/

/-- All that a packet's arrival can touch: the packets in flight, the upsets it meets, and the counters and the log that note them. -/
def State.receivesAs (s u : State) : Prop :=
  u = { s with net := u.net, xbar := u.xbar, upsets := u.upsets, evt := u.evt, host := u.host, pwr := u.pwr, regs := u.regs, imsic := u.imsic,
               partEvt := u.partEvt }

theorem State.receivesAs_chain {s t u : State} (h : s.receivesAs t) (h' : t.receivesAs u) : s.receivesAs u := by
  unfold State.receivesAs at *; rw [h', h]

theorem State.logsTo.receivesAs {s t : State} (h : s.logsTo t) : s.receivesAs t := by
  unfold State.logsTo at h; rw [h]; rfl

/-- Meeting the errors of a payload notes and removes them. -/
theorem State.payloadMeet_receivesAs (s : State) (p : Packet) : s.receivesAs (s.payloadMeet p).1 := by
  unfold State.payloadMeet
  split
  · rfl
  · refine List.foldlRecOn (motive := fun x : State × Packet => s.receivesAs x.1) _ _ rfl fun x met i _ => ?_
    dsimp only
    by_cases hit : x.1.upsets.contains (.payload p.dest.cluster p.dest.code i) = true
    · have erased : x.1.receivesAs { x.1 with upsets := x.1.upsets.erase (.payload p.dest.cluster p.dest.code i) } := rfl
      rw [if_pos hit]
      exact State.receivesAs_chain met (State.receivesAs_chain erased (State.raise_logs _ _).receivesAs)
    · rw [if_neg hit]
      exact met

theorem State.payloadMeet_sound {s : State} (sound : s.upsets = []) (p : Packet) : s.payloadMeet p = (s, p) := by
  simp [State.payloadMeet, sound]

section Arrival
variable {s u : State} {xb : Bool} {type n : Nat} {p : Packet}

theorem State.arrives.receivesAs (h : s.arrives type n p u) : s.receivesAs u := by
  obtain ⟨-, w, y, ejected, met⟩ := h
  have taken : s.receivesAs w := by rw [State.eject_frame ejected]; rfl
  have := w.payloadMeet_receivesAs y
  rw [met] at this
  exact State.receivesAs_chain taken this

/-- Without upsets an arrival logs nothing. -/
theorem State.arrives.evt_eq (h : s.arrives type n p u) (sound : s.upsets = []) : u.evt = s.evt := by
  obtain ⟨-, w, y, ejected, met⟩ := h
  have frame := State.eject_frame ejected
  have sound' : w.upsets = [] := by rw [frame]; exact sound
  rw [State.payloadMeet_sound sound'] at met
  obtain rfl := (Prod.mk.inj met).1
  rw [frame]

theorem State.reaches.receivesAs (h : s.reaches xb type n p u) : s.receivesAs u := by
  cases xb
  case false => exact State.arrives.receivesAs h
  case true =>
    obtain ⟨i, -, -, rfl⟩ := h
    rfl

theorem State.reaches.evt_eq (h : s.reaches xb type n p u) (sound : s.upsets = []) : u.evt = s.evt := by
  cases xb
  case false => exact State.arrives.evt_eq h sound
  case true =>
    obtain ⟨i, -, -, rfl⟩ := h
    rfl

/-- A memory-tile message that reaches its end goes to its meaning. -/
theorem State.onTile_reaches (h : s.reaches xb type n p u) (f : State → Packet → State) : s.onTile xb type n f = f u p := by
  cases xb
  case false => exact State.onPkt_arrives h f
  case true =>
    obtain ⟨i, picked, there, rfl⟩ := h
    simp only [State.onTile, if_true, State.onXbar, picked, there]

end Arrival

/-! ### The meanings of the packets of memory tiles and tiers -/

section Packets
variable {s u : State} {xb t : Bool} {n : Nat} {p : Packet} {r : MemReq} {b : List Byte} {bad : List Nat}

/-- A memory tile answers a read with the bytes of its array: over the crossbar as a unit of the cluster receives them, over the mesh as the port does. -/
theorem exec_mtRead_reaches {v : State} (h : s.reaches xb 0x20 n p u) (read : p.pkt = .memRead t r)
    (delivered : (if xb then u.deliver 2 p.dest.cluster 1 p.src.code r.addr r.len else u.deliver 0 0 (arrayOf r.addr) 21 r.addr r.len) = (v, b, bad)) :
    exec (.mtRead ⟨xb, n⟩) s = .next (v.tileAnswer xb p (.memData false r b bad)) := by
  have e : exec (.mtRead ⟨xb, n⟩) s = execMtRead ⟨xb, n⟩ s := by rfl
  rw [e, execMtRead, State.onTile_reaches h]
  simp only [read, delivered]

theorem exec_mtWrite_reaches (h : s.reaches xb 0x21 n p u) (write : p.pkt = .memWrite t r b bad) :
    exec (.mtWrite ⟨xb, n⟩) s = .next ((u.tileWr r.addr b bad).tileAnswer xb p (.memAck false r)) := by
  have e : exec (.mtWrite ⟨xb, n⟩) s = execMtWrite ⟨xb, n⟩ s := by rfl
  rw [e, execMtWrite, State.onTile_reaches h]
  simp only [write]

theorem exec_mtData_reaches (c : Fin 4096) (beats : Nat) (h : s.reaches xb 0x22 n p u) (data : p.pkt = .memData t r b bad) :
    exec (.mtData ⟨⟨n, c, beats⟩, xb⟩) s = .next ((u.reqData p r b bad).leadDrain c.val beats) := by
  have e : exec (.mtData ⟨⟨n, c, beats⟩, xb⟩) s = execMtData ⟨⟨n, c, beats⟩, xb⟩ s := by rfl
  rw [e, execMtData, State.onTile_reaches h]
  simp only [data]

theorem exec_mtAck_reaches (h : s.reaches xb 0x23 n p u) (ack : p.pkt = .memAck t r) : exec (.mtAck ⟨xb, n⟩) s = .next (u.reqAck p r) := by
  have e : exec (.mtAck ⟨xb, n⟩) s = execMtAck ⟨xb, n⟩ s := by rfl
  rw [e, execMtAck, State.onTile_reaches h]
  simp only [ack]

/-- A tier whose port has not failed answers a read with its bytes. -/
theorem exec_tierRead_arrives {v : State} (h : s.arrives 0x30 n p u) (read : p.pkt = .memRead t r) (up : u.farFailed r.addr = false)
    (bytes : u.tierRead r.addr r.len = (v, b, bad)) :
    exec (.tierRead n) s = .next (v.replyTo p (tierSender r.addr) (.memData true r b bad)) := by
  have e : exec (.tierRead n) s = execTierRead n s := by rfl
  rw [e, execTierRead, State.onPkt_arrives h]
  simp only [read, up, bytes, Bool.false_eq_true, if_false]

/-- A tier whose port has not failed stores and acknowledges a write. -/
theorem exec_tierWrite_arrives (h : s.arrives 0x31 n p u) (write : p.pkt = .memWrite t r b bad) (up : u.farFailed r.addr = false) :
    exec (.tierWrite n) s = .next ((u.tierWrite r.addr b bad).replyTo p (tierSender r.addr) (.memAck true r)) := by
  have e : exec (.tierWrite n) s = execTierWrite n s := by rfl
  rw [e, execTierWrite, State.onPkt_arrives h]
  simp only [write, up, Bool.false_eq_true, if_false]

/-- Data of a tier goes to the requester at its endpoint, then the haul ring of a cell drains. -/
theorem exec_tierData_arrives (c : Fin 4096) (beats : Nat) (h : s.arrives 0x32 n p u) (data : p.pkt = .memData t r b bad) :
    exec (.tierData ⟨n, c, beats⟩) s = .next ((if p.dest.code < 16 then u.leadData (u.cellAt p.dest.cluster p.dest.code) r b bad
      else if p.dest.code = 19 then u.dmaData p.dest.cluster r b bad
      else if p.dest.code = 20 then u.updData p.dest.cluster r b bad
      else u).leadDrain c.val beats) := by
  have e : exec (.tierData ⟨n, c, beats⟩) s = execTierData ⟨n, c, beats⟩ s := by rfl
  rw [e, execTierData, State.onPkt_arrives h]
  simp only [data]

/-- An acknowledgement of a tier goes to the requester at its endpoint. -/
theorem exec_tierAck_arrives (h : s.arrives 0x33 n p u) (ack : p.pkt = .memAck t r) :
    exec (.tierAck n) s = .next (if p.dest.code < 16 then u.leadAck (u.cellAt p.dest.cluster p.dest.code) r
      else if p.dest.code = 19 then u.dmaAck p.dest.cluster r
      else if p.dest.code = 20 then u.updAck p.dest.cluster r
      else u) := by
  have e : exec (.tierAck n) s = execTierAck n s := by rfl
  rw [e, execTierAck, State.onPkt_arrives h]
  simp only [ack]

end Packets

/-- Settles O22, clause by clause: the four messages of a memory tile, and those of a tier by the endpoint they reach. -/
theorem memoryPacketsComplete : Obligations.MemoryPacketsComplete := by
  refine ⟨?_, ?_, ?_, ?_, ?_, ?_, ?_, ?_⟩
  · intro xb n p t r s u v b bad h read delivered
    exact exec_mtRead_reaches h read delivered
  · intro xb n p t r b bad s u h write
    exact exec_mtWrite_reaches h write
  · intro xb n c beats p t r b bad s u h data
    exact exec_mtData_reaches c beats h data
  · intro xb n p t r s u h ack
    exact exec_mtAck_reaches h ack
  · intro n p t r s u v b bad h read up bytes
    exact exec_tierRead_arrives h read up bytes
  · intro n p t r b bad s u h write up
    exact exec_tierWrite_arrives h write up
  · intro n c beats p t r b bad s u h data
    rw [exec_tierData_arrives c beats h data]
    refine ⟨fun cell => ?_, fun dma => ?_, fun upd => ?_⟩
    · rw [if_pos cell]
    · rw [dma]; rfl
    · rw [upd]; rfl
  · intro n p t r s u h ack
    rw [exec_tierAck_arrives h ack]
    refine ⟨fun cell => ?_, fun dma => ?_, fun upd => ?_⟩
    · rw [if_pos cell]
    · rw [dma]; rfl
    · rw [upd]; rfl

/-! ### What a write packet changes, and what it leaves -/

/-- Bytes are stored and an answer is sent: beside memory and poison, only packets, flits and counters change. -/
def State.storesAs (u : State) (a : Nat) (b : List Byte) (bad : List Nat) (v : State) : Prop :=
  v = { u with mem := memWriteN u.mem a b, poison := poisonAfter u.poison a b.length bad, net := v.net, xbar := v.xbar, regs := v.regs, links := v.links }

theorem State.countPoison_frame (s : State) (a n : Nat) : s.countPoison a n = { s with regs := (s.countPoison a n).regs } := by
  unfold State.countPoison
  split
  · rfl
  · split
    · rfl
    · split <;> rfl

theorem State.tileAnswer_frame (s : State) (xb : Bool) (p : Packet) (k : Pkt) : s.tileAnswer xb p k =
    { s with net := (s.tileAnswer xb p k).net, xbar := (s.tileAnswer xb p k).xbar, regs := (s.tileAnswer xb p k).regs,
             links := (s.tileAnswer xb p k).links } := by
  cases xb
  case false =>
    have sent : s.tileAnswer false p k = s.send { p with pkt := k, dest := p.src, src := p.dest, sender := .cluster p.dest.cluster } := rfl
    rw [sent, State.send_frame]
  case true => rfl

theorem State.tileWr_answer_storesAs (u : State) (a : Nat) (b : List Byte) (bad : List Nat) (xb : Bool) (p : Packet) (k : Pkt) :
    u.storesAs a b bad ((u.tileWr a b bad).tileAnswer xb p k) := by
  unfold State.storesAs
  rw [State.tileAnswer_frame, State.tileWr, State.tileBusy_frame]
  rfl

theorem State.tierWrite_reply_storesAs (u : State) (a : Nat) (b : List Byte) (bad : List Nat) (p : Packet) (x : Sender) (k : Pkt) :
    u.storesAs a b bad ((u.tierWrite a b bad).replyTo p x k) := by
  unfold State.storesAs
  rw [State.replyTo, State.send_frame, State.tierWrite, State.countPoison_frame]
  rfl

section Stored
variable {s u v : State} {a : Nat} {b : List Byte} {bad : List Nat}

/-- The bytes of a write packet stand at its address, and no other byte changes. -/
theorem State.storesAs.mem_eq (stored : u.storesAs a b bad v) (received : s.receivesAs u) :
    (∀ i < b.length, memRead v.mem (a + i) = nthD b i 0) ∧ ∀ x, (x < a ∨ a + b.length ≤ x) → memRead v.mem x = memRead s.mem x := by
  have mem : v.mem = memWriteN s.mem a b := by rw [stored, received]
  rw [mem]
  exact ⟨fun i inside => memRead_memWriteN_in b s.mem a i inside, fun x outside => memRead_memWriteN_out b s.mem a x outside⟩

/-- A sector that a write packet covers with clean bytes has no poison. -/
theorem State.storesAs.poison_cleared (stored : u.storesAs a b bad v) {k : Nat} (clean : bad.contains k = false) (lo : a ≤ 64 * k)
    (hi : 64 * k + 64 ≤ a + b.length) : v.poison.contains k = false := by
  rw [stored]
  exact poisonAfter_cleared clean lo hi

/-- The frame of a write packet. -/
theorem State.storesAs.frame (stored : u.storesAs a b bad v) (received : s.receivesAs u) (quiet : s.upsets = [] → u.evt = s.evt) :
    v.anchors = s.anchors ∧ v.cells = s.cells ∧ v.clus = s.clus ∧ v.teams = s.teams ∧ v.adm = s.adm ∧ v.time = s.time ∧ v.evt = u.evt ∧
      (s.upsets = [] → v.evt = s.evt) := by
  have evt : v.evt = u.evt := by rw [stored]
  refine ⟨?_, ?_, ?_, ?_, ?_, ?_, evt, fun sound => evt.trans (quiet sound)⟩ <;> rw [stored, received]

end Stored

/-- Settles O49: a write packet's arrival, its store and its answer each keep a frame, and the store is a run of bytes written in memory. -/
theorem writePacketsStoreTheirBytes : Obligations.WritePacketsStoreTheirBytes := by
  refine ⟨?_, ?_⟩
  · intro xb n p t r b bad s u h write
    have stored := u.tileWr_answer_storesAs r.addr b bad xb p (.memAck false r)
    obtain ⟨inside, outside⟩ := stored.mem_eq h.receivesAs
    exact ⟨_, exec_mtWrite_reaches h write, inside, outside, fun _ clean lo hi => stored.poison_cleared clean lo hi, stored.frame h.receivesAs h.evt_eq⟩
  · intro n p t r b bad s u h write up
    have stored := u.tierWrite_reply_storesAs r.addr b bad p (tierSender r.addr) (.memAck true r)
    obtain ⟨inside, outside⟩ := stored.mem_eq h.receivesAs
    exact ⟨_, exec_tierWrite_arrives h write up, inside, outside, stored.frame h.receivesAs h.evt_eq⟩

end Sys2Proof.Machine
end

section
/-! PROOFS. Belay messages (file 08): grants, writes, acknowledgements, returned credits and closes at the cell they reach (R205 to R209). -/

namespace Sys2Proof.Machine

/-- A message that crosses a neighbour link goes to its meaning, at its receiver. -/
theorem State.onNbr_crosses {s u : State} {sel : NbrMsg → Bool} {n L d : Nat} {m : NbrMsg} (h : s.crosses sel n m L d u)
    (f : State → NbrMsg → Nat → Nat → State) : s.onNbr sel n f = f u m L d := by
  obtain ⟨i, picked, there, first, rfl, receiver, rfl⟩ := h
  exact State.onNbr_some picked there first receiver

/-- The first entry of a direction is the one dropped. -/
theorem dropNbr_append {d : Nat} (q : QInstr) (b : List (Nat × QInstr)) : ∀ {a : List (Nat × QInstr)}, (∀ x ∈ a, x.1 ≠ d) →
    dropNbr d (a ++ (d, q) :: b) = a ++ b
  | [], _ => if_pos rfl
  | x :: a, other => by
    obtain ⟨here, rest⟩ := List.forall_mem_cons.1 other
    rw [List.cons_append, dropNbr, if_neg here, dropNbr_append q b rest]
    rfl

section Belay
variable {s u : State} {n L d : Nat} {m : NbrMsg}

theorem exec_belayGrant_crosses {g : Grant} (h : s.crosses NbrMsg.isGrant n m L d u) (body : m.body = .grant g) :
    exec (.belayGrant n) s = .next (if (u.cell L).gen = g.gen then
        u.takeGrant L d g ((u.cell L).filling || !decide ((u.cell L).st = .ending ∨ (u.cell L).st = .idle))
      else u.setCell L { u.cell L with tx := (u.cell L).tx.set (d - 1) { nthD (u.cell L).tx (d - 1) {} with pend := some g } }) := by
  have e : exec (.belayGrant n) s = execBelayGrant n s := by rfl
  rw [e, execBelayGrant, State.onNbr_crosses h]
  simp only [body]

/-- A write into a granted window. -/
theorem exec_neighbourWrite_granted {v : State} {off span iaddr : Nat} {parts : List (Nat × List Byte)} {pois : Bool} {w : BelayRx}
    (h : s.crosses NbrMsg.isWrite n m L d u) (body : m.body = .write off span parts pois iaddr) (window : w = nthD (u.cell L).rx (d - 1) {})
    (granted : w.granted = true) (landed : v = (parts.foldl (fun x r => x.ownWrite L r.1 r.2 pois) u).nbrParity L off span) :
    exec (.neighbourWrite n) s = .next ((((v.setCell L { v.cell L with rx := (v.cell L).rx.set (d - 1) { w with
      full := (unitsIn w.base w.units off span).foldl (fun k x => k ||| 2 ^ x) w.full } }).bump (R.CELL_BELAY_RX L (d - 1))
        F.CELL_BELAY_RX_WRITES 1).portWaits L).nbrSend L d .ack) := by
  have e : exec (.neighbourWrite n) s = execNeighbourWrite n s := by rfl
  rw [e, execNeighbourWrite, State.onNbr_crosses h]
  simp only [body, ← window, granted, ← landed, if_true]

theorem exec_neighbourAck_crosses (h : s.crosses NbrMsg.isAck n m L d u) :
    exec (.neighbourAck n) s = .next (u.setCell L { u.cell L with nbrOut := dropNbr d (u.cell L).nbrOut }) := by
  have e : exec (.neighbourAck n) s = execNeighbourAck n s := by rfl
  rw [e, execNeighbourAck, State.onNbr_crosses h]

/-- A credit of the window held is held again, or after Q.END goes back in a close. -/
theorem exec_belayCreditReturn_held {k : Nat} {gen : Bool} {x : BelayTx} {w : Grant} (h : s.crosses NbrMsg.isCredit n m L d u)
    (body : m.body = .credit k gen) (side : x = nthD (u.cell L).tx (d - 1) {}) (window : x.win = some w) (same : w.gen = gen) :
    exec (.belayCreditReturn n) s = .next (if (u.cell L).st = .ending ∨ (u.cell L).st = .idle then u.nbrSend L d (.close (2 ^ k) gen)
      else u.setCell L { u.cell L with tx := (u.cell L).tx.set (d - 1) { x with held := x.held ||| 2 ^ k } }) := by
  have e : exec (.belayCreditReturn n) s = execBelayCreditReturn n s := by rfl
  rw [e, execBelayCreditReturn, State.onNbr_crosses h]
  simp only [body, ← side, window, same, ne_eq, not_true_eq_false, false_or]

/-- A credit of a window that is gone goes back in a close. -/
theorem exec_belayCreditReturn_gone {k : Nat} {gen : Bool} (h : s.crosses NbrMsg.isCredit n m L d u) (body : m.body = .credit k gen)
    (gone : ∀ w, (nthD (u.cell L).tx (d - 1) {}).win = some w → w.gen ≠ gen) :
    exec (.belayCreditReturn n) s = .next (u.nbrSend L d (.close (2 ^ k) gen)) := by
  have e : exec (.belayCreditReturn n) s = execBelayCreditReturn n s := by rfl
  rw [e, execBelayCreditReturn, State.onNbr_crosses h]
  simp only [body]
  cases window : (nthD (u.cell L).tx (d - 1) {}).win with
  | none => rfl
  | some w => simp only [gone w window, ne_eq, not_false_eq_true, true_or, if_true]

/-- A close of the receiver's own generation closes a granted window and brings its credits home. -/
theorem exec_belayClose_granted {k : Nat} {gen : Bool} {w : BelayRx} (h : s.crosses NbrMsg.isClose n m L d u) (body : m.body = .close k gen)
    (window : w = nthD (u.cell L).rx (d - 1) {}) (granted : w.granted = true) (same : (u.cell L).gen = gen) :
    exec (.belayClose n) s = .next (u.setCell L { u.cell L with
      rx := (u.cell L).rx.set (d - 1) { w with closed := true, home := w.home ||| k } }) := by
  have e : exec (.belayClose n) s = execBelayClose n s := by rfl
  rw [e, execBelayClose, State.onNbr_crosses h]
  simp only [body, ← window, granted, same, and_self, if_true]

end Belay

/-- Settles O18, clause by clause: a grant, a write, an acknowledgement, a credit that is held or goes back, and a close. -/
theorem belayMessagesComplete : Obligations.BelayMessagesComplete := by
  refine ⟨?_, ?_, ?_, ?_, ?_, ?_⟩
  · intro n L d m g s u h body
    exact exec_belayGrant_crosses h body
  · intro n L d off span iaddr m parts pois w s u v h body window granted landed
    exact exec_neighbourWrite_granted h body window granted landed
  · intro n L d m s u a b q h waiting oldest
    rw [exec_neighbourAck_crosses h, waiting, dropNbr_append q b oldest]
  · intro n L d k gen m x w s u h body side window same
    exact exec_belayCreditReturn_held h body side window same
  · intro n L d k gen m s u h body gone
    exact exec_belayCreditReturn_gone h body gone
  · intro n L d k gen m w s u h body window granted same
    exact exec_belayClose_granted h body window granted same

end Sys2Proof.Machine
end

section
/-! PROOFS. The lead engine's instructions at the head of their queue (file 09): L.FETCH (R232), L.GATHER (R238) and the cancel point of L.CANCEL (R243). -/

namespace Sys2Proof.Machine

/-! ### The commands and their meanings -/

section LeadHeads
variable {s : State} {c : Fin 4096} {q : QInstr}

theorem exec_lFetch_starts {xs : BitVec 4} {lb : BitVec 2} {sp dir : BitVec 1} {xd : BitVec 4} {inc : BitVec 1} {len : BitVec 17}
    (h : s.starts c.val .lead q (.lFetch xs lb sp dir xd inc len)) : exec (.lFetch c) s =
      .next (s.lFetch c.val q (sp = 1#1) (dir = 1#1) (q.leadX 0 xs) (q.leadX 1 xd) (32 * (len.toNat + 1))) := by
  obtain ⟨head, word⟩ := h
  have e : exec (.lFetch c) s = execLFetch c s := by rfl
  rw [e, execLFetch, State.atHead_some head, word]

theorem exec_lGather_starts {xs : BitVec 4} {lb : BitVec 2} {sp : BitVec 1} {xd xt : BitVec 4} {inc : BitVec 1} {pg : BitVec 3} {count : BitVec 9}
    {len : BitVec 11} (h : s.starts c.val .lead q (.lGather xs lb sp xd xt inc pg count len)) : exec (.lGather c) s =
      .next (s.lGather c.val q (sp = 1#1) (q.leadX 0 xs) (q.leadX 1 xd) (q.leadX 2 xt) pg.toNat (count.toNat + 1) (32 * (len.toNat + 1))) := by
  obtain ⟨head, word⟩ := h
  have e : exec (.lGather c) s = execLGather c s := by rfl
  rw [e, execLGather, State.atHead_some head, word]

theorem exec_lCancel_starts {all : BitVec 1} (h : s.starts c.val .lead q (.lCancel all)) :
    exec (.lCancel c) s = .next (s.lCancel c.val q (all = 1#1)) := by
  obtain ⟨head, word⟩ := h
  have e : exec (.lCancel c) s = execLCancel c s := by rfl
  rw [e, execLCancel, State.atHead_some head, word]

end LeadHeads

/-! ### Past the checks at the start -/

section LeadChecks
variable {s u : State} {L : Nat} {q : QInstr} {space : Bool}

/-- L.FETCH with a ready engine, its target in the scratchpad's regions and, in memory-tile space, its source or target there too. -/
theorem State.lFetch_inRegions {put : Bool} {src dst len : Nat} (ready : (s.cell L).lead.ready = true)
    (target : (s.cell L).inRegion dst len Region.haul = true)
    (tile : space = true → (s.cell L).inTile src len (if put then Region.wr else Region.rd) = true) :
    s.lFetch L q space put src dst len = s.leadStart L q [src, dst, 0] [] := by
  have noTile : (space && !(s.cell L).inTile src len (if put then Region.wr else Region.rd)) = false := by simpa using tile
  simp only [State.lFetch, ready, target, noTile, Bool.not_true, Bool.false_eq_true, if_false]

/-- L.GATHER with a ready engine, an aligned offset inside its block, and its table, its targets and every block that the table names in their regions. -/
theorem State.lGather_inRegions {off dst tab pg count len : Nat} {b : List Byte} {bad : List Nat} (ready : (s.cell L).lead.ready = true)
    (aligned : off % 32 = 0) (inBlock : off + len ≤ 2 ^ (9 + pg)) (readable : (s.cell L).inRegion tab (4 * count) Region.rd = true)
    (target : (s.cell L).inRegion dst (count * len) Region.haul = true) (read : s.ownRead L tab (4 * count) = (u, b, bad))
    (tile : space = true → ∀ e ∈ chunkWords count 4 b, e ≠ 0xFFFFFFFF → (s.cell L).inTile (e * 2 ^ (9 + pg) + off) len Region.rd = true) :
    s.lGather L q space off dst tab pg count len =
      (u.consumeRead L tab (4 * count)).leadStart L q [off, dst, tab] (chunkWords count 4 b) := by
  have inside : ¬(off % 32 ≠ 0 ∨ 2 ^ (9 + pg) < off + len) := by omega
  have noBad : (chunkWords count 4 b).find? (fun e => space && decide (e ≠ 0xFFFFFFFF) && !(s.cell L).inTile (e * 2 ^ (9 + pg) + off) len Region.rd) =
      none := by
    refine List.find?_eq_none.2 fun e mem => ?_
    cases space with
    | false => simp
    | true =>
      have entry := tile rfl e mem
      simpa using entry
  simp only [State.lGather, ready, inside, readable, target, read, noBad, Bool.not_true, Bool.false_eq_true, if_false]

/-- L.CANCEL that has not marked its cancel point marks it. -/
theorem State.lCancel_fresh {all : Bool} (fresh : (s.cell L).lead.cancels.any (fun x => x.q = some q) = false) :
    s.lCancel L q all = s.setCell L { (s.cell L).begin q with lead := { (s.cell L).lead.cancel (if all then none else some q.job) with
      cancels := ((s.cell L).lead.cancel (if all then none else some q.job)).cancels ++ [{ job := if all then none else some q.job, q := some q }] } } := by
  simp only [State.lCancel, fresh, Bool.false_eq_true, if_false, State.updLead, State.cell_setCell, State.setCell_setCell]
  rfl

end LeadChecks

/-- Settles O12, clause by clause: L.FETCH, L.GATHER and the cancel point of L.CANCEL. -/
theorem leadInstructionsComplete : Obligations.LeadInstructionsComplete := by
  refine ⟨?_, ?_, ?_⟩
  · intro c q xs lb sp dir xd inc len s starts ready target tile
    rw [exec_lFetch_starts starts, State.lFetch_inRegions ready target (by simpa using tile)]
  · intro c q xs lb sp xd xt inc pg count len s u b bad table starts ready aligned inBlock readable target read entries tile
    subst entries
    rw [exec_lGather_starts starts, State.lGather_inRegions ready aligned inBlock readable target read (by simpa using tile)]
  · intro c q all s starts fresh
    refine ⟨_, rfl, ?_⟩
    rw [exec_lCancel_starts starts, State.lCancel_fresh fresh]
    simp only [decide_eq_true_eq]

end Sys2Proof.Machine
end

section
/-! PROOFS. What a cell's lead engine leaves alone while it issues (file 09): the team numbers of the partitions (Table 49). The registers that it writes are no
SECT_TEAM, or have the field that it writes in the lowest 16 bits, below TEAM_ID. -/

namespace Sys2Proof.Machine

/-! ### Units, memory and registers -/

@[simp] theorem State.teamId_setClu (s : State) (g : Nat) (c : Clu) : (s.setClu g c).teamId = s.teamId := rfl
@[simp] theorem State.teamId_updLead (s : State) (L : Nat) (f : Lead → Lead) : (s.updLead L f).teamId = s.teamId := rfl
@[simp] theorem State.teamId_draws (s : State) (n : Nat) : ({ s with draws := n } : State).teamId = s.teamId := rfl
@[simp] theorem State.teamId_wr (s : State) (a : Nat) (bs : List Byte) (bad : List Nat) : (s.wr a bs bad).teamId = s.teamId := rfl

/-- A field of another register leaves the team numbers. -/
theorem State.teamId_setFld_apart (s : State) {a : Nat} (f : Fld) (v : Nat) (apart : ∀ p, R.SECT_TEAM p ≠ a) : (s.setFld a f v).teamId = s.teamId :=
  funext fun p => State.fld_setFld_ne s f _ v (apart p)

/-- So does a field below bit 16, in whatever register it lies. -/
theorem State.teamId_setFld_low (s : State) (a : Nat) {f : Fld} (v : Nat) (order : f.lo ≤ f.hi) (low : f.hi < 16) :
    (s.setFld a f v).teamId = s.teamId := by
  funext p
  by_cases same : R.SECT_TEAM p = a
  · subst same
    exact State.fld_setFld_apart s _ f F.SECT_TEAM_TEAM_ID v order (by omega) (.inl low)
  · exact State.fld_setFld_ne s f _ v same

theorem State.teamId_bump (s : State) {a : Nat} (f : Fld) (n : Nat) (apart : ∀ p, R.SECT_TEAM p ≠ a) : (s.bump a f n).teamId = s.teamId :=
  State.teamId_setFld_apart s f _ apart

/-- A SECT_TEAM stands at 0x120 of its page (Table 49), so a register elsewhere in its own page is none. -/
theorem sectTeam_ne_of_page {a : Nat} (page : a % 0x1000 ≠ 0x120) (p : Nat) : R.SECT_TEAM p ≠ a := by
  simp only [R.SECT_TEAM, Blk.base]; omega

/-- The blocks that stand once in the chip lie below the partitions (Table 19). -/
theorem sectTeam_ne_of_below {a : Nat} (below : a < 0x0F3000000000) (p : Nat) : R.SECT_TEAM p ≠ a := by
  simp only [R.SECT_TEAM, Blk.base]; omega

@[simp] theorem State.teamId_suspect_poison (s : State) (g job : Nat) (y : Bool) :
    (s.suspect g job F.CLU_JOB_SUSPECT_POISON y).teamId = s.teamId := by
  unfold State.suspect
  split
  · exact State.teamId_setFld_low _ _ _ (by decide) (by decide)
  · rfl

/-! ### Events -/

@[simp] theorem State.teamId_coreMsi (s : State) (n : Nat) : (s.coreMsi n).teamId = s.teamId := by
  rw [State.coreMsi_frame]; rfl

@[simp] theorem State.teamId_writeRec (s : State) (r : EvtRec) : (s.writeRec r).teamId = s.teamId := by
  unfold State.writeRec
  extract_lets r cls low
  split
  next g ok pushed =>
    extract_lets logged counted signalled
    have inLog : counted.teamId = s.teamId := by
      simp only [counted]
      split
      · rfl
      · exact State.teamId_bump logged _ _ (sectTeam_ne_of_below (by decide))
    have atHub : signalled.teamId = s.teamId := (State.teamId_coreMsi _ _).trans inLog
    clear_value signalled
    split
    · exact atHub
    split
    next p _ g ok pushed =>
      split
      · exact atHub
      · exact (State.teamId_bump _ _ _ (sectTeam_ne_of_page (by simp only [R.PART_EVT_HEAD, Blk.base]; omega))).trans atHub

@[simp] theorem State.teamId_raise (s : State) (e : Evt) : (s.raise e).teamId = s.teamId := by
  unfold State.raise; dsimp only
  split
  · split
    · rfl
    · split
      · rfl
      · exact State.teamId_bump s _ _ (sectTeam_ne_of_below (by decide))
  · exact State.teamId_writeRec _ _

@[simp] theorem State.teamId_raiseSect (s : State) (t part kind src code d : Nat) (a : Option Nat) :
    (s.raiseSect t part kind src code d a).teamId = s.teamId := by
  unfold State.raiseSect State.lastEvent State.setMembers; dsimp only
  split
  · refine (foldl_keeps State.teamId _ (fun x p => ?_) _ _).trans (State.teamId_raise _ _)
    exact State.teamId_setFld_apart x _ _ (sectTeam_ne_of_page (by simp only [R.SECT_STATUS, Blk.base]; omega))
  · exact State.teamId_raise _ _

/-! ### Errors that a read of the scratchpad meets (R362, R393) -/

@[simp] theorem State.teamId_refuseChange (s : State) (t op reason w : Nat) : (s.refuseChange t op reason w).teamId = s.teamId := by
  have status : (s.changeStatus 3 reason w).teamId = s.teamId := by
    rw [State.changeStatus, if_pos (.inr rfl), State.teamId_coreMsi]
    exact funext fun p => congrArg (getF · _) (State.reg_setReg_ne s _ (sectTeam_ne_of_below (by decide) p))
  unfold State.refuseChange; dsimp only
  split
  · rw [State.teamId_raiseSect, State.teamId_raise, status]
  · rw [State.teamId_raise, status]

@[simp] theorem State.teamId_updReq (s : State) (r : Nat) (f : Request → Request) : (s.updReq r f).teamId = s.teamId := by
  unfold State.updReq
  split <;> rfl

@[simp] theorem State.teamId_condemn (s : State) (k trigger : Nat) : (s.condemn k trigger).teamId = s.teamId := by
  unfold State.condemn
  extract_lets g ev pwr integ listed t told
  split
  · rfl
  split
  · exact State.teamId_raise _ _
  split
  · rfl
  extract_lets L jobs marked
  have kept : marked.teamId = s.teamId :=
    (foldl_keeps State.teamId _ (fun x j => State.teamId_setFld_low x (R.CLU_JOB_SUSPECT g j) 1 (by decide) (by decide)) jobs told).trans
      (State.teamId_raise listed _)
  clear_value marked
  split
  · split
    · exact kept
    · refine (State.teamId_refuseChange _ _ _ _ _).trans ?_
      exact (foldl_keeps State.teamId _ (fun x r => State.teamId_updReq x r _) _ _).trans kept
  · exact kept

@[simp] theorem State.teamId_slotErr (s : State) (k what : Nat) : (s.slotErr k what).teamId = s.teamId := by
  have counted (f : Fld) : (s.bump (R.CLU_SLOT_ERR (k / 17) (k % 17)) f 1).teamId = s.teamId :=
    State.teamId_bump s f 1 (sectTeam_ne_of_page (by simp only [R.CLU_SLOT_ERR, Blk.base]; omega))
  have decided (f : Fld) (b : Prop) [Decidable b] (trigger : Nat) :
      (if b then (s.bump (R.CLU_SLOT_ERR (k / 17) (k % 17)) f 1).condemn k trigger
        else s.bump (R.CLU_SLOT_ERR (k / 17) (k % 17)) f 1).teamId = s.teamId := by
    split
    · rw [State.teamId_condemn, counted]
    · exact counted f
  unfold State.slotErr; dsimp only
  split
  · exact decided _ _ _
  split
  · exact decided _ _ _
  · exact decided _ _ _

@[simp] theorem State.teamId_sectorErr (s : State) (k what : Nat) : (s.sectorErr k what).teamId = s.teamId := by
  unfold State.sectorErr
  split
  · exact State.teamId_slotErr _ _ _
  · rfl

@[simp] theorem State.teamId_meet (s : State) (kind src arr ep : Nat) (secs : List Nat) : (s.meet kind src arr ep secs).1.teamId = s.teamId := by
  unfold State.meet
  refine foldl_keeps (fun x : State × List Nat => x.1.teamId) _ (fun x k => ?_) secs (s, [])
  extract_lets before fixed dropped spoilt
  have fix : fixed.teamId = x.1.teamId := by
    simp only [fixed]
    split
    · rw [State.teamId_sectorErr, State.teamId_raise]; rfl
    · rfl
  have spoil : spoilt.teamId = fixed.teamId := by
    simp only [spoilt]
    split
    · split
      · rfl
      · rw [State.teamId_sectorErr, State.teamId_raise]; rfl
    · rfl
  split
  · exact (State.teamId_raise _ _).trans (spoil.trans fix)
  · exact spoil.trans fix

/-- A scratchpad is no memory tile: its reads take no beat of a tile's port. -/
theorem State.tileBusy_scratchAddr (s : State) (L off n : Nat) : s.tileBusy (scratchAddr L off) n = s :=
  if_pos (.inr (.inr (by unfold scratchAddr; omega)))

@[simp] theorem State.teamId_ownRead (s : State) (L off n : Nat) : (s.ownRead L off n).1.teamId = s.teamId := by
  unfold State.ownRead State.deliver
  rw [State.tileBusy_scratchAddr]
  dsimp only
  split
  · rfl
  · exact State.teamId_meet _ _ _ _ _ _

@[simp] theorem State.teamId_consumeRead (s : State) (L off n : Nat) : (s.consumeRead L off n).teamId = s.teamId := by
  unfold State.consumeRead
  refine foldl_keeps State.teamId _ (fun x d => ?_) _ s
  dsimp only
  repeat' split
  all_goals rfl

/-- Waits at the banks are counted in registers of the cell (R197). -/
theorem State.teamId_countWaits (s : State) (L : Nat) (waits : Nat → Nat) :
    ((List.range 8).foldl (fun u b => u.bump (R.CELL_SP_CONFLICT L b) F.CELL_SP_CONFLICT_WAIT (waits b)) s).teamId = s.teamId := by
  refine List.foldlRecOn (motive := fun u : State => u.teamId = s.teamId) (List.range 8) _ rfl fun u kept b bank => ?_
  refine (State.teamId_bump u _ _ (sectTeam_ne_of_page ?_)).trans kept
  have := List.mem_range.1 bank
  simp only [R.CELL_SP_CONFLICT, Blk.base]; omega

@[simp] theorem State.teamId_portWaits (s : State) (L : Nat) : (s.portWaits L).teamId = s.teamId :=
  (State.teamId_draws _ _).trans (State.teamId_countWaits s L _)

/-! ### What a piece does (R233) -/

/-- A far-tier port is one of eight (R223). -/
theorem State.portOf_lt {s : State} {a p : Nat} (port : s.portOf a = some p) : p < 8 := by
  have known : p ∈ s.farPorts := by
    unfold State.portOf at port; dsimp only at port
    split at port
    · split at port
      · cases port
      · exact List.mem_of_getElem? port
    · cases port
  exact List.mem_range.1 (List.mem_filter.1 known).1

@[simp] theorem State.teamId_countPoison (s : State) (a n : Nat) : (s.countPoison a n).teamId = s.teamId := by
  unfold State.countPoison
  split
  · rfl
  split
  · exact State.teamId_bump s _ _ (sectTeam_ne_of_below (by simp only [R.NT_STACK_STATUS, Blk.base]; omega))
  split
  · exact State.teamId_bump s _ _ (sectTeam_ne_of_below (by
      have := State.portOf_lt ‹_›
      simp only [R.CXL_PORT_STATUS, Blk.base]; omega))
  · rfl

@[simp] theorem State.teamId_haulIn (s : State) (L : Nat) (t : LeadTag) (held : Bool) (bs : List Byte) (bad : List Nat) :
    (s.haulIn L t held bs bad).teamId = s.teamId :=
  State.teamId_setFld_apart _ _ _ (sectTeam_ne_of_page (by simp only [R.LEAD_HAUL, Blk.base]; omega))

@[simp] theorem State.teamId_takeBudget (s : State) (g job pa n : Nat) (wr : Bool) : (s.takeBudget g job pa n wr).1.teamId = s.teamId := by
  unfold State.takeBudget
  split
  · rfl
  extract_lets t tm near i part mine use key logged
  split
  · rfl
  split
  · exact State.teamId_raise _ _
  · rfl

/-- A route leaves a router by one of its five outputs (R250). -/
theorem routeOf_output_lt (f : Nat) (a b : Nat × Nat) : ∀ h ∈ routeOf f a b, h.2 < 5 := by
  induction f generalizing a with
  | zero => simp [routeOf]
  | succ f ih =>
    have onward {o : Nat} (output : o < 5) (next : Nat × Nat) (h : Nat × Nat) (mem : h ∈ (meshAt a.1 a.2, o) :: routeOf f next b) : h.2 < 5 := by
      rcases List.mem_cons.1 mem with rfl | later
      · exact output
      · exact ih next h later
    unfold routeOf; dsimp only
    split
    · exact onward (by decide) _
    split
    · exact onward (by decide) _
    split
    · exact onward (by decide) _
    split
    · exact onward (by decide) _
    · simp

@[simp] theorem State.teamId_send (s : State) (p : Packet) : (s.send p).teamId = s.teamId := by
  unfold State.send; dsimp only
  split
  · exact State.teamId_bump s _ _ (sectTeam_ne_of_page (by simp only [R.CLU_RTR_DROP, Blk.base]; omega))
  · refine List.foldlRecOn (motive := fun u : State => u.teamId = s.teamId) (routeOf _ _ _) _ rfl fun u kept h output => ?_
    refine (State.teamId_bump u _ _ (sectTeam_ne_of_page ?_)).trans kept
    have := routeOf_output_lt _ _ _ h output
    simp only [R.CLU_RTR_LINK, Blk.base]; omega

@[simp] theorem State.teamId_takeTag (s : State) (L : Nat) (i : LeadInstr) (put : Bool) (p : Piece) (a space num : Nat) :
    (s.takeTag L i put p a space num).1.teamId = s.teamId := by
  unfold State.takeTag; dsimp only
  split
  · simp
  · rfl

@[simp] theorem State.teamId_pieceTile (s : State) (L : Nat) (i : LeadInstr) (put : Bool) (p : Piece) (num : Nat) :
    (s.pieceTile L i put p num).teamId = s.teamId :=
  State.teamId_takeTag s L i put p _ 1 num

@[simp] theorem State.teamId_pieceTier (s : State) (L : Nat) (i : LeadInstr) (put : Bool) (p : Piece) (pa num : Nat) :
    (s.pieceTier L i put p pa num).teamId = s.teamId := by
  have tag := State.teamId_takeTag s L i put p pa 0 num
  unfold State.pieceTier
  rcases taken : s.takeTag L i put p pa 0 num with ⟨u, t, data⟩
  rw [taken] at tag
  dsimp only at tag ⊢
  split
  · split
    · exact (State.teamId_countPoison _ _ _).trans tag
    · exact (State.teamId_haulIn _ _ _ _ _ _).trans ((State.teamId_countPoison _ _ _).trans tag)
  · exact (State.teamId_send _ _).trans ((State.teamId_takeBudget _ _ _ _ _ _).trans tag)

/-! ### A fault of an access, and the end of its request (R244) -/

@[simp] theorem State.teamId_abandonUpd (s : State) (u : UpdRun) : (s.abandonUpd u).teamId = s.teamId := by
  unfold State.abandonUpd
  refine foldl_keeps State.teamId _ (fun x r => ?_) _ s
  rfl

@[simp] theorem State.teamId_hubCancel (s : State) (t : Nat) (job : Option Nat) : (s.hubCancel t job).teamId = s.teamId := by
  unfold State.hubCancel
  extract_lets ps hit cells
  have kept : cells.teamId = s.teamId := by
    refine foldl_keeps State.teamId _ (fun x L => ?_) _ s
    extract_lets c
    split <;> rfl
  refine (foldl_keeps State.teamId _ (fun x g => ?_) _ _).trans kept
  extract_lets abandoned c
  have kept : abandoned.teamId = x.teamId := foldl_keeps State.teamId _ State.teamId_abandonUpd _ x
  rw [State.teamId_setClu, kept]

@[simp] theorem State.teamId_unbook (s : State) (r : Nat) : (s.unbook r).teamId = s.teamId := by
  unfold State.unbook
  split <;> rfl

@[simp] theorem State.teamId_dropGroups (s : State) (t job : Nat) : (s.dropGroups t job).teamId = s.teamId := by
  unfold State.dropGroups
  refine foldl_keeps State.teamId _ (fun x g => ?_) _ s
  exact State.teamId_setClu _ _ _

@[simp] theorem State.teamId_unbind (s : State) (t job : Nat) : (s.unbind t job).teamId = s.teamId :=
  foldl_keeps State.teamId _ (fun x g => State.teamId_setFld_low x (R.CLU_JOB_TENANT g job) 0 (by decide) (by decide)) _ s

@[simp] theorem State.teamId_post (s : State) (c : Completion) : (s.post c).teamId = s.teamId := by
  unfold State.post
  split
  · rfl
  · extract_lets
    rfl

@[simp] theorem State.teamId_answer (s : State) (cmd : CmdRef) (st rs : Nat) (wm : Option Nat) (fl code fr : Nat) :
    (s.answer cmd st rs wm fl code fr).teamId = s.teamId := by
  have counted : (s.countAnswer st).teamId = s.teamId := by
    unfold State.countAnswer
    split
    · exact State.teamId_bump s _ _ (sectTeam_ne_of_below (by decide))
    · exact State.teamId_bump s _ _ (sectTeam_ne_of_below (by decide))
    · exact State.teamId_bump s _ _ (sectTeam_ne_of_below (by decide))
    · rfl
  exact (State.teamId_post _ _).trans counted

@[simp] theorem State.teamId_endReq (s : State) (r status reason code : Nat) : (s.endReq r status reason code).teamId = s.teamId := by
  unfold State.endReq
  split
  · rfl
  · refine (foldl_keeps State.teamId _ (fun x c => State.teamId_answer x c _ _ _ _ _ _) _ _).trans ?_
    refine (State.teamId_post _ _).trans ?_
    split <;> simp

@[simp] theorem State.teamId_settleCancel (s : State) (r : Nat) : (s.settleCancel r).teamId = s.teamId := by
  unfold State.settleCancel
  split
  · rfl
  split
  · split
    · rfl
    · exact State.teamId_endReq _ _ _ _ _
  · rfl

@[simp] theorem State.teamId_accessFault (s : State) (kind src g job code va : Nat) : (s.accessFault kind src g job code va).teamId = s.teamId := by
  unfold State.accessFault
  extract_lets t r q logged cancelled
  have kept : cancelled.teamId = s.teamId := (State.teamId_hubCancel _ _ _).trans (State.teamId_raise _ _)
  clear_value cancelled r
  split
  · exact (State.teamId_settleCancel _ _).trans ((State.teamId_updReq _ _ _).trans kept)
  · exact kept

/-! ### The engine -/

theorem State.teamId_leadIssue {s u : State} {L : Nat} (issued : s.leadIssue L = some u) : u.teamId = s.teamId := by
  unfold State.leadIssue at issued
  extract_lets l g at issued
  split at issued
  · cases issued
  split at issued
  · cases issued
  extract_lets sh run k off step at issued
  -- a step of `next` touches the lead engine alone
  have stepped (d : Nat) (x : State) : (step d x).teamId = x.teamId := State.teamId_updLead _ _ _
  split at issued
  · cases issued
    rw [stepped, State.teamId_wr, State.teamId_portWaits]
  split at issued
  · cases issued
  extract_lets p q at issued
  split at issued
  · split at issued
    · cases issued
    · cases issued
      rw [stepped, State.teamId_pieceTile]
  · split at issued
    · cases issued
      exact State.teamId_updLead _ _ _
    · cases issued
      exact State.teamId_accessFault _ _ _ _ _ _ _
    · split at issued
      · cases issued
      · cases issued
        rw [stepped, State.teamId_pieceTier, State.teamId_updLead]

theorem State.teamId_leadPump (fuel L : Nat) : ∀ s : State, (s.leadPump fuel L).teamId = s.teamId := by
  induction fuel with
  | zero => exact fun _ => rfl
  | succ fuel ih =>
    intro s
    unfold State.leadPump
    split
    next u issued => exact (ih u).trans (State.teamId_leadIssue issued)
    next => rfl

/-- A lead engine that goes on leaves its cell in its team. -/
theorem State.teamOfCell_leadGo (s : State) (L K : Nat) : (s.leadGo L).teamOfCell K = s.teamOfCell K :=
  congrFun (State.teamId_leadPump leadFuel L _) (K / 64)

end Sys2Proof.Machine
end

section
/-! PROOFS. Walks, timeouts and cancellations of a lead engine, a far-tier port that fails, and the invalidation of translations (file 09: R225, R230, R231, R242,
R244). -/

namespace Sys2Proof.Machine

/-! ### The commands and their meanings -/

section Endpoints
variable {s : State} {g : Fin 256} {e : Fin 24}

/-- Endpoints 0 to 15 of a cluster are its cells. -/
theorem exec_pageWalkDone_cell (cell : e.val < 16) : exec (.pageWalkDone g e) s = .next (s.leadWalk (s.cellAt g.val e.val)) :=
  congrArg Host.Outcome.next (if_pos cell)

theorem exec_leadTimeout_cell {k : Nat} (cell : e.val < 16) : exec (.leadTimeout g e k) s = .next (s.leadTimeout (s.cellAt g.val e.val) k) :=
  congrArg Host.Outcome.next (if_pos cell)

theorem exec_cancelComplete_cell (cell : e.val < 16) : exec (.cancelComplete g e) s = .next (s.cancelCell (s.cellAt g.val e.val)) :=
  congrArg Host.Outcome.next (if_pos cell)

theorem exec_farPortDown_linked {p : Fin 8}
    (linked : s.fld (R.CXL_PORT_STATUS p.val) F.CXL_PORT_STATUS_STATE = 2 ∨ s.fld (R.CXL_PORT_STATUS p.val) F.CXL_PORT_STATUS_STATE = 3) :
    exec (.farPortDown p) s = .next ((s.setFld (R.CXL_PORT_STATUS p.val) F.CXL_PORT_STATUS_STATE 4).raise { code := 0x2161, kind := 5, src := p.val }) :=
  congrArg Host.Outcome.next (if_pos linked)

theorem exec_ntTlbInv_go {v : Word} (go : getF v F.NT_TLB_INV_GO = 1) (free : s.tlbBusy = false) :
    exec (.ntTlbInv v) s = .next ({ (s.setFld R.NT_TLB_INV F.NT_TLB_INV_TENANT (getF v F.NT_TLB_INV_TENANT)).setFld R.NT_TLB_INV F.NT_TLB_INV_ALL
      (getF v F.NT_TLB_INV_ALL) with tlbBusy := true }.tlbDrop (fun t => decide (getF v F.NT_TLB_INV_ALL = 1) ||
        decide (t = getF v F.NT_TLB_INV_TENANT))) := by
  have idle : (!s.tlbBusy) = true := by rw [free]; rfl
  exact congrArg Host.Outcome.next (if_pos ⟨go, idle⟩)

theorem exec_tlbInvComplete_settled (busy : s.tlbBusy = true) (settled : s.tlbSettled = true) :
    exec .tlbInvComplete s = .next { s with tlbBusy := false } := by
  have done : (s.tlbBusy && s.tlbSettled) = true := by rw [busy, settled]; rfl
  exact congrArg Host.Outcome.next (if_pos done)

end Endpoints

/-! ### A cell's lead engine -/

section Engine
variable {s u v : State} {L k : Nat}

/-- A walk that finds its page fills the cell's translation cache, and the engine goes on (R230). -/
theorem State.leadWalk_found {i : LeadInstr} {a : Nat} {p : Piece} {x : Xlate}
    (waits : (s.cell L).lead.started.find? (fun i => i.issuing && i.walk) = some i) (run : i.runAt (i.next / i.perRun) = some a)
    (piece : p = pieceAt 512 a 0 i.shape.len (i.next % i.perRun))
    (awake : v = s.updLead L (fun l => l.updInstr i.q.seq (fun i => { i with walk := false })))
    (found : v.walk (s.clusterOf L) (v.jobTenant (s.clusterOf L) i.q.job) p.va = (u, some x)) :
    s.leadWalk L = (u.updLead L (fun l => { l with
      cache := lruPut 64 (fun y => decide (y.va = x.va) && decide (y.tenant = x.tenant)) x l.cache })).leadGo L := by
  subst piece awake
  simp only [State.leadWalk, waits, run, found]

/-- A tag that is not void times out: it is freed, logged and counted, then answered for, and the engine goes on (R242). -/
theorem State.leadTimeout_live {t : LeadTag} (tag : (s.cell L).lead.tags.find? (fun t => decide (t.num = k) && !t.arrived) = some t)
    (live : t.void = false) (freed : u = s.updLead L (fun l => l.free k))
    (logged : v = (u.timeoutRec 1 L (u.clusterOf L) t.job t.tenant t.va).bump (R.LEAD_STATUS L) F.LEAD_STATUS_TIMEOUTS 1) :
    s.leadTimeout L k = (if t.put then { v with draws := v.draws + 1 }.wr t.addr ((List.range t.len).map (Config.freeByte v.draws)) []
      else v.haulIn L t false (List.replicate t.len 0) (sectorsOf t.addr t.len)).leadGo L := by
  subst freed logged
  simp only [State.leadTimeout, tag, live, Bool.false_eq_true, if_false]

/-- Does a cancellation of a job, or of every job, reach an instruction? -/
def Cancel.reaches (x : Cancel) (i : LeadInstr) : Bool := x.job.elim true (fun k => decide (i.q.job = k))

/-- A cell once a cancellation has completed: its L.CANCEL has left the queue, and the instructions that it stopped have landed. -/
def Cell.cancelled (c : Cell) (x : Cancel) : Cell :=
  { c with
    qLead := x.q.elim c.qLead (fun q => c.qLead.filter (fun y => decide (y ≠ q))),
    lead := { c.lead with cancels := c.lead.cancels.erase x, started := c.lead.started.filter (fun i => !(i.stopped && x.reaches i)) } }

/-- The cancellation that may complete does, the engine goes on, and the requests of the cell's team are settled (R244). -/
theorem State.cancelCell_done {x : Cancel} (done : (s.cell L).lead.cancels.find? (s.cell L).lead.cancelDone = some x)
    (next : u = s.setCell L ((s.cell L).cancelled x)) : s.cancelCell L = (u.leadGo L).settleTeam ((u.leadGo L).teamOfCell L) := by
  subst next
  rw [State.teamOfCell_leadGo]
  obtain ⟨job, q⟩ := x
  simp only [State.cancelCell, done, Cell.cancelled, Cancel.reaches]
  cases job <;> cases q <;> rfl

end Engine

/-- Settles O19, clause by clause: walks, the timeout of a fetch and of a put, a cancellation, a port that fails, and NT_TLB_INV. -/
theorem translationAndTimeoutsComplete : Obligations.TranslationAndTimeoutsComplete := by
  refine ⟨?_, ?_, ?_, ?_, ?_, ?_, ?_, ?_, ?_⟩
  · rintro g e i a p x _ s u cell rfl waits run piece found
    rw [exec_pageWalkDone_cell cell, State.leadWalk_found waits run piece rfl found]
  · exact fun g s => rfl
  · exact fun g s => rfl
  · rintro g e k _ t s u cell rfl tag live fetch freed
    rw [exec_leadTimeout_cell cell, State.leadTimeout_live tag live freed rfl, fetch]
    rfl
  · rintro g e k _ t s u v cell rfl tag live put freed logged
    rw [exec_leadTimeout_cell cell, State.leadTimeout_live tag live freed logged, put]
    rfl
  · rintro g e _ x s cell rfl done
    refine ⟨_, rfl, ?_⟩
    rw [exec_cancelComplete_cell cell, State.cancelCell_done done rfl]
    obtain ⟨job, q⟩ := x
    cases job <;> cases q <;> rfl
  · exact fun p s linked => exec_farPortDown_linked linked
  · exact fun v s go free => exec_ntTlbInv_go go free
  · exact fun s busy settled => exec_tlbInvComplete_settled busy settled

end Sys2Proof.Machine
end

section
/-! PROOFS. Anchor agents (file 10): what each operation does to its word, and the words that it leaves (R274, R278, Table 152). -/

namespace Sys2Proof.Machine

/-! ### Writing an anchor -/

theorem State.camWire_frame (s : State) (p n : Nat) (f : List Byte) :
    s.camWire p n f = { s with link := (s.camWire p n f).link, draws := (s.camWire p n f).draws } := by
  unfold State.camWire
  dsimp only
  split
  · rfl
  · split <;> rfl

theorem State.camCredit_frame (s : State) (n : Nat) : s.camCredit n = { s with link := (s.camCredit n).link, draws := (s.camCredit n).draws } := by
  unfold State.camCredit
  dsimp only
  split
  · split
    · rfl
    · rw [State.camSeq, State.camWire_frame]; rfl
  · rfl

/-- An anchor that rises gives credits on the Camley side alone (R440). -/
theorem State.anchorRose_frame (s : State) (a : Nat) : s.anchorRose a = { s with link := (s.anchorRose a).link, draws := (s.anchorRose a).draws } := by
  unfold State.anchorRose
  refine List.foldlRecOn (motive := fun t : State => t = { s with link := t.link, draws := t.draws }) _ _ rfl fun t kept x _ => ?_
  rw [State.camCredit_frame, kept]

/-- All that the write of an anchor touches: its word, the monitors that it wakes, and the credits that it gives. -/
theorem State.setAnchor_frame (s : State) (a : Nat) (w : Word) : s.setAnchor a w = { s with
    anchors := if w = 0 then SMap.del a s.anchors else SMap.ins a w s.anchors, clus := (s.setAnchor a w).clus, net := (s.setAnchor a w).net,
    regs := (s.setAnchor a w).regs, links := (s.setAnchor a w).links, link := (s.setAnchor a w).link, draws := (s.setAnchor a w).draws } := by
  unfold State.setAnchor
  dsimp only
  split
  · rw [State.anchorRose_frame, State.wake_frame]
  · rw [State.wake_frame]

/-- An anchor reads the word just written, and every other keeps its own. -/
theorem State.anchor_setAnchor (s : State) (a b : Nat) (w : Word) : (s.setAnchor a w).anchor b = if b = a then w else s.anchor b := by
  rw [State.anchor, State.setAnchor_frame, State.anchor]
  dsimp only
  by_cases zero : w = 0
  · rw [if_pos zero, SMap.get_del, zero]
  · rw [if_neg zero]
    by_cases same : b = a
    · rw [same, SMap.get_ins_self, if_pos rfl]
    · rw [SMap.get_ins_ne _ _ same, if_neg same]

@[simp] theorem State.anchor_setAnchor_self (s : State) (a : Nat) (w : Word) : (s.setAnchor a w).anchor a = w :=
  (State.anchor_setAnchor s a a w).trans (if_pos rfl)

@[simp] theorem State.setAnchor_mem (s : State) (a : Nat) (w : Word) : (s.setAnchor a w).mem = s.mem := by rw [State.setAnchor_frame]

@[simp] theorem State.setAnchor_ancPois (s : State) (a : Nat) (w : Word) : (s.setAnchor a w).ancPois = s.ancPois := by rw [State.setAnchor_frame]

/-! ### The operations of the agent (Table 152) -/

/-- The agent of an anchor counts an operation that it accepts from the issuer. -/
def State.ancCounted (s : State) (a : Nat) : State := s.bump (R.CLU_ANCHOR_MON (a / 128)) F.CLU_ANCHOR_MON_OPS 1

@[simp] theorem State.anchor_ancCounted (s : State) (a b : Nat) : (s.ancCounted a).anchor b = s.anchor b := rfl
@[simp] theorem State.mem_ancCounted (s : State) (a : Nat) : (s.ancCounted a).mem = s.mem := rfl
@[simp] theorem State.anchor_setAncPois (s : State) (a b : Nat) (v : Bool) : (s.setAncPois a v).anchor b = s.anchor b := rfl

section Agent
variable {s : State} {a op : Nat} {v e : Word} {log : Bool}

/-- S.SET and a write clear the poison and set the word. -/
theorem State.ancApply_set (write : op = 0x62 ∨ op = 0x6F) :
    s.ancApply op a v e true log = (((s.ancCounted a).setAncPois a false).setAnchor a v, 0, s.anchor a) := if_pos write

/-- A poisoned word refuses every other operation. -/
theorem State.ancApply_poisoned (other : ¬(op = 0x62 ∨ op = 0x6F)) (poisoned : s.ancPois.contains a = true) :
    s.ancApply op a v e true log = (s.ancCounted a, 4, s.anchor a) := (if_neg other).trans (if_pos poisoned)

theorem State.ancCounted_sound (sound : s.ancPois.contains a = false) : ¬(s.ancCounted a).ancPois.contains a = true :=
  Bool.not_eq_true _ ▸ sound

theorem State.ancApply_add (sound : s.ancPois.contains a = false) (fits : (s.anchor a).toNat + v.toNat < 2 ^ 64) :
    s.ancApply 0x60 a v e true log = ((s.ancCounted a).setAnchor a (s.anchor a + v), 0, s.anchor a) :=
  (if_neg (State.ancCounted_sound sound)).trans (if_pos fits)

theorem State.ancApply_overflow (sound : s.ancPois.contains a = false) (large : 2 ^ 64 ≤ (s.anchor a).toNat + v.toNat) :
    s.ancApply 0x60 a v e true false = (s.ancCounted a, 2, s.anchor a) :=
  (if_neg (State.ancCounted_sound sound)).trans (if_neg (Nat.not_lt.2 large))

theorem State.ancApply_sub (sound : s.ancPois.contains a = false) (enough : v.toNat ≤ (s.anchor a).toNat) :
    s.ancApply 0x61 a v e true log = ((s.ancCounted a).setAnchor a (s.anchor a - v), 0, s.anchor a) :=
  (if_neg (State.ancCounted_sound sound)).trans (if_pos enough)

theorem State.ancApply_underflow (sound : s.ancPois.contains a = false) (small : (s.anchor a).toNat < v.toNat) :
    s.ancApply 0x61 a v e true false = (s.ancCounted a, 1, s.anchor a) :=
  (if_neg (State.ancCounted_sound sound)).trans (if_neg (Nat.not_le.2 small))

theorem State.ancApply_cas (sound : s.ancPois.contains a = false) :
    s.ancApply 0x63 a v e true log = (if s.anchor a = e then (s.ancCounted a).setAnchor a v else s.ancCounted a, 0, s.anchor a) :=
  (if_neg (State.ancCounted_sound sound)).trans (apply_ite (fun t : State => (t, 0, s.anchor a)) _ _ _).symm

/-- An operation that is none of these reads the word (S.WAIT). -/
theorem State.ancApply_reads (sound : s.ancPois.contains a = false) (other : op ≠ 0x60 ∧ op ≠ 0x61 ∧ op ≠ 0x63 ∧ ¬(op = 0x62 ∨ op = 0x6F)) :
    s.ancApply op a v e true log = (s.ancCounted a, 0, s.anchor a) := by
  obtain ⟨noAdd, noSub, noCas, noSet⟩ := other
  exact (if_neg noSet).trans ((if_neg (State.ancCounted_sound sound)).trans ((if_neg noAdd).trans ((if_neg noSub).trans (if_neg noCas))))

/-- With errors not logged, an operation on one anchor leaves every other word. -/
theorem State.anchor_ancApply_ne {b : Nat} (s : State) (op : Nat) (v e : Word) (own : Bool) (other : b ≠ a) :
    (s.ancApply op a v e own false).1.anchor b = s.anchor b := by
  have kept (t : State) (w : Word) : (t.setAnchor a w).anchor b = t.anchor b := (State.anchor_setAnchor t a b w).trans (if_neg other)
  cases own with
  | false => rfl
  | true =>
    by_cases set : op = 0x62 ∨ op = 0x6F
    · rw [State.ancApply_set set]; exact kept _ _
    by_cases poisoned : s.ancPois.contains a = true
    · rw [State.ancApply_poisoned set poisoned]; rfl
    have sound : s.ancPois.contains a = false := by simpa using poisoned
    by_cases add : op = 0x60
    · subst add
      rcases Nat.lt_or_ge ((s.anchor a).toNat + v.toNat) (2 ^ 64) with fits | large
      · rw [State.ancApply_add sound fits]; exact kept _ _
      · rw [State.ancApply_overflow sound large]; rfl
    by_cases sub : op = 0x61
    · subst sub
      rcases Nat.lt_or_ge (s.anchor a).toNat v.toNat with small | enough
      · rw [State.ancApply_underflow sound small]; rfl
      · rw [State.ancApply_sub sound enough]; exact kept _ _
    by_cases cas : op = 0x63
    · subst cas
      rw [State.ancApply_cas sound]
      split
      · exact kept _ _
      · rfl
    · rw [State.ancApply_reads sound ⟨add, sub, cas, set⟩]; rfl

end Agent

/-- Settles O52: each operation by its own equation at the agent, and the words that a write of an anchor leaves. -/
theorem anchorOperations : Obligations.AnchorOperations := by
  refine ⟨?_, ?_, ?_⟩
  · rintro a v e _ log s rfl sound
    refine ⟨fun fits => ⟨_, State.ancApply_add sound fits, by simp, by simp⟩, fun large => ?_,
      fun enough => ⟨_, State.ancApply_sub sound enough, by simp, by simp⟩, fun small => ?_,
      ⟨_, State.ancApply_cas sound, ?_, ?_⟩, ⟨_, State.ancApply_reads sound (by decide), rfl, rfl⟩⟩
    · rw [State.ancApply_overflow sound large]; exact ⟨rfl, rfl⟩
    · rw [State.ancApply_underflow sound small]; exact ⟨rfl, rfl⟩
    · split <;> simp
    · split <;> simp
  · intro a v e log s
    refine ⟨⟨_, State.ancApply_set (.inl rfl), by simp, by simp [State.setAncPois]⟩, fun poisoned op other => ?_⟩
    rw [State.ancApply_poisoned (by omega) poisoned]
    exact ⟨rfl, rfl⟩
  · exact fun op a b v e own s other => State.anchor_ancApply_ne s op v e own other

end Sys2Proof.Machine
end

section
/-! PROOFS. The S instructions of a cell at the head of their queue (file 10: R272, R274, R275, R277, R283), and the packets of anchors and barriers where they
are ejected (R274, R277, R278, R283, R284). -/

namespace Sys2Proof.Machine

/-! ### The sync unit of a cell -/

section SyncUnit
variable {s : State} {L : Nat} {q : QInstr} {x : Sect} {op u a : Nat} {v e : Word}

/-- An operation whose operands pass their checks is sent. -/
theorem State.syncStart_ready (operation : syncOp q = some (op, u, v, e)) (ready : s.syncReady L q x u a) :
    s.syncStart L q = s.syncSent L q op a v e := by
  obtain ⟨free, sect, anchor, writable⟩ := ready
  simp only [State.syncStart, free, Option.isSome_none, Bool.false_eq_true, if_false, operation, sect, anchor, State.startHead, State.finish,
    State.cell_setCell, State.setCell_setCell, State.syncSent]
  cases dest : casDest q with
  | none => rfl
  | some d => simp only [writable d dest, if_true]

/-- The command of an S instruction sends its operation. -/
theorem State.atHead_sent {i : CellInstr} {f : QInstr → State} (starts : s.starts L .sync q i) (own : q.i = i → f q = s.syncStart L q)
    (operation : q.i = i → syncOp q = some (op, u, v, e)) (ready : s.syncReady L q x u a) : s.atHead L .sync f = s.syncSent L q op a v e := by
  obtain ⟨head, word⟩ := starts
  rw [State.atHead_some head, own word, State.syncStart_ready (operation word) ready]

end SyncUnit

/-! ### Barriers and refused waits -/

section Waits
variable {s : State} {c : Fin 4096}

/-- S.BAR stands in the sync unit while its arrival is on its way. -/
theorem exec_sBar_starts {q : QInstr} {u : BitVec 4} {v : State} (h : s.starts c.val .sync q (.sBar u)) (free : (s.cell c.val).sync = none)
    (stands : v = s.setCell c.val { ((s.cell c.val).begin q).done .sync with sync := some { q := q } }) :
    exec (.sBar c) s = .next (v.send {
      pkt := .barArrive u.toNat (c.val % 64), gs := v.jobGuar (s.clusterOf c.val) q.job, gen := (s.cell c.val).gen, job := q.job,
      dest := v.barEp (c.val / 64) u.toNat, src := v.cellEp c.val, sender := .cell c.val, tenant := v.jobTenant (s.clusterOf c.val) q.job }) := by
  obtain ⟨head, word⟩ := h
  subst stands
  have meaning : exec (.sBar c) s = execSBar c s := by rfl
  rw [meaning, execSBar, State.atHead_some head, word]
  simp only [free, Option.isSome_none, Bool.false_eq_true, if_false, State.startHead, State.finish, State.cell_setCell, State.setCell_setCell]
  rfl

/-- An S.WAIT that was told to wait is sent again (R277). -/
theorem exec_sWaitResend_marked {o : SyncOut} {x : Sect} {op u a : Nat} {v e : Word} (stands : (s.cell c.val).sync = some o) (marked : o.resend = true)
    (operation : syncOp o.q = some (op, u, v, e)) (sect : s.sectOf c.val = some x) (anchor : s.teamAnchor x u = some a) :
    exec (.sWaitResend c) s = .next ((s.setCell c.val { s.cell c.val with sync := some { o with resend := false } }).ancSend c.val o.q.job op a v e
      o.q.seq) := by
  have meaning : exec (.sWaitResend c) s = execSWaitResend c s := by rfl
  rw [meaning, execSWaitResend]
  simp only [stands, sect, marked, operation, anchor, Bool.not_true, Bool.false_eq_true, if_false]

end Waits

/-- Settles O13, clause by clause: the five operations of Table 151 with their opcodes of Table 152, S.BAR, and an S.WAIT that is sent again. -/
theorem syncInstructionsComplete : Obligations.SyncInstructionsComplete := by
  refine ⟨?add, ?sub, ?set, ?cas, ?wait, ?bar, ?resend⟩
  case add | sub | set | wait =>
    intro c q xa ao xv vr im s x a starts ready
    exact congrArg Host.Outcome.next (State.atHead_sent starts (fun word => by simp only [word]) (fun word => by simp only [syncOp, word]) ready)
  case cas =>
    intro c q xa ao xv vr xe xd im s x a starts ready
    exact congrArg Host.Outcome.next (State.atHead_sent starts (fun word => by simp only [word]) (fun word => by simp only [syncOp, word]) ready)
  case bar =>
    intro c q u s starts free
    exact ⟨_, rfl, exec_sBar_starts starts free rfl⟩
  case resend =>
    intro c o xa ao xv vr im x a s stands marked word sect anchor
    exact exec_sWaitResend_marked stands marked (by simp only [syncOp, word]) sect anchor

/-! ### Packets of anchors -/

section AnchorPackets
variable {s u : State} {n : Nat} {p : Packet}

/-- ANC_OP at its agent: an S.WAIT waits for its value, another operation is applied and answered. -/
theorem exec_ancOp_arrives {op a : Nat} {v e : Word} (h : s.arrives 0x10 n p u) (operation : p.pkt = .ancOp op a v e) :
    exec (.ancOp n) s = .next (if op = 0x64 then u.ancWait p a v
      else (u.ancApply op a v e (u.ancOwned p.sender a) true).1.send {
        pkt := .ancReply (u.ancApply op a v e (u.ancOwned p.sender a) true).2.1 (u.ancApply op a v e (u.ancOwned p.sender a) true).2.2,
        gs := p.gs, gen := p.gen, job := p.job, dest := p.src, src := p.dest, sender := .cluster (a / 128), tenant := p.tenant, req := p.req }) := by
  have meaning : exec (.ancOp n) s = execAncOp n s := by rfl
  rw [meaning, execAncOp, State.onPkt_arrives h]
  simp only [operation]

theorem exec_ancReply_arrives {st : Nat} {old : Word} (h : s.arrives 0x11 n p u) (reply : p.pkt = .ancReply st old) :
    exec (.ancReply n) s = .next (u.ancDeliver p st old) := by
  have meaning : exec (.ancReply n) s = execAncReply n s := by rfl
  rw [meaning, execAncReply, State.onPkt_arrives h]
  simp only [reply]

theorem exec_ancWake_arrives {st a : Nat} (h : s.arrives 0x12 n p u) (wake : p.pkt = .ancWake st a) :
    exec (.ancWake n) s = .next (u.ancDeliver p st 0) := by
  have meaning : exec (.ancWake n) s = execAncWake n s := by rfl
  rw [meaning, execAncWake, State.onPkt_arrives h]
  simp only [wake]

/-- ANC_NOTYET at a cell (R277). -/
theorem exec_ancNotyet_cell (h : s.arrives 0x13 n p u) (cell : p.dest.code < 16) :
    exec (.ancNotyet n) s = .next (u.setCell (u.cellOf p.dest) { u.cell (u.cellOf p.dest) with
      sync := (u.cell (u.cellOf p.dest)).sync.map (fun o => if o.q.seq = p.req then { o with resend := true } else o) }) := by
  have meaning : exec (.ancNotyet n) s = execAncNotyet n s := by rfl
  rw [meaning, execAncNotyet, State.onPkt_arrives h, if_pos cell]

end AnchorPackets

/-! ### Packets of barriers -/

section BarrierPackets
variable {s u : State} {n : Nat} {p : Packet} {k : Nat}

/-- An arrival from a member of the unit's kind and mask joins the arrival set (R283, R284). -/
theorem State.barArrive_member {src part i : Nat} {d : BarDesc} (at_part : part = (s.partOf p.dest.cluster).1)
    (member : i = if 0x80 ≤ src then src - 0x80 else src) (named : ((s.bar part k).gen p.gen).desc = some d) (kind : d.units = decide (0x80 ≤ src))
    (inMask : d.mask.testBit i = true) :
    s.barArrive p k src = (s.setBar part k ((s.bar part k).setGen p.gen { (s.bar part k).gen p.gen with
      arrived := ((s.bar part k).gen p.gen).arrived ||| 2 ^ i })).barCheck part k p := by
  subst at_part member
  simp only [State.barArrive, named, kind, inMask, decide_eq_true_eq, ne_eq, not_true_eq_false, Bool.not_true, Bool.false_eq_true, or_self, if_false]

theorem exec_barArrive_arrives {src : Nat} (h : s.arrives 0x18 n p u) (arrival : p.pkt = .barArrive k src) :
    exec (.barArrive n) s = .next (u.barArrive p k src) := by
  have meaning : exec (.barArrive n) s = execBarArrive n s := by rfl
  rw [meaning, execBarArrive, State.onPkt_arrives h]
  simp only [arrival]

/-- BAR_DONE names the cells that it releases, or a child unit (R284). -/
theorem exec_barDone_arrives {m : Nat} (h : s.arrives 0x19 n p u) (release : p.pkt = .barDone k m) :
    exec (.barDone n) s = .next (if m = 0 then u.barRelease (u.partOf p.dest.cluster).1 k p
      else (List.range 16).foldl (fun x j =>
        if m.testBit j ∧ (x.cell (x.cellAt p.dest.cluster j)).inBar k p.gen then x.syncDone (x.cellAt p.dest.cluster j) else x) u) := by
  have meaning : exec (.barDone n) s = execBarDone n s := by rfl
  rw [meaning, execBarDone, State.onPkt_arrives h]
  simp only [release]

end BarrierPackets

/-- Settles O14, clause by clause: the four packets of anchors, an arrival at a barrier unit, and a release of cells and of a child unit. -/
theorem anchorAndBarrierPacketsComplete : Obligations.AnchorAndBarrierPacketsComplete := by
  refine ⟨?_, ?_, ?_, ?_, ?_, ?_, ?_, ?_⟩
  · intro n p op a v e s u w st old h operation other applied
    rw [exec_ancOp_arrives h operation, if_neg other, applied]
  · intro n p a v e s u h operation
    rw [exec_ancOp_arrives h operation, if_pos rfl]
  · intro n p st old s u h reply
    exact exec_ancReply_arrives h reply
  · intro n p st a s u h wake
    exact exec_ancWake_arrives h wake
  · intro n p s u h cell
    exact exec_ancNotyet_cell h cell
  · intro n p k src d s u h arrival named kind inMask
    rw [exec_barArrive_arrives h arrival, State.barArrive_member rfl rfl named kind inMask]
  · intro n p k m s u h release some_cells
    rw [exec_barDone_arrives h release, if_neg some_cells]
  · intro n p k s u h release
    rw [exec_barDone_arrives h release, if_pos rfl]

end Sys2Proof.Machine
end

section
/-! PROOFS. Packets of a stale epoch (file 10: R258, R260): every command that ejects a packet goes through the same ejection, which discards it whole. -/

namespace Sys2Proof.Machine

/-! ### The commands that eject packets -/

/-- Beside the taps, which may wait for room, the packets that a command counts are those of its type. -/
theorem State.counts_eq (s : State) {type : Nat} (other : type ≠ 0x04) : s.counts type = fun p => decide (p.pkt.type = type) := by
  funext p
  simp [State.counts, other]

theorem State.counts_tap (s : State) : s.counts 0x04 = fun p => decide (p.pkt.type = 0x04) && !s.tapWaits p := rfl

/-- A memory-tile packet that is not on a crossbar is taken out of the mesh. -/
theorem State.onTile_mesh (s : State) (type n : Nat) (f : State → Packet → State) :
    s.onTile false type n f = s.onPkt (fun y => decide (y.pkt.type = type)) n f := rfl

/-- A packet's command runs the receiver's function on the packet that it counts to, then drains the beats it names. -/
theorem exec_packet {c : Instr} {type n : Nat} (packet : packetOf c = some (type, n)) (s : State) :
    ∃ f, exec c s = .next ((s.onPkt (s.counts type) n f).drains c) := by
  cases c with
  | chTap n =>
    cases packet
    rw [State.counts_tap]
    dsimp only [State.drains]
    exact ⟨_, rfl⟩
  | mtRead q | mtWrite q | mtAck q =>
    obtain ⟨xb, n⟩ := q
    cases xb <;> cases packet
    rw [State.counts_eq s (by decide)]
    dsimp only [State.drains]
    exact ⟨_, congrArg Host.Outcome.next (State.onTile_mesh s _ n _)⟩
  | mtData q =>
    obtain ⟨⟨n, L, beats⟩, xb⟩ := q
    cases xb <;> cases packet
    rw [State.counts_eq s (by decide)]
    exact ⟨_, congrArg (fun u : State => Host.Outcome.next (u.leadDrain L.val beats)) (State.onTile_mesh s _ n _)⟩
  | _ =>
    cases packet
    all_goals
      rw [State.counts_eq s (by decide)]
      dsimp only [State.drains]
      exact ⟨_, rfl⟩

/-! ### Their ejection -/

/-- A packet that is discarded at its destination never reaches the receiver. -/
theorem State.onPkt_discarded {s u v : State} {sel : Packet → Bool} {n : Nat} {p : Packet} {f : State → Packet → State}
    (taken : s.takePkt sel n = some (u, p)) (sound : u.headerFails p = none) (discarded : s.eject sel n = some (v, none)) : s.onPkt sel n f = v := by
  simp only [State.onPkt, taken, sound, discarded]

/-- A packet of a stale epoch for a position that is not fenced is discarded and counted. -/
theorem State.eject_stale {s u : State} {sel : Packet → Bool} {n e : Nat} {p : Packet} (taken : s.takePkt sel n = some (u, p))
    (unfenced : p.dest.code < 16 → u.fenced p.dest.cluster p.dest.code = false) (held : u.routerEpoch p.dest.cluster p.sender = some e)
    (stale : e ≠ p.epoch) :
    s.eject sel n = some (u.bump (R.CLU_RTR_DROP p.dest.cluster) F.CLU_RTR_DROP_STALE 1, none) := by
  have noFence : ¬(p.dest.code < 16 ∧ u.fenced p.dest.cluster p.dest.code = true) := fun ⟨cell, fenced⟩ => by simp [unfenced cell] at fenced
  simp only [State.eject, taken, noFence, held, stale, if_false]

/-- Settles O56: the command's ejection discards the packet, and taking it leaves all but the network. -/
theorem stalePacketsAreDiscarded : Obligations.StalePacketsAreDiscarded := by
  intro c type n e p s u packet taken sound unfenced held stale
  obtain ⟨f, meaning⟩ := exec_packet packet s
  obtain ⟨frame, _, _, shorter⟩ := State.takePkt_frame taken
  rw [meaning, State.onPkt_discarded taken sound (State.eject_stale taken unfenced held stale)]
  exact ⟨rfl, frame, shorter⟩

end Sys2Proof.Machine
end

section
/-! PROOFS. Hub packets (file 10: R250), the epochs that a router holds (R259) and the retries of a mesh link (file 13: R365). -/

namespace Sys2Proof.Machine

/-! ### Hub packets -/

section HubPackets
variable {s u : State} {n : Nat} {p : Packet} {r : MemReq} {write : Bool} {body : List Byte} {bad : List Nat}

/-- HUB_REQ for a register that takes accesses of this width and alignment. -/
theorem exec_hubReq_register {b : Blk} {k o : Nat} (h : s.arrives 0x40 n p u) (request : p.pkt = .hubReq r write body bad)
    (block : blockOf r.addr = some (b, k, o)) (sized : regSized b o r.len = true) :
    exec (.hubReq n) s = .next (if write then (u.regWrite 64 b k o (BitVec.ofNat 64 (leNat body))).replyTo p .hub (.hubResp r [] [])
      else (u.regRead b k o).1.replyTo p .hub (.hubResp r (wordBytes (u.regRead b k o).2 r.len) [])) := by
  have meaning : exec (.hubReq n) s = execHubReq n s := by rfl
  rw [meaning, execHubReq, State.onPkt_arrives h]
  simp only [request, block, sized, Bool.not_true, Bool.false_eq_true, if_false]

/-- One of another width or alignment (R16). -/
theorem exec_hubReq_unsized {b : Blk} {k o : Nat} (h : s.arrives 0x40 n p u) (request : p.pkt = .hubReq r write body bad)
    (block : blockOf r.addr = some (b, k, o)) (unsized : regSized b o r.len = false) :
    exec (.hubReq n) s = .next ((u.badAccess (senderNum p.sender) r.addr r.len write).replyTo p .hub
      (.hubResp r (if write then [] else List.replicate r.len 0) [])) := by
  have meaning : exec (.hubReq n) s = execHubReq n s := by rfl
  rw [meaning, execHubReq, State.onPkt_arrives h]
  simp only [request, block, unsized, Bool.not_false, if_true]

/-- HUB_REQ for memory. -/
theorem exec_hubReq_memory (h : s.arrives 0x40 n p u) (request : p.pkt = .hubReq r write body bad) (memory : blockOf r.addr = none) :
    exec (.hubReq n) s = .next (if write then (u.devWrite r.addr body bad).replyTo p .hub (.hubResp r [] [])
      else (u.devRead r.addr r.len).1.replyTo p .hub (.hubResp r (u.devRead r.addr r.len).2.1 (u.devRead r.addr r.len).2.2)) := by
  have meaning : exec (.hubReq n) s = execHubReq n s := by rfl
  rw [meaning, execHubReq, State.onPkt_arrives h]
  simp only [request, memory]

theorem exec_hubResp_arrives {b : List Byte} (h : s.arrives 0x41 n p u) (response : p.pkt = .hubResp r b bad) :
    exec (.hubResp n) s = .next (if b.isEmpty then u.reqAck p r else u.reqData p r b bad) := by
  have meaning : exec (.hubResp n) s = execHubResp n s := by rfl
  rw [meaning, execHubResp, State.onPkt_arrives h]
  simp only [response]

/-- EPOCH_SET holds the epoch at the router for its waymark. -/
theorem exec_epochSet_arrives {kind id e w : Nat} (h : s.arrives 0x60 n p u) (epoch : p.pkt = .epochSet kind id e w) :
    exec (.epochSet n) s = .next (u.setClu p.dest.cluster { u.clu p.dest.cluster with router := { (u.clu p.dest.cluster).router with
      pend := (u.clu p.dest.cluster).router.pend ++ [⟨id + 4096 * kind, e, w⟩] } }) := by
  have meaning : exec (.epochSet n) s = execEpochSet n s := by rfl
  rw [meaning, execEpochSet, State.onPkt_arrives h]
  simp only [epoch]

end HubPackets

/-! ### Links -/

/-- A flit that a link has kept arrives: a good one is taken, a bad one is sent again, and the sixteenth retransmission that fails is fatal. -/
theorem exec_linkRetry_sent {f : LinkFlit} {x : SentFlit} {s : State} (cluster : f.link / 5 < 256) (output : f.link % 5 < 4)
    (joined : linkExists (f.link / 5) (f.link % 5) = true) (sent : (SMap.get ({} : LinkTx) s.links f.link).sent[f.k.val]? = some x) :
    exec (.linkRetry f) s = .next (
      if x.good f.lcrc f.lseq then { s with links := SMap.ins f.link { SMap.get ({} : LinkTx) s.links f.link with
        sent := (SMap.get ({} : LinkTx) s.links f.link).sent.set f.k.val { x with tries := 0 } } s.links }
      else if x.tries < 16 then { s with links := SMap.ins f.link ((SMap.get ({} : LinkTx) s.links f.link).resend f.k.val) s.links }.raise
        { code := 0x1201, kind := 2, src := f.link / 5, detail := f.link % 5 }
      else s.fatal { code := 0x5200, kind := 2, src := f.link / 5, detail := f.link % 5 }) := by
  have meaning : exec (.linkRetry f) s = execLinkRetry f s := by rfl
  have onLink : ¬(256 ≤ f.link / 5 ∨ 4 ≤ f.link % 5 ∨ (!linkExists (f.link / 5) (f.link % 5)) = true) := by
    simp [joined, cluster, output]
  rw [meaning, execLinkRetry]
  simp only [onLink, sent, if_false]

/-- The receiver's test of a flit. -/
theorem SentFlit.good_iff (x : SentFlit) (lcrc : BitVec 16) (lseq : BitVec 6) :
    x.good lcrc lseq = true ↔ x.flit.lcrc = lcrc.toNat ∧ x.lseq = lseq.toNat := by
  simp [SentFlit.good]

/-- Settles O23, clause by clause: hub requests of registers and memory, their answers, epochs, and good and bad flits. -/
theorem hubEpochAndRetryComplete : Obligations.HubEpochAndRetryComplete := by
  refine ⟨?_, ?_, ?_, ?_, ?_, ?_, ?_, ?_, ?_, ?_⟩
  · intro n p r body bad b k o s u h request block sized
    exact exec_hubReq_register h request block sized
  · intro n p r body bad b k o s u h request block sized
    exact exec_hubReq_register h request block sized
  · intro n p r w body bad b k o s u h request block unsized
    exact exec_hubReq_unsized h request block unsized
  · intro n p r body bad s u h request memory
    exact exec_hubReq_memory h request memory
  · intro n p r body bad s u h request memory
    exact exec_hubReq_memory h request memory
  · intro n p r b bad s u h response
    exact exec_hubResp_arrives h response
  · intro n p kind id e w s u h epoch
    exact exec_epochSet_arrives h epoch
  · exact fun g s => ⟨_, rfl, rfl⟩
  · intro l k lcrc lseq x s cluster output joined sent crc seq
    exact (exec_linkRetry_sent cluster output joined sent).trans (congrArg Host.Outcome.next (if_pos ((x.good_iff lcrc lseq).2 ⟨crc, seq⟩)))
  · intro l k lcrc lseq x s cluster output joined sent bad
    have fails : ¬x.good lcrc lseq = true := fun good => bad.elim (· ((x.good_iff lcrc lseq).1 good).1) (· ((x.good_iff lcrc lseq).1 good).2)
    exact (exec_linkRetry_sent cluster output joined sent).trans (congrArg Host.Outcome.next (if_neg fails))

end Sys2Proof.Machine
end

section
/-! PROOFS. Accesses of the application cores and of the host (files 10 and 12: R279, R336, R339, R340, R346): registers, interrupt files, memory tiles and
scratchpads, main memory, anchors, and the instructions that a core runs. -/

namespace Sys2Proof.Machine

/-! ### Words and lines -/

/-- The low bytes of a number are the first of its bytes. -/
theorem take_leBytes {m n : Nat} (v : Nat) (le : n ≤ m) : (leBytes m v).take n = leBytes n v := by
  induction n generalizing m v with
  | zero => rfl
  | succ n ih =>
    obtain ⟨m, rfl⟩ : ∃ k, m = k + 1 := ⟨m - 1, by omega⟩
    rw [leBytes, List.take_succ_cons, ih _ (Nat.le_of_succ_le_succ le), leBytes]

theorem wordBytes_eq (w : Word) {n : Nat} (le : n ≤ 8) : wordBytes w n = leBytes n w.toNat := by
  simp [wordBytes, sliceB, take_leBytes w.toNat le]

/-- A word of four bytes survives the trip through them. -/
theorem ofNat_leNat_wordBytes_four (v : BitVec 32) : BitVec.ofNat 64 (leNat (wordBytes (v.zeroExtend 64) 4)) = v.zeroExtend 64 := by
  have low : (v.zeroExtend 64).toNat = v.toNat := by simp; omega
  rw [wordBytes_eq _ (by decide), leNat_leBytes, low, show 256 ^ 4 = 2 ^ 32 from rfl, Nat.mod_eq_of_lt v.isLt]
  exact BitVec.eq_of_toNat_eq (by rw [low, BitVec.toNat_ofNat]; omega)

/-- An aligned double word lies in one line. -/
theorem linesOf_aligned {a : Nat} (al : a % 8 = 0) : linesOf a 8 = [a / 64] := by
  have same : (a + 8 - 1) / 64 = a / 64 := by omega
  rw [linesOf, same, Nat.sub_self]
  rfl

/-! ### Accesses that a command gives by their effect -/

section Direct
variable {s u : State} {h a size : Nat} {wr w : Option Word}

/-- An access outside main memory that is done at once. -/
theorem State.apDirect_done {r : List Byte} (free : (s.core h).wait = none) (outside : isTier a = false)
    (bytes : wr.map (fun v => BitVec.ofNat 64 (leNat (wordBytes v size))) = w) (io : (s.coreFault h false).coreIo h a size w = (u, .done r)) :
    s.apDirect h a size wr = if wr.isNone then { u with readVal := BitVec.ofNat 64 (leNat r) } else u := by
  have phys : (s.coreFault h false).phys h a size (wr.map (fun v => wordBytes v size)) = (u, .done r) := by
    rw [← bytes] at io
    simp only [State.phys, outside, Bool.false_eq_true, if_false, Option.map_map]
    exact io
  simp only [State.apDirect, free, Option.isSome_none, Bool.false_eq_true, if_false, phys]

/-- One that a packet will answer keeps its core waiting. -/
theorem State.apDirect_waits (free : (s.core h).wait = none) (outside : isTier a = false)
    (bytes : wr.map (fun v => BitVec.ofNat 64 (leNat (wordBytes v size))) = w) (io : (s.coreFault h false).coreIo h a size w = (u, .wait)) :
    s.apDirect h a size wr = u.updCore h (fun c => { c with wait := some .plain }) := by
  have phys : (s.coreFault h false).phys h a size (wr.map (fun v => wordBytes v size)) = (u, .wait) := by
    rw [← bytes] at io
    simp only [State.phys, outside, Bool.false_eq_true, if_false, Option.map_map]
    exact io
  simp only [State.apDirect, free, Option.isSome_none, Bool.false_eq_true, if_false, phys]

/-- A store to main memory waits in the store buffer. -/
theorem State.apDirect_store {v : Word} (free : (s.core h).wait = none) (inside : isTier a = true) (line : s.lineOk (a / 64) = true)
    (al : a % 8 = 0) :
    s.apDirect h a 8 (some v) = (s.coreFault h false).updCore h (fun c => { c with sb := c.sb ++ [(a, wordBytes v 8)] }) := by
  have line' : (s.coreFault h false).lineOk (a / 64) = true := line
  have length : (wordBytes v 8).length = 8 := by rw [wordBytes_eight, length_leBytes]
  have whole : 8 ≤ 64 - a % 64 := by omega
  have stored : (s.coreFault h false).memStore h a (wordBytes v 8) =
      ((s.coreFault h false).updCore h (fun c => { c with sb := c.sb ++ [(a, wordBytes v 8)] }), .done []) := by
    simp only [State.memStore, length, linesOf_aligned al, List.find?_cons, line', Bool.not_true, List.find?_nil, whole, if_true]
  simp only [State.apDirect, free, Option.isSome_none, Bool.false_eq_true, if_false, State.phys, inside, if_true, Option.map_some, stored,
    Option.isNone_some]

/-- A write of four bytes to a word of an interrupt file (R346). -/
theorem State.coreIo_irqFile {b : Blk} {k o : Nat} (idle : s.coreBusy h = false) (block : blockOf a = some (b, k, o)) (file : irqFile b o = true)
    (al : o % 4 = 0) : s.coreIo h a 4 wr = (s.imsicAccess o wr, .done (List.replicate 4 0)) := by
  simp only [State.coreIo, idle, block, file, al, Bool.false_eq_true, if_false, and_self, if_true]

/-- An aligned access to a memory tile or a scratchpad goes to its cluster (R339). -/
theorem State.coreIo_sends (idle : s.coreBusy h = false) (memory : blockOf a = none) (backed : s.backed a = true) (plain : isAnchor a = false)
    (sized : size = 1 ∨ size = 2 ∨ size = 4 ∨ size = 8) (al : a % size = 0) :
    s.coreIo h a size wr = (s.coreSend h a size wr, if wr.isNone then .wait else .done (List.replicate size 0)) := by
  have whole : (size = 1 ∨ size = 2 ∨ size = 4 ∨ size = 8) ∧ a % size = 0 := ⟨sized, al⟩
  simp only [State.coreIo, idle, memory, backed, plain, Bool.not_true, Bool.false_eq_true, if_false, if_pos whole]

end Direct

/-! ### The commands of a core -/

section CoreCommands
variable {s u : State} {h : Fin 16} {size : Nat} {wr : Option Word}

theorem exec_coreIoAccess_io (run : s.coresRun = true) (a : BitVec 48) :
    exec (.coreIoAccess h (.io a) size wr) s = .next (s.apDirect h.val a.toNat size wr) :=
  congrArg Host.Outcome.next (if_neg (by simp [run]))

theorem exec_coreIoAccess_drain (run : s.coresRun = true) (n : Nat) :
    exec (.coreIoAccess h (.drain n) size wr) s = .next (s.sbDrain h.val n) :=
  congrArg Host.Outcome.next (if_neg (by simp [run]))

theorem exec_coreIoAccess_step (run : s.coresRun = true) : exec (.coreIoAccess h .step size wr) s = .next (s.apStep h.val) :=
  congrArg Host.Outcome.next (if_neg (by simp [run]))

/-- The oldest buffered store leaves the buffer once its line is owned. -/
theorem State.sbDrain_oldest {k a : Nat} {b : List Byte} {r : List (Nat × List Byte)} (oldest : (s.core k).sb = (a, b) :: r)
    (free : (s.core k).want = none) (owned : s.ownNow k (a / 64) = (u, true)) :
    s.sbDrain k 0 = (u.lineSet k a b).updCore k (fun c => { c with sb := c.sb.eraseIdx 0 }) := by
  simp [State.sbDrain, oldest, free, owned]

/-- A core that takes no interrupt runs the instruction that it fetches. -/
theorem State.apStep_runs {k w len : Nat} {i : ApOp} (free : (s.core k).wait = none) (quiet : s.coreIrq k = none)
    (fetched : s.apFetch k = (u, .ok (i, w, len))) : s.apStep k = u.apRun k i w len := by
  simp only [State.apStep, free, quiet, fetched, Option.isSome_none, Bool.false_eq_true, if_false]

/-- It takes the trap of a fetch that fails. -/
theorem State.apStep_traps {k : Nat} {t : Trap} (free : (s.core k).wait = none) (quiet : s.coreIrq k = none)
    (fetched : s.apFetch k = (u, .trap t)) : s.apStep k = u.coreTrap k t := by
  simp only [State.apStep, free, quiet, fetched, Option.isSome_none, Bool.false_eq_true, if_false]

end CoreCommands

/-! ### Anchors -/

section Anchors
variable {s u : State} {h : Fin 16} {a : Fin 32768} {v old : Word}

theorem exec_coreAnchorAmo_load (run : s.coresRun = true) : exec (.coreAnchorAmo h .load a v) s =
    .next { s.coreFault h.val false with readVal := (s.coreFault h.val false).anchor a.val } :=
  congrArg Host.Outcome.next (if_neg (by simp [run]))

theorem exec_coreAnchorAmo_store (run : s.coresRun = true) : exec (.coreAnchorAmo h .store a v) s =
    .next ((s.coreFault h.val false).hubAnc 0x6F a.val v).1 :=
  congrArg Host.Outcome.next (if_neg (by simp [run]))

/-- An atomic operation that the agent does not refuse returns the old word. -/
theorem exec_coreAnchorAmo_done {op : AncAcc} {code : Nat} (run : s.coresRun = true)
    (atomic : op = .amoadd ∧ code = 0x60 ∨ op = .amoswap ∧ code = 0x62) (done : (s.coreFault h.val false).hubAnc code a.val v = (u, 0, old)) :
    exec (.coreAnchorAmo h op a v) s = .next { u with readVal := old } := by
  have meaning : exec (.coreAnchorAmo h op a v) s = execCoreAnchorAmo h op a v s := by rfl
  have amo : (s.coreFault h.val false).coreAmo code a.val v = (u, some old) := by simp only [State.coreAmo, done, if_true]
  rw [meaning, execCoreAnchorAmo]
  obtain ⟨rfl, rfl⟩ | ⟨rfl, rfl⟩ := atomic <;> simp only [run, amo, Bool.not_true, Bool.false_eq_true, if_false]

theorem exec_hostAnchorWrite_whole {f : Fin 65} (ready : s.ready = true) (live : s.fnLive f.val = true) (shown : s.anchorShown f.val a.val = true) :
    exec (.hostAnchorWrite f a v 0xFF) s = .next (s.hubAnc 0x6F a.val v).1 := by
  have meaning : exec (.hostAnchorWrite f a v 0xFF) s = execHostAnchorWrite f a v 0xFF s := by rfl
  rw [meaning, execHostAnchorWrite]
  simp [ready, live, shown]

end Anchors

/-- Settles O33, clause by clause: registers, interrupt files, tiles and scratchpads, the store buffer, the instructions of a core, and anchors. -/
theorem coreAndHostAccessesComplete : Obligations.CoreAndHostAccessesComplete := by
  refine ⟨?_, ?_, ?_, ?_, ?_, ?_, ?_, ?_, ?_, ?_⟩
  · intro h a v b k o s run free idle block reg al
    obtain ⟨write, read⟩ := State.coreIo_register (s := s.coreFault h.val false) idle block reg al
    constructor
    · rw [exec_coreIoAccess_io run, State.apDirect_block free block (write v)]
      rfl
    · rw [exec_coreIoAccess_io run, State.apDirect_block free block read]
      simp
  · intro h a v b k o s run free idle block file al
    have io := State.coreIo_irqFile (s := s.coreFault h.val false) (wr := some (v.zeroExtend 64)) idle block file al
    rw [exec_coreIoAccess_io run, State.apDirect_done free (isTier_of_block block) (by rw [Option.map_some, ofNat_leNat_wordBytes_four]) io]
    simp only [Option.isNone_some, Bool.false_eq_true, if_false]
  · intro h a size v s run free idle outside memory backed plain sized al
    have io (wr : Option Word) := State.coreIo_sends (s := s.coreFault h.val false) (wr := wr) idle memory backed plain sized al
    constructor
    · rw [exec_coreIoAccess_io run, State.apDirect_done free outside (Option.map_some ..) (io (some _))]
      simp only [Option.isNone_some, Bool.false_eq_true, if_false]
    · rw [exec_coreIoAccess_io run, State.apDirect_waits free outside (Option.map_none ..) (io none)]
  · intro h a v s run free inside line al
    rw [exec_coreIoAccess_io run, State.apDirect_store free inside line al]
  · intro h size a wr b r s u run oldest free owned
    rw [exec_coreIoAccess_drain run, State.sbDrain_oldest oldest free owned]
  · intro h i w len size wr s u run free quiet fetched
    rw [exec_coreIoAccess_step run, State.apStep_runs free quiet fetched]
  · intro h t size wr s u run free quiet fetched
    rw [exec_coreIoAccess_step run, State.apStep_traps free quiet fetched]
  · exact fun h a v s run => ⟨exec_coreAnchorAmo_load run, exec_coreAnchorAmo_store run⟩
  · exact fun h a v old s u run =>
      ⟨exec_coreAnchorAmo_done run (.inl ⟨rfl, rfl⟩), exec_coreAnchorAmo_done run (.inr ⟨rfl, rfl⟩)⟩
  · exact fun f a v s ready live shown => exec_hostAnchorWrite_whole ready live shown

end Sys2Proof.Machine
end

section
/-! PROOFS. Admission (files 11 and 15: R298 to R303, R310 to R315, R428 to R431): the commands of a tenant's ring that concern requests, copies of input, the
start of a request, and the ends of holds and bivouacs. -/

namespace Sys2Proof.Machine

/-! ### The front command of a ring -/

section RingCommands
variable {s u : State} {t : Fin 4096} {c : HostCmd}

theorem State.onCmd_pops {n op : Nat} (f : State → HostCmd → State) (h : s.pops n op c u) : s.onCmd n op f = f u c := by
  obtain ⟨rest, front, opcode, rfl⟩ := h
  exact State.onCmd_some front opcode

theorem exec_submit_pops (h : s.pops t.val 1 c u) : exec (.submit t) s = .next (u.submit c) :=
  congrArg Host.Outcome.next (State.onCmd_pops State.submit h)

theorem exec_cancel_pops (h : s.pops t.val 2 c u) : exec (.cancel t) s = .next (u.cancel c) :=
  congrArg Host.Outcome.next (State.onCmd_pops State.cancel h)

theorem exec_streamData_pops (h : s.pops t.val 3 c u) : exec (.streamData t) s = .next (u.streamData c) :=
  congrArg Host.Outcome.next (State.onCmd_pops State.streamData h)

theorem exec_queryAdmit_pops (h : s.pops t.val 5 c u) : exec (.queryAdmit t) s = .next (u.query c) :=
  congrArg Host.Outcome.next (State.onCmd_pops State.query h)

theorem exec_resume_pops (h : s.pops t.val 6 c u) : exec (.resume t) s = .next (u.resume c) :=
  congrArg Host.Outcome.next (State.onCmd_pops State.resume h)

end RingCommands

/-! ### Submissions and queries (R298, R299, R428, R429) -/

section Submissions
variable {s : State} {c : HostCmd} {g : Grantee} {b : Option (Nat × List Interval)} {d : Denial}

/-- A submission under a free tag is taken in or denied as the tests of Table 163 and the booking decide. -/
theorem State.submit_accepted (sound : s.upsets.findSome? Upset.hubStore? = none) (free : s.reqOf c.cmd.tenant c.cmd.reqTag = none)
    (granted : s.decision (askOf c) = .ok (g, b)) : s.submit c = s.accept c (askOf c) g b := by
  simp only [State.submit, sound, free, granted, Option.isSome_none, Bool.false_eq_true, if_false]

theorem State.submit_denied (sound : s.upsets.findSome? Upset.hubStore? = none) (free : s.reqOf c.cmd.tenant c.cmd.reqTag = none)
    (denied : s.decision (askOf c) = .error d) : s.submit c = s.deny c.cmd d := by
  simp only [State.submit, sound, free, denied, Option.isSome_none, Bool.false_eq_true, if_false]

/-- The denial of a submission, other than for a full intake, answers REFUSED and gives back the entry reserved for its final completion. -/
theorem State.deny_submission {k : CmdRef} (room : d.reason ≠ 0x21) (submission : k.opcode = 1) :
    s.deny k d = (s.answer k stRefused d.reason d.retry).unreserve k.tenant := by
  simp only [State.deny, room, submission, if_false, if_true]

theorem State.query_granted (granted : s.decision (askOf c) = .ok (g, b)) : s.query c = s.answer c.cmd stDone 0 (b.map (·.1)) 4 := by
  simp only [State.query, granted]

end Submissions

/-! ### Cancellation (R314, R431) -/

section Cancellation
variable {s : State} {c : HostCmd} {r : Nat} {q : Request}

theorem State.cancelReq_unstarted (live : s.req r = some q) (unstarted : q.job = none) : s.cancelReq r = s.endReq r stFault 0x40 := by
  simp only [State.cancelReq, live, unstarted]

theorem State.cancel_named (named : s.reqOf c.cmd.tenant c.cmd.reqTag = some r) :
    s.cancel c = (s.updReq r (fun q => { q with cancelCmds := q.cancelCmds ++ [c.cmd] })).cancelReq r := by
  simp only [State.cancel, named]

theorem State.cancel_unknown (unknown : s.reqOf c.cmd.tenant c.cmd.reqTag = none) : s.cancel c = s.answer c.cmd stFault 0x4C := by
  simp only [State.cancel, unknown]

end Cancellation

/-! ### Input (R311, R430) -/

section Input
variable {s v : State}

theorem State.untagged_iff (s : State) (c : CmdRef) : s.untagged c = true ↔ c.reqTag = 0xFFFFFFFF ∧ 0x12 ≤ s.agreed c.fn := by
  simp only [State.untagged, Bool.and_eq_true, decide_eq_true_eq]

/-- Nothing under its tag keeps a copy from starting, if it is untagged or names a request that waits for input. -/
theorem State.streamRefusal_eq_none {c : CmdRef}
    (mayStart : c.reqTag = 0xFFFFFFFF ∧ 0x12 ≤ s.agreed c.fn ∨
      ∃ r q, s.reqOf c.tenant c.reqTag = some r ∧ s.req r = some q ∧ q.ready = none) : s.streamRefusal c = none := by
  by_cases plain : s.untagged c = true
  · rw [State.streamRefusal, if_pos plain]
  · obtain untagged | ⟨r, q, named, live, waits⟩ := mayStart
    · exact absurd ((s.untagged_iff c).2 untagged) plain
    · simp only [State.streamRefusal, plain, named, Option.bind_some, live, waits, Option.isNone_none, if_true, if_false, Bool.false_eq_true]

theorem State.streamData_starts {c : HostCmd} (unrefused : s.streamRefusal c.cmd = none) :
    s.streamData c = { s with host := { s.host with copies := s.host.copies ++
      [{ cmd := c.cmd, hostAddr := numAt c.bytes 0x10 8, devVa := numAt c.bytes 0x18 8, len := numAt c.bytes 0x20 4,
         last := (numAt c.bytes 0x24 1).testBit 0 }] } } := by
  simp only [State.streamData, unrefused]

/-- The end of a copy leaves the others in progress. -/
theorem exec_streamDataComplete {n : Nat} {x : StreamCopy} (d : Option (List Byte)) (running : s.host.copies[n]? = some x) :
    exec (.streamDataComplete n d) s = .next (({ s with host := { s.host with copies := s.host.copies.eraseIdx n } } : State).copyDone x d) := by
  have meaning : exec (.streamDataComplete n d) s = execStreamDataComplete n d s := by rfl
  rw [meaning, execStreamDataComplete]
  simp only [running]

theorem State.copyDone_failed {x : StreamCopy} (bytes : 0 < x.len) : s.copyDone x none = s.answer x.cmd stFault 0x49 := by
  simp only [State.copyDone, Nat.pos_iff_ne_zero.1 bytes, if_false]

theorem State.copyDone_written {x : StreamCopy} {b : List Byte} (bytes : 0 < x.len) (more : x.last = false)
    (written : s.hubWrite x.cmd.tenant 258 x.devVa (sliceB b 0 x.len) = (v, none)) : s.copyDone x (some b) = v.answer x.cmd stDone 0 := by
  simp only [State.copyDone, Nat.pos_iff_ne_zero.1 bytes, if_false, written, more, Bool.false_and, Bool.false_eq_true]

end Input

/-! ### Restores (R313) -/

section Restores
variable {s : State} {r : Nat} {q : Request} {g : Grantee} {y : Sect}

/-- A best-effort request whose section runs waits again, without bookings, once the tests grant it an intake entry. -/
theorem State.restore_bestEffort (ready : Nat) (plain : q.guar = false)
    (runs : (s.team (s.teamId (s.partOfTenant q.tenant))).running = some y) (same : y.id = q.sect)
    (granted : s.admitTest
      { tenant := q.tenant, field := q.tenant, fn := 64, sect := q.sect, batch := q.batch, cls := 0, deadline := q.deadline, inputWm := 0, wd := ready }
      (some r) = .ok g) :
    s.restore r q ready = (s.setReq r { q with
      st := .waiting, team := s.teamId (s.partOfTenant q.tenant), intake := g.intake, booked := [], c := 0, delta := 0, staged := false },
        stAccepted, 0, none) := by
  simp only [State.restore, runs, same, plain, granted, Option.all_some, ne_eq, not_true_eq_false, decide_false, Bool.false_eq_true, if_false]
  cases g.prof <;> rfl

theorem State.resume_bivouacked {c : HostCmd} (named : s.reqOf c.cmd.tenant c.cmd.reqTag = some r) (live : s.req r = some q)
    (out : q.st = .bivouacked) : s.resume c = s.answerRestore c.cmd (s.restore r q c.wm) := by
  simp only [State.resume, named, live, out, if_true]

end Restores

/-! ### The start of a request, and its holds (R303, R310, R312, R313) -/

section Holds
variable {s : State} {r : Nat} {q : Request}

/-- A request that is due and finds a job tag is bound to it, resets its phase anchor and enters its first phase. -/
theorem State.startReq_due {j : Nat} {dyn : Option Nat} (live : s.req r = some q) (due : s.startDue r q 1 = true) (fresh : q.record = false)
    (tag : s.jobFor q = some (j, dyn)) :
    s.startReq r =
      let u := (s.setReq r { q with job := some j, jobTick := s.time.ticks, dyn := dyn, opens := firstStart q.booked }).bindJob { q with dyn := dyn } j
      ((u.hubSet (u.hubAnchor q.team 0x0C j) 0).enterPhase r 0).joinPitch r j := by
  simp only [State.startReq, live, due, fresh, tag, Bool.not_true, Bool.or_self, Bool.false_eq_true, if_false]

/-- A hold that has run out and has not been acted on makes its request leave its cells. -/
theorem exec_holdExpiry_elapsed {w : Nat} (live : s.req r = some q) (stalled : q.st = .stalled) (hold : q.holdStart = some w) (unspilt : q.spill = false)
    (elapsed : w + s.holdWm q.tenant ≤ s.time.count) : exec (.holdExpiry r) s = .next (s.spillReq r) := by
  have meaning : exec (.holdExpiry r) s = execHoldExpiry r s := by rfl
  have due : (!q.spill) = true ∧ w + s.holdWm q.tenant ≤ s.time.count := ⟨by rw [unspilt]; rfl, elapsed⟩
  rw [meaning, execHoldExpiry]
  simp only [live, stalled, hold, if_pos due]

theorem State.spillReq_live (live : s.req r = some q) :
    s.spillReq r = if s.bivLife q.tenant = 0 then s.expire r else s.updReq r (fun q => { q with spill := true }) := by
  simp only [State.spillReq, live]

/-- A record that no move carries outlives its tenant's BIV_LIFE. -/
theorem exec_bivouacExpired_elapsed (live : s.req r = some q) (out : q.st = .bivouacked) (still : q.moved = none)
    (elapsed : q.spillWm + s.bivLife q.tenant ≤ s.time.count) : exec (.bivouacExpired r) s = .next ((s.raiseReq r 0x6183 0).expire r) := by
  have meaning : exec (.bivouacExpired r) s = execBivouacExpired r s := by rfl
  have due : q.st = .bivouacked ∧ q.moved.isNone = true ∧ q.spillWm + s.bivLife q.tenant ≤ s.time.count := ⟨out, by rw [still]; rfl, elapsed⟩
  rw [meaning, execBivouacExpired]
  simp only [live, if_pos due]

end Holds

/-- Settles O29, clause by clause: submissions, queries, cancels, copies and their ends, a restore, the start of a request, and the ends of its holds. -/
theorem admissionCommandsComplete : Obligations.AdmissionCommandsComplete := by
  refine ⟨?_, ?_, ?_, ?_, ?_, ?_, ?_, ?_, ?_, ?_, ?_, ?_⟩
  · intro t c g b s u front sound free granted
    rw [exec_submit_pops front, State.submit_accepted sound free granted]
  · intro t c d s u front sound free denied room submission
    rw [exec_submit_pops front, State.submit_denied sound free denied, State.deny_submission room submission]
  · intro t c g b s u front granted
    rw [exec_queryAdmit_pops front, State.query_granted granted]
  · rintro t c r q s u v front named rfl live unstarted
    rw [exec_cancel_pops front, State.cancel_named named, State.cancelReq_unstarted live unstarted]
  · intro t c s u front unknown
    rw [exec_cancel_pops front, State.cancel_unknown unknown]
  · intro t c s u front mayStart
    rw [exec_streamData_pops front, State.streamData_starts (State.streamRefusal_eq_none mayStart)]
  · rintro n x s u running bytes rfl
    rw [exec_streamDataComplete none running, State.copyDone_failed bytes]
  · rintro n x b s u v running bytes more rfl written
    rw [exec_streamDataComplete (some b) running, State.copyDone_written bytes more written]
  · intro t c r q g y s u front named live out plain runs same granted
    rw [exec_resume_pops front, State.resume_bivouacked named live out, State.restore_bestEffort c.wm plain runs same granted]
    rfl
  · rintro r j dyn q s u v live due fresh tag rfl rfl
    exact congrArg Host.Outcome.next (State.startReq_due live due fresh tag)
  · intro r w q s live stalled hold unspilt elapsed
    rw [exec_holdExpiry_elapsed live stalled hold unspilt elapsed, State.spillReq_live live]
  · intro r q s live out still elapsed
    exact exec_bivouacExpired_elapsed live out still elapsed

end Sys2Proof.Machine
end

section
/-! PROOFS. The end of a section (file 11: R307, R308), team changes (R318 to R320), and the registers of tenants and shares (R295, R315). -/

namespace Sys2Proof.Machine

/-! ### The end of a section (R307, R308) -/

section SectionEnd
variable {s : State} {p : Fin 64}

/-- At C the team notes its end, its controllers see SEREQ, and its best-effort requests are to be written out. -/
theorem exec_sectionEndRequest_due (set : (s.team p.val).cutover ≠ 0) (reached : (s.team p.val).cutover ≤ s.time.count)
    (first : (s.team p.val).secEnd = false) (runs : (s.team p.val).running.isSome = true)
    (active : (s.team p.val).run = .running ∨ (s.team p.val).run = .switching) :
    exec (.sectionEndRequest p) s = .next (
      let u := s.setTeam p.val { s.team p.val with secEnd := true }
      let v := (u.partClus (u.members p.val)).foldl (fun s g => s.setClu g { s.clu g with ctl := { (s.clu g).ctl with sereq := true } }) u
      ((v.reqsWhere (fun q => decide (q.team = p.val) && !q.staged && !q.guar && decide (q.st ≠ .bivouacked))).foldl
        (fun s r => s.updReq r (fun q => { q with spill := true })) v).countEnded p.val) := by
  have due : ¬((s.team p.val).cutover = 0 ∨ s.time.count < (s.team p.val).cutover ∨ (s.team p.val).secEnd = true ∨
      (s.team p.val).running.isNone = true ∨ ((s.team p.val).run ≠ .running ∧ (s.team p.val).run ≠ .switching)) := by
    rintro (none | early | again | empty | ⟨notRunning, notSwitching⟩)
    · exact set none
    · exact Nat.not_lt.2 reached early
    · simp [first] at again
    · simp [Option.isNone_iff_eq_none.1 empty] at runs
    · exact active.elim notRunning notSwitching
  exact congrArg Host.Outcome.next (if_neg due)

/-- A controller that is still in its user program after the bound of its groups is late. -/
theorem exec_sectendLate_controller {g : Nat} (ending : (s.team p.val).secEnd = true)
    (active : (s.team p.val).run = .running ∨ (s.team p.val).run = .switching)
    (late : (s.team p.val).cutover + (1 * (s.team p.val).groupFc + 1398) / 1399 + 1 ≤ s.time.count) (mem : g ∈ s.partClus (s.members p.val))
    (user : (s.clu g).ctl.st = .user) (old : (s.clu g).switched = false) :
    exec (.sectendLate p) s = .next ((s.raiseSect p.val p.val 8 p.val 0x3138).sectFails p.val 0x3138) := by
  have meaning : exec (.sectendLate p) s = execSectendLate p s := by rfl
  have watched : ¬((!(s.team p.val).secEnd) = true ∨ ((s.team p.val).run ≠ .running ∧ (s.team p.val).run ≠ .switching)) := by
    rintro (noEnd | ⟨notRunning, notSwitching⟩)
    · simp [ending] at noEnd
    · exact active.elim notRunning notSwitching
  have inUser : (s.partClus (s.members p.val)).any (fun g => decide ((s.clu g).ctl.st = .user) && !(s.clu g).switched) = true :=
    List.any_eq_true.2 ⟨g, mem, by simp [user, old]⟩
  rw [meaning, execSectendLate]
  simp only [if_neg watched, inUser, decide_eq_true late, Bool.and_self, Bool.true_or, if_true]

end SectionEnd

/-! ### Conditions of a change (R319, R320) -/

section Conditions
variable {s : State} {t : Nat} {c : Change}

theorem State.changeFault_join (join : c.op = 1) (outside : (s.members t).contains c.part = false) (lone : s.joinable c.part = true)
    (doors : s.permitted (s.members t ++ [c.part]) = true) : s.changeFault t c = 0 := by
  simp only [State.changeFault, join, outside, lone, doors, Bool.not_true, Bool.false_eq_true, or_self, if_true, if_false]
  rfl

/-- A member may leave a team of two or more that has nothing on it. -/
theorem State.changeFault_leave_bare (leave : c.op = 2) (bare : (s.team t).bare = true) (member : (s.members t).contains c.part = true)
    (others : 2 ≤ (s.members t).length) : s.changeFault t c = 0 := by
  have two : ¬(2 : Nat) = 1 := by decide
  simp only [State.changeFault, leave, bare, member, two, Nat.not_lt.2 others, Bool.not_true, Bool.false_eq_true, or_self, if_true, if_false]
  rfl

end Conditions

/-! ### Asking for a change (R318) -/

section Asking
variable {s : State} {v : Word} {op t : Nat}

/-- A join stands pending, whatever the team runs. -/
theorem State.askChange_join (team : t = getF v F.ADM_TEAM_CHANGE_TEAM_ID) (leads : s.teamId t = t) (idle : (s.team t).change = none)
    (sound : s.changeFault t (s.changeAsked 1 v) = 0) :
    s.askChange 1 v = (s.setTeam t { s.team t with change := some (s.changeAsked 1 v) }).changeStatus 1 0 s.changeWm := by
  subst team
  simp only [State.changeAsked] at sound
  cases running : (s.team (getF v F.ADM_TEAM_CHANGE_TEAM_ID)).running <;>
    simp [State.askChange, State.changeAsked, leads, idle, sound, running]

/-- A change of a team that runs nothing stands pending. -/
theorem State.askChange_empty (team : t = getF v F.ADM_TEAM_CHANGE_TEAM_ID) (leads : s.teamId t = t) (idle : (s.team t).change = none)
    (sound : s.changeFault t (s.changeAsked op v) = 0) (empty : (s.team t).running = none) :
    s.askChange op v = (s.setTeam t { s.team t with change := some (s.changeAsked op v) }).changeStatus 1 0 s.changeWm := by
  subst team
  simp only [State.changeAsked] at sound
  simp [State.askChange, State.changeAsked, leads, idle, sound, empty]

/-- A traverse whose requests all find a place on its target is booked there and stands pending. -/
theorem State.askChange_traverse {r : Sect} {tw : Nat} {u : State} (team : t = getF v F.ADM_TEAM_CHANGE_TEAM_ID) (leads : s.teamId t = t)
    (idle : (s.team t).change = none) (sound : s.changeFault t (s.changeAsked 3 v) = 0) (runs : (s.team t).running = some r)
    (wm : tw = (match r.card with
      | some k => k.traverseWm
      | none => 0))
    (booked : s.planMove t (s.changeAsked 3 v).target s.changeWm tw = some u) :
    s.askChange 3 v = (u.setTeam t { u.team t with change := some (s.changeAsked 3 v) }).changeStatus 1 0 s.changeWm := by
  subst team wm
  simp only [State.changeAsked] at sound booked
  cases card : r.card <;>
    · rw [card] at booked
      simp [State.askChange, State.changeAsked, leads, idle, sound, runs, card, booked]

theorem exec_teamJoin_asks (ready : s.ready = true) (op : getF v F.ADM_TEAM_CHANGE_OP = 1) : exec (.teamJoin v) s = .next (s.askChange 1 v) :=
  congrArg Host.Outcome.next (if_pos ⟨ready, op⟩)

theorem exec_teamLeave_asks (ready : s.ready = true) (op : getF v F.ADM_TEAM_CHANGE_OP = 2) : exec (.teamLeave v) s = .next (s.askChange 2 v) :=
  congrArg Host.Outcome.next (if_pos ⟨ready, op⟩)

theorem exec_teamTraverse_asks (ready : s.ready = true) (op : getF v F.ADM_TEAM_CHANGE_OP = 3) : exec (.teamTraverse v) s = .next (s.askChange 3 v) :=
  congrArg Host.Outcome.next (if_pos ⟨ready, op⟩)

/-- A join that may still be made comes into force at its waymark. -/
theorem exec_teamChangeApply_join {p : Fin 64} {c : Change} (pending : (s.team p.val).change = some c) (due : c.w ≤ s.time.count)
    (unstarted : c.started = false) (unlanded : c.landed = false) (join : c.op = 1) (sound : s.changeFault p.val c = 0) :
    exec (.teamChangeApply p) s =
      .next (((s.setTeam p.val { s.team p.val with change := none }).joinTeam p.val c.part).changeStatus 2 0 c.w) := by
  have meaning : exec (.teamChangeApply p) s = execTeamChangeApply p s := by rfl
  rw [meaning, execTeamChangeApply]
  simp [pending, Nat.not_lt.2 due, unstarted, unlanded, join, sound]

end Asking

/-! ### Tenants and shares (R295, R315) -/

section Registers
variable {s : State}

theorem State.writeTenant_idle {t : Nat} (v : Word) (idle : s.tenantIdle t = true) : s.writeTenant t v = s.writeRw (R.ADM_TENANT t) v := by
  simp only [State.writeTenant, idle, Bool.not_true, Bool.and_false, Bool.false_eq_true, if_false]

/-- A tenant in use is not moved to another partition. -/
theorem State.writeTenant_moves {t : Nat} {v : Word} (busy : s.tenantIdle t = false)
    (moves : s.fld (R.ADM_TENANT t) F.ADM_TENANT_PARTITION ≠ getF v F.ADM_TENANT_PARTITION) :
    s.writeTenant t v = s.setFld R.ADM_CTRL F.ADM_CTRL_MAP_REJECTED 1 := by
  simp only [State.writeTenant, busy, decide_eq_true moves, Bool.true_or, Bool.not_false, Bool.and_self, if_true]

/-- A share is written when no engine whose part it changes holds a booking on its stack or port. -/
theorem State.writeShare_free {k : Nat} {v : Word} (above : R.ADM_NT_SHARE 0 ≤ k) (below : k < R.ADM_NT_SHARE 0 + 0x80) (aligned : k % 8 = 0)
    (keeps : getF v F.ADM_NT_SHARE_REJECTED = 0) (whole : getF v F.ADM_NT_SHARE_SPLIT_A ≤ 256)
    (unbooked : ∀ e < 8, shareFrac (s.reg k) e ≠ shareFrac v e → s.engineHolds e ((k - R.ADM_NT_SHARE 0) / 8) = false) :
    s.writeShare k v = s.writeRw k v := by
  have inside : ¬(k < R.ADM_NT_SHARE 0 ∨ R.ADM_NT_SHARE 0 + 0x80 ≤ k ∨ k % 8 ≠ 0) := by omega
  have free : (List.range 8).any (fun e => decide (shareFrac (s.reg k) e ≠ shareFrac v e) &&
      s.engineHolds e ((k - R.ADM_NT_SHARE 0) / 8)) = false :=
    List.any_eq_false.2 fun e mem held => by
      obtain ⟨changes, holds⟩ := Bool.and_eq_true_iff.1 held
      rw [unbooked e (List.mem_range.1 mem) (of_decide_eq_true changes)] at holds
      exact Bool.false_ne_true holds
  have kept : ¬getF v F.ADM_NT_SHARE_REJECTED = 1 := by omega
  simp only [State.writeShare, if_neg inside, if_neg kept, if_neg (Nat.not_lt.2 whole), free, Bool.false_eq_true, if_false]

end Registers

/-- Settles O30, clause by clause: the end of a section, a late controller, a join, a leave and a traverse, a join that applies, tenants and shares. -/
theorem sectionEndAndTeamChangesComplete : Obligations.SectionEndAndTeamChangesComplete := by
  refine ⟨?_, ?_, ?_, ?_, ?_, ?_, ?_, ?_, ?_⟩
  · rintro p s u set reached first runs active rfl
    exact ⟨_, rfl, exec_sectionEndRequest_due set reached first runs active⟩
  · intro p g s ending active late mem user old
    exact exec_sectendLate_controller ending active late mem user old
  · rintro v t c s ready op team leads idle rfl outside lone doors
    rw [exec_teamJoin_asks ready op, State.askChange_join team leads idle (State.changeFault_join rfl outside lone doors)]
  · rintro v t c s ready op team leads idle rfl bare empty member others
    rw [exec_teamLeave_asks ready op, State.askChange_empty team leads idle (State.changeFault_leave_bare rfl bare member others) empty]
  · rintro v t tw r c s u ready op team leads idle rfl sound runs wm booked
    rw [exec_teamTraverse_asks ready op, State.askChange_traverse team leads idle sound runs wm booked]
  · rintro p c s u pending due unstarted unlanded join sound rfl
    exact exec_teamChangeApply_join pending due unstarted unlanded join sound
  · intro t v s idle
    exact congrArg Host.Outcome.next (State.writeTenant_idle v idle)
  · intro t v s busy moves
    exact congrArg Host.Outcome.next (State.writeTenant_moves busy moves)
  · intro a v s above below aligned keeps whole unbooked
    exact congrArg Host.Outcome.next (State.writeShare_free above below aligned keeps whole unbooked)

end Sys2Proof.Machine
end

section
/-! PROOFS. Coherence of the application cores (file 12: R344, R345): the one-writer rule of each line, and what each coherence command does. -/

namespace Sys2Proof.Machine

/-! ### Accesses of memory leave the caches -/

/-- What coherence is about: the cores with their caches, and the directory. -/
def State.caches (s : State) : SMap AppCore × SMap DirLine := (s.cores, s.dir)

theorem State.logsTo.caches_eq {s t : State} (h : s.logsTo t) : t.caches = s.caches := by
  unfold State.logsTo at h; rw [h]; rfl

@[simp] theorem State.caches_raise (s : State) (e : Evt) : (s.raise e).caches = s.caches := (s.raise_logs e).caches_eq

@[simp] theorem State.caches_refuseChange (s : State) (t op reason w : Nat) : (s.refuseChange t op reason w).caches = s.caches := by
  have status : (s.changeStatus 3 reason w).caches = s.caches := by
    rw [State.changeStatus, if_pos (.inr rfl), (State.logsTo_coreMsi _ _).caches_eq]
    rfl
  unfold State.refuseChange; dsimp only
  split
  · rw [(State.raiseSect_logs ..).caches_eq, State.caches_raise, status]
  · rw [State.caches_raise, status]

@[simp] theorem State.caches_updReq (s : State) (r : Nat) (f : Request → Request) : (s.updReq r f).caches = s.caches := by
  unfold State.updReq
  split <;> rfl

@[simp] theorem State.caches_condemn (s : State) (k trigger : Nat) : (s.condemn k trigger).caches = s.caches := by
  unfold State.condemn
  extract_lets g ev pwr integ listed t told
  split
  · rfl
  split
  · exact State.caches_raise _ _
  split
  · rfl
  extract_lets L jobs marked
  have kept : marked.caches = s.caches := by
    refine (foldl_keeps State.caches _ (fun _ _ => ?_) jobs told).trans (State.caches_raise listed _)
    rfl
  clear_value marked
  split
  · split
    · exact kept
    · refine (State.caches_refuseChange _ _ _ _ _).trans ?_
      exact (foldl_keeps State.caches _ (fun x r => State.caches_updReq x r _) _ _).trans kept
  · exact kept

@[simp] theorem State.caches_slotErr (s : State) (k what : Nat) : (s.slotErr k what).caches = s.caches := by
  have decided (f : Fld) (b : Prop) [Decidable b] (trigger : Nat) :
      (if b then (s.bump (R.CLU_SLOT_ERR (k / 17) (k % 17)) f 1).condemn k trigger
        else s.bump (R.CLU_SLOT_ERR (k / 17) (k % 17)) f 1).caches = s.caches := by
    split
    · exact State.caches_condemn _ _ _
    · rfl
  unfold State.slotErr; dsimp only
  split
  · exact decided _ _ _
  split
  · exact decided _ _ _
  · exact decided _ _ _

@[simp] theorem State.caches_sectorErr (s : State) (k what : Nat) : (s.sectorErr k what).caches = s.caches := by
  unfold State.sectorErr
  split
  · exact State.caches_slotErr _ _ _
  · rfl

@[simp] theorem State.caches_meet (s : State) (kind src arr ep : Nat) (secs : List Nat) : (s.meet kind src arr ep secs).1.caches = s.caches := by
  unfold State.meet
  refine foldl_keeps (fun x : State × List Nat => x.1.caches) _ (fun x k => ?_) secs (s, [])
  extract_lets before fixed dropped spoilt
  have fix : fixed.caches = x.1.caches := by
    simp only [fixed]
    split
    · rw [State.caches_sectorErr, State.caches_raise]; rfl
    · rfl
  have spoil : spoilt.caches = fixed.caches := by
    simp only [spoilt]
    split
    · split
      · rfl
      · rw [State.caches_sectorErr, State.caches_raise]; rfl
    · rfl
  split
  · exact (State.caches_raise _ _).trans (spoil.trans fix)
  · exact spoil.trans fix

theorem State.caches_deliver (s : State) (kind src arr ep a n : Nat) : (s.deliver kind src arr ep a n).1.caches = s.caches := by
  have ports : (s.tileBusy a n).caches = s.caches := by rw [State.tileBusy_frame]; rfl
  unfold State.deliver; dsimp only
  split
  · exact ports
  · exact (State.caches_meet _ _ _ _ _ _).trans ports

@[simp] theorem State.caches_countPoison (s : State) (a n : Nat) : (s.countPoison a n).caches = s.caches := by
  rw [State.countPoison_frame]; rfl

theorem State.caches_tierMeet (s : State) (a n : Nat) : (s.tierMeet a n).caches = s.caches := by
  unfold State.tierMeet
  split
  · rfl
  · refine foldl_keeps State.caches _ (fun x k => ?_) _ _
    extract_lets dropped fixed spoilt
    have fix : fixed.caches = x.caches := by
      simp only [fixed]
      split
      · split <;> rfl
      · rfl
    split
    · exact fix
    · exact fix

/-- Reading memory for the hub leaves the caches. -/
@[simp] theorem State.caches_devRead (s : State) (a n : Nat) : (s.devRead a n).1.caches = s.caches := by
  unfold State.devRead
  split
  · split
    · exact State.caches_countPoison _ _ _
    · exact (State.caches_countPoison _ _ _).trans (State.caches_tierMeet s a n)
  · exact State.caches_deliver ..

/-- Writing memory for the hub leaves the caches. -/
@[simp] theorem State.caches_devWrite (s : State) (a : Nat) (b : List Byte) (bad : List Nat) : (s.devWrite a b bad).caches = s.caches := by
  unfold State.devWrite
  split
  · split
    · exact State.caches_countPoison _ _ _
    · exact State.caches_countPoison _ _ _
  · rw [State.tileWr, State.tileBusy_frame]; rfl

/-! ### The one-writer rule of a line -/

/-- The rule of `State.coherent` for one line, of its directory entry and of the copies that the cores hold. -/
def OneWriter (d : DirLine) (copy : Nat → Option Line) : Prop :=
  (∀ h, d.owner = some h → d.sharers = 0) ∧
  (∀ h < 16, ∀ l, copy h = some l → (l.st ≠ .s → d.owner = some h) ∧ (l.st = .s → d.sharers.testBit h = true)) ∧
  (∀ r st left, d.busy = some (.inv r st left) → d.owner = none ∧ ∀ h < 16, h ≠ r → (copy h).isSome = true → left.testBit h = true)

/-- The copy of a line in a core's L2. -/
def State.copy (s : State) (k h : Nat) : Option Line := SMap.find? (s.core h).l2 k

theorem State.coherent_iff (s : State) : s.coherent ↔ ∀ k, OneWriter (s.dirLine k) (s.copy k) := Iff.rfl

theorem State.coherent.line {s : State} (coh : s.coherent) (k : Nat) : OneWriter (s.dirLine k) (s.copy k) := coh k

/-- The copies after core h's has been put in or dropped. -/
def withCopy (c : Nat → Option Line) (h : Nat) (l : Option Line) : Nat → Option Line := fun g => if g = h then l else c g

theorem withCopy_self (c : Nat → Option Line) (h : Nat) (l : Option Line) : withCopy c h l h = l := if_pos rfl

theorem withCopy_of_ne {c : Nat → Option Line} {g h : Nat} {l : Option Line} (ne : g ≠ h) : withCopy c h l g = c g := if_neg ne

theorem withCopy_eq_self {c : Nat → Option Line} {h : Nat} {l : Option Line} (same : c h = l) : withCopy c h l = c := by
  funext g
  by_cases e : g = h
  · rw [e, withCopy_self, same]
  · exact withCopy_of_ne e

/-- The mask that takes one core out of a vector of sharers. -/
theorem testBit_others {h g : Nat} (hh : h < 16) (gg : g < 16) : (65535 - 2 ^ h).testBit g = !decide (g = h) := by
  have below : 2 ^ h < 2 ^ 16 := Nat.pow_lt_pow_right (by decide) hh
  rw [show 65535 - 2 ^ h = 2 ^ 16 - (2 ^ h + 1) by omega, Nat.testBit_two_pow_sub_succ below, Nat.testBit_two_pow]
  simp [gg, eq_comm]

namespace OneWriter
variable {d : DirLine} {c : Nat → Option Line} {h g : Nat} {l : Line}

/-- An owned line is in no other core. -/
theorem alone (w : OneWriter d c) (owned : d.owner = some h) (lt : g < 16) (ne : g ≠ h) : c g = none := by
  obtain ⟨unshared, copies, -⟩ := w
  cases held : c g with
  | none => rfl
  | some l =>
    obtain ⟨writer, sharer⟩ := copies g lt l held
    by_cases st : l.st = .s
    · have := sharer st
      rw [unshared h owned, Nat.zero_testBit] at this
      exact absurd this Bool.false_ne_true
    · exact absurd (Option.some.inj (owned.symm.trans (writer st))).symm ne

/-- Every copy of a line without an owner is shared. -/
theorem sharer (w : OneWriter d c) (unowned : d.owner = none) (lt : g < 16) (held : c g = some l) :
    l.st = .s ∧ d.sharers.testBit g = true := by
  obtain ⟨writer, sharer⟩ := w.2.1 g lt l held
  have st : l.st = .s := Decidable.byContradiction fun ne => by
    rw [unowned] at writer
    exact nomatch writer ne
  exact ⟨st, sharer st⟩

/-- A line that is shared and for which no GetM waits. -/
theorem of_shared (unowned : d.owner = none) (idle : d.busy = none)
    (copies : ∀ g < 16, ∀ l, c g = some l → l.st = .s ∧ d.sharers.testBit g = true) : OneWriter d c := by
  refine ⟨fun h owned => ?_, fun g lt l held => ?_, fun r st left waits => ?_⟩
  · rw [unowned] at owned; exact nomatch owned
  · obtain ⟨st, bit⟩ := copies g lt l held
    exact ⟨fun ne => absurd st ne, fun _ => bit⟩
  · rw [idle] at waits; exact nomatch waits

/-- A line that only its owner holds, in M or E. -/
theorem of_owner (others : ∀ g < 16, g ≠ h → c g = none) (st : l.st ≠ .s) :
    OneWriter { owner := some h } (withCopy c h (some l)) := by
  refine ⟨fun _ _ => rfl, fun g lt x held => ?_, fun _ _ _ waits => nomatch waits⟩
  by_cases e : g = h
  · subst e
    rw [withCopy_self] at held
    cases held
    exact ⟨fun _ => rfl, fun sh => absurd sh st⟩
  · rw [withCopy_of_ne e, others g lt e] at held
    exact nomatch held

/-- Dropping a copy asks nothing of the directory. -/
theorem drop (w : OneWriter d c) (h : Nat) : OneWriter d (withCopy c h none) := by
  have old {g : Nat} {l : Line} (held : withCopy c h none g = some l) : c g = some l := by
    by_cases e : g = h
    · rw [e, withCopy_self] at held; exact nomatch held
    · rwa [withCopy_of_ne e] at held
  obtain ⟨unshared, copies, waits⟩ := w
  refine ⟨unshared, fun g lt l held => copies g lt l (old held), fun r st left inv => ?_⟩
  obtain ⟨unowned, left⟩ := waits r st left inv
  refine ⟨unowned, fun g lt ne held => left g lt ne ?_⟩
  obtain ⟨l, held⟩ := Option.isSome_iff_exists.1 held
  rw [old held]
  rfl

/-- A forward to the owner starts: owner, sharers and copies stay. -/
theorem forward (w : OneWriter d c) (r : Nat) (m : Bool) (st : LineStore) : OneWriter { d with busy := some (.fwd r m st) } c :=
  ⟨w.1, w.2.1, fun _ _ _ waits => nomatch waits⟩

/-- A GetM of a shared line waits for the other sharers. -/
theorem invalidate (w : OneWriter d c) (unowned : d.owner = none) (lt : h < 16) (st : LineStore) :
    OneWriter { d with busy := some (.inv h st (d.sharers &&& (65535 - 2 ^ h))) } c := by
  refine ⟨w.1, w.2.1, fun r st left waits => ?_⟩
  cases waits
  refine ⟨unowned, fun g gg ne held => ?_⟩
  obtain ⟨l, held⟩ := Option.isSome_iff_exists.1 held
  rw [Nat.testBit_and, (w.sharer unowned gg held).2, testBit_others lt gg]
  simp [ne]

/-- A shared line of which no other core stands in the vector is in no other core. -/
theorem none_of_rest (w : OneWriter d c) (unowned : d.owner = none) (lt : h < 16) (rest : d.sharers &&& (65535 - 2 ^ h) = 0)
    (gg : g < 16) (ne : g ≠ h) : c g = none := by
  cases held : c g with
  | none => rfl
  | some l =>
    have bit : (d.sharers &&& (65535 - 2 ^ h)).testBit g = true := by
      rw [Nat.testBit_and, (w.sharer unowned gg held).2, testBit_others lt gg]
      simp [ne]
    rw [rest, Nat.zero_testBit] at bit
    exact absurd bit Bool.false_ne_true

/-- A copy in S joins the sharers of a line without an owner. -/
theorem share (w : OneWriter d c) (unowned : d.owner = none) (idle : d.busy = none) (st : l.st = .s) :
    OneWriter { d with sharers := d.sharers ||| 2 ^ h } (withCopy c h (some l)) := by
  refine of_shared unowned idle fun g lt x held => ?_
  rw [Nat.testBit_or]
  by_cases e : g = h
  · subst e
    rw [withCopy_self] at held
    cases held
    exact ⟨st, by simp⟩
  · rw [withCopy_of_ne e] at held
    obtain ⟨sh, bit⟩ := w.sharer unowned lt held
    exact ⟨sh, by simp [bit]⟩

/-- An owner gives its copy up. -/
theorem disown (w : OneWriter d c) (owned : d.owner = some h) (idle : d.busy = none) :
    OneWriter { d with owner := none } (withCopy c h none) := by
  refine of_shared rfl idle fun g lt x held => ?_
  by_cases e : g = h
  · rw [e, withCopy_self] at held; exact nomatch held
  · rw [withCopy_of_ne e, w.alone owned lt e] at held
    exact nomatch held

/-- The owner of a line stores into its copy. -/
theorem store (w : OneWriter d c) (owned : d.owner = some h) (st : l.st = .m) : OneWriter d (withCopy c h (some l)) := by
  refine ⟨w.1, fun g lt x held => ?_, fun r v left waits => ?_⟩
  · by_cases e : g = h
    · subst e
      rw [withCopy_self] at held
      cases held
      exact ⟨fun _ => owned, fun sh => by rw [st] at sh; exact nomatch sh⟩
    · rw [withCopy_of_ne e] at held
      exact w.2.1 g lt x held
  · have unowned := (w.2.2 r v left waits).1
    rw [owned] at unowned
    exact nomatch unowned

/-- A sharer leaves the vector. -/
theorem unshare (w : OneWriter d c) (lt : h < 16) (idle : d.busy = none) :
    OneWriter { d with sharers := d.sharers &&& (65535 - 2 ^ h) } (withCopy c h none) := by
  obtain ⟨unshared, copies, -⟩ := w.drop h
  refine ⟨fun g owned => by rw [unshared g owned, Nat.zero_and], fun g gg x held => ?_, fun _ _ _ waits => ?_⟩
  · have ne : g ≠ h := by rintro rfl; rw [withCopy_self] at held; exact nomatch held
    obtain ⟨writer, sharer⟩ := copies g gg x held
    exact ⟨writer, fun st => by rw [Nat.testBit_and, sharer st, testBit_others lt gg]; simp [ne]⟩
  · rw [idle] at waits; exact nomatch waits

/-- A sharer acknowledges its invalidation. -/
theorem acknowledge {r left : Nat} {st : LineStore} (w : OneWriter d c) (waits : d.busy = some (.inv r st left)) (lt : h < 16) :
    OneWriter { d with busy := some (.inv r st (left &&& (65535 - 2 ^ h))) } (withCopy c h none) := by
  obtain ⟨unshared, copies, inv⟩ := w.drop h
  refine ⟨unshared, copies, fun r' st' left' waits' => ?_⟩
  cases waits'
  obtain ⟨unowned, bits⟩ := inv r st left waits
  refine ⟨unowned, fun g gg ne held => ?_⟩
  have other : g ≠ h := by rintro rfl; rw [withCopy_self] at held; exact nomatch held
  rw [Nat.testBit_and, bits g gg ne held, testBit_others lt gg]
  simp [other]

/-- After the last acknowledgement only the requester may still hold the line. -/
theorem none_of_acknowledged {r left : Nat} {st : LineStore} (w : OneWriter d c) (waits : d.busy = some (.inv r st left)) (lt : h < 16)
    (last : left &&& (65535 - 2 ^ h) = 0) (gg : g < 16) (ne : g ≠ r) : withCopy c h none g = none := by
  obtain ⟨-, -, inv⟩ := w.acknowledge waits lt
  obtain ⟨-, bits⟩ := inv r st _ rfl
  refine Decidable.byContradiction fun held => ?_
  have bit := bits g gg ne (Option.isSome_iff_ne_none.2 held)
  rw [last, Nat.zero_testBit] at bit
  exact Bool.false_ne_true bit

end OneWriter

/-! ### The caches read back -/

section Reading
variable {s t : State}

theorem State.core_of_caches (same : t.caches = s.caches) (h : Nat) : t.core h = s.core h :=
  congrArg (fun x : SMap AppCore × SMap DirLine => SMap.get ({} : AppCore) x.1 h) same

theorem State.dirLine_of_caches (same : t.caches = s.caches) (k : Nat) : t.dirLine k = s.dirLine k :=
  congrArg (fun x : SMap AppCore × SMap DirLine => SMap.get ({} : DirLine) x.2 k) same

theorem State.copy_of_caches (same : t.caches = s.caches) (k : Nat) : t.copy k = s.copy k :=
  funext fun h => congrArg (fun c : AppCore => SMap.find? c.l2 k) (State.core_of_caches same h)

/-- A core whose L2 stays holds the copies it held. -/
theorem State.copy_setCore {h : Nat} {x : AppCore} (same : x.l2 = (s.core h).l2) (k : Nat) : (s.setCore h x).copy k = s.copy k := by
  funext g
  unfold State.copy
  by_cases e : g = h
  · subst e; rw [State.core_setCore, same]
  · rw [State.core_setCore_ne _ _ e]

@[simp] theorem State.copy_coreFault (s : State) (h : Nat) (b : Bool) (k : Nat) : (s.coreFault h b).copy k = s.copy k :=
  State.copy_setCore (by rfl) k

@[simp] theorem State.copy_setDir (s : State) (k j : Nat) (d : DirLine) : (s.setDir k d).copy j = s.copy j := rfl

theorem State.copy_setL2_self (s : State) (h k : Nat) (l : Option Line) : (s.setL2 h k l).copy k = withCopy (s.copy k) h l := by
  funext g
  simp only [State.copy, State.l2_setL2, and_true, withCopy]

theorem State.copy_setL2_ne (s : State) {h k j : Nat} (l : Option Line) (ne : j ≠ k) : (s.setL2 h k l).copy j = s.copy j := by
  funext g
  simp only [State.copy, State.l2_setL2, ne, and_false, if_false]

theorem State.dirLine_setDir_self (s : State) (k : Nat) (d : DirLine) : (s.setDir k d).dirLine k = d := by
  rw [State.dirLine_setDir, if_pos rfl]

theorem State.dirLine_setDir_ne (s : State) {k j : Nat} (d : DirLine) (ne : j ≠ k) : (s.setDir k d).dirLine j = s.dirLine j := by
  rw [State.dirLine_setDir, if_neg ne]

/-- What neither the directory nor the copies show does not matter. -/
theorem State.coherent.congr (coh : s.coherent) (dir : ∀ k, t.dirLine k = s.dirLine k) (copy : ∀ k, t.copy k = s.copy k) : t.coherent :=
  t.coherent_iff.2 fun k => by rw [dir, copy]; exact coh k

theorem State.coherent.of_caches (coh : s.coherent) (same : t.caches = s.caches) : t.coherent :=
  coh.congr (State.dirLine_of_caches same) (State.copy_of_caches same)

theorem State.coherent.coreFault (coh : s.coherent) (h : Nat) (b : Bool) : (s.coreFault h b).coherent :=
  coh.congr (fun _ => rfl) (s.copy_coreFault h b)

theorem State.coherent.coreHole (coh : s.coherent) (h a : Nat) : (s.coreHole h a).coherent :=
  (coh.coreFault h true).of_caches (State.caches_raise _ _)

/-- A change of one line keeps the rule of the others. -/
theorem State.coherent.of_line {k : Nat} (coh : s.coherent) (others : ∀ j ≠ k, t.dirLine j = s.dirLine j ∧ t.copy j = s.copy j)
    (line : OneWriter (t.dirLine k) (t.copy k)) : t.coherent := by
  refine t.coherent_iff.2 fun j => ?_
  by_cases e : j = k
  · rw [e]; exact line
  · rw [(others j e).1, (others j e).2]; exact coh j

theorem State.coherent.setDir {k : Nat} {d : DirLine} (coh : s.coherent) (line : OneWriter d (s.copy k)) : (s.setDir k d).coherent :=
  coh.of_line (fun _ ne => ⟨s.dirLine_setDir_ne d ne, rfl⟩) (by rw [State.dirLine_setDir_self]; exact line)

theorem State.coherent.setL2 {h k : Nat} {l : Option Line} (coh : s.coherent)
    (line : OneWriter (s.dirLine k) (withCopy (s.copy k) h l)) : (s.setL2 h k l).coherent :=
  coh.of_line (fun _ ne => ⟨rfl, s.copy_setL2_ne l ne⟩) (by rw [State.copy_setL2_self]; exact line)

theorem State.coherent.setL2_setDir {h k : Nat} {l : Option Line} {d : DirLine} (coh : s.coherent)
    (line : OneWriter d (withCopy (s.copy k) h l)) : ((s.setL2 h k l).setDir k d).coherent :=
  coh.of_line (fun _ ne => ⟨State.dirLine_setDir_ne _ d ne, s.copy_setL2_ne l ne⟩)
    (by rw [State.dirLine_setDir_self, State.copy_setDir, State.copy_setL2_self]; exact line)

end Reading

/-! ### Lines on their way between the caches and memory -/

section Lines
variable {s : State}

@[simp] theorem State.caches_lineRead (s : State) (k : Nat) (st : LineSt) : (s.lineRead k st).1.caches = s.caches := s.caches_devRead (64 * k) 64

@[simp] theorem State.caches_lineOwn (s : State) (h k : Nat) : (s.lineOwn h k).1.caches = s.caches := by
  unfold State.lineOwn
  split
  · rfl
  · exact s.caches_lineRead k .m

@[simp] theorem State.caches_lineWrite (s : State) (k : Nat) (l : Line) : (s.lineWrite k l).caches = s.caches := s.caches_devWrite _ _ _

@[simp] theorem State.caches_meetCache (s : State) (h k : Nat) (l : Line) : (s.meetCache h k l).1.caches = s.caches := by
  unfold State.meetCache
  split
  · exact State.caches_raise _ _
  · rfl

/-- Caches without an upset give the line as they hold it. -/
theorem State.meetCache_sound {h k : Nat} {l : Line} (sound : s.upsets.contains (.cache h k) = false) : s.meetCache h k l = (s, l) := by
  unfold State.meetCache
  rw [sound]
  rfl

theorem Line.store_st (l : Line) (v : LineStore) : (l.store v).st = .m := by cases v <;> rfl

end Lines

/-! ### What the coherence operations do -/

section Operations
variable {s u : State} {h k : Nat} {l : Line}

theorem State.askS_kept (kept : ((s.core h).line k).isSome ∨ (s.dirLine k).busy.isSome) : s.askS h k = s := if_pos kept

theorem State.askS_owned {o : Nat} (absent : (s.core h).line k = none) (idle : (s.dirLine k).busy = none) (owned : (s.dirLine k).owner = some o) :
    s.askS h k = s.setDir k { s.dirLine k with busy := some (.fwd h false none) } := by
  simp [State.askS, absent, idle, owned]

theorem State.askS_alone (absent : (s.core h).line k = none) (idle : (s.dirLine k).busy = none) (unowned : (s.dirLine k).owner = none)
    (unshared : (s.dirLine k).sharers = 0) (read : s.lineRead k .e = (u, l)) :
    s.askS h k = (u.setL2 h k (some l)).setDir k { owner := some h } := by
  simp [State.askS, absent, idle, unowned, unshared, read]

theorem State.askS_shared (absent : (s.core h).line k = none) (idle : (s.dirLine k).busy = none) (unowned : (s.dirLine k).owner = none)
    (shared : (s.dirLine k).sharers ≠ 0) (read : s.lineRead k .s = (u, l)) :
    s.askS h k = (u.setL2 h k (some l)).setDir k { s.dirLine k with sharers := (s.dirLine k).sharers ||| 2 ^ h } := by
  simp [State.askS, absent, idle, unowned, shared, read]

variable {st : LineStore}

theorem State.askM_kept (kept : s.ownsLine h k = true ∨ (SMap.find? (s.core h).wb k).isSome ∨ (s.dirLine k).busy.isSome) : s.askM h k st = s :=
  if_pos kept

section Asked
variable (reader : s.ownsLine h k = false) (absent : SMap.find? (s.core h).wb k = none) (idle : (s.dirLine k).busy = none)
include reader absent idle

theorem State.askM_owned {o : Nat} (owned : (s.dirLine k).owner = some o) :
    s.askM h k st = s.setDir k { s.dirLine k with busy := some (.fwd h true st) } := by
  simp [State.askM, reader, absent, idle, owned]

theorem State.askM_alone (unowned : (s.dirLine k).owner = none) (rest : (s.dirLine k).sharers &&& (65535 - 2 ^ h) = 0)
    (copy : s.lineOwn h k = (u, l)) : s.askM h k st = u.grantM h k l st := by
  simp [State.askM, reader, absent, idle, unowned, rest, copy]

theorem State.askM_shared (unowned : (s.dirLine k).owner = none) (rest : (s.dirLine k).sharers &&& (65535 - 2 ^ h) ≠ 0) :
    s.askM h k st = s.setDir k { s.dirLine k with busy := some (.inv h st ((s.dirLine k).sharers &&& (65535 - 2 ^ h))) } := by
  simp [State.askM, reader, absent, idle, unowned, rest]

end Asked

theorem State.putLine_held {is : LineSt → Bool} (held : SMap.find? (s.core h).l2 k = some l) (put : is l.st = true)
    (idle : (s.dirLine k).busy = none) :
    s.putLine h k is = ((if l.st = .m then (s.meetCache h k l).1.lineWrite k (s.meetCache h k l).2 else s).setL2 h k none).setDir k
      { s.dirLine k with owner := none } := by
  simp [State.putLine, held, put, idle]

end Operations

/-! ### The operations keep the one-writer rule (R344, R345) -/

section Keeping
variable {s u : State} {h k : Nat} {l : Line} {st : LineStore}

/-- Granting M to a core when no other one holds the line. -/
theorem State.coherent.grantM (coh : s.coherent) (others : ∀ g < 16, g ≠ h → s.copy k g = none) : (s.grantM h k l st).coherent :=
  coh.setL2_setDir (.of_owner others (by rw [Line.store_st]; decide))

theorem State.coherent.askS (coh : s.coherent) : (s.askS h k).coherent := by
  by_cases kept : ((s.core h).line k).isSome ∨ (s.dirLine k).busy.isSome
  · rw [State.askS_kept kept]; exact coh
  obtain ⟨absent, idle⟩ : (s.core h).line k = none ∧ (s.dirLine k).busy = none := by simpa using kept
  have line := coh.line k
  cases owner : (s.dirLine k).owner with
  | some o =>
    rw [State.askS_owned absent idle owner]
    exact coh.setDir (line.forward _ _ _)
  | none =>
    by_cases unshared : (s.dirLine k).sharers = 0
    · have same := s.caches_lineRead k .e
      rw [State.askS_alone absent idle owner unshared (Prod.eta _).symm]
      refine (coh.of_caches same).setL2_setDir (.of_owner (fun g lt _ => ?_) LineSt.noConfusion)
      rw [State.copy_of_caches same]
      exact Option.eq_none_iff_forall_ne_some.2 fun x held => by simpa [unshared] using (line.sharer owner lt held).2
    · have same := s.caches_lineRead k .s
      rw [State.askS_shared absent idle owner unshared (Prod.eta _).symm]
      refine (coh.of_caches same).setL2_setDir ?_
      rw [State.copy_of_caches same]
      exact line.share owner idle rfl

theorem State.coherent.askM (coh : s.coherent) (lt : h < 16) : (s.askM h k st).coherent := by
  by_cases kept : s.ownsLine h k = true ∨ (SMap.find? (s.core h).wb k).isSome ∨ (s.dirLine k).busy.isSome
  · rw [State.askM_kept kept]; exact coh
  obtain ⟨reader, absent, idle⟩ : s.ownsLine h k = false ∧ SMap.find? (s.core h).wb k = none ∧ (s.dirLine k).busy = none := by
    simpa using kept
  have line := coh.line k
  cases owner : (s.dirLine k).owner with
  | some o =>
    rw [State.askM_owned reader absent idle owner]
    exact coh.setDir (line.forward _ _ _)
  | none =>
    by_cases rest : (s.dirLine k).sharers &&& (65535 - 2 ^ h) = 0
    · have same := s.caches_lineOwn h k
      rw [State.askM_alone reader absent idle owner rest (Prod.eta _).symm]
      refine (coh.of_caches same).grantM fun g gg ne => ?_
      rw [State.copy_of_caches same]
      exact line.none_of_rest owner lt rest gg ne
    · rw [State.askM_shared reader absent idle owner rest]
      exact coh.setDir (line.invalidate owner lt st)

theorem State.coherent.onLine {a : Nat} {f : State → State} (coh : s.coherent)
    (keeps : (s.coreFault h false).coherent → (f (s.coreFault h false)).coherent) :
    (s.onLine h a f).coherent := by
  unfold State.onLine
  split
  · exact coh
  · split
    · exact coh.coreHole h a
    · exact keeps (coh.coreFault h false)

/-- A core that holds a line in M or E is its owner. -/
theorem State.coherent.owned (coh : s.coherent) (lt : h < 16) (held : s.copy k h = some l) (st : l.st ≠ .s) : (s.dirLine k).owner = some h :=
  ((coh.line k).2.1 h lt l held).1 st

@[simp] theorem State.copy_dropWb (s : State) (h k j : Nat) : (s.dropWb h k).copy j = s.copy j := State.copy_setCore (by rfl) j

theorem State.coherent.dropWb (coh : s.coherent) : (s.dropWb h k).coherent := coh.congr (fun _ => rfl) (s.copy_dropWb h k)

theorem State.coherent.putLine {is : LineSt → Bool} (coh : s.coherent) (lt : h < 16) (writers : is .s = false) : (s.putLine h k is).coherent := by
  have line := coh.line k
  have written (l : Line) : (if l.st = .m then (s.meetCache h k l).1.lineWrite k (s.meetCache h k l).2 else s).caches = s.caches := by
    split
    · rw [State.caches_lineWrite, State.caches_meetCache]
    · rfl
  unfold State.putLine
  extract_lets d c
  split
  next l held =>
    split
    · exact coh
    next put =>
    split
    · exact (coh.setL2 (line.drop h)).congr (fun _ => rfl) fun j => State.copy_setCore (by rfl) j
    next free =>
    have idle : d.busy = none := by simpa using free
    have owned : d.owner = some h := coh.owned lt held fun st => by simp [st, writers] at put
    refine (coh.of_caches (written l)).setL2_setDir ?_
    rw [State.copy_of_caches (written l)]
    exact line.disown owned idle
  next absent =>
    split
    next l buffered =>
      split
      · exact coh
      next put =>
      have idle : d.busy = none := by simpa using (not_or.1 put).2
      split
      next owned =>
        have unheld : withCopy (s.copy k) h none = s.copy k := withCopy_eq_self absent
        refine (coh.of_caches (written l)).dropWb.setDir ?_
        rw [State.copy_dropWb, State.copy_of_caches (written l), ← unheld]
        exact line.disown owned idle
      · exact coh.dropWb
    · exact coh

end Keeping

section
variable {s : State} {h k : Nat} {l : Line}

/-- An owner that answers a GetS keeps the line in S, or has only its writeback buffer. -/
theorem State.coherent.answerGetS {r : Nat} (coh : s.coherent) (owned : (s.dirLine k).owner = some h) (st : l.st = .s) :
    (((if (SMap.find? (s.core h).l2 k).isSome then s.setL2 h k (some l) else s).setL2 r k (some l)).setDir k
      { sharers := 2 ^ r ||| (if (SMap.find? (s.core h).l2 k).isSome then 2 ^ h else 0) }).coherent := by
  have line := coh.line k
  refine coh.of_line (k := k) (fun j ne => ⟨?_, ?_⟩) ?_
  · rw [State.dirLine_setDir_ne _ _ ne, State.dirLine_setL2]
    split <;> rfl
  · rw [State.copy_setDir, State.copy_setL2_ne _ _ ne]
    split
    · exact s.copy_setL2_ne _ ne
    · rfl
  rw [State.dirLine_setDir_self, State.copy_setDir, State.copy_setL2_self]
  refine .of_shared rfl rfl fun g lt x held => ?_
  by_cases er : g = r
  · rw [er, withCopy_self] at held
    cases held
    exact ⟨st, by simp [er]⟩
  rw [withCopy_of_ne er] at held
  by_cases eh : g = h
  · subst eh
    by_cases had : (SMap.find? (s.core g).l2 k).isSome
    · rw [if_pos had, State.copy_setL2_self, withCopy_self] at held
      cases held
      exact ⟨st, by simp [had]⟩
    · rw [if_neg had] at held
      exact absurd (Option.isSome_of_eq_some held) had
  · have out : s.copy k g = none := line.alone owned lt eh
    split at held
    · rw [State.copy_setL2_self, withCopy_of_ne eh, out] at held
      exact nomatch held
    · rw [out] at held
      exact nomatch held

end

/-! ### The commands -/

/-- A command after which the one-writer rule still holds. -/
def KeepsOneWriter (c : Instr) : Prop := ∀ s t : State, s.coherent → exec c s = .next t → t.coherent

section Commands
variable (h : Fin 16) (a : BitVec 48)

theorem gets_keepsOneWriter : KeepsOneWriter (.gets h a) := by
  rintro s t coh ⟨⟩
  exact coh.onLine State.coherent.askS

theorem getm_keepsOneWriter (v : Option (BitVec 6 × Byte)) : KeepsOneWriter (.getm h a v) := by
  rintro s t coh ⟨⟩
  refine coh.onLine fun coh => ?_
  generalize s.coreFault h.val false = s at coh ⊢
  split
  next l held =>
    split
    · exact coh.askM h.isLt
    next writer =>
    split
    · exact coh
    · exact coh.setL2 ((coh.line _).store (coh.owned h.isLt held writer) (Line.store_st l _))
  · exact coh.askM h.isLt

theorem putm_keepsOneWriter : KeepsOneWriter (.putm h a) := by
  rintro s t coh ⟨⟩
  split
  · exact coh.putLine h.isLt rfl
  · exact coh

theorem pute_keepsOneWriter : KeepsOneWriter (.pute h a) := by
  rintro s t coh ⟨⟩
  split
  · exact coh.putLine h.isLt rfl
  · exact coh

theorem puts_keepsOneWriter : KeepsOneWriter (.puts h a) := by
  rintro s t coh ⟨⟩
  have line := coh.line (a.toNat / 64)
  split
  · split
    · exact coh
    split
    · exact coh.setL2 (line.drop _)
    next free => exact coh.setL2_setDir (line.unshare h.isLt (by simpa using free))
  · exact coh

theorem fwdGets_keepsOneWriter : KeepsOneWriter (.fwdGets h a) := by
  rintro s t coh ⟨⟩
  split
  next r st l forward held =>
    split
    · exact coh
    next answers =>
    have owned : (s.dirLine (a.toNat / 64)).owner = some h.val :=
      Decidable.byContradiction fun other => answers (.inr (.inl other))
    have met : (if l.st = .m then s.meetCache h.val (a.toNat / 64) l else (s, l)).1.caches = s.caches := by
      split
      · exact s.caches_meetCache _ _ _
      · rfl
    generalize (if l.st = .m then s.meetCache h.val (a.toNat / 64) l else (s, l)) = x at met ⊢
    obtain ⟨v, l'⟩ := x
    have written : (if l'.st = .m then v.lineWrite (a.toNat / 64) l' else v).caches = s.caches := by
      split
      · exact (v.caches_lineWrite _ _).trans met
      · exact met
    exact (coh.of_caches written).answerGetS (by rw [State.dirLine_of_caches written, owned]) rfl
  · exact coh

theorem fwdGetm_keepsOneWriter : KeepsOneWriter (.fwdGetm h a) := by
  rintro s t coh ⟨⟩
  have line := coh.line (a.toNat / 64)
  split
  next r st l forward held =>
    split
    · exact coh
    next answers =>
    have owned : (s.dirLine (a.toNat / 64)).owner = some h.val :=
      Decidable.byContradiction fun other => answers (.inr (.inl other))
    have same := s.caches_meetCache h.val (a.toNat / 64) l
    refine ((coh.of_caches same).setL2 ?_).grantM fun g lt ne => ?_
    · rw [State.copy_of_caches same, State.dirLine_of_caches same]
      exact line.drop _
    · rw [State.copy_setL2_self, State.copy_of_caches same]
      by_cases e : g = h.val
      · rw [e, withCopy_self]
      · rw [withCopy_of_ne e, line.alone owned lt e]
  · exact coh

theorem inv_keepsOneWriter : KeepsOneWriter (.inv h a) := by
  rintro s t coh ⟨⟩
  have line := coh.line (a.toNat / 64)
  split
  next r st left waits =>
    split
    · exact coh
    extract_lets rest dropped
    split
    · exact coh.setL2_setDir (line.acknowledge waits h.isLt)
    next last =>
      have same := dropped.caches_lineOwn r (a.toNat / 64)
      have coh' : dropped.coherent := coh.setL2 (line.drop _)
      refine (coh'.of_caches same).grantM fun g lt ne => ?_
      rw [State.copy_of_caches same, State.copy_setL2_self]
      exact line.none_of_acknowledged waits h.isLt (Decidable.not_not.1 last) lt ne
  · exact coh

end Commands

/-- Settles O48: each coherence command changes one line at most, and its new directory entry and copies obey `OneWriter`. -/
theorem coherenceKeepsOneWriter : Obligations.CoherenceKeepsOneWriter := by
  rintro c rest s t front ⟨h, a, v, mem⟩ coh stepped
  have ran : exec c { s with pending := rest } = .next t := by simpa only [step, front] using stepped
  have coh' : ({ s with pending := rest } : State).coherent := coh
  suffices keeps : KeepsOneWriter c from keeps _ t coh' ran
  simp only [List.mem_cons, List.not_mem_nil, or_false] at mem
  obtain rfl | rfl | rfl | rfl | rfl | rfl | rfl | rfl := mem
  · exact gets_keepsOneWriter h a
  · exact getm_keepsOneWriter h a v
  · exact putm_keepsOneWriter h a
  · exact pute_keepsOneWriter h a
  · exact puts_keepsOneWriter h a
  · exact fwdGets_keepsOneWriter h a
  · exact fwdGetm_keepsOneWriter h a
  · exact inv_keepsOneWriter h a

/-! ### Each command by its case -/

section CoherenceCases
variable {s u : State} {h : Fin 16} {a : BitVec 48} {k : Nat} {l : Line} (run : s.coresRun = true)
include run

/-- A Get of a line of main memory that the cores may hold. -/
theorem State.onLine_served {n a : Nat} (tier : isTier a = true) (ok : s.lineOk (a / 64) = true) (f : State → State) :
    s.onLine n a f = f (s.coreFault n false) := by
  simp [State.onLine, run, tier, ok]

/-- A GetS asks on behalf of the core, whose last access then has no fault. -/
theorem exec_gets_served (line : k = a.toNat / 64) (tier : isTier a.toNat = true) (ok : s.lineOk k = true) :
    exec (.gets h a) s = .next ((s.coreFault h.val false).askS h.val k) := by
  subst line
  exact congrArg Host.Outcome.next (State.onLine_served run tier ok _)

/-- A GetM of a core that does not own the line. -/
theorem exec_getm_served (line : k = a.toNat / 64) (tier : isTier a.toNat = true) (ok : s.lineOk k = true) (reader : s.ownsLine h.val k = false)
    (v : Option (BitVec 6 × Byte)) :
    exec (.getm h a v) s = .next ((s.coreFault h.val false).askM h.val k (v.map (fun x => (x.1.toNat, x.2)))) := by
  subst line
  refine congrArg Host.Outcome.next ((State.onLine_served run tier ok _).trans ?_)
  have l2 : ((s.coreFault h.val false).core h.val).l2 = (s.core h.val).l2 := by rw [State.coreFault, State.core_setCore]
  rw [l2]
  split
  next l held =>
    rw [State.ownsLine, held] at reader
    exact if_pos (by simpa using reader)
  · rfl

/-- A store to a line that the core owns. -/
theorem exec_getm_owned (line : k = a.toNat / 64) (tier : isTier a.toNat = true) (ok : s.lineOk k = true)
    (held : SMap.find? (s.core h.val).l2 k = some l) (owner : l.st ≠ .s) (o : BitVec 6) (b : Byte) :
    exec (.getm h a (some (o, b))) s =
      .next ((s.coreFault h.val false).setL2 h.val k (some { l with st := .m, bytes := l.bytes.set o.toNat b })) := by
  subst line
  refine congrArg Host.Outcome.next ((State.onLine_served run tier ok _).trans ?_)
  have l2 : ((s.coreFault h.val false).core h.val).l2 = (s.core h.val).l2 := by rw [State.coreFault, State.core_setCore]
  simp only [l2, held, if_neg owner, Option.map_some, Option.isNone_some, Bool.false_eq_true, if_false]
  rfl

theorem exec_putm_dirty (line : k = a.toNat / 64) (held : SMap.find? (s.core h.val).l2 k = some l) (idle : (s.dirLine k).busy = none)
    (dirty : l.st = .m) (sound : s.upsets.contains (.cache h.val k) = false) :
    exec (.putm h a) s = .next (((s.lineWrite k l).setL2 h.val k none).setDir k { s.dirLine k with owner := none }) := by
  subst line
  refine congrArg Host.Outcome.next ((if_pos run).trans ?_)
  rw [State.putLine_held held (by simp [dirty]) idle, if_pos dirty, State.meetCache_sound sound]

theorem exec_pute_clean (line : k = a.toNat / 64) (held : SMap.find? (s.core h.val).l2 k = some l) (idle : (s.dirLine k).busy = none)
    (clean : l.st = .e) : exec (.pute h a) s = .next ((s.setL2 h.val k none).setDir k { s.dirLine k with owner := none }) := by
  subst line
  refine congrArg Host.Outcome.next ((if_pos run).trans ?_)
  rw [State.putLine_held held (by simp [clean]) idle, if_neg (by simp [clean])]

theorem exec_puts_shared (line : k = a.toNat / 64) (held : SMap.find? (s.core h.val).l2 k = some l) (idle : (s.dirLine k).busy = none)
    (shared : l.st = .s) : exec (.puts h a) s =
      .next ((s.setL2 h.val k none).setDir k { s.dirLine k with sharers := (s.dirLine k).sharers &&& (65535 - 2 ^ h.val) }) := by
  subst line
  have meaning : exec (.puts h a) s = execPuts h a s := by rfl
  rw [meaning, execPuts]
  simp [held, run, idle, shared]

/-- The owner of a clean line answers a forward of a GetS and keeps the line in S. -/
theorem exec_fwdGets_clean {r : Nat} {st : LineStore} (line : k = a.toNat / 64) (forward : (s.dirLine k).busy = some (.fwd r false st))
    (owned : (s.dirLine k).owner = some h.val) (held : SMap.find? (s.core h.val).l2 k = some l) (clean : l.st = .e)
    (done : (s.core h.val).want ≠ some k) :
    exec (.fwdGets h a) s = .next (((s.setL2 h.val k (some { l with st := .s })).setL2 r k (some { l with st := .s })).setDir k
      { sharers := 2 ^ r ||| 2 ^ h.val }) := by
  subst line
  have meaning : exec (.fwdGets h a) s = execFwdGets h a s := by rfl
  have at' : (s.core h.val).line (a.toNat / 64) = some l := by rw [AppCore.line, held]
  have answers : s.fwdWaits h.val (a.toNat / 64) = false := by rw [State.fwdWaits, decide_eq_false done, Bool.false_and]
  rw [meaning, execFwdGets]
  simp [forward, at', run, owned, answers, clean, held]

/-- The owner of a line that has performed its own store answers a forward of a GetM. -/
theorem exec_fwdGetm_sound {r : Nat} {st : LineStore} (line : k = a.toNat / 64) (forward : (s.dirLine k).busy = some (.fwd r true st))
    (owned : (s.dirLine k).owner = some h.val) (held : (s.core h.val).line k = some l) (done : (s.core h.val).want ≠ some k)
    (sound : s.upsets.contains (.cache h.val k) = false) :
    exec (.fwdGetm h a) s = .next ((s.setL2 h.val k none).grantM r k l st) := by
  subst line
  have meaning : exec (.fwdGetm h a) s = execFwdGetm h a s := by rfl
  have answers : s.fwdWaits h.val (a.toNat / 64) = false := by rw [State.fwdWaits, decide_eq_false done, Bool.false_and]
  rw [meaning, execFwdGetm]
  simp [forward, held, run, owned, answers, State.meetCache_sound sound]

section Invalidated
variable {r n : Nat} {st : LineStore} (line : k = a.toNat / 64) (waits : (s.dirLine k).busy = some (.inv r st n)) (asked : n.testBit h.val = true)
include line waits asked

theorem exec_inv_more (more : n &&& (65535 - 2 ^ h.val) ≠ 0) : exec (.inv h a) s =
    .next ((s.setL2 h.val k none).setDir k { s.dirLine k with busy := some (.inv r st (n &&& (65535 - 2 ^ h.val))) }) := by
  subst line
  have meaning : exec (.inv h a) s = execInv h a s := by rfl
  rw [meaning, execInv]
  simp [waits, run, asked, more]

theorem exec_inv_last (last : n &&& (65535 - 2 ^ h.val) = 0) (copy : (s.setL2 h.val k none).lineOwn r k = (u, l)) :
    exec (.inv h a) s = .next (u.grantM r k l st) := by
  subst line
  have meaning : exec (.inv h a) s = execInv h a s := by rfl
  rw [meaning, execInv]
  simp [waits, run, asked, last, copy]

end Invalidated

end CoherenceCases

/-- Settles O34, clause by clause: GetS, GetM, a store of the owner, the Puts, the forwards and the invalidations. -/
theorem coherenceCommandsComplete : Obligations.CoherenceCommandsComplete := by
  refine ⟨?_, ?_, ?_, ?_, ?_, ?_, ?_⟩
  · intro h a k s run line tier ok absent idle
    have absent' : ((s.coreFault h.val false).core h.val).line k = none := by rw [State.coreFault, State.core_setCore]; exact absent
    rw [exec_gets_served run line tier ok]
    refine ⟨fun u l unowned unshared read => ?_, fun u l unowned shared read => ?_, fun o owned => ?_⟩
    · rw [State.askS_alone absent' idle unowned unshared read]
    · rw [State.askS_shared absent' idle unowned shared read]; rfl
    · rw [State.askS_owned absent' idle owned]; rfl
  · intro h a v k s run line tier ok reader absent idle unowned
    have reader' : (s.coreFault h.val false).ownsLine h.val k = false := by
      rw [State.coreFault, State.ownsLine, State.core_setCore]; exact reader
    have absent' : SMap.find? ((s.coreFault h.val false).core h.val).wb k = none := by rw [State.coreFault, State.core_setCore]; exact absent
    rw [exec_getm_served run line tier ok reader]
    refine ⟨fun u l rest copy => ?_, fun rest => ?_⟩
    · rw [State.askM_alone reader' absent' idle unowned rest copy]
    · rw [State.askM_shared reader' absent' idle unowned rest]; rfl
  · intro h a o b k l s run line tier ok held owner
    exact exec_getm_owned run line tier ok held owner o b
  · intro h a k l s run line held idle
    exact ⟨exec_putm_dirty run line held idle, exec_pute_clean run line held idle, exec_puts_shared run line held idle⟩
  · intro h a k r st l s run line forward owned held clean done
    exact exec_fwdGets_clean run line forward owned held clean done
  · intro h a k r st l s run line forward owned held done sound
    exact exec_fwdGetm_sound run line forward owned held done sound
  · intro h a k r n st s run line waits asked
    exact ⟨exec_inv_more run line waits asked, fun u l => exec_inv_last run line waits asked⟩

/-! ### Reset -/

/-- At reset no core holds a line and the directory lists none. -/
theorem State.reset_coherent : State.reset.coherent :=
  State.reset.coherent_iff.2 fun _ => .of_shared rfl rfl fun _ _ _ held => nomatch held

/-- Settles O45: memory and the queue are empty at reset, and `State.reset_coherent` says so of the caches. -/
theorem resetMeetsTheInvariants : Obligations.ResetMeetsTheInvariants :=
  ⟨rfl, rfl, State.reset_coherent, rfl, memRead_nil⟩

end Sys2Proof.Machine
end

section
/-! PROOFS. The cluster DMA (file 12: R336, R337): a submission, the start of a descriptor, and its completion. -/

namespace Sys2Proof.Machine

section DmaQueue
variable {s u v : State} {g : Nat}

theorem State.dmaQueue_room (w : Word) (room : (s.clu g).dmaQ.length + (s.clu g).dma.length < 16) :
    s.dmaQueue g w = s.setClu g { s.clu g with dmaQ := (s.clu g).dmaQ ++ [getF w F.CLU_DMA_SUBMIT_DESC_ADDR * 64] } := if_pos room

/-- A full queue drops the submission and says so. -/
theorem State.dmaQueue_full (w : Word) (full : 16 ≤ (s.clu g).dmaQ.length + (s.clu g).dma.length) :
    s.dmaQueue g w = s.setFld (R.CLU_DMA_STATUS g) F.CLU_DMA_STATUS_DROPPED 1 := if_neg (Nat.not_lt.2 full)

/-- A good descriptor is read from the cluster's own tiles and its first pieces are issued. -/
theorem State.dmaStart_good {a : Nat} {rest : List Nat} {b : List Byte} {bad : List Nat} {d : DmaRun} (queued : (s.clu g).dmaQ = a :: rest)
    (issued : (s.clu g).dma.any (fun d => !d.stopped && decide (d.next < d.len)) = false)
    (next : u = s.setClu g { s.clu g with dmaQ := rest, dmaNext := (s.clu g).dmaNext + 1 }) (own : inOwnTiles g a 64 = true)
    (read : u.deliver 2 g 1 19 a 64 = (v, b, bad)) (desc : v.dmaRead g b (s.clu g).dmaNext = some d) :
    s.dmaStart g = (v.updClu g (fun c => { c with dma := c.dma ++ [d] })).dmaPump dmaFuel g := by
  subst next
  simp only [State.dmaStart, queued, issued, own, read, desc, Bool.not_true, Bool.false_eq_true, if_false]

/-- The first landed descriptor leaves the started ones. -/
theorem State.dmaDone_landed {d : DmaRun} (landed : (s.clu g).dma.find? (s.clu g).dmaLanded = some d) :
    s.dmaDone g = ((s.setClu g { s.clu g with dma := (s.clu g).dma.filter (fun x => !decide (x.id = d.id)) }).ancDone g d.anchor).setFld
      (R.CLU_CTL_IRQ g) F.CLU_CTL_IRQ_DMA_DONE 1 := by
  simp only [State.dmaDone, landed]

end DmaQueue

/-- Settles O20, clause by clause: a queue with room, a full one, a descriptor that starts, and one that has landed. -/
theorem dmaCommandsComplete : Obligations.DmaCommandsComplete := by
  refine ⟨?_, ?_, ?_, ?_⟩
  · intro g w s room
    exact congrArg Host.Outcome.next (State.dmaQueue_room w room)
  · intro g w s full
    exact congrArg Host.Outcome.next (State.dmaQueue_full w full)
  · intro g a rest s u v b bad d queued issued next own read desc
    exact congrArg Host.Outcome.next (State.dmaStart_good queued issued next own read desc)
  · intro g d s landed
    exact congrArg Host.Outcome.next (State.dmaDone_landed landed)

end Sys2Proof.Machine
end

section
/-! PROOFS. The posting of a group (file 12: R292, R330, R331): the pending bases that its entries carry. -/

namespace Sys2Proof.Machine

/-- The arbiter's job posts its due group: each entry carries the bases of its cell that were pending before the posting took them. -/
theorem exec_groupPost_due {s : State} {g : Fin 256} {j : Fin 8} {l : List (Nat × Nat)} {bases : List (Nat × Nat × Nat)}
    (serves : s.arbiter g.val = some j.val) (due : s.groupDue g.val j.val = some l) (pending : bases = (s.clu g.val).lbase) :
    exec (.groupPost g j) s = .next (l.foldl (fun s e => s.setCell (s.cellAt g.val e.1) { s.cell (s.cellAt g.val e.1) with
      mbox := (s.cell (s.cellAt g.val e.1)).mbox ++ [⟨e.2, j.val, (bases.filter (fun y => decide (y.1 = e.1))).map (fun y => (y.2.1, y.2.2))⟩] })
      (s.setClu g.val { s.clu g.val with
        ready := (s.clu g.val).ready.set j.val ((nthD (s.clu g.val).ready j.val []).drop 1), round := ((s.clu g.val).round + 1) % 16,
        lbase := (s.clu g.val).lbase.filter (fun x => !l.any (fun e => decide (e.1 = x.1))) })) := by
  subst pending
  have meaning : exec (.groupPost g j) s = execGroupPost g j s := by rfl
  rw [meaning, execGroupPost]
  simp only [serves, due, ne_eq, not_true_eq_false, if_false]

/-- Job 3 of cluster 0 has a group ready for cell 0, for which X.LBASE has set base 0 to 5. -/
def State.basePending : State :=
  { State.reset with adm := { reqs := [(0, { job := some 3, st := .running })], nextReq := 1 } }.setClu 0
    { ready := List.replicate 8 [[(0, 7)]], lbase := [(0, 0, 5)] }

theorem State.basePending_due : State.basePending.arbiter 0 = some 3 ∧ State.basePending.groupDue 0 3 = some [(0, 7)] := by decide +kernel

/-- Refutes O31: its last clause takes the bases of a posted entry from the state in which the posting has already removed them (the `s` of the fold
hides the `s` of the clause), so that no entry would carry a base. In `State.basePending` the model posts the entry of cell 0 with base 0, as R331 says. -/
theorem not_dispatchCommandsComplete : ¬ Obligations.DispatchCommandsComplete := by
  rintro ⟨-, -, -, -, -, -, -, -, post⟩
  obtain ⟨serves, due⟩ := State.basePending_due
  have claimed := post 0 3 [(0, 7)] State.basePending serves due
  have posted := exec_groupPost_due (g := 0) (j := 3) (bases := [(0, 0, 5)]) serves due (by decide +kernel)
  have same := congrArg (fun t => (t.cell 0).mbox) (Host.Outcome.next.inj (posted.symm.trans claimed))
  exact absurd same (by decide +kernel)

end Sys2Proof.Machine
end

section
/-! PROOFS. Cluster controllers (file 12: R325 to R328, R335): traps, interrupts, the instruction at the pc, and loads and stores. -/

namespace Sys2Proof.Machine

/-! ### Traps and interrupts -/

section ControllerTraps
variable {s : State} {g : Fin 256}

theorem exec_ctlTrap_user (run : (s.clu g.val).ctl.canRun = true) (user : (s.clu g.val).ctl.umode = true) (cause : BitVec 8) :
    exec (.ctlTrap g cause) s = .next (s.ctlExc g.val cause.toNat) :=
  congrArg Host.Outcome.next (if_pos (by rw [run, user]; rfl))

/-- ECALL is the one exception of U mode that the firmware takes. -/
theorem State.ctlExc_ecall (g : Nat) : s.ctlExc g 8 = s.ctlEnter g 8 false := if_neg fun h => h.2 rfl

theorem State.ctlExc_user {g cause : Nat} (user : (s.clu g).ctl.umode = true) (other : cause ≠ 8) : s.ctlExc g cause = s.ctlTrap g cause :=
  if_pos ⟨user, other⟩

theorem exec_ctlTimerInterrupt_taken (taken : (s.clu g.val).ctl.interruptible = true) (enabled : (s.clu g.val).ctl.mtie = true)
    (line : s.mtip g.val = true) : exec (.ctlTimerInterrupt g) s = .next (s.ctlEnter g.val 7 true) :=
  congrArg Host.Outcome.next (if_pos (by rw [taken, enabled, line]; rfl))

theorem exec_ctlExternalInterrupt_taken (taken : (s.clu g.val).ctl.interruptible = true) (enabled : (s.clu g.val).ctl.meie = true)
    (line : s.meip g.val = true) : exec (.ctlExternalInterrupt g) s = .next (s.ctlEnter g.val 11 true) :=
  congrArg Host.Outcome.next (if_pos (by rw [taken, enabled, line]; rfl))

end ControllerTraps

/-! ### Loads, stores and cache-block operations -/

section ControllerAccesses
variable {s u : State} {g k a rd : Nat} {m : CtlMem}

theorem State.ctlLoad_misaligned (sg : Bool) (mis : a % 2 ^ k ≠ 0) : s.ctlLoad g k sg a rd = s.ctlExc g 4 := if_pos mis

theorem State.ctlStore_misaligned (v : Word) (mis : a % 2 ^ k ≠ 0) : s.ctlStore g k a v = s.ctlExc g 6 := if_pos mis

theorem State.ctlLoad_hole (sg : Bool) (al : a % 2 ^ k = 0) (none' : s.ctlMem g a (2 ^ k) (s.clu g).ctl.dataU false false = none) :
    s.ctlLoad g k sg a rd = s.ctlHole g a 5 := by
  simp only [State.ctlLoad, al, none', ne_eq, not_true_eq_false, if_false]

theorem State.ctlLoad_place {b : List Byte} (sg : Bool) (al : a % 2 ^ k = 0)
    (place : s.ctlMem g a (2 ^ k) (s.clu g).ctl.dataU false false = some m) (read : s.ctlRead g a (2 ^ k) m = (u, b)) :
    s.ctlLoad g k sg a rd = u.ctlDone g rd (some (if sg then BitVec.ofInt 64 (sxt (8 * 2 ^ k) (leNat b)) else BitVec.ofNat 64 (leNat b))) := by
  simp only [State.ctlLoad, al, place, read, ne_eq, not_true_eq_false, if_false]

theorem State.ctlStore_place (v : Word) (al : a % 2 ^ k = 0) (place : s.ctlMem g a (2 ^ k) (s.clu g).ctl.dataU true false = some m) :
    s.ctlStore g k a v = (s.ctlWrite g a (sliceB (leBytes 8 v.toNat) 0 (2 ^ k)) m).ctlDone g 0 none := by
  simp only [State.ctlStore, al, place, ne_eq, not_true_eq_false, if_false]

/-- A clean keeps the line, and every store has been written through: the hart only goes on. -/
theorem State.ctlCbo_clean : s.ctlCbo g .clean a = s.ctlDone g 0 none := by
  simp only [State.ctlCbo, if_true, State.ctlDone, State.updCtl, State.clu_setClu, State.setClu_setClu]

theorem State.ctlCbo_drops {op : RvCbo} (drops : op ≠ .clean) : s.ctlCbo g op a = (s.updCtl g (·.dropLine a)).ctlDone g 0 none := by
  simp only [State.ctlCbo, drops, if_false]

theorem State.ctlMret_machine (machine : (s.clu g).ctl.umode = false) :
    s.ctlMret g = s.setClu g { s.clu g with ctl := { (s.clu g).ctl.mret with minstret := (s.clu g).ctl.minstret + 1 } } :=
  if_neg (by rw [machine]; exact Bool.false_ne_true)

end ControllerAccesses

/-! ### The command of a controller's access -/

section ControllerCommands
variable {s : State} {g : Fin 256} (a : BitVec 48) (v : Word) (rd : Fin 32) (run : (s.clu g.val).ctl.canRun = true)
  (sound : s.upsets.contains (.ctlMem g.val 1) = false)
include run sound

/-- A hart that can run and whose memories are sound does what the command names. -/
theorem State.ctlAccess_sound {fails acts : State} :
    (if !(s.clu g.val).ctl.canRun then s else if s.upsets.contains (.ctlMem g.val 1) then fails else acts) = acts := by
  rw [run, sound]
  rfl

theorem exec_ctlLoadStore_step {i : RvOp} {len : Nat} (fetched : s.ctlFetch g.val (s.clu g.val).ctl.pc = some (i, len)) :
    exec (.ctlLoadStore g .step a v rd) s = .next (s.ctlRun g.val i len) := by
  refine congrArg Host.Outcome.next ((State.ctlAccess_sound run sound).trans ?_)
  rw [fetched]

theorem exec_ctlLoadStore_ecall :
    exec (.ctlLoadStore g .ecall a v rd) s = .next (s.ctlEnter g.val (if (s.clu g.val).ctl.umode then 8 else 11) false) :=
  congrArg Host.Outcome.next (State.ctlAccess_sound run sound)

theorem exec_ctlLoadStore_mret : exec (.ctlLoadStore g .mret a v rd) s = .next (s.ctlMret g.val) :=
  congrArg Host.Outcome.next (State.ctlAccess_sound run sound)

theorem exec_ctlLoadStore_clean : exec (.ctlLoadStore g .clean a v rd) s = .next (s.ctlCbo g.val .clean a.toNat) :=
  congrArg Host.Outcome.next (State.ctlAccess_sound run sound)

theorem exec_ctlLoadStore_inval : exec (.ctlLoadStore g .inval a v rd) s = .next (s.ctlCbo g.val .inval a.toNat) :=
  congrArg Host.Outcome.next (State.ctlAccess_sound run sound)

theorem exec_ctlLoadStore_flush : exec (.ctlLoadStore g .flush a v rd) s = .next (s.ctlCbo g.val .flush a.toNat) :=
  congrArg Host.Outcome.next (State.ctlAccess_sound run sound)

theorem exec_ctlLoadStore_load (k : Fin 4) (sg : Bool) :
    exec (.ctlLoadStore g (.load k sg) a v rd) s = .next (s.ctlLoad g.val k.val sg a.toNat rd.val) :=
  congrArg Host.Outcome.next (State.ctlAccess_sound run sound)

theorem exec_ctlLoadStore_store (k : Fin 4) : exec (.ctlLoadStore g (.store k) a v rd) s = .next (s.ctlStore g.val k.val a.toNat v) :=
  congrArg Host.Outcome.next (State.ctlAccess_sound run sound)

end ControllerCommands

/-- Settles O32, clause by clause: traps of U mode, interrupts, the instruction at the pc, ECALL and MRET, cache-block operations, loads and stores. -/
theorem controllerTrapsAndAccessesComplete : Obligations.ControllerTrapsAndAccessesComplete := by
  refine ⟨?_, ?_, ?_, ?_, ?_, ?_, ?_, ?_, ?_, ?_, ?_⟩
  · intro g s run user
    rw [exec_ctlTrap_user run user]
    exact congrArg Host.Outcome.next (s.ctlExc_ecall g.val)
  · intro g cause s run user other
    rw [exec_ctlTrap_user run user, State.ctlExc_user user fun e => other (BitVec.eq_of_toNat_eq e)]
    rfl
  · exact fun g s taken enabled line => exec_ctlTimerInterrupt_taken taken enabled line
  · exact fun g s taken enabled line => exec_ctlExternalInterrupt_taken taken enabled line
  · exact fun g a v rd i len s run sound fetched => exec_ctlLoadStore_step a v rd run sound fetched
  · intro g a v rd s run sound
    rw [exec_ctlLoadStore_ecall a v rd run sound, exec_ctlLoadStore_mret a v rd run sound]
    exact ⟨rfl, fun machine => congrArg Host.Outcome.next (State.ctlMret_machine machine)⟩
  · intro g a v rd s run sound
    rw [exec_ctlLoadStore_clean a v rd run sound, exec_ctlLoadStore_inval a v rd run sound, exec_ctlLoadStore_flush a v rd run sound,
      State.ctlCbo_clean, State.ctlCbo_drops (op := .inval) (by decide), State.ctlCbo_drops (op := .flush) (by decide)]
    exact ⟨rfl, rfl, rfl⟩
  · intro g k sg a v rd m b s u run sound al place read
    rw [exec_ctlLoadStore_load a v rd run sound, State.ctlLoad_place sg al place read]
  · intro g k a v rd m s run sound al place
    rw [exec_ctlLoadStore_store a v rd run sound, State.ctlStore_place v al place]
  · intro g k sg a v rd s run sound mis
    rw [exec_ctlLoadStore_load a v rd run sound, exec_ctlLoadStore_store a v rd run sound, State.ctlLoad_misaligned sg mis,
      State.ctlStore_misaligned v mis]
    exact ⟨rfl, rfl⟩
  · intro g k sg a v rd s run sound al hole
    rw [exec_ctlLoadStore_load a v rd run sound, State.ctlLoad_hole sg al hole]

end Sys2Proof.Machine
end

section
/-! PROOFS. The step, counters that saturate, and the event rings (file 13: R357, R359; file 18: R503, R504): the reserve rule, what the rings read as, their
tails, and the stores to the flash. -/

namespace Sys2Proof.Machine

/-! ### The step -/

theorem step_front {c : Instr} {rest : List Instr} {s : State} (front : s.pending = c :: rest) : step s = exec c { s with pending := rest } := by
  rw [step, front]

theorem step_idle {s : State} (empty : s.pending = []) : step s = .next s := by
  rw [step, empty]

/-- Settles O43: the two cases of the queue. -/
theorem stepRunsTheFrontCommand : Obligations.StepRunsTheFrontCommand :=
  ⟨fun _ _ _ front => step_front front, fun _ empty => step_idle empty⟩

/-! ### Counters -/

/-- A counter that lies in its register reads the sum, or its largest value. -/
theorem State.fld_bump_self (s : State) (a : Nat) {f : Fld} (n : Nat) (order : f.lo ≤ f.hi) (inReg : f.hi < 64) :
    (s.bump a f n).fld a f = min (2 ^ (f.hi + 1 - f.lo) - 1) (s.fld a f + n) := by
  have positive : 0 < 2 ^ (f.hi + 1 - f.lo) := Nat.two_pow_pos _
  rw [State.bump, State.fld_setFld_self _ _ _ _ order inReg]
  exact Nat.mod_eq_of_lt (by rw [satAdd, Fld.top]; omega)

theorem State.fld_lt (s : State) (a : Nat) (f : Fld) : s.fld a f < 2 ^ (f.hi + 1 - f.lo) := getF_lt _ _

/-- Settles O53: the field's own value, the other fields of its register, the other registers, and the rest of the state. -/
theorem countersSaturate : Obligations.CountersSaturate := by
  refine ⟨?_, ?_, ?_, ?_⟩
  · intro a n f s order inReg
    have fits := s.fld_lt a f
    rw [State.fld_bump_self s a n order inReg]
    exact ⟨rfl, by omega⟩
  · exact fun a n f k s order inReg _ _ apart => State.fld_setFld_apart s a f k _ order inReg apart
  · exact fun a b n f s other => State.reg_bump_ne s f n other
  · exact fun a n f s => State.bump_frame s a f n

/-! ### The reserve rule -/

/-- The slots that a record must find free: classes 1, 2 and 6 leave the 64 of the reserve. -/
def EvtRec.need (r : EvtRec) : Nat := if r.evt.code / 4096 = 1 ∨ r.evt.code / 4096 = 2 ∨ r.evt.code / 4096 = 6 then 65 else 1

/-- The record as the module log holds it: with the next number. -/
def State.numbered (s : State) (r : EvtRec) : EvtRec := { r with seq := s.evt.seq }

section Pushing
variable {g : EvtRing} {n reserve : Nat} (r : EvtRec)

theorem EvtRing.push_room (room : reserve ≤ n - (g.head + 2 * n - g.tail) % (2 * n)) : g.push n reserve r =
    ({ g with head := (g.head + 1) % (2 * n), lostBefore := false, slots := SMap.ins (g.head % n) { r with lostBefore := g.lostBefore } g.slots }, true) :=
  if_pos room

theorem EvtRing.push_full (full : n - (g.head + 2 * n - g.tail) % (2 * n) < reserve) : g.push n reserve r = ({ g with lostBefore := true }, false) :=
  if_neg (Nat.not_le.2 full)

end Pushing

/-- Writing a record puts it into the log under the reserve rule and counts the one that finds no room; the owner's ring has its own count. -/
theorem State.writeRec_pushed {s : State} {r : EvtRec} {g : EvtRing} {ok : Bool} (pushed : s.evt.ring.push 4096 r.need (s.numbered r) = (g, ok)) :
    (s.writeRec r).evt = { s.evt with ring := g, seq := s.evt.seq + 1 } ∧
      (s.writeRec r).reg R.EVT_LOG_HEAD = (if ok then s else s.bump R.EVT_LOG_HEAD F.EVT_LOG_HEAD_LOST 1).reg R.EVT_LOG_HEAD := by
  unfold State.writeRec
  extract_lets r' cls low
  have need : (if low = true then 65 else 1) = r.need := by simp only [low, decide_eq_true_eq]; rfl
  have numbered : r' = s.numbered r := rfl
  rw [need, numbered, pushed]
  split
  next g' ok' same =>
    cases same
    extract_lets logged counted signalled
    have inLog : counted.evt = { s.evt with ring := g, seq := s.evt.seq + 1 } ∧
        counted.reg R.EVT_LOG_HEAD = (if ok then s else s.bump R.EVT_LOG_HEAD F.EVT_LOG_HEAD_LOST 1).reg R.EVT_LOG_HEAD := by
      simp only [counted]; cases ok <;> exact ⟨rfl, rfl⟩
    have atHub : signalled.evt = counted.evt ∧ signalled.reg R.EVT_LOG_HEAD = counted.reg R.EVT_LOG_HEAD := by
      simp only [signalled]; rw [State.coreMsi_frame]; exact ⟨rfl, rfl⟩
    rw [← inLog.1, ← inLog.2, ← atHub.1, ← atHub.2]
    clear_value signalled
    split
    · exact ⟨rfl, rfl⟩
    next p _ =>
      have apart : R.EVT_LOG_HEAD ≠ R.PART_EVT_HEAD p := by simp only [R.EVT_LOG_HEAD, R.PART_EVT_HEAD, Blk.base]; omega
      split
      next own kept _ =>
        cases kept
        · exact ⟨rfl, State.reg_bump_ne _ _ _ apart⟩
        · exact ⟨rfl, rfl⟩

/-! ### The log as it reads -/

/-- Drawing the free values of a register that has none leaves the word as it is viewed. -/
theorem State.regRead_viewed {s : State} {b : Blk} {u o : Nat} (present : s.absent b u o = false) (still : s.readTime b u o = s) (free : freeFlds b o = []) :
    (s.regRead b u o).2 = s.view b u o := by
  simp only [State.regRead, present, still, free, State.drawFlds, Bool.false_eq_true, if_false]

theorem State.regRead_evt (s : State) (o : Nat) : (s.regRead .evt 0 o).2 = s.view .evt 0 o :=
  State.regRead_viewed (b := .evt) rfl (by rfl) rfl

theorem State.view_evt_record (s : State) {o : Nat} (lo : 0x10000 ≤ o) (hi : o < 0x10000 + 4096 * 64) :
    s.view .evt 0 o = s.evt.ring.word (o - 0x10000) := by
  rw [State.view, if_neg (by simp only [State.absent]; decide)]
  exact if_pos ⟨lo, hi⟩

section Words
variable {g : EvtRing} {i j : Nat} (inSlot : j < 8)
include inSlot

theorem EvtRing.word_written {r : EvtRec} (written : SMap.find? g.slots i = some r) : g.word (64 * i + 8 * j) = BitVec.ofNat 64 (numAt r.bytes (8 * j) 8) := by
  have slot : (64 * i + 8 * j) / 64 = i := by omega
  have word : (64 * i + 8 * j) % 64 = 8 * j := by omega
  simp only [EvtRing.word, slot, word, written]

theorem EvtRing.word_unwritten (unwritten : SMap.find? g.slots i = none) : g.word (64 * i + 8 * j) = 0 := by
  have slot : (64 * i + 8 * j) / 64 = i := by omega
  simp only [EvtRing.word, slot, unwritten]

end Words

theorem State.view_evt_head (s : State) : ∃ w, s.view .evt 0 0 = setF w F.EVT_LOG_HEAD_HEAD s.evt.ring.head := ⟨_, rfl⟩

theorem State.view_evt_tail (s : State) : ∃ w, s.view .evt 0 8 = setF w F.EVT_LOG_TAIL_TAIL s.evt.ring.tail := ⟨_, rfl⟩

/-! ### The tails -/

theorem exec_evtLogTailWrite (v : Word) (s : State) : exec (.evtLogTailWrite v) s = .next (s.writeEvtTail v) := by rfl

/-- The tail advances over records that the log holds. -/
theorem EvtRing.setTail_held {g : EvtRing} {k v : Nat} (held : k ≤ (g.head + 8192 - g.tail) % 8192) (head : g.head < 8192) (tail : g.tail < 8192)
    (most : (g.head + 8192 - g.tail) % 8192 ≤ 4096) (new : v = (g.tail + k) % 8192) : g.setTail 4096 v = { g with tail := v } := by
  have small : v % (2 * 4096) = v := by omega
  rw [EvtRing.setTail, small, if_pos (by omega)]

/-- Settles O57: the record's slot and the lost one, the ring as it reads, its two counts, and the tail. -/
theorem logWritesFollowTheReserveRule : Obligations.LogWritesFollowTheReserveRule := by
  refine ⟨?_, ?_, ?_, ?_⟩
  · rintro r _ _ _ s rfl rfl rfl
    have logs := s.writeRec_logs r
    have counted {g ok} (pushed : s.evt.ring.push 4096 r.need (s.numbered r) = (g, ok)) := (State.writeRec_pushed pushed).1
    refine ⟨by rw [counted rfl], by rw [counted rfl], fun room => ?_, fun full => ?_, by rw [logs], by rw [logs], by rw [logs], by rw [logs]⟩
    · rw [counted (EvtRing.push_room _ room)]
      rfl
    · obtain ⟨evt, lost⟩ := State.writeRec_pushed (r := r) (EvtRing.push_full (s.numbered r) full)
      rw [evt, State.fld, lost]
      exact ⟨rfl, State.fld_bump_self s _ 1 (by decide) (by decide)⟩
  · intro i j s slot word
    rw [State.regRead_evt, State.view_evt_record s (by omega) (by omega), show 0x10000 + 64 * i + 8 * j - 0x10000 = 64 * i + 8 * j by omega]
    cases written : SMap.find? s.evt.ring.slots i with
    | none => exact EvtRing.word_unwritten word written
    | some r => exact EvtRing.word_written word written
  · intro s
    obtain ⟨w, head⟩ := s.view_evt_head
    obtain ⟨x, tail⟩ := s.view_evt_tail
    rw [State.regRead_evt, State.regRead_evt, head, tail]
    exact ⟨getF_setF_self _ _ _ (by decide) (by decide), getF_setF_self _ _ _ (by decide) (by decide)⟩
  · intro v k s held head tail most new
    rw [exec_evtLogTailWrite, State.writeEvtTail, EvtRing.setTail_held held head tail most new, new]

end Sys2Proof.Machine
end

section
/-! PROOFS. The tails of the event rings and the stores to the flash (file 13: R357, R359; file 18: R503, R504). -/

namespace Sys2Proof.Machine

/-! ### Events that ask for no store -/

/-- A record of another class than 4 and 5 leaves the flash queue, as all of the power domain. -/
theorem State.writeRec_pwr (s : State) {r : EvtRec} (plain : ¬(r.evt.code / 4096 = 4 ∨ r.evt.code / 4096 = 5)) : (s.writeRec r).pwr = s.pwr := by
  unfold State.writeRec
  extract_lets r' cls low
  split
  next g ok _ =>
    extract_lets logged counted signalled
    have inLog : counted.pwr = s.pwr := by
      have kept : logged.pwr = s.pwr := if_neg plain
      simp only [counted]; cases ok <;> exact kept
    have atHub : signalled.pwr = s.pwr := by simp only [signalled]; rw [State.coreMsi_frame]; exact inLog
    clear_value signalled
    split
    · exact atHub
    · split
      next own kept _ => cases kept <;> exact atHub

theorem State.raise_pwr (s : State) {e : Evt} (plain : ¬(e.code / 4096 = 4 ∨ e.code / 4096 = 5)) : (s.raise e).pwr = s.pwr := by
  unfold State.raise; dsimp only
  split
  · split
    · rfl
    · split <;> rfl
  · exact State.writeRec_pwr s plain

/-- Measuring the bank for a store leaves the stores that wait. -/
theorem State.holdUp_nv (s : State) (mj : Nat) : (s.holdUp mj).1.pwr.nv = s.pwr.nv := by
  unfold State.holdUp
  split
  next u v measured =>
    have kept : u.pwr.nv = s.pwr.nv := congrArg (fun x => x.1.pwr.nv) measured.symm
    split
    · exact kept
    · dsimp only
      split
      · exact kept
      · rw [State.raise_pwr _ (by decide)]
        exact kept

/-! ### Stores -/

section Stores
variable {s u : State} {j : NvJob} {ok : Bool}

/-- The next store is made or not, as the bank allows. -/
theorem State.nvStore_turn (turn : s.pwr.nv.find? (fun j => !j.refused) = some j) (unrefused : s.pwr.nv.any (·.refused) = false)
    (bank : s.holdUp j.item.energy = (u, ok)) : s.nvStore = if ok then { u with
        flash := u.flash.store j.item, pwr := { u.pwr with nv := dropFirst (fun j => !j.refused) u.pwr.nv } }
      else { u with pwr := { u.pwr with nv := if j.item.commit then refuseFirst u.pwr.nv else dropFirst (fun j => !j.refused) u.pwr.nv } } := by
  simp only [State.nvStore, turn, unrefused, Bool.and_false, Bool.false_eq_true, if_false, bank]

/-- A firmware block that waits alone leaves the queue empty, programmed or not. -/
theorem State.nvStore_alone (alone : s.pwr.nv = [j]) (fresh : j.refused = false) (block : j.item.commit = false)
    (bank : s.holdUp j.item.energy = (u, ok)) : s.nvStore = if ok then { u with flash := u.flash.store j.item, pwr := { u.pwr with nv := [] } }
      else { u with pwr := { u.pwr with nv := [] } } := by
  have kept : u.pwr.nv = [j] := by rw [← alone, ← s.holdUp_nv j.item.energy, bank]
  have left : dropFirst (fun j => !j.refused) [j] = [] := by simp only [dropFirst, fresh, Bool.not_false, if_true]
  have turn : s.pwr.nv.find? (fun j => !j.refused) = some j := by rw [alone, List.find?_cons_of_pos (by rw [fresh]; rfl)]
  have unrefused : s.pwr.nv.any (·.refused) = false := by rw [alone, List.any_cons, fresh]; rfl
  rw [State.nvStore_turn turn unrefused bank, kept, left, block]
  rfl

/-- The oldest refused commit is made or not, as the bank allows. -/
theorem State.nvRetry_turn (turn : s.pwr.nv.find? (·.refused) = some j) (bank : s.holdUp 1200 = (u, ok)) : s.nvRetry = if ok then { u with
    flash := u.flash.store j.item, pwr := { u.pwr with nv := dropFirst (·.refused) u.pwr.nv } } else u := by
  simp only [State.nvRetry, turn, bank]

theorem exec_nvStore (b : Option FlashBlock) (s : State) : exec (.nvStore b) s = execNvStore s b := by rfl

theorem exec_nvStore_next (on : s.pwr.aux = true) (still : s.sec.storing = false) : exec (.nvStore none) s = .next s.nvStore := by
  simp only [exec_nvStore, execNvStore, on, still, Bool.not_true, Bool.false_eq_true, if_false]

/-- A block that base-camp firmware requests joins the end of the queue. -/
theorem exec_nvStore_block (x : FlashBlock) (on : s.pwr.aux = true) (still : s.sec.storing = false) : exec (.nvStore (some x)) s =
    .next (State.nvStore { s with pwr := { s.pwr with nv := s.pwr.nv ++ [{ item := .block x.image.val x.block.val x.bytes }] } }) := by
  simp only [exec_nvStore, execNvStore, on, still, Bool.not_true, Bool.false_eq_true, if_false]

theorem exec_nvStoreRetry_next (on : s.pwr.aux = true) (still : s.sec.storing = false) : exec .nvStoreRetry s = .next s.nvRetry :=
  congrArg Host.Outcome.next (if_pos ⟨on, by rw [still]; rfl⟩)

end Stores

/-- Settles O27: the two tails, the oldest store, a block with nothing before it, and a refused store. -/
theorem eventRingsAndStoresComplete : Obligations.EventRingsAndStoresComplete := by
  refine ⟨fun _ _ => rfl, ?_, ?_, ?_, ?_⟩
  · rintro p v s _ rfl
    rfl
  · intro j s on still turn unrefused
    refine ⟨_, _, rfl, ?_⟩
    rw [exec_nvStore_next on still, State.nvStore_turn turn unrefused rfl]
  · intro i k b s on still empty
    refine ⟨_, _, _, rfl, rfl, ?_⟩
    rw [exec_nvStore_block _ on still, empty, List.nil_append, State.nvStore_alone rfl rfl rfl rfl]
    rfl
  · intro j s on still turn
    refine ⟨_, _, rfl, ?_⟩
    rw [exec_nvStoreRetry_next on still, State.nvRetry_turn turn rfl]

end Sys2Proof.Machine
end

section
/-! PROOFS. Configuration requests, the test access port, supplies, droop, the power cap, heat and the sensors (file 15: R416, R476; file 18: R493 to R500,
R505; file 19: R515, R523). -/

namespace Sys2Proof.Machine

/-! ### The test access port -/

@[simp] theorem State.tapRise_st (s : State) (tdi : Bool) : (s.tapRise tdi).st = s.tap.st := by
  unfold State.tapRise; dsimp only
  split
  case h_1 h => split <;> exact h.symm ▸ rfl
  case h_2 h => split <;> exact h.symm ▸ rfl
  all_goals rfl

@[simp] theorem TapPort.fall_st (t : TapPort) : t.fall.st = t.st := by
  unfold TapPort.fall
  split
  case h_3 h => split <;> rfl
  all_goals rfl

/-- Test-Logic-Reset puts BYPASS in force. -/
theorem TapPort.fall_reset {t : TapPort} (reset : t.st = .reset) : t.fall.ir = 0xFF := by
  rw [TapPort.fall, reset]

/-- The block after one TCK cycle. -/
def State.tapCycle (s : State) (tms tdi : Bool) : State := { s with tap := ({ s.tapRise tdi with st := s.tap.st.next tms } : TapPort).fall }

theorem State.tapCycle_st (s : State) (tms tdi : Bool) : (s.tapCycle tms tdi).tap.st = s.tap.st.next tms := TapPort.fall_st _

/-- A cycle with TMS high that reaches Test-Logic-Reset has BYPASS in force. -/
theorem State.tapCycle_bypass {s : State} {tms : Bool} (tdi : Bool) (reset : s.tap.st.next tms = .reset) : (s.tapCycle tms tdi).tap.ir = 0xFF :=
  TapPort.fall_reset reset

theorem exec_tck {s : State} (tms tdi : Bool) (on : s.pwr.aux = true) : exec (.testAccessPort (.tck tms) tdi) s = .next (s.tapCycle tms tdi) := by
  rw [State.tapCycle, ← s.tapRise_st tdi]
  exact congrArg Host.Outcome.next (if_neg (by simp [on]))

theorem exec_trst {s : State} (tdi : Bool) (on : s.pwr.aux = true) :
    exec (.testAccessPort .trst tdi) s = .next { s with tap := ({ s.tap with st := .reset } : TapPort).fall } :=
  congrArg Host.Outcome.next (if_neg (by simp [on]))

/-- Five steps with TMS high lead from every state of the controller to Test-Logic-Reset (IEEE 1149.1). -/
theorem TapState.next_five (st : TapState) : ((((st.next true).next true).next true).next true).next true = .reset := by
  cases st <;> rfl

/-- A queued TCK cycle with TMS high is one step of the block. -/
theorem step_tck {s : State} {tdi : Bool} {rest : List Instr} (front : s.pending = .testAccessPort (.tck true) tdi :: rest) (on : s.pwr.aux = true) :
    step s = .next (State.tapCycle { s with pending := rest } true tdi) :=
  (step_front front).trans (exec_tck true tdi on)

/-- In Test-Logic-Reset BYPASS is in force. -/
def TapPort.bypassed (t : TapPort) : Prop := t.st = .reset → t.ir = 0xFF

/-- A queue of cycles with TMS high leads the controller along its states and leaves the rest of the block. -/
theorem reaches_tcks (l : List Bool) {s : State} (on : s.pwr.aux = true) (queued : s.pending = l.map (.testAccessPort (.tck true))) :
    ∃ t, Reaches l.length s t ∧ t.tap.st = l.foldl (fun st _ => st.next true) s.tap.st ∧ (l ≠ [] ∨ s.tap.bypassed → t.tap.bypassed) ∧
      t = { s with pending := [], tap := t.tap } := by
  induction l generalizing s with
  | nil => exact ⟨s, .here s, rfl, fun h => h.resolve_left fun no => no rfl, congrArg (fun q => { s with pending := q }) queued⟩
  | cons d l ih =>
    obtain ⟨t, run, st, bypassed, frame⟩ := ih (s := State.tapCycle { s with pending := l.map (.testAccessPort (.tck true)) } true d) on rfl
    refine ⟨t, .more (step_tck queued on) run, ?_, fun _ => bypassed (.inr fun reset => ?_), frame⟩
    · rw [st, State.tapCycle_st]
      rfl
    · exact State.tapCycle_bypass d ((State.tapCycle_st _ true d).symm.trans reset)

/-- Settles O51: five cycles with TMS high lead from every state to Test-Logic-Reset. -/
theorem testPortResetsInFiveCycles : Obligations.TestPortResetsInFiveCycles := by
  intro d1 d2 d3 d4 d5 s on queued
  obtain ⟨t, run, st, bypassed, frame⟩ := reaches_tcks [d1, d2, d3, d4, d5] on queued
  have reset : t.tap.st = .reset := st.trans (TapState.next_five s.tap.st)
  exact ⟨t, run, reset, bypassed (.inl (List.cons_ne_nil _ _)) reset, frame⟩

/-! ### Configuration requests -/

section Configuration
variable {s : State} (up : s.linkUp = true) (v : BitVec 32)
include up

theorem exec_configurationRequest_numVFs (wr : Bool) : exec (.configurationRequest 64 wr Config.numVFsOffset v) s = .next (
    if !wr then { s with readVal := BitVec.ofNat 64 s.host.numVFs }
    else if v.toNat % 65536 ≤ 64 then { s with host := { s.host with numVFs := v.toNat % 65536 } } else s) :=
  congrArg Host.Outcome.next ((if_neg (by simp [up])).trans (if_pos ⟨rfl, rfl⟩))

theorem exec_configurationRequest_rest {f : Fin 65} {off : BitVec 12} (wr : Bool) (rest : off ≠ Config.numVFsOffset) :
    exec (.configurationRequest f wr off v) s = .next (if wr then s else { s with draws := s.draws + 1, readVal := Config.freeWord s.draws % 2 ^ 32 }) :=
  congrArg Host.Outcome.next ((if_neg (by simp [up])).trans (if_neg fun h => rest h.2))

end Configuration

/-- Settles O42: NumVFs, the rest of configuration space, one TCK cycle, and TRST_N. -/
theorem configurationAndTestPortComplete : Obligations.ConfigurationAndTestPortComplete := by
  refine ⟨?_, ?_, ?_, ?_⟩
  · intro v s up
    rw [exec_configurationRequest_numVFs up v true, exec_configurationRequest_numVFs up v false]
    exact ⟨fun fits => congrArg Host.Outcome.next (if_pos fits), rfl⟩
  · intro f off v s up rest
    exact ⟨exec_configurationRequest_rest up v false rest, exec_configurationRequest_rest up v true rest⟩
  · intro tms tdi s on
    rw [s.tapRise_st]
    exact exec_tck tms tdi on
  · intro tdi s on
    exact ⟨_, exec_trst tdi on, TapPort.fall_st _, TapPort.fall_reset rfl, rfl⟩

/-! ### The frame of the management commands -/

/-- All that the commands on droop, heat, sensors and the test port can touch. -/
def State.manages (s t : State) : Prop :=
  t = { s with draws := t.draws, regs := t.regs, evt := t.evt, host := t.host, partEvt := t.partEvt, imsic := t.imsic, pwr := t.pwr, tap := t.tap }

/-- Raising an event after a change of the power domain. -/
theorem State.manages_raise {s u : State} (changed : s.manages u) (e : Evt) : s.manages (u.raise e) := by
  unfold State.manages at *
  rw [u.raise_logs e, changed]

theorem State.refreshSensors_manages (s : State) : s.manages s.refreshSensors := rfl

theorem exec_thermalLimit_manages (s : State) (d : Fin 8) (hbm : Bool) : ∃ t, exec (.thermalLimit d hbm) s = .next t ∧ s.manages t := by
  refine ⟨_, rfl, ?_⟩
  split
  · rfl
  · split
    · split
      · rfl
      · exact State.manages_raise (by rfl) _
    · split
      · rfl
      · exact State.manages_raise (by rfl) _

theorem exec_testAccessPort_manages (s : State) (pins : TapPins) (tdi : Bool) : ∃ t, exec (.testAccessPort pins tdi) s = .next t ∧ s.manages t := by
  refine ⟨_, rfl, ?_⟩
  split
  · rfl
  · cases pins <;> rfl

theorem exec_pldmSensorRead_manages (s : State) (q : PldmReq) : ∃ t, exec (.pldmSensorRead q) s = .next t ∧ s.manages t := by
  refine ⟨_, rfl, ?_⟩
  split
  · rfl
  · cases q <;> rfl

theorem exec_setNumericEffecterValue_manages (s : State) (id v : Nat) :
    ∃ t, exec (.setNumericEffecterValue id v) s = .next t ∧ s.manages t := by
  refine ⟨_, rfl, ?_⟩
  split
  · rfl
  · split <;> rfl

theorem exec_sensorRefresh_manages (s : State) : ∃ t, exec .sensorRefresh s = .next t ∧ s.manages t := by
  refine ⟨_, rfl, ?_⟩
  split
  · exact s.refreshSensors_manages
  · rfl

/-- Settles O60: each of the commands changes no more than `State.manages` names. -/
theorem managementFrame : Obligations.ManagementFrame := by
  rintro x s t ⟨d, hbm, tdi, pins, id, v, q, command⟩ ran
  have framed : ∃ u, exec x s = .next u ∧ s.manages u := by
    simp only [List.mem_cons, List.not_mem_nil, or_false] at command
    rcases command with rfl | rfl | rfl | rfl | rfl | rfl | rfl | rfl
    · exact ⟨_, rfl, rfl⟩
    · exact ⟨_, rfl, rfl⟩
    · exact ⟨_, rfl, rfl⟩
    · exact exec_pldmSensorRead_manages s q
    · exact exec_setNumericEffecterValue_manages s id v
    · exact exec_sensorRefresh_manages s
    · exact exec_testAccessPort_manages s pins tdi
    · exact exec_thermalLimit_manages s d hbm
  obtain ⟨u, done, changed⟩ := framed
  obtain rfl := Host.Outcome.next.inj (done.symm.trans ran)
  rw [changed]
  exact ⟨rfl, rfl, rfl, rfl, rfl, rfl, rfl, rfl, rfl, rfl, rfl, rfl, rfl, rfl, rfl, rfl⟩

/-! ### Supplies, the cap and heat -/

/-- A sample that changes the class of the main input, outside STOP. -/
theorem supplySample_changes {s u : State} {mv : Nat} (on : s.pwr.aux = true) (sampled : u = { s with pwr := { s.pwr with mainMv := mv } })
    (runs : u.supply ≠ 3) (changes : u.supply ≠ supplyClass mv) : supplySample mv s =
      let v := u.setFld R.PWR_STATE F.PWR_STATE_SUPPLY (supplyClass mv)
      let w := if supplyClass mv = 0 then v else v.bump R.PWR_STATE F.PWR_STATE_LOW_EVENTS 1
      if supplyClass mv = 1 then w.raise { code := 0x6600 } else w := by
  subst sampled
  exact (if_neg (by simp [on])).trans (if_neg (not_or.2 ⟨runs, changes⟩))

theorem exec_supplySample (mv : Nat) (s : State) : exec (.supplySample mv) s = .next (supplySample mv s) := by rfl

theorem exec_capStep (w : Nat) (s : State) : exec (.capStep w) s = .next (capStep w s) := by rfl

theorem exec_thermalLimit (d : Fin 8) (hbm : Bool) (s : State) : exec (.thermalLimit d hbm) s = execThermalLimit d hbm s := by rfl

/-- Settles O41, clause by clause: the auxiliary input, a sample, the limits of BROWNOUT, droop, the core's undervoltage, the cap, limits and trips. -/
theorem powerCommandsComplete : Obligations.PowerCommandsComplete := by
  refine ⟨?_, ?_, ?_, ?_, ?_, ?_, ?_, ?_, ?_, ?_⟩
  · exact fun s on runs => congrArg Host.Outcome.next (if_pos ⟨on, runs⟩)
  · intro mv s u on sampled runs changes
    rw [exec_supplySample, supplySample_changes on sampled runs changes]
    refine ⟨fun cls => ?_, fun cls => ?_, fun cls => ?_⟩ <;> rw [cls] <;> rfl
  · exact fun s on out => ⟨fun v => congrArg Host.Outcome.next (if_pos ⟨on, out, v⟩), fun v => congrArg Host.Outcome.next (if_pos ⟨on, out, v⟩),
      fun v => congrArg Host.Outcome.next (if_pos ⟨on, out, v⟩)⟩
  · exact fun d s => ⟨rfl, rfl⟩
  · exact fun d s works runs => congrArg Host.Outcome.next (if_neg (not_or.2 ⟨works, runs⟩))
  · rintro w s _ runs rfl
    refine ⟨_, rfl, ?_⟩
    rw [exec_capStep, capStep, if_neg runs]
    dsimp only
    simp only [Bool.not_eq_true']
  · intro d s runs
    rw [exec_thermalLimit, exec_thermalLimit]
    exact ⟨fun cool => by simp only [execThermalLimit, runs, cool, Bool.false_eq_true, if_false],
      fun cool => by simp only [execThermalLimit, runs, cool, Bool.false_eq_true, if_false, if_true]⟩
  · exact fun d s => ⟨rfl, rfl⟩
  · intro d s on works runs
    have die : d.val ≠ 8 := by omega
    constructor
    · refine congrArg Host.Outcome.next ((if_neg ?_).trans ?_)
      · simp [on, works, runs]
      · simp [die]
    · refine congrArg Host.Outcome.next ((if_neg ?_).trans ?_)
      · simp [on, die, works, runs]
      · rfl
  · intro s on
    exact congrArg Host.Outcome.next (if_neg (by simp [on]))

end Sys2Proof.Machine
end

section
/-! PROOFS. Taps, checks, commit points, replays, replica groups and the scrub (file 13: R371 to R373, R377 to R397). -/

namespace Sys2Proof.Machine

/-! ### Taps at a full check store (R371, R373) -/

/-- A tap of a unit without operands, of a checked job or not. -/
def emptyTap (checked : Bool) : TapUnit := ⟨0, (0, 0), 3, 0, 0, 1, 1, checked, false, false, [], []⟩

/-- A tap on its way to grid position 15 of cluster 0. -/
def tapTo15 (u : TapUnit) : Packet := { pkt := .tap u false true, dest := ⟨0, 15⟩, src := ⟨0, 0⟩, sender := .cell 0 }

/-- Grid position 15 of cluster 0 holds seven entries. A sampled tap is on its way to it, and behind it the tap of a checked job, for which the eighth is reserved. -/
def State.lastEntryReserved : State :=
  { State.reset.setClu 0 { taps := List.replicate 7 ⟨15, emptyTap false⟩ } with net := [tapTo15 (emptyTap false), tapTo15 (emptyTap true)] }

/-- The state once the sampled tap has been taken from the network. -/
def State.sampledTapTaken : State := { State.lastEntryReserved with net := [tapTo15 (emptyTap true)] }

theorem State.lastEntryReserved_ejects : State.lastEntryReserved.ejected
    (fun y => decide (y.pkt.type = 0x04) && !State.lastEntryReserved.tapWaits y) 0 (tapTo15 (emptyTap false)) State.sampledTapTaken :=
  ⟨⟨_, _, rfl, by decide +kernel⟩, _, _, rfl, by decide +kernel⟩

theorem exec_chTap_lands {s u : State} {n : Nat} {p : Packet} {t : TapUnit} {first : Bool}
    (h : s.ejected (fun y => decide (y.pkt.type = 0x04) && !s.tapWaits y) n p u) (tap : p.pkt = .tap t first true) :
    exec (.chTap n) s = .next (u.tapLands p.dest.cluster p.dest.code t) := by
  obtain ⟨⟨v, x, take, sound⟩, w, y, ejected, received⟩ := h
  have meaning : exec (.chTap n) s = execChTap n s := by rfl
  rw [meaning, execChTap, State.onPkt_some ⟨⟨v, x, take, sound⟩, ejected⟩, received]
  simp only [tap]

/-- Refutes O24: its first clause counts the entries that the check store holds and leaves out those reserved for the taps of checked jobs on their way
(R373), which an unchecked tap must leave free too. In `State.lastEntryReserved` seven entries are held and one is reserved, so the model drops the sampled tap. -/
theorem not_checkAndSlotCommandsComplete : ¬ Obligations.CheckAndSlotCommandsComplete := by
  rintro ⟨tapLands, -⟩
  have claimed := tapLands 0 (tapTo15 (emptyTap false)) (emptyTap false) false _ _ State.lastEntryReserved_ejects rfl (by decide +kernel)
  have dropped := exec_chTap_lands State.lastEntryReserved_ejects (t := emptyTap false) (first := false) rfl
  have same := congrArg (fun t => (t.clu 0).taps.length) (Host.Outcome.next.inj (dropped.symm.trans claimed))
  exact absurd same (by decide +kernel)

/-! ### Commit points (R377, R378) -/

section Requests
variable {s u : State} {r j : Nat} {q : Request}

theorem exec_phaseMark (r : Nat) (s : State) : exec (.phaseMark r) s = .next (s.phaseMark r) := by rfl

theorem exec_commitDecision (r : Nat) (s : State) : exec (.commitDecision r) s = .next (s.commitDecision r) := by rfl

theorem exec_replayStart (r : Nat) (s : State) : exec (.replayStart r) s = .next (s.replayStart r) := by rfl

theorem State.updReq_live (live : s.req r = some q) (f : Request → Request) : s.updReq r f = s.setReq r (f q) := by
  simp only [State.updReq, live]

/-- The phase anchor has passed the running phase of a job that goes on. -/
theorem State.phaseMark_reached {a : Nat} (live : s.req r = some q) (job : q.job = some j) (anchor : s.hubAnchor q.team 0x0C j = some a)
    (passed : q.phase + 1 ≤ (s.anchor a).toNat) (goes : q.quiesce = false) (stays : q.cancelling = none) (unmarked : q.marked = none)
    (runs : q.st = .running ∨ q.st = .stalled)
    (marks : u = if s.isCommit q q.phase then s.updReq r (fun x => { x with marked := some q.phase, markAt := s.unitsNow q.team }) else s) :
    s.phaseMark r = if q.phase < u.lastPhase q then u.enterPhase r (q.phase + 1) else u := by
  have working : ¬(q.st ≠ .running ∧ q.st ≠ .stalled) := fun h => runs.elim h.1 h.2
  subst marks
  simp only [State.phaseMark, live, job, anchor, passed, goes, stays, unmarked, decide_true, decide_eq_false working, Bool.not_true, Option.isSome_none,
    Bool.or_self, Bool.false_eq_true, if_false, State.updReq_live live]

/-- A commit point whose digests are all in is decided by the suspect flags. -/
theorem State.commitDecision_due {i sus : Nat} (live : s.req r = some q) (marked : q.marked = some i) (job : q.job = some j) (goes : q.quiesce = false)
    (stays : q.cancelling = none) (complete : s.digestsIn q.team j q.markAt = true) (read : s.takeSuspect q.team j = (u, sus)) :
    s.commitDecision r = if sus = 0 then
        let v := u.updReq r (fun q => { q with committed := i + 1, marked := none, checked := false, replayFrom := none, condemnVote := false })
        if v.lastPhase q ≤ i then v.endReq r stDone (if q.released then 0x43 else if q.late then 0x42 else 0)
        else if v.commitsAfter q i then v else v.freeReserve r
      else if q.replayFrom.isNone then (u.quiesceJob r).updReq r (fun q => { q with replayTo := i })
      else if sus % 2 = 1 then (u.raiseReq r 0x3203 i).failReq r 0x45 0x3203
      else if q.condemnVote then u.quiesceJob r
      else (u.raiseReq r 0x3202 i).failReq r 0x44 0x3202 := by
  simp only [State.commitDecision, live, marked, job, goes, stays, complete, read, Option.isSome_none, Bool.not_true, Bool.or_self, Bool.false_eq_true,
    if_false]

/-! ### Replays (R380) -/

/-- The hub finds its anchors by the team's binding and the frame of its lead cluster. -/
theorem State.hubAnchor_congr (teams : u.teams = s.teams) (layout : u.layout = s.layout) (plaus : ∀ g, (u.clu g).plaus = (s.clu g).plaus)
    (t off job : Nat) : u.hubAnchor t off job = s.hubAnchor t off job := by
  have team : u.team t = s.team t := by rw [State.team, State.team, teams]
  have code : u.code = s.code := by funext d; rw [State.code, State.code, layout]
  have cluster : u.cluster = s.cluster := by
    unfold State.cluster
    rw [code]
  unfold State.hubAnchor State.teamAnchor State.teamCluster
  rw [team, cluster]
  cases (s.team t).running with
  | none => rfl
  | some x => dsimp only; rw [plaus]

theorem State.plaus_send (s : State) (p : Packet) (g : Nat) : ((s.send p).clu g).plaus = (s.clu g).plaus := by
  rw [State.send_frame]; rfl

/-- Waking monitors leaves the frames of the clusters. -/
theorem State.plaus_wake (s : State) (a st : Nat) (sel : Monitor → Bool) (g : Nat) : ((s.wake a st sel).clu g).plaus = (s.clu g).plaus := by
  unfold State.wake
  dsimp only
  refine (foldl_keeps (fun s : State => (s.clu g).plaus) _ (fun s _ => s.plaus_send _ g) _ _).trans ?_
  by_cases same : g = a / 128
  · rw [same, State.clu_setClu]
  · rw [State.clu_setClu_ne _ _ same]

theorem State.plaus_setAnchor (s : State) (a : Nat) (w : Word) (g : Nat) : ((s.setAnchor a w).clu g).plaus = (s.clu g).plaus := by
  unfold State.setAnchor
  dsimp only
  split
  · rw [State.anchorRose_frame]
    exact State.plaus_wake _ _ _ _ _
  · exact State.plaus_wake _ _ _ _ _

/-- Setting an anchor leaves where the hub finds its anchors. -/
theorem State.hubAnchor_hubSet (s : State) (a : Option Nat) (v t off job : Nat) : (s.hubSet a v).hubAnchor t off job = s.hubAnchor t off job := by
  cases a with
  | none => rfl
  | some a =>
    rw [State.hubSet, State.ancApply_set (.inl rfl)]
    exact State.hubAnchor_congr (by rw [State.setAnchor_frame]) (by rw [State.setAnchor_frame]) (fun g => State.plaus_setAnchor _ _ _ g) t off job

/-- A quiesced best-effort job that is quiet, or has waited its 8 waymarks, is set back to its last committed phase. -/
theorem State.replayStart_due (live : s.req r = some q) (job : q.job = some j) (bestEffort : q.guar = false) (unplanned : q.planned = false)
    (quiesced : q.quiesce = true) (stays : q.cancelling = none) (first : q.replayFrom = none) (runs : (s.team q.team).run = .running)
    (own : s.sectId q.team = q.sect) (quiet : s.jobQuiet q.team j = true ∧ s.cancelling q.team j = false ∨ q.quiesceWm + 8 ≤ s.time.count) :
    s.replayStart r = (((((s.hubSet (s.hubAnchor q.team 0x0C j) q.committed).hubSet (s.hubAnchor q.team 0x0E j) (q.committed + 1)).updReq r
      (fun q' => { q' with
        quiesce := false, planned := false, funded := q'.funded || false, replayFrom := some q.committed, checked := true,
        condemnVote := false })).enterPhase r q.committed).raiseReq r 0x6200 (q.committed + 256 * b2n false)) := by
  have settled : (s.jobQuiet q.team j && !s.cancelling q.team j || decide (q.quiesceWm + 8 ≤ s.time.count)) = true := by
    rcases quiet with ⟨still, done⟩ | waited
    · rw [still, done]; rfl
    · rw [decide_eq_true waited, Bool.or_true]
  simp only [State.replayStart, live, job, bestEffort, unplanned, quiesced, stays, first, runs, own, settled, Option.isNone_none, decide_true,
    Bool.true_and, Bool.or_false, Bool.or_true, Bool.not_true, Bool.false_eq_true, if_false, Bool.not_false, Bool.false_and, if_true]

end Requests

/-- Settles O25, clause by clause: a mark, a commit, a first suspect flag, a replay, and a late phase. -/
theorem commitAndReplayComplete : Obligations.CommitAndReplayComplete := by
  refine ⟨?_, ?_, ?_, ?_, ?_⟩
  · intro r j a q s u live job anchor passed goes stays unmarked runs marks
    rw [exec_phaseMark, State.phaseMark_reached live job anchor passed goes stays unmarked runs marks]
  · intro r i j q s u live marked job goes stays complete read
    refine ⟨_, rfl, ?_⟩
    rw [exec_commitDecision, State.commitDecision_due live marked job goes stays complete read]
    rfl
  · intro r i j sus q s u live marked job goes stays complete read suspect first
    rw [exec_commitDecision, State.commitDecision_due live marked job goes stays complete read, if_neg suspect, first]
    rfl
  · rintro r j q s _ live job bestEffort unplanned quiesced stays first runs own quiet rfl
    rw [exec_replayStart, State.replayStart_due live job bestEffort unplanned quiesced stays first runs own quiet, State.hubAnchor_hubSet]
  · intro r i w q s live guaranteed late
    have meaning : exec (.phaseOverrun r) s = execPhaseOverrun r s := by rfl
    rw [meaning, execPhaseOverrun]
    simp only [live, guaranteed, late, Bool.not_true, Bool.false_eq_true, if_false]

/-! ### Replica groups (R385, R386, R388) -/

section Replicas
variable {s u w : State} {i : Nat}

/-- A comparison of a valid group starts when none runs. -/
theorem State.replStart_due (group : i < 64) (valid : s.fld (R.INTEG_REPL_CFG i) F.INTEG_REPL_CFG_VALID = 1) (idle : SMap.find? s.integ.repl i = none)
    (verify : Bool) : s.replStart i verify = ({ s with integ := { s.integ with
      repl := SMap.ins i (s.time.count, verify) s.integ.repl, replLast := SMap.ins i s.time.pitches s.integ.replLast } }.setFld
        (R.INTEG_REPL_STAT i) F.INTEG_REPL_STAT_STATE 2) :=
  if_neg (by rw [valid, idle]; simp [group])

/-- A comparison in which every replica has the group's root. -/
theorem State.replDone_clean {wm : Nat} {v : Bool} {rs : List Replica} (runs : SMap.find? s.integ.repl i = some (wm, v))
    (ended : u = { s with integ := { s.integ with repl := SMap.del i s.integ.repl } }) (read : u.readReplicas i = (w, rs))
    (same : ∀ r ∈ rs, rootOf r.digests = some (w.replRoot i)) : s.replDone i = w.replClean1 i wm := by
  have clean : (rs.map (fun r => rootOf r.digests)).all (fun r => decide (r = some (w.replRoot i))) = true := by
    rw [List.all_map, List.all_eq_true]
    exact fun r hr => decide_eq_true (same r hr)
  subst ended
  simp only [State.replDone, runs, read, clean, if_true]

end Replicas

/-! ### The scrub (R389 to R391) -/

section Scrub
variable {s z u : State} {k : Nat}

theorem exec_scrubRead (x : ScrubLoc) (s : State) : exec (.scrubRead x) s = execScrubRead x s := by rfl

/-- A sector that is next in the pass is read. -/
theorem exec_scrubRead_sector {a : BitVec 48} (next : s.scrubsNext (.addr a) z) : exec (.scrubRead (.addr a)) s = .next (z.scrub (a.toNat / 64)) := by
  obtain ⟨enabled, unread, rfl⟩ := next
  simp only [exec_scrubRead, execScrubRead, enabled, unread, Nat.one_ne_zero, Bool.false_eq_true, if_false]

/-- So is a store, unless it is one that the scrub leaves out. -/
theorem exec_scrubRead_store {x : Store} (next : s.scrubsNext (.store x) z) (scrubbed : storeScrubbed x = true) :
    exec (.scrubRead (.store x)) s = .next (z.scrubStore x) := by
  obtain ⟨enabled, unread, rfl⟩ := next
  simp only [exec_scrubRead, execScrubRead, enabled, unread, scrubbed, Nat.one_ne_zero, Bool.false_eq_true, if_false, if_true]

/-- An uncorrectable word of a sector in use poisons the sector, and the class of the byte that failed says what follows. -/
theorem State.scrub_bad {w kind src : Nat} {i : SectorInfo} {arr : Option Nat} (bad : z.badWord k = some w) (unfixable : z.fixWord k = none)
    (info : z.sectorInfo (8 * w) = some (i, kind, src, arr)) (used : ¬(kind = 4 ∧ z.pageRetired i = true)) (sound : z.poison.contains k = false)
    (logged : u = { z.dropBad k with poison := insNat k z.poison }.raise {
      code := 0x2202, kind := kind, src := src, part := if i.cls = 5 then none else i.owner, tenant := i.tenant, addr := some (64 * k), detail := i.cls }) :
    z.scrub k = (u.scrubAction (8 * w) i).sectorErr k 1 := by
  have kept : (z.dropBad k).poison = z.poison := rfl
  subst logged
  simp only [State.scrub, bad, unfixable, info, used, kept, sound, Option.isSome_none, Option.isSome_some, Bool.false_eq_true, if_false, if_true]

theorem State.scrub_sound (sound : z.badWord k = none) (clean : z.fixWord k = none) : z.scrub k = z := by
  simp only [State.scrub, sound, clean, Option.isSome_none, Bool.false_eq_true, if_false, ite_self]
  split <;> rfl

/-- An uncorrectable word of a store spoils what it holds. -/
theorem State.scrubStore_bad {x : Store} (unfixable : z.upsets.contains (.storeFix x) = false) (bad : z.upsets.contains (.store x) = true)
    (spoilt : u = { z with upsets := z.upsets.erase (.store x), draws := z.draws + 1 }.spoil x) :
    z.scrubStore x = (u.raise {
      code := 0x2202, kind := 1, src := storeCell x, part := some (storeCell x / 64), detail := (Config.freeWord (u.draws - 1)).toNat % 8 }).storeErr x 1 := by
  subst spoilt
  simp only [State.scrubStore, unfixable, bad, Bool.false_eq_true, if_false, if_true]

end Scrub

/-- Settles O26, clause by clause: the two starts of a comparison, a clean one, the scrub of a bad and of a sound sector and of a store, and a die link. -/
theorem replicaAndScrubComplete : Obligations.ReplicaAndScrubComplete := by
  refine ⟨?_, ?_, ?_, ?_, ?_, ?_, ?_⟩
  · intro i s periodic boundary due group valid idle
    have starts : exec (.replicaCompare i) s = .next (s.replStart i false) := congrArg Host.Outcome.next (if_pos ⟨periodic, boundary, due⟩)
    rw [starts, State.replStart_due group valid idle]
  · intro i s group valid idle
    exact congrArg Host.Outcome.next (State.replStart_due group valid idle true)
  · intro i wm v s u w rs runs ended read same
    exact congrArg Host.Outcome.next (State.replDone_clean runs ended read same)
  · rintro a _ w i kind src arr s z u rfl next bad unfixable info used sound logged
    rw [exec_scrubRead_sector next, State.scrub_bad bad unfixable info used sound logged]
  · intro a s z next sound clean
    rw [exec_scrubRead_sector next, State.scrub_sound sound clean]
  · intro x s z u next scrubbed unfixable bad spoilt
    rw [exec_scrubRead_store next scrubbed, State.scrubStore_bad unfixable bad spoilt]
  · exact fun l s link => congrArg Host.Outcome.next (if_pos link)

end Sys2Proof.Machine
end

section
/-! PROOFS. The update units, seals and the engine that moves a shard (file 14: R401 to R409, R413). -/

namespace Sys2Proof.Machine

section UpdateUnit
variable {s u v w : State} {g : Nat}

theorem State.updQueue_room (x : Word) (present : s.hasUpd = true) (room : (s.clu g).updQ.length + (s.clu g).upd.toList.length < 8) :
    s.updQueue g x = s.setClu g { s.clu g with updQ := (s.clu g).updQ ++ [getF x F.CLU_UPD_SUBMIT_DESC_ADDR * 256] } :=
  (if_neg (by simp [present])).trans (if_pos room)

/-- A full queue drops the submission and says so. -/
theorem State.updQueue_full (x : Word) (present : s.hasUpd = true) (full : 8 ≤ (s.clu g).updQ.length + (s.clu g).upd.toList.length) :
    s.updQueue g x = s.setFld (R.CLU_UPD_STATUS g) F.CLU_UPD_STATUS_DROPPED 1 :=
  (if_neg (by simp [present])).trans (if_neg (Nat.not_lt.2 full))

theorem exec_updDescriptorStart_present {g : Fin 256} (present : s.hasUpd = true) : exec (.updDescriptorStart g) s = .next (s.updStart g.val) :=
  congrArg Host.Outcome.next (if_pos present)

/-- The buffers of a descriptor's streams, empty of data. -/
def uBuffers (b : List Byte) : List (List Byte) := (uStreams b).map (fun x => match x with
  | some x => List.replicate (x.len (uN b)) (0 : Byte)
  | none => [])

section Start
variable {a : Nat} {q : List Nat} (queued : (s.clu g).updQ = a :: q) (idle : (s.clu g).upd = none)
include queued idle

/-- A descriptor outside the cluster's own tiles is faulty. -/
theorem State.updStart_outside (outside : inOwnTiles g a 256 = false) (taken : u = s.setClu g { s.clu g with updQ := q }) :
    s.updStart g = u.faultAgent (u.teamOfClu g) (u.partOf g).1 2 g 0x3210 0 (some a) := by
  subst taken
  simp only [State.updStart, queued, idle, outside, Bool.not_false, if_true]

/-- A sound descriptor is read with its program, and runs. -/
theorem State.updStart_sound {b pb : List Byte} {x y : List Nat} (own : inOwnTiles g a 256 = true)
    (read : (s.setClu g { s.clu g with updQ := q }).deliver 2 g 1 20 a 256 = (u, b, x)) (least : 1 ≤ numAt b 0 1) (most : numAt b 0 1 ≤ 32)
    (aligned : numAt b 8 8 % 128 = 0) (program : inOwnTiles g (numAt b 8 8) (4 * numAt b 0 1) = true)
    (fetched : u.deliver 2 g 1 20 (numAt b 8 8) (4 * numAt b 0 1) = (v, pb, y)) (good : uCheck g b (chunkWords (numAt b 0 1) 4 pb) = true)
    (seals : v.uSealed g (numAt b 1 1) b = (w, true)) : s.updStart g = (w.updClu g (fun c => { c with upd := some {
      addr := a, desc := b, prog := chunkWords (numAt b 0 1) 4 pb, job := numAt b 1 1, todo := uAllPieces b false, bufs := uBuffers b,
      bad := List.replicate 8 [], outs := w.uOuts g (numAt b 1 1) b } })).updGo g := by
  have length : ¬(numAt b 0 1 < 1 ∨ 32 < numAt b 0 1 ∨ numAt b 8 8 % 128 ≠ 0 ∨ (!inOwnTiles g (numAt b 8 8) (4 * numAt b 0 1)) = true) := by
    simp [aligned, program]; omega
  simp only [idle] at read
  simp only [State.updStart, queued, idle, own, read, length, fetched, good, seals, Bool.not_true, Bool.false_eq_true, if_false]
  rfl

end Start

/-- A descriptor whose writes are through stores its digest where it asks for one, and raises its anchor. -/
theorem State.updDone_through {x : UpdRun} (runs : (s.clu g).upd = some x) (writing : x.writing = true) (issued : x.todo = [])
    (acknowledged : (s.clu g).updTags.any (fun t => t.put && decide (t.job = x.job)) = false) : s.updDone g =
      (if uDigest x.desc then (s.setClu g { s.clu g with upd := none }).tileWr (numAt x.desc 24 8)
        (leBytes 8 (cairnRoot (nthD x.bufs (uDstream x.desc) [])).1.toNat ++ leBytes 8 (cairnRoot (nthD x.bufs (uDstream x.desc) [])).2.toNat) []
      else s.setClu g { s.clu g with upd := none }).ancDone g (numAt x.desc 20 4) := by
  simp only [State.updDone, runs, writing, issued, acknowledged, List.isEmpty_nil, Bool.not_true, Bool.or_self, Bool.false_eq_true, if_false]

/-! ### Seals -/

/-- The fields of a seal as a write gives them. -/
def sealWord (x : Word) : Word :=
  setF (setF (setF 0 F.UPD_SEAL_VALID (getF x F.UPD_SEAL_VALID)) F.UPD_SEAL_BASE_2M (getF x F.UPD_SEAL_BASE_2M)) F.UPD_SEAL_LEN_2M (getF x F.UPD_SEAL_LEN_2M)

/-- While no update runs or waits, a seal takes what is written. -/
theorem State.writeSeal_idle {i : Nat} {x : Word} (idle : s.clus.any (fun x => !x.2.updQ.isEmpty || x.2.upd.isSome) = false) : s.writeSeal i x =
    s.setReg (R.UPD_SEAL i) (setF (sealWord x) F.UPD_SEAL_REJECTED
      (if getF x F.UPD_SEAL_REJECTED = 1 then 0 else getF (s.reg (R.UPD_SEAL i)) F.UPD_SEAL_REJECTED)) :=
  if_neg (by rw [idle, Bool.and_false]; exact Bool.false_ne_true)

/-- A change of it meanwhile is rejected. -/
theorem State.writeSeal_busy {i : Nat} {x : Word} (busy : s.clus.any (fun x => !x.2.updQ.isEmpty || x.2.upd.isSome) = true)
    (change : setF (s.reg (R.UPD_SEAL i)) F.UPD_SEAL_REJECTED 0 ≠ sealWord x) : s.writeSeal i x = s.setFld (R.UPD_SEAL i) F.UPD_SEAL_REJECTED 1 :=
  if_pos (by rw [busy, Bool.and_true]; exact decide_eq_true change)

/-! ### The engine that moves a shard -/

/-- GO starts the engine when it is free. -/
theorem State.writeExport_starts {x : Word} (go : getF x F.UPD_EXPORT_CTRL_GO = 1) (free : s.exporting = none)
    (op : u = s.setFld R.UPD_EXPORT_CTRL F.UPD_EXPORT_CTRL_OP (getF x F.UPD_EXPORT_CTRL_OP)) : s.writeExport x = { u with
      exporting := some (decide (getF x F.UPD_EXPORT_CTRL_OP = 1), u.fld R.UPD_EXPORT_SRC F.UPD_EXPORT_SRC_ADDR * 32,
        u.fld R.UPD_EXPORT_DST F.UPD_EXPORT_DST_ADDR * 32) } := by
  subst op
  exact if_neg (by simp [go, free])

end UpdateUnit

/-- Settles O35, clause by clause: the queue, the start and the end of a descriptor, seals, and the engine that moves a shard. -/
theorem updateUnitCommandsComplete : Obligations.UpdateUnitCommandsComplete := by
  refine ⟨?_, ?_, ?_, ?_, ?_, ?_, ?_, ?_, ?_⟩
  · exact fun g x s present room => congrArg Host.Outcome.next (State.updQueue_room x present room)
  · exact fun g x s present full => congrArg Host.Outcome.next (State.updQueue_full x present full)
  · rintro g a _ _ q b pb x y s u v w present queued idle own read rfl rfl least most aligned program fetched good seals
    rw [exec_updDescriptorStart_present present,
      State.updStart_sound queued idle own read least most aligned program fetched good seals]
    rfl
  · intro g a q s u present queued idle outside taken
    rw [exec_updDescriptorStart_present present, State.updStart_outside queued idle outside taken]
  · intro g x s runs writing issued acknowledged plain
    refine congrArg Host.Outcome.next ((State.updDone_through runs writing issued acknowledged).trans ?_)
    rw [plain]
    rfl
  · intro g x s runs writing issued acknowledged digest
    refine congrArg Host.Outcome.next ((State.updDone_through runs writing issued acknowledged).trans ?_)
    rw [digest]
    rfl
  · rintro i x _ s rfl
    exact ⟨fun idle => congrArg Host.Outcome.next (State.writeSeal_idle idle),
      fun busy change => congrArg Host.Outcome.next (State.writeSeal_busy busy change)⟩
  · intro x s u go free taken
    refine ⟨fun op => ?_, fun op => ?_⟩
    · refine congrArg Host.Outcome.next ((if_pos ⟨go, op⟩).trans ((State.writeExport_starts go free taken).trans ?_))
      rw [op]
      rfl
    · refine congrArg Host.Outcome.next ((if_pos ⟨go, op⟩).trans ((State.writeExport_starts go free taken).trans ?_))
      rw [op]
      rfl
  · intro imp src dst st s u runs done
    have meaning : exec .exportEngineDone s = execExportEngineDone s := by rfl
    rw [meaning, execExportEngineDone]
    simp only [runs, done]

end Sys2Proof.Machine
end

section
/-! PROOFS. Loads (R58, R59, R72, R432), the ring pages of a tenant and the version of a function (R419 to R424). -/

namespace Sys2Proof.Machine

section Load
variable {s u v : State} {t : Nat} {l : Load}

/-- The key a stream was wrapped with is gone from the engine: the load that used it ends (R469). -/
def Load.keyGone (l : Load) (s : State) : Bool :=
  match l.keySrc with
  | some (2, k) => (s.sec.streamKey 2 k).isNone
  | _ => false

theorem Load.keyGone_eq_false (kept : ∀ k, l.keySrc = some (2, k) → (s.sec.streamKey 2 k).isSome = true) : l.keyGone s = false := by
  unfold Load.keyGone
  split
  next k src => rw [← Option.not_isSome, kept k src, Bool.not_true]
  next => rfl

/-- A frame whose header and body are read goes to the checks of its body. -/
theorem State.loadFrame_body {hdr raw : List Byte} (loads : (s.team t).load = some l) (kept : l.keyGone s = false) (held : l.pos + 24 ≤ l.bodyLen)
    (header : s.imageRead (l.sect.image + 128 + l.pos) 24 = (u, .ok hdr)) (type : (frameHdr hdr).typeBad l.verMinor = false)
    (bounds : (frameHdr hdr).boundsBad l.sect (l.bodyLen - l.pos) l.encrypted = false) (order : l.orderBad (frameHdr hdr) = false)
    (body : u.imageRead (l.sect.image + 128 + l.pos + 24) ((frameHdr hdr).size l.encrypted - 24) = (v, .ok raw)) :
    s.loadFrame t = v.frameBody t l (frameHdr hdr) hdr raw := by
  have nonempty : ¬(l.bodyLen - l.pos = 0) := by omega
  have room : ¬(l.bodyLen - l.pos < 24) := by omega
  unfold Load.keyGone at kept
  simp only [State.loadFrame, loads, nonempty, room, header, type, bounds, order, body, if_false, Bool.false_eq_true]
  exact if_neg (by rw [Bool.not_eq_true]; exact kept)

end Load

/-- Settles O5: the command names a team by its own head and the physical function; the frame passes each check in turn. -/
theorem loadsComplete : Obligations.LoadsComplete := by
  refine ⟨?_, ?_⟩
  · intro t c rest s front opcode physical least head
    refine congrArg Host.Outcome.next ((State.onCmd_some front opcode).trans ?_)
    exact (if_neg (not_not_intro physical)).trans (if_neg (by rw [not_or]; exact ⟨Nat.not_le.2 least, not_not_intro head⟩))
  · intro p l hdr raw s u v loads kept held header type bounds order body
    exact congrArg Host.Outcome.next (State.loadFrame_body loads (Load.keyGone_eq_false kept) held header type bounds order body)

section Ring
variable {s u : State} {f t : Nat} {x : Word}

theorem exec_doorbell_shown {f : Fin 65} {t : Fin 4096} (ready : s.ready = true) (live : s.fnLive f.val = true)
    (pages : s.pageShown f.val t.val = true) : exec (.doorbell f t x) s = .next (s.writeTrSq f.val t.val x) :=
  congrArg Host.Outcome.next (if_pos (by rw [ready, live, pages]; rfl))

/-- A new tail makes its entries visible, at most 15 of them. -/
theorem State.writeTrSq_shows {k : Nat} (agreed : s.agreed f ≠ 0) (new : k = (getF x F.TR_SQ_TAIL + 16 - (s.page t).sqTail) % 16) (more : 0 < k)
    (room : (s.page t).vis.length + k < 16) : s.writeTrSq f t x =
      s.setPage t { s.page t with sqTail := getF x F.TR_SQ_TAIL, vis := (s.page t).vis ++ List.replicate k f } := by
  subst new
  exact (if_neg (by omega)).trans (if_neg (Nat.not_le.2 room))

/-- A tail beyond 15 visible entries is counted, and moves nothing. -/
theorem State.writeTrSq_counts {k : Nat} (agreed : s.agreed f ≠ 0) (new : k = (getF x F.TR_SQ_TAIL + 16 - (s.page t).sqTail) % 16) (more : 0 < k)
    (past : 16 ≤ (s.page t).vis.length + k) : s.writeTrSq f t x = s.setPage t { s.page t with badDb := satAdd 65535 (s.page t).badDb 1 } := by
  subst new
  exact (if_neg (by omega)).trans (if_pos past)

/-- A sound entry joins the inbox, in the page that has given its completions their room. -/
theorem State.readEntry_sound {op need : Nat} {rest : List Nat} {b : List Byte} (front : (s.page t).vis = f :: rest)
    (bytes : b = (List.range 64).map (fun i => SMap.get 0 (s.page t).sq (64 * (s.page t).sqHead + i))) (opcode : op = numAt b 0 1)
    (needs : need = if op = 1 then 2 else 1) (enabled : (s.page t).enable = true) (room : (s.page t).reserved + need ≤ (s.page t).free)
    (taken : u = s.setPage t { s.page t with
      vis := rest, sqHead := ((s.page t).sqHead + 1) % 16, reserved := (s.page t).reserved + need })
    (sound : entryBad (u.agreed f) b = false) (own : numAt b 2 2 = t ∨ op = 1) (waits : op = 1 ∨ op = 5 → u.waitingAt (u.engineOf t) < 5) :
    s.readEntry t = u.setPage t { u.page t with inbox := (u.page t).inbox ++
      [⟨u.time.count, { tenant := t, cmdId := numAt b 4 2, reqTag := numAt b 8 4, opcode := op, fn := f }, b,
        if op = 1 then u.takeIntake t else none⟩] } := by
  subst bytes opcode needs taken
  simp only [State.readEntry, front]
  refine (if_neg ?_).trans ((if_neg ?_).trans ((if_neg ?_).trans rfl))
  · simp only [enabled, Bool.not_true, Bool.false_eq_true, false_or]
    exact Nat.not_lt.2 room
  · simp only [sound, Bool.false_eq_true, false_or]
    tauto
  · exact fun ⟨op, five⟩ => absurd (waits op) (Nat.not_lt.2 five)

end Ring

section Version
variable {s : State} {f : Nat} {x : Word}

theorem exec_fociaVersionWrite_ready {f : Fin 65} (live : s.fnLive f.val = true) (ready : s.ready = true) :
    exec (.fociaVersionWrite f x) s = .next (s.writeFocia f.val x) :=
  congrArg Host.Outcome.next (if_pos (by rw [live, ready]; rfl))

/-- The highest of the versions the device holds within two bounds. -/
theorem find_version_getD (lo hi : Nat) : (([0x12, 0x11, 0x10] : List Nat).find? (fun x => decide (lo ≤ x ∧ x ≤ hi))).getD 0 =
    if lo ≤ 0x12 ∧ 0x12 ≤ hi then 0x12 else if lo ≤ 0x11 ∧ 0x11 ≤ hi then 0x11 else if lo ≤ 0x10 ∧ 0x10 ≤ hi then 0x10 else 0 := by
  simp only [List.find?_cons, List.find?_nil]
  by_cases top : lo ≤ 0x12 ∧ 0x12 ≤ hi
  · simp [top]
  · by_cases middle : lo ≤ 0x11 ∧ 0x11 ≤ hi
    · simp [top, middle]
    · by_cases bottom : lo ≤ 0x10 ∧ 0x10 ≤ hi <;> simp [top, middle, bottom]

theorem State.writeFocia_agrees (ready : s.ready = true) (free : s.ringsBusy f = false) (keeps : getF x F.HOST_FOCIA_VER_REJECTED = 0) :
    s.writeFocia f x = ((s.setFld (verReg f) F.HOST_FOCIA_VER_MIN (getF x F.HOST_FOCIA_VER_MIN)).setFld (verReg f) F.HOST_FOCIA_VER_MAX
      (getF x F.HOST_FOCIA_VER_MAX)).setFld (verReg f) F.HOST_FOCIA_VER_AGREED (([0x12, 0x11, 0x10].find? (fun y =>
        decide (getF x F.HOST_FOCIA_VER_MIN ≤ y ∧ y ≤ getF x F.HOST_FOCIA_VER_MAX))).getD 0) := by
  simp only [State.writeFocia, keeps, Nat.zero_ne_one, if_false, free, ready, Bool.not_true, Bool.false_eq_true]

theorem State.writeFocia_rejects (busy : s.ringsBusy f = true) (keeps : getF x F.HOST_FOCIA_VER_REJECTED = 0) :
    s.writeFocia f x = s.setFld (verReg f) F.HOST_FOCIA_VER_REJECTED 1 := by
  simp only [State.writeFocia, keeps, Nat.zero_ne_one, if_false, busy, if_true]

end Version

/-- Settles O28, clause by clause: doorbells, the read of an entry, the completion queue's configuration, and the versions. -/
theorem ringCommandsComplete : Obligations.RingCommandsComplete := by
  refine ⟨?_, ?_, ?_, ?_, ?_, ?_⟩
  · intro f t x s k ready live pages agreed new more room
    rw [exec_doorbell_shown ready live pages, State.writeTrSq_shows agreed new more room]
  · intro f t x s k ready live pages agreed new more past
    rw [exec_doorbell_shown ready live pages, State.writeTrSq_counts agreed new more past]
  · intro t f op need rest b s u ready link front bytes opcode needs enabled room taken sound own waits
    exact congrArg Host.Outcome.next ((if_pos (by rw [ready, link]; rfl)).trans
      (State.readEntry_sound front bytes opcode needs enabled room taken sound own waits))
  · intro f t x s ready live pages
    exact congrArg Host.Outcome.next (if_pos (by rw [ready, live, pages]; rfl))
  · intro f x s live ready free keeps
    rw [exec_fociaVersionWrite_ready live ready, State.writeFocia_agrees ready free keeps, find_version_getD]
  · intro f x s live ready busy keeps
    rw [exec_fociaVersionWrite_ready live ready, State.writeFocia_rejects busy keeps]

end Sys2Proof.Machine
end

section
/-! PROOFS. The Camley network: packs, frames, ports and streams (R433 to R442). -/

namespace Sys2Proof.Machine

section Frame
variable {s u v : State} {p type : Nat} {f : List Byte} {g : State → List Byte → State}

/-- Taking the front frame runs the command on the state it leaves. -/
theorem State.takesFrame.onFrame_eq (front : s.takesFrame p type f u) : s.onFrame p type g = g u f := by
  obtain ⟨rest, waits, kind, rfl⟩ := front
  exact State.onFrame_some waits kind

section Order
variable {g : State → State} (up : (s.port p).st = 4)
include up

/-- A frame of the LSEQ expected is acknowledged and acts. -/
theorem State.inOrder_expected (expected : numAt f 0x0E 2 = (s.port p).rxSeq) : s.inOrder p f g =
    g ((s.setPort p { s.port p with rxSeq := ((s.port p).rxSeq + 1) % 65536, gap := false }).camControl p 3 (s.port p).rxSeq) := by
  unfold State.inOrder
  rw [expected]
  exact (if_neg (not_not_intro up)).trans (if_pos rfl)

/-- A frame taken before is acknowledged again. -/
theorem State.inOrder_old (other : numAt f 0x0E 2 ≠ (s.port p).rxSeq) (behind : 32768 ≤ (numAt f 0x0E 2 + 65536 - (s.port p).rxSeq) % 65536) :
    s.inOrder p f g = s.camControl p 3 (((s.port p).rxSeq + 65535) % 65536) :=
  (if_neg (not_not_intro up)).trans ((if_neg other).trans (if_pos behind))

/-- A later frame is a gap: the first one is answered with a NAK. -/
theorem State.inOrder_gap (other : numAt f 0x0E 2 ≠ (s.port p).rxSeq) (ahead : (numAt f 0x0E 2 + 65536 - (s.port p).rxSeq) % 65536 < 32768)
    (first : (s.port p).gap = false) :
    s.inOrder p f g = (s.setPort p { s.port p with gap := true }).camControl p 4 (s.port p).rxSeq :=
  (if_neg (not_not_intro up)).trans ((if_neg other).trans ((if_neg (Nat.not_le.2 ahead)).trans
    (if_neg (by rw [first, up]; decide))))

end Order

/-- An ACK retires the frames up to its LSEQ. -/
theorem State.camRetire_found {q i : Nat} (found : (s.port p).unacked.findIdx? (fun x => decide (x.lseq = q)) = some i)
    (freed : v = ((s.port p).unacked.take (i + 1)).foldl (fun s f =>
      if f.stream < 4096 ∧ ((s.stream f.stream).enabled = true ∨ s.link.disabling = some f.stream) then
        (s.ancApply 0x60 (s.stream f.stream).ancFree 1 0 true true).1 else s)
      (s.setPort p { s.port p with unacked := (s.port p).unacked.drop (i + 1), ackWm := s.time.count })) :
    s.camRetire p q = ((v.link.streams.filter (fun (y : Nat × CamStream) => y.2.owes && decide (y.2.port = p))).foldl
      (fun s y => s.camCredit y.1) v).settleDisable := by
  subst freed
  simp only [State.camRetire, found]

end Frame

theorem exec_hello_agrees {p : Fin 16} {f : List Byte} {v : Nat} {s u : State} (front : s.takesFrame p.val 5 f u) (trained : (u.port p.val).st = 3)
    (version : v = min (u.port p.val).maxVer (numAt f 0 1)) (peer : numAt f 8 2 = (u.port p.val).peer) (known : 0 < v)
    (routed : (u.port p.val).mode = 2 → v ≠ 1 ∧ (numAt f 0x10 8).testBit 8 = true) :
    exec (.hello p) s = .next (((u.setPort p.val { u.port p.val with st := 4, ver := v, heard := true, reason := 0 }).link.streams.filter
      (fun (y : Nat × CamStream) => decide (y.2.port = p.val))).foldl (fun s y => s.camCredit y.1)
      (u.setPort p.val { u.port p.val with st := 4, ver := v, heard := true, reason := 0 })) := by
  subst version
  refine congrArg Host.Outcome.next (front.onFrame_eq.trans ?_)
  refine (if_neg (not_not_intro trained)).trans ((if_neg (not_not_intro peer)).trans ((if_neg ?_).trans (if_neg ?_)))
  · rintro (none | ⟨mode, one⟩)
    · exact absurd none (Nat.ne_of_gt known)
    · exact (routed mode).1 one
  · rintro ⟨mode, clear⟩
    rw [(routed mode).2] at clear
    exact Bool.false_ne_true clear

/-- A pack whose frames all pass their CRC is received as it is. -/
theorem exec_camleyPack_sound {p : Fin 16} {b : List Byte} {l : List (List Byte)} {s : State} (up : (s.port p.val).st = 3 ∨ (s.port p.val).st = 4)
    (frames : (s.port p.val).unpack p.val b = some l) (sound : ∀ f ∈ l, camCrcOk f = true) : exec (.camleyPack p b) s =
      .next (l.foldl (fun s f => s.setPort p.val { s.port p.val with rx := (s.port p.val).rx ++ [f] }) s) := by
  have meaning : exec (.camleyPack p b) s = execCamleyPack p b s := by rfl
  rw [meaning, execCamleyPack]
  simp only [frames]
  refine congrArg Host.Outcome.next ((if_neg (by tauto)).trans ?_)
  exact List.foldl_ext _ _ s fun x f held => if_pos (sound f held)

section Unit
variable {s u : State} {n : Fin 4096} {x : CamStream}

/-- A unit that is ready is read and sent, when its stream is of guaranteed service or no other of its port has one ready. -/
theorem exec_unitSend_ready {b : List Byte} {bad : List Nat} (stream : x = s.stream n.val) (ready : s.unitReady x = true)
    (turn : x.gs = true ∨ ∀ y ∈ s.link.streams, y.2.port = x.port → y.2.gs = true → s.unitReady y.2 = false)
    (read : s.tierRead (x.buf + 256 * (x.next % x.units)) 256 = (u, b, bad)) :
    exec (.unitSend n) s = .next ((u.setStream n.val { x with
      next := x.next + 1, sentWm := (if x.paceWm = u.time.count then x.sentWm else 0) + 256, paceWm := u.time.count }).camSeq x.port n.val
        { u.camHdr x.port 1 with
          flags := (u.camHdr x.port 1).flags + b2n x.gs,
          poison := ((List.range 4).filter (fun i => bad.contains ((x.buf + 256 * (x.next % x.units)) / 64 + i))).foldl (fun m i => m + 2 ^ i) 0,
          due := (u.time.count + x.lead) % 2 ^ 32, stream := x.peerStream, unit := x.next } b) := by
  subst stream
  have meaning : exec (.unitSend n) s = execUnitSend n s := by rfl
  have first : (!(s.stream n.val).gs && s.link.streams.any (fun (y : Nat × CamStream) =>
      decide (y.2.port = (s.stream n.val).port) && y.2.gs && s.unitReady y.2)) = false := by
    rcases turn with service | others
    · rw [service]
      rfl
    · simpa using fun _ y z held port gs => others (y, z) held port gs
  rw [meaning, execUnitSend]
  simp only [ready, first, read, Bool.not_true, Bool.false_or, Bool.false_eq_true, if_false]
  rfl

/-- The next unit in order is delivered at its waymark. -/
theorem exec_unitDelivery_due {w : DueUnit} (stream : x = s.stream n.val) (next : x.arrived.find? (fun u => decide (u.n = x.next)) = some w)
    (enabled : x.enabled = true) (receives : x.recv = true) (due : w.due ≤ s.time.count) :
    exec (.unitDelivery n) s = .next ((s.setStream n.val { x with
      next := x.next + 1, arrived := x.arrived.filter (fun y => decide (y.n ≠ w.n)) }).ancApply 0x60 x.ancData 1 0 true true).1 := by
  subst stream
  have meaning : exec (.unitDelivery n) s = execUnitDelivery n s := by rfl
  rw [meaning, execUnitDelivery]
  simp only [next]
  exact congrArg Host.Outcome.next (if_pos ⟨enabled, receives, due⟩)

end Unit

section LinkCmd
variable {x : Word} {op tg : Nat} {s u w : State}

/-- What LINK_CMD does on a target, by its operation (Table 241). -/
def State.linkOp (s : State) (op tg : Nat) : State :=
  match op with
  | 1 => s.portEnable tg
  | 2 => s.portDisable tg
  | 3 => s.streamEnable tg
  | 4 => s.streamDisable tg
  | _ => s.linkStatus 1

/-- A command written with GO runs on the state in which its fields stand. -/
theorem State.linkCommand.linkCmdOp_eq (writes : s.linkCommand x op tg u) : s.linkCmdOp op x = u.linkOp op tg := by
  obtain ⟨ready, rfl, go, rfl, free, rfl⟩ := writes
  refine (if_pos ⟨ready, rfl⟩).trans ((if_neg ?_).trans rfl)
  simp [go, free]

/-- A port that is off takes its record and trains. -/
theorem State.portEnable_sound {b : List Byte} {bad : List Nat} (small : tg < 16) (present : u.portPresent tg = true) (off : (u.port tg).on = false)
    (read : u.tierRead (u.camTable + 64 * tg) 64 = (w, b, bad)) (sound : portRecordBad b = false) :
    u.portEnable tg = (w.setPort tg { st := 2, record := b }).linkStatus 0 := by
  have stands : ¬(16 ≤ tg ∨ (!u.portPresent tg) = true) := by simp [present, small]
  simp only [State.portEnable, stands, off, read, sound, if_false, Bool.false_eq_true]

theorem State.portDisable_enabled (small : tg < 16) (present : u.portPresent tg = true) (on : (u.port tg).st ≠ 1) :
    u.portDisable tg = ((u.dropStreams tg).setPort tg {}).settleDisable.linkStatus 0 :=
  (if_neg (by simp [present, small])).trans (if_neg on)

/-- A stream that is off and whose entry holds no fault starts with both its anchors at 0. -/
theorem State.streamEnable_sound {t : Nat} {b : List Byte} {bad : List Nat} {y : CamStream} (off : (u.stream tg).enabled = false)
    (read : u.tierRead (u.camTable + 1024 + 64 * tg) 64 = (w, b, bad)) (sound : streamEntryBad b = false) (entry : y = { enabled := true, entry := b })
    (team : t = w.teamId y.part) (port : (w.port y.port).on = true) (inside : y.buf + 256 * y.units ≤ 0x8000000000)
    (granted : w.granted t y.buf (256 * y.units) y.recv = true) (unsealed : w.isSealed y.buf (256 * y.units) = false)
    (data : y.ancData < 32768) (ownData : w.teamOfClu (y.ancData / 128) = t) (free : y.ancFree < 32768) (ownFree : w.teamOfClu (y.ancFree / 128) = t) :
    u.streamEnable tg = (((((w.ancApply 0x62 y.ancData 0 0 true false).1.ancApply 0x62 y.ancFree 0 0 true false).1.setStream tg y).camCredit
      tg).linkStatus 0) := by
  subst entry team
  simp only [State.streamEnable, off, read, sound, Bool.false_eq_true, if_false]
  refine (if_neg ?_).trans ((if_neg ?_).trans (if_neg ?_))
  · rw [port]
    decide
  · simp [granted, unsealed, inside]
  · simp [data, ownData, free, ownFree]

end LinkCmd

/-- Settles O36, clause by clause: packs, the frames of each type, units, and the commands on ports and streams. -/
theorem camleyCommandsComplete : Obligations.CamleyCommandsComplete := by
  refine ⟨?_, ?_, ?_, ?_, ?_, ?_, ?_, ?_, ?_, ?_, ?_, ?_, ?_, ?_, ?_, ?_⟩
  · exact fun p b l s up frames sound => exec_camleyPack_sound up frames sound
  · intro p f s u front up expected
    exact congrArg Host.Outcome.next (front.onFrame_eq.trans (State.inOrder_expected up expected))
  · rintro p f _ s u _ front up expected rfl rfl inside enabled sends port peer
    refine congrArg Host.Outcome.next (front.onFrame_eq.trans ((State.inOrder_expected up expected).trans (if_neg ?_)))
    simp [inside, enabled, sends, port, peer]
  · intro p f s u front up behind other
    exact congrArg Host.Outcome.next (front.onFrame_eq.trans (State.inOrder_old up other behind))
  · intro p f s u front up other ahead first
    exact congrArg Host.Outcome.next (front.onFrame_eq.trans (State.inOrder_gap up other ahead first))
  · intro p f i s u v front found freed
    exact congrArg Host.Outcome.next (front.onFrame_eq.trans (State.camRetire_found found freed))
  · intro p f i s u front found
    refine congrArg Host.Outcome.next (front.onFrame_eq.trans ?_)
    simp only [found]
  · exact fun p f v s u front trained version peer known routed => exec_hello_agrees front trained version peer known routed
  · intro p s up waits late
    refine congrArg Host.Outcome.next (if_pos ⟨up, ?_, late⟩)
    simpa using waits
  · exact fun n x b bad s u stream ready turn read => exec_unitSend_ready stream ready turn read
  · exact fun n x w s stream next enabled receives due => exec_unitDelivery_due stream next enabled receives due
  · exact fun p half s trained => congrArg Host.Outcome.next (if_pos trained)
  · intro x tg b bad s u w writes small present off read sound
    exact congrArg Host.Outcome.next (writes.linkCmdOp_eq.trans (State.portEnable_sound small present off read sound))
  · intro x tg s u writes small present on
    exact congrArg Host.Outcome.next (writes.linkCmdOp_eq.trans (State.portDisable_enabled small present on))
  · intro x tg t b bad y s u w writes off read sound entry team port inside granted unsealed data ownData free ownFree
    exact congrArg Host.Outcome.next (writes.linkCmdOp_eq.trans
      (State.streamEnable_sound off read sound entry team port inside granted unsealed data ownData free ownFree))
  · rintro x tg s u _ writes enabled rfl
    refine congrArg Host.Outcome.next (writes.linkCmdOp_eq.trans (if_neg ?_))
    rw [enabled]
    decide

end Sys2Proof.Machine
end

section
/-! PROOFS. The root of trust's commands (R445, R453, R458, R467, R469, R471). -/

namespace Sys2Proof.Machine

theorem State.raise_boot (s : State) (e : Evt) : (s.raise e).boot = s.boot := by
  rw [s.raise_logs e]

section Sec
variable {s u : State} {b : List Byte} {n : Nat}

/-! ### Starting a command -/

/-- GO with a directive runs its checks; their outcome stands until the command completes. -/
theorem State.secGo_directive {r : SecRun} (slot : Nat) (free : s.secFree = true) (checked : s.checkDirective (s.secBytes 648) = (u, r)) :
    s.secGo 1 slot = { u with sec := { u.sec with run := some r } } := by
  simp only [State.secGo, free, checked, Bool.not_true, Bool.false_eq_true, if_false, if_true, Nat.one_ne_zero]
  rfl

theorem State.secGo_token (slot : Nat) (free : s.secFree = true) :
    s.secGo 2 slot = { s with sec := { s.sec with run := some (s.sec.checkToken (s.secBytes 264)) } } :=
  if_neg (by rw [free]; decide)

theorem State.secGo_zeroise (slot : Nat) (free : s.secFree = true) :
    s.secGo 3 slot = { s with sec := { s.sec with keys := SMap.del slot s.sec.keys, run := some ⟨.zero slot, 0⟩ } } :=
  if_neg (by rw [free]; decide)

theorem State.secGo_none (slot : Nat) (free : s.secFree = true) : s.secGo 0 slot = s.secEnd 1 :=
  if_neg (by rw [free]; decide)

/-- A malformed directive has STATUS 1 and no work. -/
theorem State.checkDirective_malformed (malformed : dirForm b = false) : s.checkDirective b = (s, ⟨.none, 1⟩) :=
  if_pos (by rw [malformed]; rfl)

/-! ### Completing it -/

theorem State.secEnd_success : s.secEnd 0 = { s with sec := s.sec.draw }.setFld R.SEC_CMD F.SEC_CMD_STATUS 0 := rfl

theorem State.secEnd_refusal (refused : n ≠ 0) :
    s.secEnd n = ({ s with sec := s.sec.draw }.setFld R.SEC_CMD F.SEC_CMD_STATUS n).raise { code := 0x6404 } :=
  if_neg refused

theorem State.secEnd_boot : (s.secEnd n).boot = s.boot := by
  unfold State.secEnd
  extract_lets ended
  split
  · rfl
  · exact State.raise_boot ended _

/-- The outcome of the work of a command that runs, and STATUS: a check that failed leaves none to do. -/
def State.secOutcome (s : State) (r : SecRun) : State × Nat := if r.status = 0 then s.secApply r.work else (s, r.status)

/-- With no module reset waiting, a command completes with the outcome of its work. -/
theorem State.secComplete_runs {r : SecRun} (runs : s.sec.run = some r) (outcome : { s with sec := { s.sec with run := none } }.secOutcome r = (u, n))
    (calm : u.boot.wait = none) : s.secComplete = u.secEnd n := by
  unfold State.secOutcome at outcome
  simp only [State.secComplete, runs, outcome, State.secEnd_boot, calm]

/-- The work of a fuse program: with STATUS 0 it is logged. -/
theorem State.secApply_fuse {f v : Nat} (programmed : s.program f v = (u, n)) :
    s.secApply (.fuse f v) = (if n = 0 then u.raise { code := 0x6401 } else u, n) := by
  simp only [State.secApply, programmed]
  cases n <;> rfl

/-! ### The scan enable -/

/-- Teams whose load uses a key. -/
def State.keyedTeams (s : State) : List Nat := s.teams.filterMap (fun (x : Nat × Team) => match x.2.load with
  | some l => if l.keySrc.isSome then some x.1 else none
  | none => none)

theorem State.keyedTeams_eq_nil (plain : ∀ x ∈ s.teams, ∀ l, x.2.load = some l → l.keySrc = none) : s.keyedTeams = [] := by
  refine List.filterMap_eq_nil_iff.2 fun x held => ?_
  split
  next l load => rw [plain x held l load]; rfl
  next => rfl

/-- The loads that use a key end (R469 step 1). -/
def State.endKeyedLoads (s : State) : State := s.keyedTeams.foldl (fun s t => s.failLoad t 0x3108 0xFFFFFFFF) s

theorem State.endKeyedLoads_plain (plain : ∀ x ∈ s.teams, ∀ l, x.2.load = some l → l.keySrc = none) : s.endKeyedLoads = s := by
  rw [State.endKeyedLoads, State.keyedTeams_eq_nil plain, List.foldl_nil]

theorem exec_scanEnable_granted (aux : s.pwr.aux = true) (granted : s.sec.grants.testBit 2 = true) (off : s.sec.scan = false)
    (ended : s.endKeyedLoads = u) :
    exec .scanEnable s = .next { u with sec := { u.sec with identity := false, isolated := true, zeroised := true, scan := true } } := by
  subst ended
  exact congrArg Host.Outcome.next (if_neg (by rw [aux, granted, off]; decide))

end Sec

/-- Settles O37, clause by clause: the start of each operation, the end with its outcome, and the scan enable. -/
theorem secureCommandsComplete : Obligations.SecureCommandsComplete := by
  refine ⟨?_, ?_, ?_, ?_, ?_, ?_, ?_, ?_⟩
  · intro s u r free checked
    exact ⟨fun other => congrArg Host.Outcome.next ((if_neg other).trans (State.secGo_directive 0 free checked)),
      fun key => congrArg Host.Outcome.next ((if_pos key).trans (State.secGo_directive 0 free checked))⟩
  · intro s free malformed other
    exact congrArg Host.Outcome.next ((if_neg other).trans (State.secGo_directive 0 free (State.checkDirective_malformed malformed)))
  · exact fun s free => congrArg Host.Outcome.next (State.secGo_token 0 free)
  · rintro _ s free rfl
    exact congrArg Host.Outcome.next (State.secGo_zeroise _ free)
  · exact fun s free => congrArg Host.Outcome.next (State.secGo_none 0 free)
  · intro f v n s u runs _ programmed calm
    by_cases success : n = 0
    · subst success
      rw [if_pos rfl]
      refine congrArg Host.Outcome.next (State.secComplete_runs runs (State.secApply_fuse programmed) ?_)
      rw [if_pos rfl, State.raise_boot, calm]
    · rw [if_neg success, ← State.secEnd_refusal success]
      refine congrArg Host.Outcome.next (State.secComplete_runs runs ((State.secApply_fuse programmed).trans ?_) calm)
      rw [if_neg success]
  · rintro w n s _ runs failed calm rfl
    rw [← State.secEnd_refusal failed]
    exact congrArg Host.Outcome.next (State.secComplete_runs runs (if_neg failed) calm)
  · exact fun s aux granted off plain => exec_scanEnable_granted aux granted off (State.endKeyedLoads_plain plain)

end Sys2Proof.Machine
end

section
/-! PROOFS. Attestation and platform management (R460 to R465, R505): SPDM requests, PLDM sensors and the effecter. -/

namespace Sys2Proof.Machine

section Spdm
variable {s u v : State} {b r : List Byte}

/-- A request that meets no error is answered. -/
theorem State.spdm_answered {need : SpdmNeed} {len : Nat} (f : State → State) (aux : s.pwr.aux = true) (clear : s.spdmBar b need len = none) :
    s.spdm b need len f = f s := by
  refine (if_neg (by rw [aux]; decide)).trans ?_
  simp only [clear]

/-- A request that meets no error has its whole length. -/
theorem State.spdmBar_none_length {need : SpdmNeed} {len : Nat} (clear : s.spdmBar b need len = none) : len ≤ b.length := by
  by_contra short
  unfold State.spdmBar at clear
  extract_lets at clear
  rw [if_pos (Nat.lt_of_not_le short)] at clear
  split at clear <;> exact absurd clear (Option.some_ne_none _)

/-- The bytes that follow a list of a given length. -/
theorem sliceB_middle (l m k : List Byte) : sliceB (l ++ m ++ k) l.length m.length = m := by
  rw [sliceB, List.append_assoc, List.drop_left, List.take_left, Nat.sub_self, List.replicate_zero, List.append_nil]

/-- The bits that NEGOTIATE_ALGORITHMS takes of an offer. -/
def algSel (b : List Byte) (off bit : Nat) : Nat := if (numAt b off 4).testBit bit then 2 ^ bit else 0

/-- The ALGORITHMS response, up to the signature selected. -/
def algHead (b : List Byte) : List Byte :=
  b.take 1 ++ [0x63, 0, 0] ++ leBytes 2 36 ++ leBytes 1 (numAt b 6 1 % 2) ++ [0] ++ leBytes 4 (4 * (numAt b 6 1 % 2))

/-- The ALGORITHMS response. -/
def algResponse (b : List Byte) : List Byte := algHead b ++ leBytes 4 (algSel b 8 7) ++ leBytes 4 (algSel b 12 1) ++ List.replicate 16 0

theorem length_algHead (full : 32 ≤ b.length) : (algHead b).length = 12 := by
  simp only [algHead, List.length_append, List.length_take, length_leBytes, List.length_cons, List.length_nil]
  omega

theorem algResponse_signature (full : 32 ≤ b.length) : sliceB (algResponse b) 12 4 = leBytes 4 (algSel b 8 7) := by
  have place := sliceB_middle (algHead b) (leBytes 4 (algSel b 8 7)) (leBytes 4 (algSel b 12 1) ++ List.replicate 16 0)
  rwa [length_algHead full, length_leBytes, ← List.append_assoc] at place

theorem algResponse_hash (full : 32 ≤ b.length) : sliceB (algResponse b) 16 4 = leBytes 4 (algSel b 12 1) := by
  have place := sliceB_middle (algHead b ++ leBytes 4 (algSel b 8 7)) (leBytes 4 (algSel b 12 1)) (List.replicate 16 0)
  rwa [List.length_append, length_algHead full, length_leBytes, length_leBytes] at place

theorem exec_negotiateAlgorithms_both (aux : s.pwr.aux = true) (clear : s.spdmBar b .caps 32 = none) (ecdsa : (numAt b 8 4).testBit 7 = true)
    (sha : (numAt b 12 4).testBit 1 = true) : exec (.negotiateAlgorithms b) s = .next ((s.setSpdm { s.sec.spdm with
      algs := true, transcript := s.sec.spdm.transcript ++ b ++ algResponse b }).spdmSay (algResponse b)) := by
  have both : (decide (algSel b 8 7 ≠ 0) && decide (algSel b 12 1 ≠ 0)) = true := by
    rw [algSel, algSel, if_pos ecdsa, if_pos sha]
    decide
  rw [← both]
  exact congrArg Host.Outcome.next (State.spdm_answered _ aux clear)

theorem exec_getCertificate_held {c : List Byte} (aux : s.pwr.aux = true) (clear : s.spdmBar b .algs 8 = none) (slot : numAt b 2 1 % 16 = 0)
    (inside : numAt b 4 2 < s.flash.chain.length) (part : c = (s.flash.chain.drop (numAt b 4 2)).take (numAt b 6 2))
    (response : r = b.take 1 ++ [0x02, 0, 0] ++ leBytes 2 c.length ++ leBytes 2 (s.flash.chain.length - numAt b 4 2 - c.length) ++ c) :
    exec (.getCertificate b) s = .next ((s.setSpdm { s.sec.spdm with certs := s.sec.spdm.certs ++ b ++ r }).spdmSay r) := by
  subst part response
  have meaning : exec (.getCertificate b) s = execGetCertificate b s := by rfl
  have held : ¬(numAt b 2 1 % 16 ≠ 0 ∨ s.flash.chain.length ≤ numAt b 4 2) := by omega
  rw [meaning, execGetCertificate, State.spdm_answered _ aux clear]
  dsimp only
  rw [if_neg held]

theorem exec_challenge_signed {sig : List Byte} {d : Nat} (aux : s.pwr.aux = true) (clear : s.spdmBar b .algs 36 = none)
    (key : s.sec.identityKey = some d) (slot : numAt b 2 1 = 0) (drawn : u = { s with draws := s.draws + 1 })
    (response : r = b.take 1 ++ [0x03, 0, 1] ++ sha384 s.flash.chain ++ (List.range 32).map (Config.freeByte s.draws) ++
      s.sec.summary (numAt b 3 1) ++ [0, 0] ++ (if s.sec.spdm.version = 0x13 then sliceB b 36 8 else []))
    (signed : u.spdmSign d (spdmMessage s.sec.spdm.version challengeText (s.sec.spdm.transcript ++ s.sec.spdm.certs ++ b ++ r)) = (v, sig)) :
    exec (.challenge b) s = .next ((v.setSpdm { s.sec.spdm with certs := [] }).spdmSay (r ++ sig)) := by
  have meaning : exec (.challenge b) s = execChallenge b s := by rfl
  rw [meaning, execChallenge, State.spdm_answered _ aux clear]
  extract_lets p ctx nonce next answer
  have drew : next = u := drawn.symm
  have same : answer = r := response.symm
  have held : p = s.sec.spdm := rfl
  clear_value next answer p
  subst held
  rw [key]
  refine congrArg Host.Outcome.next ((if_neg (not_not_intro slot)).trans ?_)
  rw [drew, same]
  -- the signature as a variable: the kernel is not to compute one
  revert signed
  generalize u.spdmSign d _ = z
  rintro rfl
  rfl

/-- GET_MEASUREMENTS of the count, without a signature. -/
theorem exec_getMeasurements_count (aux : s.pwr.aux = true) (clear : s.spdmBar b .algs 4 = none) (unsigned : numAt b 2 1 % 2 = 0)
    (count : numAt b 3 1 = 0) (drawn : u = { s with draws := s.draws + 1 })
    (response : r = b.take 1 ++ [0x60] ++ leBytes 1 (([1, 2, 3, 4, 5, 6, 7] : List Nat).filterMap s.sec.block).length ++ [0] ++ leBytes 1 0 ++
      leBytes 3 0 ++ (List.range 32).map (Config.freeByte s.draws) ++ [0, 0] ++ (if s.sec.spdm.version = 0x13 then sliceB b 4 8 else [])) :
    exec (.getMeasurements b) s = .next ((u.setSpdm { s.sec.spdm with measLog := s.sec.spdm.measLog ++ b ++ r }).spdmSay r) := by
  have meaning : exec (.getMeasurements b) s = execGetMeasurements b s := by rfl
  rw [meaning, execGetMeasurements, State.spdm_answered _ aux clear]
  extract_lets p sign op all blocks recd ctx nonce next answer
  have off : sign = false := decide_eq_false (by omega)
  have zero : op = 0 := count
  have none : blocks = [] := if_pos zero
  clear_value sign op blocks
  subst off zero none drawn
  have same : answer = r := (congrArg (fun x => x ++ nonce ++ [0, 0] ++ ctx) (List.append_nil _)).trans response.symm
  clear_value answer
  subst same
  rw [if_neg (by simp)]
  rfl

end Spdm

section Pldm
variable {s u : State}

theorem exec_pldmSensorRead_value (id : Nat) (aux : s.pwr.aux = true) :
    exec (.pldmSensorRead (.value id)) s = .next (s.pldmSay (.value id (s.pldmValue id))) :=
  congrArg Host.Outcome.next (if_neg (by rw [aux]; decide))

theorem State.pldmValue_sensor {id : Nat} (sensor : id = 1 ∨ id = 3 ∨ id = 5) : s.pldmValue id = some (SMap.get 0 s.pwr.sensors id) :=
  if_pos (by tauto)

theorem State.pldmValue_cap : s.pldmValue 30 = some (s.fld R.PWR_INPUT F.PWR_INPUT_CAP_W) := rfl

/-- Free readings for a list of sensors, from a table and a number of draws on. -/
def freeReadings (m : SMap Nat × Nat) (l : List Nat) : SMap Nat × Nat :=
  l.foldl (fun (m : SMap Nat × Nat) i => (SMap.ins i ((Config.freeWord m.2).toNat % 65536) m.1, m.2 + 1)) m

/-- Each free reading is one draw. -/
theorem freeReadings_draws (l : List Nat) : ∀ m : SMap Nat × Nat, (freeReadings m l).2 = m.2 + l.length := by
  induction l with
  | nil => exact fun _ => rfl
  | cons i l ih =>
    intro m
    exact (ih _).trans (by rw [List.length_cons, Nat.add_assoc, Nat.add_comm 1])

/-- The sensors as a refresh leaves them: the main supply, the power and the bank as measured, the others free. -/
def State.freshSensors (s : State) (bank : Nat) : SMap Nat :=
  SMap.ins 1 (s.pwr.mainMv / 10) (SMap.ins 3 (s.fld R.PWR_INPUT F.PWR_INPUT_POWER_W)
    (SMap.ins 5 bank (freeReadings (s.pwr.sensors, s.draws) freeSensors).1))

theorem State.freshSensors_measured (bank : Nat) : SMap.get 0 (s.freshSensors bank) 1 = s.pwr.mainMv / 10 ∧
    SMap.get 0 (s.freshSensors bank) 3 = s.fld R.PWR_INPUT F.PWR_INPUT_POWER_W ∧ SMap.get 0 (s.freshSensors bank) 5 = bank := by
  refine ⟨SMap.get_ins_self _ _ _ _, ?_, ?_⟩
  · rw [State.freshSensors, SMap.get_ins_ne _ _ (by decide), SMap.get_ins_self]
  · rw [State.freshSensors, SMap.get_ins_ne _ _ (by decide), SMap.get_ins_ne _ _ (by decide), SMap.get_ins_self]

theorem exec_sensorRefresh_measured {bank : Nat} (aux : s.pwr.aux = true) (measured : s.measureBank = (u, bank)) : exec .sensorRefresh s =
    .next (State.setFld { u with
      draws := (freeReadings (u.pwr.sensors, u.draws) freeSensors).2, pwr := { u.pwr with sensors := u.freshSensors bank } }
        R.PWR_INPUT F.PWR_INPUT_AUX_10MV (SMap.get 0 (u.freshSensors bank) 4)) := by
  refine congrArg Host.Outcome.next ((if_pos aux).trans ?_)
  simp only [State.refreshSensors, measured]
  rfl

end Pldm

/-- Settles O38, clause by clause: the SPDM requests in their order, then the effecter, the sensors and their refresh. -/
theorem spdmAndPldmComplete : Obligations.SpdmAndPldmComplete := by
  refine ⟨?_, ?_, ?_, ?_, ?_, ?_, ?_, ?_, ?_, ?_⟩
  · exact fun b s aux => congrArg Host.Outcome.next (if_neg (by rw [aux]; decide))
  · rintro b _ s aux clear rfl
    exact congrArg Host.Outcome.next (State.spdm_answered _ aux clear)
  · intro b s aux clear ecdsa sha
    have full := State.spdmBar_none_length clear
    refine ⟨algResponse b, exec_negotiateAlgorithms_both aux clear ecdsa sha, ?_, ?_⟩
    · rw [algResponse_signature full, algSel, if_pos ecdsa]
      rfl
    · rw [algResponse_hash full, algSel, if_pos sha]
      rfl
  · rintro b _ s aux clear rfl
    exact congrArg Host.Outcome.next (State.spdm_answered _ aux clear)
  · exact fun b r c s aux clear slot inside part response => exec_getCertificate_held aux clear slot inside part response
  · exact fun b r sig d s u v aux clear key slot drawn response signed => exec_challenge_signed aux clear key slot drawn response signed
  · exact fun b r s u aux clear unsigned count drawn response => exec_getMeasurements_count aux clear unsigned count drawn response
  · exact fun v s aux least most => congrArg Host.Outcome.next ((if_neg (by rw [aux]; decide)).trans (if_pos ⟨rfl, least, most⟩))
  · intro id n s aux
    refine ⟨fun sensor => ?_, ?_, congrArg Host.Outcome.next (if_neg (by rw [aux]; decide))⟩
    · rw [exec_pldmSensorRead_value id aux, State.pldmValue_sensor sensor]
      rfl
    · rw [exec_pldmSensorRead_value 30 aux, State.pldmValue_cap]
      rfl
  · intro s u bank aux measured
    obtain ⟨supply, power, held⟩ := State.freshSensors_measured (s := u) bank
    refine ⟨_, exec_sensorRefresh_measured aux measured, ?_⟩
    rw [State.setFld_pwr, State.setFld_draws]
    dsimp only
    exact ⟨supply, power, held, freeReadings_draws freeSensors (u.pwr.sensors, u.draws)⟩

end Sys2Proof.Machine
end

section
/-! PROOFS. Resets of every level, function-level resets and PERST_N (R426, R473 to R489). -/

namespace Sys2Proof.Machine

section Reset
variable {s u : State} {x : Word} {level target : Nat}

/-- A module reset that a command asks for while nothing is stored takes place at once, once the host's commands are answered. -/
theorem State.moduleReset_notified (cold : Bool) (supplied : s.supply ≠ 3) (normal : s.boot.testMode = false) (idle : s.sec.storing = false)
    (answered : u = (if s.linkUp then s.postAll stReset else s).dropCommands) : s.moduleReset cold true =
      if (cold || decide (s.stage = 8) || !s.boot.ready) = true then u.enterReset true else (u.enterReset false).warmVerify := by
  subst answered
  have stands : ¬(s.supply = 3 ∨ s.boot.testMode = true) := by simp [supplied, normal]
  unfold State.moduleReset
  rw [if_neg stands]
  extract_lets runsCold busy told dropped boot entered
  have free : ¬busy = true := by rw [show busy = false from idle]; decide
  have both : dropped = (if s.linkUp then s.postAll stReset else s).dropCommands := by simp only [dropped, told, if_true, true_and]
  have enters : entered = ((if s.linkUp then s.postAll stReset else s).dropCommands).enterReset runsCold := congrArg (·.enterReset runsCold) both
  clear_value entered
  rw [if_neg free, enters]
  by_cases reach : runsCold = true
  · rw [if_pos reach, if_pos reach, reach]
  · rw [if_neg reach, if_neg reach, Bool.eq_false_of_not_eq_true reach]

/-- RESET_CMD with GO, as the command of its level, when no partial reset is in progress. -/
theorem State.resetLevel_go (aux : s.pwr.aux = true) (go : getF x F.RESET_CMD_GO = 1)
    (written : u = (s.setFld R.RESET_CMD F.RESET_CMD_LEVEL (getF x F.RESET_CMD_LEVEL)).setFld R.RESET_CMD F.RESET_CMD_TARGET
      (getF x F.RESET_CMD_TARGET)) (free : u.resetBusy = false) (named : getF x F.RESET_CMD_LEVEL = level) : s.resetLevel level x =
      if level = 4 ∨ level = 5 then u.moduleReset (decide (level = 5)) true
      else if u.resetTarget level (getF x F.RESET_CMD_TARGET) then
        u.startReset { level := level, target := getF x F.RESET_CMD_TARGET, cmd := true }
      else u.setFld R.RESET_CMD F.RESET_CMD_STATUS 1 := by
  subst named written
  refine (if_pos ⟨rfl, aux⟩).trans (if_neg ?_)
  rw [go, free]
  decide

/-- The oldest reset that may end takes place in its scope, and is logged. -/
theorem State.resetDone_scope {r : PReset} (ready : s.boot.resets.find? s.resetReady = some r) (below : r.level ≠ 3) (scope : u = s.resetScope r)
    (settled : u.boot.absorbed = none) : s.resetDone = (let w : State := { u with
      boot := { u.boot with resets := u.boot.resets.erase r, absorbed := none } }
      (if r.cmd then w.setFld R.RESET_CMD F.RESET_CMD_STATUS 0 else w).raise { code := 0x6503, detail := r.level + 256 * r.target }) := by
  subst scope
  simp only [State.resetDone, ready, below, if_false, settled, ite_self]
  cases r.cmd <;> rfl

end Reset

/-- Settles O39, clause by clause: function-level resets, PERST_N, module resets, RESET_CMD, and the end of a partial reset. -/
theorem resetCommandsComplete : Obligations.ResetCommandsComplete := by
  refine ⟨?_, ?_, ?_, ?_, ?_, ?_, ?_⟩
  · intro f s link virtual enabled
    exact congrArg Host.Outcome.next ((if_neg (by rw [link]; decide)).trans ((if_pos virtual).trans (if_pos enabled)))
  · rintro s _ link rfl
    exact congrArg Host.Outcome.next ((if_neg (by rw [link]; decide)).trans (if_neg (by decide)))
  · intro s high aux
    exact congrArg Host.Outcome.next (if_neg (by rw [high, aux]; decide))
  · rintro s _ low aux rfl
    exact congrArg Host.Outcome.next (if_neg (by rw [low, aux]; decide))
  · intro s u aux supplied normal idle answered
    refine ⟨?_, fun live ready => ?_⟩
    · exact congrArg Host.Outcome.next ((if_pos aux).trans (State.moduleReset_notified true supplied normal idle answered))
    · refine congrArg Host.Outcome.next ((if_pos aux).trans ((State.moduleReset_notified false supplied normal idle answered).trans (if_neg ?_)))
      simp [live, ready]
  · intro x s u aux go written free
    refine ⟨fun target => ⟨fun level => ?_, fun level => ?_, fun level => ?_⟩, fun level => ?_, fun level => ?_⟩
    · exact congrArg Host.Outcome.next ((State.resetLevel_go aux go written free level).trans (if_pos (level ▸ target)))
    · exact congrArg Host.Outcome.next ((State.resetLevel_go aux go written free level).trans (if_pos (level ▸ target)))
    · exact congrArg Host.Outcome.next ((State.resetLevel_go aux go written free level).trans (if_pos (level ▸ target)))
    · exact congrArg Host.Outcome.next (State.resetLevel_go aux go written free level)
    · exact congrArg Host.Outcome.next (State.resetLevel_go aux go written free level)
  · exact fun r s u ready below scope settled => congrArg Host.Outcome.next (State.resetDone_scope ready below scope settled)

end Sys2Proof.Machine
end

section
/-! PROOFS. The steps of a boot and the auxiliary supply (R461, R475 to R482, R495, R496). -/

namespace Sys2Proof.Machine

section Boot
variable {s u v : State}

/-- The ROM's part of a cold boot, each step sound, ends in stage 1, and the fuses follow. -/
theorem State.coldBoot_sound (aux : s.pwr.aux = true) (supplied : s.supply ≠ 3) (first : s.stage = 0) (normal : s.boot.testMode = false)
    (voted : { s with sec := s.sec.draw }.voteFields romFields = (u, true))
    (verified : { u with sec := { u.sec with identity := true } }.verifyBoot 0 = (v, true)) : s.coldBoot = (v.setStage 1).loadFuses := by
  have starts : ¬((!s.pwr.aux) = true ∨ s.supply = 3 ∨ s.stage ≠ 0 ∨ s.boot.testMode = true) := by simp [aux, supplied, first, normal]
  rw [State.coldBoot, if_neg starts, voted]
  dsimp only
  rw [verified]

/-- The dies whose links do not train, as the training meets them: none when every link is up. -/
theorem State.find_trainDie_none (up : ∀ d < 8, s.upsets.contains (.trainDie d) = false) :
    (List.range 8).find? (fun d => s.upsets.contains (.trainDie d)) = none :=
  List.find?_eq_none.2 fun d held => by rw [up d (List.mem_range.1 held)]; decide

section Training
variable (trains : s.stage = 3)
include trains

theorem State.trainingDone_warm (up : ∀ d < 8, s.upsets.contains (.trainDie d) = false) (warm : s.fld R.BOOT_STATUS F.BOOT_STATUS_PATH ≠ 0)
    (sound : s.trainHost.stage ≠ 8) : s.trainingDone = s.trainHost.trainHbm.mapFar.startFetch.setStage 4 := by
  rw [State.trainingDone, if_neg (not_not_intro trains), State.find_trainDie_none up]
  dsimp only
  rw [decide_eq_false warm, if_neg Bool.false_ne_true, if_neg sound, if_neg Bool.false_ne_true]

theorem State.trainingDone_cold (up : ∀ d < 8, s.upsets.contains (.trainDie d) = false) (cold : s.fld R.BOOT_STATUS F.BOOT_STATUS_PATH = 0)
    (sound : s.collectBist.trainHost.stage ≠ 8) :
    s.trainingDone = s.collectBist.trainHost.trainHbm.mapFar.zeroNear.startFetch.setStage 4 := by
  rw [State.trainingDone, if_neg (not_not_intro trains), State.find_trainDie_none up]
  dsimp only
  rw [decide_eq_true cold, if_pos rfl, if_neg sound, if_pos rfl]

/-- A die's link that does not train is fatal. -/
theorem State.trainingDone_link {d : Nat} (down : (List.range 8).find? (fun d => s.upsets.contains (.trainDie d)) = some d) : s.trainingDone =
    (s.setFld (R.BOOT_DIE d) F.BOOT_DIE_D2D_FAIL 1).fatal { code := 0x5202, kind := 3, src := d, detail := d } 4 := by
  rw [State.trainingDone, if_neg (not_not_intro trains), down]

end Training

/-- A controller that fetches takes its firmware and starts it in M mode. -/
theorem State.fetchDone_sound {g : Nat} {b : List Byte} (fetches : (s.clu g).ctl.st = .fetch) (first : s.boot.fetched.contains g = false)
    (serves : s.cluOut g = false) (trained : 4 ≤ s.stage) (safe : s.stage ≠ 8) (bytes : s.fetchBytes (g / 32) = some b)
    (entered : u = s.setClu g { s.clu g with ctl := { (s.clu g).ctl with st := .firmware, umode := false, pc := 0, fw := sparse b } }) :
    s.fetchDone g = { u with
      boot := { u.boot with fetched := insNat g u.boot.fetched }, sec := { u.sec with measure := SMap.ins 3 (sha384 b) u.sec.measure } } := by
  subst entered
  have starts : ¬((s.clu g).ctl.st ≠ .fetch ∨ s.boot.fetched.contains g = true ∨ s.cluOut g = true ∨ s.stage < 4 ∨ s.stage = 8) := by
    rw [fetches, first, serves]
    simp only [ne_eq, not_true_eq_false, Bool.false_eq_true, false_or]
    omega
  rw [State.fetchDone, if_neg starts, bytes]
  rfl

/-- The known-answer test with nothing failed and no slot retired before. -/
theorem exec_knownAnswerDone_clean (trained : s.stage = 4) (cold : s.fld R.BOOT_STATUS F.BOOT_STATUS_PATH = 0) (fetched : s.allFetched = true)
    (slots : kaSlots s.upsets = []) (clusters : kaClus s.upsets = []) (retired : s.flash.retired = []) :
    exec .knownAnswerDone s = .next (s.setStage 6) := by
  have meaning : exec .knownAnswerDone s = execKnownAnswerDone s := by rfl
  have starts : ¬(s.stage ≠ 4 ∨ s.fld R.BOOT_STATUS F.BOOT_STATUS_PATH = 1 ∨ (!s.allFetched) = true) := by simp [trained, cold, fetched]
  rw [meaning, execKnownAnswerDone, if_neg starts]
  dsimp only
  rw [slots, List.foldl_nil, clusters, List.foldl_nil, retired, List.foldl_nil]

/-- The auxiliary supply comes while VBATT holds: reset, the straps, and the safe state under TEST_MODE. -/
theorem State.auxOn_vbatt (test : Bool) (address : Nat) (off : s.pwr.aux = false) (battery : s.upsets.contains .vbatt = false)
    (reset : u = s.auxReset true) : s.auxOn test address =
      if test then State.enterSafe { u with boot := { u.boot with testMode := true, mgmtAddr := address } } 3
      else { u with boot := { u.boot with testMode := false, mgmtAddr := address } } := by
  subst reset
  rw [State.auxOn, if_neg (by rw [off]; decide)]
  have held : ¬((s.auxReset true).upsets.contains .vbatt = true) := by rw [show (s.auxReset true).upsets = s.upsets from rfl, battery]; decide
  cases test
  · exact (if_neg Bool.false_ne_true).trans (if_neg held)
  · exact (if_pos rfl).trans (congrArg (State.enterSafe · 3) (if_neg held))

end Boot

/-- Settles O40, clause by clause: the steps of a boot in order, then the supplies. -/
theorem bootCommandsComplete : Obligations.BootCommandsComplete := by
  refine ⟨?_, ?_, ?_, ?_, ?_, ?_, ?_, ?_, ?_, ?_, ?_⟩
  · intro s u v aux supplied first normal voted verified
    exact congrArg Host.Outcome.next (State.coldBoot_sound aux supplied first normal voted verified)
  · intro s tests sound
    refine congrArg Host.Outcome.next ((if_neg (not_not_intro tests)).trans ?_)
    simp only [sound]
  · exact fun s trains up warm sound => congrArg Host.Outcome.next (State.trainingDone_warm trains up warm sound)
  · exact fun s trains up cold sound => congrArg Host.Outcome.next (State.trainingDone_cold trains up cold sound)
  · exact fun d s trains down => congrArg Host.Outcome.next (State.trainingDone_link trains down)
  · exact fun g b s fetches first serves trained safe bytes =>
      ⟨_, rfl, congrArg Host.Outcome.next (State.fetchDone_sound fetches first serves trained safe bytes rfl)⟩
  · exact fun s trained cold fetched slots clusters retired => exec_knownAnswerDone_clean trained cold fetched slots clusters retired
  · rintro _ s rfl ready
    exact ⟨_, rfl, congrArg Host.Outcome.next (if_pos ready)⟩
  · exact fun test address s u off battery reset => congrArg Host.Outcome.next (State.auxOn_vbatt test address.val off battery reset)
  · exact fun s aux => congrArg Host.Outcome.next (if_pos aux)
  · intro s aux stopped good normal
    exact congrArg Host.Outcome.next ((if_pos ⟨aux, stopped, good⟩).trans (if_neg (by
      rw [show (s.setFld R.PWR_STATE F.PWR_STATE_SUPPLY 0).boot.testMode = s.boot.testMode from rfl, normal]
      decide)))

end Sys2Proof.Machine
end
